-- ==== Sys2Proof/Word.lean ====
section
/-! DEFINITION. The widths Scetor names: bytes of the image and of the blotter, and the 64-bit register word (R7). -/

namespace Sys2Proof

/-- One byte of the flash image or of a blotter line (R6). -/
abbrev Byte := BitVec 8

/-- One register word: every register is 64 bits wide (R7). -/
abbrev Word := BitVec 64

end Sys2Proof
end

