-- ==== Sys2Proof/Syntax.lean ====
section
/-! DEFINITION. The commands Scetor takes: one constructor of `Instr` per row of spec/opcode_table.json, with
the operands the rules give the row. An SRN request carries the packet fields of R40; a host write carries the
requester and the written word; an event carries the object it concerns. -/

namespace Sys2Proof

/-- Channel A = 0, B = 1, C = 2, D = 3 (R10). -/
abbrev ChanId := Fin 4

/-- A packet error met on the way (R69): none, a corrected single-bit error in a half, or an uncorrectable
error in the upper half (check 1 of R53) or the lower half (check 6). A request whose upper half cannot be read is also the
command PACKET_ERROR. -/
inductive PktErr where
  | none | correctedUpper | correctedLower | upperUncorrectable | lowerUncorrectable
  deriving DecidableEq, Repr

/-- A detecting sub-block of a channel, in the coding of CH_SHADOW_SUB (R330). -/
inductive Sub where
  | os | rq | bw | lt | ru | cu | ps | bg | la
  deriving DecidableEq, Repr

/-- A detecting shared sub-block, in the coding of CK_SHADOW_SUB. -/
inductive SharedSub where
  | cl | hp | pt | ck
  deriving DecidableEq, Repr

/-- A word of an array (R424): array number, bank and word. -/
structure ArrayWord where
  array : BitVec 4
  bank  : BitVec 3
  word  : BitVec 25
  deriving DecidableEq, Repr

/-- A physical array error (R309 to R314). The plain cases are met by the read of the command's own object word, on the first
or the second side of a pair; a single channel is a first side. An `upset` strikes a word of any array of the channel, on
one side, and a `sharedUpset` one of a shared sub-block: it stays in the word until a read meets it. `late` is no array error:
a value on the named crossing (R365) is taken by the fallback of R360 or R362. -/
inductive MemErr where
  | none | ceFirst | ceSecond | ceBoth | ueFirst | ueSecond | ueBoth
  | upset (second : Bool) (u : Sub) (at_ : ArrayWord) (uncorrectable : Bool)
  | sharedUpset (u : SharedSub) (at_ : ArrayWord) (uncorrectable : Bool)
  | late (crossing : BitVec 16)
  deriving DecidableEq, Repr

/-- An SRN request packet (R40). OPCODE is the command's row; ENDPOINT is the port the packet entered, and the
node inserts CHANNEL itself (R41). -/
structure Req where
  endpoint : BitVec 12
  cls      : BitVec 3
  index    : BitVec 23
  tag      : BitVec 16
  operand  : BitVec 64
  pkt      : PktErr
  mem      : MemErr
  deriving DecidableEq, Repr

/-- A trailer with the identity of the closing write's issuer, its endpoint and the channel captured as the write entered the
data network (R60, R61), the tile or link agent that forwards it, and whether the tile marks it poisoned (R67). -/
structure TrailerArg where
  issuer   : BitVec 12
  chan     : BitVec 4
  opcode   : BitVec 6
  cls      : BitVec 3
  index    : BitVec 23
  operand  : BitVec 64
  tile     : BitVec 12
  poisoned : Bool
  pkt      : PktErr
  mem      : MemErr
  deriving DecidableEq, Repr

/-- Who makes a register access: a host function number, or the security controller on the steward port (R292, R294). -/
inductive Requester where
  | host (fn : BitVec 8)
  | steward
  deriving DecidableEq, Repr

/-- The error state of a received sync message (R259): none, corrected, or uncorrectable. -/
inductive MsgErr where
  | none | corrected | uncorrectable
  deriving DecidableEq, Repr

/-- A received sync message: the link port it came by, the header fields of R256 (TYPE is the command's row)
and the body words. -/
structure MsgIn where
  port   : BitVec 3
  len    : BitVec 4
  accord : BitVec 16
  src    : BitVec 6
  dst    : BitVec 6
  object : BitVec 8
  body   : List Word
  err    : MsgErr
  deriving DecidableEq, Repr

/-- The NOR flash on the board as its pins answer (R375 to R379): whether it answers at all, whether SFDP and
its three tables are there, and what the tables say: the density in MiB and 4-byte address support (the Basic Flash Parameter
Table); the 8D read command, the highest 8D rate and the dummy cycles listed for each rate code of CL_STATUS.RATE (the xSPI
Profile 1.0 table); the command sequences that change to 8D-8D-8D. Then whether the switch verifies, and its bytes. -/
structure FlashDev where
  answers  : Bool
  sfdp     : Bool
  tables   : Bool
  density  : Nat
  fourByte : Bool
  readCmd  : BitVec 16
  maxMHz   : Nat
  dummies  : List (Nat × Nat)
  changes  : List (List Byte)
  verifies : Bool
  bytes    : List Byte
  deriving DecidableEq, Repr

/-- A read of the flash that has timed out (R379): which burst it is, and whether the flash answers as it is initialised again. -/
structure FlashTimeout where
  read     : Nat
  reinitOk : Bool
  deriving DecidableEq, Repr

/-- One common fault register set (R315): of a channel's sub-block or of a shared one. -/
inductive FltUnit where
  | chan (c : ChanId) (u : Sub)
  | shared (u : SharedSub)
  deriving DecidableEq, Repr

/-- A command. The docstring of each constructor names its row and rule. -/
inductive Instr where
  /-- FLAG_SET, R77 -/                | flagSet (r : Req)
  /-- FLAG_CLEAR, R77 -/              | flagClear (r : Req)
  /-- FLAG_TEST, R77 -/               | flagTest (r : Req)
  /-- FLAG_WAIT_SET, R77 -/           | flagWaitSet (r : Req)
  /-- FLAG_WAIT_CLEAR, R77 -/         | flagWaitClear (r : Req)
  /-- FLAG_TEST_CLEAR, R77 -/         | flagTestClear (r : Req)
  /-- SEM_ADD, R84 -/                 | semAdd (r : Req)
  /-- SEM_SUB, R84 -/                 | semSub (r : Req)
  /-- SEM_TRYSUB, R84 -/              | semTrysub (r : Req)
  /-- SEM_WAITSUB, R84 -/             | semWaitsub (r : Req)
  /-- SEM_READ, R84 -/                | semRead (r : Req)
  /-- STR_PRODUCE, R112 -/            | strProduce (r : Req)
  /-- STR_CONSUME, R112 -/            | strConsume (r : Req)
  /-- STR_WAIT_SPACE, R112 -/         | strWaitSpace (r : Req)
  /-- STR_WAIT_DATA, R112 -/          | strWaitData (r : Req)
  /-- STR_READ, R111 -/               | strRead (r : Req)
  /-- BAR_ARRIVE, R159 -/             | barArrive (r : Req)
  /-- BAR_ARRIVE_WAIT, R162 -/        | barArriveWait (r : Req)
  /-- BAR_REDUCE_ARRIVE, R175 -/      | barReduceArrive (r : Req)
  /-- BAR_READ_RESULT, R198 -/        | barReadResult (r : Req)
  /-- LOCK_CLAIM, R211 -/             | lockClaim (r : Req)
  /-- LOCK_QUERY, R211 -/             | lockQuery (r : Req)
  /-- LOCK_RELEASE, R212 -/           | lockRelease (r : Req)
  /-- LOCK_WAIT, R211 -/              | lockWait (r : Req)
  /-- CONN_ACCEPT, R118 -/            | connAccept (r : Req)
  /-- CONN_OPEN, R119 -/              | connOpen (r : Req)
  /-- CONN_RESERVE, R122 -/           | connReserve (r : Req)
  /-- CONN_COMMIT, R125 -/            | connCommit (r : Req)
  /-- CONN_CONSUME, R126 -/           | connConsume (r : Req)
  /-- CONN_CLOSE, R129 -/             | connClose (r : Req)
  /-- WAIT_ANY, R93 -/                | waitAny (r : Req)
  /-- SLOT_CANCEL, R99 -/             | slotCancel (r : Req)
  /-- SEQ_SELECT, R227 -/             | seqSelect (r : Req)
  /-- PACKET_ERROR, R69 -/            | packetError (endpoint : BitVec 12)
  /-- TRAILER, R63 -/                 | trailer (t : TrailerArg)
  /-- ARRIVE_STROBE, R140 -/          | arriveStrobe (endpoint : BitVec 12) (lane : BitVec 5)
  /-- LANE_RELEASE, R138 -/           | laneRelease (c : ChanId) (lane : BitVec 5)
  /-- LANE_TIMEOUT, R151 -/           | laneTimeout (c : ChanId) (lane : BitVec 5)
  /-- PRELOAD, R147 -/                | preload (who : Requester) (c : ChanId) (lane : BitVec 5) (v : Word)
  /-- PRELOAD_COMPLETE, R147 -/       | preloadComplete (c : ChanId) (lane : BitVec 5)
  /-- REARM, R152 -/                  | rearm (who : Requester) (c : ChanId) (lane : BitVec 5) (v : Word)
  /-- BARRIER_TIMEOUT, R165 -/        | barrierTimeout (c : ChanId) (bar : BitVec 15)
  /-- RU_COMBINE, R178 -/             | ruCombine (c : ChanId) (mem : MemErr)
  /-- RU_NF_INFO_CLEAR, R187 -/       | ruNfInfoClear (who : Requester) (c : ChanId) (v : Word)
  /-- ENDPOINT_RESET_EVENT, R31 -/    | endpointResetEvent (endpoint : BitVec 12)
  /-- FENCE_REACTION, R132 -/         | fenceReaction (c : ChanId) (conn : BitVec 14)
  /-- LOCK_SCAN, R216 -/              | lockScan (c : ChanId)
  /-- LOCK_SCAN_END, R219 -/          | lockScanEnd (c : ChanId)
  /-- CH_MAP_DATA, R21 -/             | chMapData (who : Requester) (c : ChanId) (v : Word)
  /-- BUDGET_GATE_PASS, R247 -/       | budgetGatePass (c : ChanId)
  /-- LEAN_PASS, R248 -/              | leanPass (c : ChanId) (seq : BitVec 4)
  /-- DEADLINE_OVERRUN, R237 -/       | deadlineOverrun (c : ChanId) (seq : BitVec 4)
  /-- AUDIT_COMPLETE, R239 -/         | auditComplete (c : ChanId) (seq : BitVec 4)
  /-- PS_SEQ_SELECT, R227 -/          | psSeqSelect (who : Requester) (c : ChanId) (seq : BitVec 4) (v : Word)
  /-- PS_SEQ_RESTART, R241 -/         | psSeqRestart (who : Requester) (c : ChanId) (seq : BitVec 4) (v : Word)
  /-- PS_SEQ_STOP, R242 -/            | psSeqStop (who : Requester) (c : ChanId) (seq : BitVec 4) (v : Word)
  /-- TRIP_ASSERT, R249 -/            | tripAssert
  /-- TRIP_RELEASE, R249 -/           | tripRelease
  /-- FORMATION_ATTEMPT_TIMEOUT, R266 -/ | formationAttemptTimeout (c : ChanId)
  /-- HELLO, R264 -/                  | hello (m : MsgIn)
  /-- VERDICT, R264 -/                | verdict (m : MsgIn)
  /-- READY, R265 -/                  | ready (m : MsgIn)
  /-- FORMED, R265 -/                 | formed (m : MsgIn)
  /-- ARRIVE, R273 -/                 | arrive (m : MsgIn)
  /-- RELEASE, R272 -/                | release (m : MsgIn)
  /-- REMOTE_TRAILER, R261 -/         | remoteTrailer (m : MsgIn)
  /-- REMOTE_TRAILER_SEND, R260 -/    | remoteTrailerSend (t : TrailerArg) (port : BitVec 3)
  /-- TIME_EXCHANGE_DUE, R268 -/      | timeExchangeDue (c : ChanId)
  /-- TIME_REQ, R268 -/               | timeReq (m : MsgIn)
  /-- TIME_RSP, R270 -/               | timeRsp (m : MsgIn)
  /-- BREAK, R277 -/                  | breakMsg (m : MsgIn)
  /-- ACCORD_TIMEOUT, R274 -/         | accordTimeout (c : ChanId) (object : BitVec 8)
  /-- LINK_LOST, R276 -/              | linkLost (port : BitVec 3)
  /-- CREDIT_RETURN, R415 -/          | creditReturn (port : BitVec 3)
  /-- PT_OPEN, R295 -/                | ptOpen (who : Requester) (v : Word)
  /-- PT_STAGE_DATA, R295 -/          | ptStageData (who : Requester) (v : Word)
  /-- PT_SUBMIT, R296 -/              | ptSubmit (who : Requester) (v : Word)
  /-- SUBMIT_CHECK_DONE, R296 -/      | submitCheckDone
  /-- PT_APPROVE, R297 -/             | ptApprove (who : Requester) (v : Word)
  /-- PT_ABORT, R298 -/               | ptAbort (who : Requester) (v : Word)
  /-- COMMIT_HOLD, R300 -/            | commitHold
  /-- COMMIT, R300 -/                 | commit
  /-- WINDOW_EXPIRY, R300 -/          | windowExpiry
  /-- REGISTER_WRITE, R430 -/         | registerWrite (who : Requester) (offset : BitVec 23) (width : Nat) (v : Word)
  /-- FLT_ACK, R317 -/                | fltAck (who : Requester) (u : FltUnit) (v : Word)
  /-- FLT_FORCE, R326 -/              | fltForce (who : Requester) (u : FltUnit) (v : Word)
  /-- CE_WINDOW_WRITE, R315 -/        | ceWindowWrite (who : Requester) (u : FltUnit) (v : Word)
  /-- FAULT_REACTION_COMPLETE, R321 -/ | faultReactionComplete (u : FltUnit)
  /-- DRYDOWN_EXPIRY, R321 -/         | drydownExpiry (u : FltUnit)
  /-- TRACKER_CLOSE, R322 -/          | trackerClose (u : FltUnit)
  /-- WEAR_WINDOW_BOUNDARY, R324 -/   | wearWindowBoundary (u : FltUnit)
  /-- SHADOW_END, R325 -/             | shadowEnd
  /-- HP_ERR_ACK, R329 -/             | hpErrAck (who : Requester) (v : Word)
  /-- ERR_LOW_TIME_END, R329 -/       | errLowTimeEnd
  /-- UNMATCHED_OUTPUT, R335 -/       | unmatchedOutput (second : Bool) (stream : BitVec 3)
  /-- DOZE_ENTRY, R350 -/             | dozeEntry (c : ChanId)
  /-- SLUMBER_ENTRY, R351 -/          | slumberEntry (c : ChanId)
  /-- WAKE_REQUEST, R353 -/           | wakeRequest (c : ChanId)
  /-- DOZE_WAKE_DONE, R355 -/         | dozeWakeDone (c : ChanId)
  /-- SLUMBER_WAKE_DONE, R356 -/      | slumberWakeDone (c : ChanId)
  /-- ALARM, R354 -/                  | alarm (c : ChanId)
  /-- TM_ALARM, R428 -/               | tmAlarm (who : Requester) (v : Word)
  /-- TM_ALARM_EXPIRY, R428 -/        | tmAlarmExpiry
  /-- CK_PLL_LOCK, R314 -/            | ckPllLock
  /-- CK_KEEP_CLOCK, R314 -/          | ckKeepClock
  /-- QUARANTINE, R368 -/             | quarantine (crossing : BitVec 16) (dropped : Nat)
  /-- RESET_DONE_EXCHANGE, R369 -/    | resetDoneExchange (crossing : BitVec 16)
  /-- CK_QUARANTINE, R369 -/          | ckQuarantine (crossing : BitVec 16)
  /-- BAY_TELEMETRY, R32 -/           | bayTelemetry (bay : BitVec 3) (cls : BitVec 2) (power : BitVec 16) (fallback : Bool)
  /-- FEED_STALE, R32 -/              | feedStale (bay : BitVec 3)
  /-- POR_ASSERT, R372 -/             | porAssert
  /-- POR_RELEASE, R373 -/            | porRelease (f : FlashDev)
  /-- FLASH_READ_TIMEOUT, R379 -/     | flashReadTimeout (t : FlashTimeout)
  /-- LOAD_GATE_READY, R391 -/        | loadGateReady
  /-- GATE_OPEN, R391 -/              | gateOpen (who : Requester) (v : Word)
  /-- GATE_REFUSE, R391 -/            | gateRefuse (who : Requester) (v : Word)
  /-- GATE_TIMEOUT, R391 -/           | gateTimeout
  /-- CHANNEL_RESTART, R393 -/        | channelRestart (who : Requester) (c : ChanId) (v : Word)
  /-- RESTART_SLOT, R393 -/           | restartSlot (c : ChanId) (burst : List Byte)
  /-- RESTART_LOAD_DONE, R393 -/      | restartLoadDone (c : ChanId)
  /-- ORDERLY_CLOSE, R394 -/          | orderlyClose (who : Requester) (c : ChanId) (v : Word)
  /-- CLOSE_COMPLETE, R394 -/         | closeComplete (c : ChanId)
  /-- INSPECTION_SNAPSHOT, R398 -/    | inspectionSnapshot (who : Requester) (c : ChanId) (v : Word)
  /-- HAND_WRITE_FLAG, R402 -/        | handWriteFlag (who : Requester) (c : ChanId) (index : BitVec 23)
  /-- HAND_WRITE_SEMAPHORE, R402 -/   | handWriteSemaphore (who : Requester) (c : ChanId) (index : BitVec 23)
  /-- HAND_WRITE_STREAM, R402 -/      | handWriteStream (who : Requester) (c : ChanId) (index : BitVec 23)
  /-- HAND_WRITE_BARRIER, R402 -/     | handWriteBarrier (who : Requester) (c : ChanId) (index : BitVec 23)
  /-- HAND_RELEASE, R402 -/           | handRelease (who : Requester) (c : ChanId) (index : BitVec 23)
  /-- HAND_CLEAR, R402 -/             | handClear (who : Requester) (c : ChanId) (index : BitVec 23)
  /-- HAND_FREE, R402 -/              | handFree (who : Requester) (c : ChanId) (index : BitVec 23)
  /-- BLOTTER_GO, R404 -/             | blotterGo (who : Requester) (c : ChanId) (v : Word)
  /-- BLOTTER_COMPLETE, R410 -/       | blotterComplete (c : ChanId)
  /-- BLOTTER_RELEASE, R405 -/        | blotterRelease (who : Requester) (c : ChanId) (v : Word)
  /-- HOST_FLAG_SET, R103 -/          | hostFlagSet (who : Requester) (c : ChanId) (cls : BitVec 3) (index : BitVec 23)
  /-- HOST_FLAG_CLEAR, R103 -/        | hostFlagClear (who : Requester) (c : ChanId) (cls : BitVec 3) (index : BitVec 23)
  /-- HOST_FLAG_TEST, R103 -/         | hostFlagTest (who : Requester) (c : ChanId) (cls : BitVec 3) (index : BitVec 23)
  /-- HOST_FLAG_TEST_CLEAR, R103 -/   | hostFlagTestClear (who : Requester) (c : ChanId) (cls : BitVec 3) (index : BitVec 23)
  /-- HOST_SEM_ADD, R103 -/           | hostSemAdd (who : Requester) (c : ChanId) (cls : BitVec 3) (index : BitVec 23)
  /-- HOST_SEM_SUB, R103 -/           | hostSemSub (who : Requester) (c : ChanId) (cls : BitVec 3) (index : BitVec 23)
  /-- HOST_SEM_TRYSUB, R103 -/        | hostSemTrysub (who : Requester) (c : ChanId) (cls : BitVec 3) (index : BitVec 23)
  /-- HOST_SEM_READ, R103 -/          | hostSemRead (who : Requester) (c : ChanId) (cls : BitVec 3) (index : BitVec 23)
  /-- HW_WATCH, R105 -/               | hwWatch (who : Requester) (c : ChanId) (n : BitVec 6) (v : Word)
  /-- HW_SLOT_CANCEL, R107 -/         | hwSlotCancel (who : Requester) (c : ChanId) (v : Word)
  /-- LT_FORCE, R220 -/               | ltForce (who : Requester) (c : ChanId) (v : Word)
  /-- REGISTER_READ_CLEAR, R421 -/    | registerReadClear (who : Requester) (offset : BitVec 23) (width : Nat)
  /-- KEEP_TICK, R358 -/              | keepTick
  /-- RESPONSE_DELIVERED, R101 -/     | responseDelivered (endpoint : BitVec 12)
  /-- LINK_UP, R325 -/                | linkUp (port : BitVec 3)
  /-- PLL_LOCKED, R348 -/             | pllLocked
  deriving DecidableEq, Repr

end Sys2Proof
end

