-- ==== Sys2Proof/Config.lean ====
section
/-! DEFINITION. What an implementation of Scetor fixes and the manual leaves open: the fused identity
values (R396) and the free values. A constant without a body is a free value: a claim holds whatever it is. -/

namespace Sys2Proof.Config

/-- Free value number `n`, a natural number: the number of CORE cycles that pass between two commands
(R358 gives only their bounds) and the cycle counts the manual leaves to network timing. -/
opaque freeNat : Nat → Nat

/-- ID_LOT, fused at test (R396). -/
opaque idLot : Word

/-- ID_DIE[31:0]: wafer, die X, die Y, fab, fused at test (R396). -/
opaque idDie : BitVec 32

/-- ID_TEST_DATE[31:0]: year, month, day, fused at test (R396). -/
opaque idTestDate : BitVec 32

end Sys2Proof.Config
end

