-- ==== Sys2Proof/Machine/State.lean ====
section
/-! DEFINITION. The state of Scetor 2.1 as plain data: the four channels, the shared sub-blocks, the pins and
the queue of waiting commands. A field's default is its value after SCE_POR_N; `State.reset` is the record of
all defaults. Identifiers, indices and counts are natural numbers (each comes from a bit field of a command or a
loaded table); a barrier or lane generation, which wraps, is a 32-bit word. A field marked "the model's own" is
bookkeeping the rules imply but do not name. -/

namespace Sys2Proof.Machine

/-- A store indexed by number, sparse: pairs with strictly rising keys, none holding the value an unlisted key
reads as. The operations are in Machine/Bits.lean. -/
abbrev SMap (α : Type) := List (Nat × α)

/-- Raised by nobody: no command of this block stops the model. Kept because the host's interface names a type. -/
inductive Fault where
  /-- Raised by no command; safe. -/
  | noStop
  deriving DecidableEq, Repr

/-- Why a command has no meaning. -/
inductive Refusal where
  /-- Answered by an arm of `exec` that has no meaning yet; safe. -/
  | notModelled (mnemonic : String)
  deriving DecidableEq, Repr

/-! ## Objects of the object store -/

/-- A flag record (R73). -/
structure Flag where
  value    : Bool := false
  strict   : Bool := false
  poisoned : Bool := false
  last     : Nat := 0xFFE
  deriving DecidableEq, Repr

/-- A semaphore word (R80); WAITERS is the number of slots parked on it, computed from the watch table. -/
structure Sem where
  value    : Nat := 0
  firstFit : Bool := false
  poisoned : Bool := false
  last     : Nat := 0xFFE
  deriving DecidableEq, Repr

/-- A stream counter record (R109); CONN is fixed by the index. -/
structure Stream where
  p        : Nat := 0
  c        : Nat := 0
  k        : Nat := 0
  lastProd : Nat := 0xFFE
  lastCons : Nat := 0xFFE
  poisoned : Bool := false
  deriving DecidableEq, Repr

/-- Connection states (R116). -/
inductive ConnSt where
  | free | listening | opened | senderClosed | readerClosed | broken
  deriving DecidableEq, Repr

/-- A connection record (R117); RES_PARKED is whether a reservation is parked, computed from the watch table. -/
structure Conn where
  st        : ConnSt := .free
  resValid  : Bool := false
  log2      : Nat := 0
  base      : Nat := 0
  resPad    : Nat := 0
  resLen    : Nat := 0
  port      : Nat := 0
  receiver  : Nat := 0
  sender    : Nat := 0
  deriving DecidableEq, Repr

/-- A counted barrier record (R157) with the bitmaps CUR and NXT of a strict barrier as sorted lists of logical
IDs. `ruPending` (the model's own) is 1 while a complete generation waits for the RU (R179). -/
structure Bar where
  gen       : BitVec 32 := 0
  poisoned  : Bool := false
  holding   : Bool := false
  gated     : Bool := false
  prevTmo   : Bool := false
  early     : Nat := 0
  count     : Nat := 0
  start     : Nat := 0
  last      : Nat := 0xFFE
  mask      : Nat := 0
  target    : Nat := 1
  action    : Bool := false
  timeoutUs : Nat := 0
  cur       : List Nat := []
  nxt       : List Nat := []
  ruPending : Bool := false
  deriving DecidableEq, Repr

/-- Lane states (BW_LANE_STATE_l.STATE). -/
inductive LaneSt where
  | active | holding | timedOut
  deriving DecidableEq, Repr

/-- The end object of a phase (R231). -/
inductive EndObj where
  | lane (l : Nat)
  | bar (i : Nat)
  deriving DecidableEq, Repr

/-- What follows the release of an end object (R233 step 5): nothing, the start of successor `succ` of a sequence
with index `chosen` in its entry, or the sequence's audit. -/
inductive After where
  | nothing
  | phase (seq succ chosen : Nat) (lean : Bool)
  | audit (seq : Nat)
  deriving DecidableEq, Repr

/-- A release held at the budget gate (R247), with its successor, choice and hold start, and, once its hold has
reached MAX_HOLD_US, what was unmet then (BG_LEAN_INFO.CAUSE). -/
structure Held where
  seq    : Nat
  obj    : EndObj
  succ   : Nat
  chosen : Nat
  since  : Nat
  cause  : Option Nat := none
  deriving DecidableEq, Repr

/-- A wired lane (R137, R146 and the BW registers). `parity` holds p of each logical ID; `members` and `next`
are the translated buffers as lists of logical IDs; `timer` is the start of the running lane timer (R151);
`stalled` (the model's own) holds what follows a complete round that waits for a translation (R148); `nam` is the
not-arrived latch (R153). -/
structure Lane where
  gen         : BitVec 32 := 0
  st          : LaneSt := .active
  tmo         : Bool := false
  swapPending : Bool := false
  preloadBusy : Bool := false
  gated       : Bool := false
  refused     : Bool := false
  activeMask  : Nat := 0
  nextMask    : Nat := 0
  members     : List Nat := []
  next        : List Nat := []
  parity      : SMap Bool := []
  timeoutUs   : Nat := 0
  roundUs     : Nat := 0
  action      : Bool := false
  maskSel     : Nat := 0
  timer       : Option Nat := none
  stalled     : Option After := none
  nam         : List Nat := []
  namClusters : Nat := 0
  namBays     : Nat := 0
  namTime     : Nat := 0
  deriving DecidableEq, Repr

/-! ## Waiting -/

/-- An armed wait slot (R88), an entry of the watch table. `phys` is the endpoint its final response goes to,
`gen` the generation a barrier wait names, `train` the TRAIN bits, `won` marks a slot that has won DONE while
the train's LAST packet is outstanding (R94), `found` (the model's own) the RESULT word as the op found its object. -/
structure Parked where
  lid      : Nat
  slot     : Nat
  phys     : Nat
  armTime  : Nat
  operand  : Nat
  tag      : Nat
  index    : Nat
  cls      : Nat
  opcode   : Nat
  train    : Nat
  lastSeen : Bool
  isTrain  : Bool
  won      : Bool := false
  gen      : BitVec 32 := 0
  found    : Nat := 0
  deriving DecidableEq, Repr

/-- A train that has ended before its LAST packet (R94, R97, R48): satisfied or ended through a slot
(`done`), or refused, in which case later packets return `status`. `objs` are the objects its packets have named, by class
and number (R49). -/
structure TrainEnd where
  lid    : Nat
  tag    : Nat
  done   : Bool
  status : Nat
  slot   : Nat
  train  : Nat
  result : Nat
  flags  : Nat
  objs   : List (Nat × Nat) := []
  deriving DecidableEq, Repr

/-- A host watch, HW_WATCH_n (R105). -/
structure Watch where
  threshold : Nat := 0
  enable    : Bool := false
  cond      : Nat := 0
  cls       : Nat := 0
  index     : Nat := 0
  deriving DecidableEq, Repr

/-! ## Locks and reductions -/

/-- A lock entry (R209); WAITERS is computed from the watch table. -/
structure LockEntry where
  valid     : Bool := false
  held      : Bool := false
  abandoned : Bool := false
  poisoned  : Bool := false
  seq       : BitVec 12 := 0
  addr      : Nat := 0
  time      : Nat := 0
  owner     : Nat := 0
  context   : Nat := 0
  deriving DecidableEq, Repr

/-- One accumulator of a payload record: the eight words in the form of R180 and the SEEN, RANGE and NF bits (R192). -/
structure Acc where
  words : SMap Nat := []
  seen  : Nat := 0
  range : Nat := 0
  nf    : Bool := false
  deriving DecidableEq, Repr

/-- The payload record of a reduction-capable barrier (R192); CFG is the loaded configuration word. -/
structure Payload where
  acc0   : Acc := {}
  acc1   : Acc := {}
  res    : SMap Nat := []
  scales : Nat := 0
  header : Nat := 0
  deriving DecidableEq, Repr

/-- A finalised result that waits in the RU for its release (R194). -/
structure Final where
  res    : SMap Nat := []
  scales : Nat := 0
  header : Nat := 0
  deriving DecidableEq, Repr

/-- A staged reduction train (R175): pairs by PAIR number. -/
structure Staged where
  lid   : Nat
  bar   : Nat
  tag   : Nat
  pairs : SMap Nat
  deriving DecidableEq, Repr

/-- An entry of the RU ingress queue (R178): the arrival's payload words, its accumulator, its sender, and
whether it brought COUNT to TARGET. -/
structure RuArrival where
  bar       : Nat
  gen       : BitVec 32
  words     : SMap Nat
  phys      : Nat
  lid       : Nat
  completes : Bool
  deriving DecidableEq, Repr

/-- The response owed at release to a BAR_ARRIVE that completed a reduction-capable barrier's generation (R195). -/
structure LateResp where
  bar    : Nat
  gen    : BitVec 32
  phys   : Nat
  tag    : Nat
  early  : Bool
  deriving DecidableEq, Repr

/-! ## Packets, responses, messages and outputs -/

/-- A request or trailer inside the block: what remains of R40 or R60 after the node, the ingress of R58, the endpoint of
the SRN port it entered by (for a trailer that of its tile or link agent) and, for a trailer, the channel captured with the
closing write (R61; 16 where the issuer's channel is looked up). `remote` marks a trailer that came as a sync message (R261). -/
structure Packet where
  phys     : Nat
  port     : Nat
  capt     : Nat := 16
  remote   : Bool := false
  opcode   : Nat
  cls      : Nat
  index    : Nat
  operand  : Nat
  tag      : Nat
  trailer  : Bool
  poisoned : Bool
  ingress  : Nat
  pkt      : PktErr
  mem      : MemErr
  deriving DecidableEq, Repr

/-- Work that waits for a bank: a request with the identity it resolved at map lookup (R23), or a host-started
action (R103, R220, R401, R400). -/
inductive Work where
  | req (p : Packet) (lid : Nat)
  | hostOp (opcode cls index operand : Nat)
  | force (addr : Nat)
  | hand (kind action index d0 d1 d2 : Nat)
  | snapshot (kind index : Nat)
  deriving DecidableEq, Repr

/-- A response (R50). `first` (the model's own) tells whether it is the first response of its request, which
ends the request's outstanding count (R36). -/
structure Response where
  endpoint  : Nat
  chan      : Nat
  opcode    : Nat
  status    : Nat
  range     : Bool := false
  zeroBlock : Bool := false
  rescale   : Bool := false
  lean      : Bool := false
  final     : Bool := true
  tag       : Nat
  result    : Nat := 0
  first     : Bool := true
  deriving DecidableEq, Repr

/-- A sync message that is sent (R256). -/
structure Msg where
  typ    : Nat
  accord : Nat
  src    : Nat
  dst    : Nat
  object : Nat := 0
  body   : List Nat := []
  deriving DecidableEq, Repr

/-- A command that CL issues on the configuration port (R377): its code, one byte or two, the mode, the clock, the address with
its width in bytes, the dummy cycles, and how many bytes it reads. Read data are captured on SCE_XSPI_DQS in 8D-8D-8D mode
(`octal`), and on SCE_XSPI_DQ[1] in 1S-1S-1S mode (R375). -/
structure FlashCmd where
  code      : List Nat
  octal     : Bool
  mhz       : Nat
  addrBytes : Nat
  addr      : Nat
  dummy     : Nat
  len       : Nat
  deriving DecidableEq, Repr

/-- What leaves the block: an SRN response; the acknowledgement that a trailer is taken, to its tile or link agent; a lane
acknowledgement with its CODE; the release of a lane with its new GEN and TMO, and the cores whose release wire it raises; the wake output of a core
(R101); a sync message on a link port; the return of a link port's receive credit; a blotter line on a
channel's port, its bytes at a byte address; the take acknowledgement of an endpoint-reset event; a command on the pins of the
configuration port; a pulse of 10 µs low on SCE_XSPI_RESET_N (R379); a change of ACK at a fabric port in the Scetor-1 handshake
(R366); the completion of a host access. The ports and wires of a channel carry its number. -/
inductive Output where
  | resp (r : Response)
  | take (port opcode : Nat)
  | ack (phys lane code : Nat)
  | laneRelease (chan lane gen : Nat) (tmo : Bool) (cores : List Nat)
  | wake (phys : Nat)
  | msg (port : Nat) (m : Msg)
  | creditBack (port : Nat)
  | line (chan addr : Nat) (bytes : List Byte)
  | resetTake (phys : Nat)
  | flash (c : FlashCmd)
  | flashReset
  | fabricAck (port : Nat) (high : Bool)
  | host (who : Requester) (offset : Nat) (write : Bool) (value : Nat) (error : Bool)
  deriving DecidableEq, Repr

/-! ## Fault sets -/

/-- An address tracker (R322): array word, time it opened, corrected errors counted. -/
structure Tracker where
  array  : Nat
  bank   : Nat
  word   : Nat
  opened : Nat
  count  : Nat
  deriving DecidableEq, Repr

/-- Fault-set states (R321). -/
inductive FltSt where
  | clear | faulted | drydown | halted
  deriving DecidableEq, Repr

/-- The common fault register set (R315) with its trackers and its pending force. `lastFault` and `loadedUs`
hold the running drydown timer, `windowStart` and `wearRaised` the running wear window. -/
structure FaultSet where
  st          : FltSt := .clear
  cls         : Nat := 0
  captured    : Bool := false
  escalated   : Bool := false
  wear        : Bool := false
  src         : Nat := 0
  disabled    : Nat := 0
  forceArray  : Nat := 0
  forceBank   : Nat := 0
  forceWord   : Nat := 0
  pendForce   : Option Bool := none
  feAddr      : Nat := 0
  feMValid    : Bool := false
  feMLid      : Nat := 0
  feMPhys     : Nat := 0
  feType      : Nat := 0
  feTime      : Nat := 0
  alsoCount   : Nat := 0
  alsoMax     : Nat := 0
  alsoSrc     : Nat := 0
  ceCount     : Nat := 0
  recoveries  : Nat := 0
  drydownUs   : Nat := 1000
  loadedUs    : Nat := 1000
  lastFault   : Nat := 0
  windowUs    : Nat := 10000
  windowCe    : Nat := 0
  windowStart : Nat := 0
  wearRaised  : Bool := false
  trackers    : List Tracker := []
  deriving DecidableEq, Repr

/-- The nine fault sets of a channel (R33). -/
structure FaultSets where
  os : FaultSet := {}
  rq : FaultSet := {}
  bw : FaultSet := {}
  lt : FaultSet := {}
  ru : FaultSet := {}
  cu : FaultSet := {}
  ps : FaultSet := {}
  bg : FaultSet := {}
  la : FaultSet := {}
  deriving DecidableEq, Repr

/-- A running or ending reaction shadow (R325): the row of its trigger, what it concerns, the lanes it covers,
and the time it ends, once its trigger has ended. -/
structure Shadow where
  row   : Nat
  key   : Nat
  lanes : List Nat
  ends  : Option Nat
  deriving DecidableEq, Repr

/-! ## Phases and budget -/

/-- Sequence states (R226). -/
inductive SeqSt where
  | idle | run | held | audit | stopped
  deriving DecidableEq, Repr

/-- A sequence: PS_SEQ_STATE_s, PS_SEQ_TIME_s, PS_SEQ_CTL_s, whether its deadline runs (R237), and whether a STOP
waits for its audit to end (R242). -/
structure Seq where
  st         : SeqSt := .idle
  missed     : Bool := false
  lean       : Bool := false
  score      : Nat := 0
  entry      : Nat := 0
  next       : Nat := 0
  chosen     : Nat := 0
  start      : Nat := 0
  ctlScore   : Nat := 0
  ctlStatus  : Nat := 0
  deadlineOn : Bool := false
  stopping   : Bool := false
  deriving DecidableEq, Repr

/-- A phase entry (R228), four words. -/
structure Entry where
  w0 : Nat := 0
  w1 : Nat := 0
  w2 : Nat := 0
  w3 : Nat := 0
  deriving DecidableEq, Repr

/-! ## Accords -/

/-- Accord states (R262). -/
inductive AccSt where
  | none | forming | formed | broken | failed
  deriving DecidableEq, Repr

/-- One tree edge of the channel's rank, and how far its formation has come (R264, R265). -/
structure Edge where
  port    : Nat
  rank    : Nat
  up      : Bool
  sentOk  : Bool := false
  recvOk  : Bool := false
  isReady : Bool := false
  deriving DecidableEq, Repr

/-- The state of an accord object at this chip (R272): the generation being collected, the local completion and
pass, the children that have arrived, the combined LEAN, CHOICE and partial, and the root's timer. -/
structure AccObj where
  gen      : BitVec 32 := 0
  localDone : Bool := false
  passed   : Bool := false
  sent     : Bool := false
  lean     : Bool := false
  choice   : Nat := 0
  ownLean  : Bool := false
  children : List Nat := []
  partialAcc : Acc := {}
  timer    : Option Nat := none
  expired  : Bool := false
  deriving DecidableEq, Repr

/-- Credits of one link port (LA_CREDIT_p, R258). `txAvail` counts all send credits held, of which up to 16 are
kept for the reserved class. -/
structure Credit where
  txAvail : Nat := 64
  rxHeld  : Nat := 0
  deriving DecidableEq, Repr

/-- Formation and exchange state of the link-agent share of a channel (LA). `txWait` are the messages that wait for a credit,
by port; `rxWait` those that wait to be processed, by type, with the keep value at which each was received; `attemptDead` tells
that the present attempt has failed at once (R264). -/
structure La where
  accord      : Nat := 0
  rank        : Nat := 0
  linkPorts   : Nat := 0
  up          : Nat := 0
  credits     : SMap Credit := []
  txWait      : List (Nat × Msg) := []
  rxWait      : List (Nat × MsgIn × Nat) := []
  size        : Nat := 0
  retries     : Nat := 0
  edges       : List Edge := []
  st          : AccSt := .none
  reason      : Nat := 0
  reasonRank  : Nat := 0
  reasonPort  : Nat := 0
  attempts    : Nat := 0
  timeWarn    : Bool := false
  attemptAt   : Nat := 0
  attemptDead : Bool := false
  firstReason : Nat := 0
  digest      : Nat := 0
  peerSel     : Nat := 0
  peerData    : SMap Nat := []
  timeOffset  : Int := 0
  lastDelay   : Nat := 0
  lastTheta   : Int := 0
  reqT1       : Option Int := Option.none
  reqAt       : Nat := 0
  missRun     : Nat := 0
  joining     : Bool := false
  objSel      : Nat := 0
  objs        : SMap AccObj := []
  deriving DecidableEq, Repr

/-- Records and counters of LA, and its pending force of LA_CE (R326). -/
structure LaLog where
  breakObject   : Nat := 0
  breakType     : Nat := 0
  breakReceived : Nat := 0
  breakExpected : Nat := 0
  breakTime     : Nat := 0
  rtrLast       : Nat := 0
  tmoGen        : Nat := 0
  tmoObject     : Nat := 0
  tmoLocal      : Bool := false
  tmoChildren   : Nat := 0
  msgTx         : Nat := 0
  msgRx         : Nat := 0
  creditWait    : Nat := 0
  rtr           : Nat := 0
  rtrRefused    : Nat := 0
  timeWarns     : Nat := 0
  timeDiscards  : Nat := 0
  timeMisses    : Nat := 0
  accTimeouts   : Nat := 0
  ignored       : Nat := 0
  forceCe       : Bool := false
  deriving DecidableEq, Repr

/-! ## The loaded image of a channel -/

/-- The values a channel section loads (R388, R389): the rest state of R238 and the channel's tables. -/
structure Img where
  map      : SMap Nat := []
  flags    : SMap Flag := []
  sems     : SMap Sem := []
  strs     : SMap Stream := []
  bars     : SMap Bar := []
  cfgs     : SMap Nat := []
  rules0   : SMap Nat := []
  rules1   : SMap Nat := []
  masks    : SMap Nat := []
  lanes    : SMap Nat := []
  scores   : SMap Nat := []
  entries  : SMap Entry := []
  lists    : SMap Nat := []
  choices  : SMap Nat := []
  locals   : SMap Nat := []
  commons  : SMap Nat := []
  supValid : Bool := false
  supLid   : Nat := 0
  spares   : Nat := 0
  selEn    : Bool := false
  selMask  : Nat := 0
  capUj    : Nat := 0
  maxHold  : Nat := 0
  therm    : Nat := 0
  deriving DecidableEq, Repr

/-! ## Channel sub-blocks -/

/-- Channel states (R392). -/
inductive ChSt where
  | down | loading | run | closing | halted | failed
  deriving DecidableEq, Repr

/-- Channel clock states (R349). -/
inductive ClkSt where
  | down | active | doze | slumber | waking
  deriving DecidableEq, Repr

/-- An endpoint map entry (R16 to R19). -/
structure MapEntry where
  valid : Bool := false
  phys  : Nat := 0
  deriving DecidableEq, Repr

/-- CH: state, map, fences, reset queue, shadow and pair-independent records. -/
structure ChCtl where
  st           : ChSt := .down
  loadError    : Nat := 0
  event        : Bool := false
  eventEn      : Bool := false
  restarts     : Nat := 0
  runTime      : Nat := 0
  map          : SMap MapEntry := []
  fenced       : List Nat := []
  mapSel       : Nat := 0
  mapResLid    : Nat := 0
  mapResCode   : Nat := 0
  replaced     : Nat := 0
  resetIgnored : Nat := 0
  resetQ       : List Nat := []
  connScan     : List (Nat × Nat) := []
  shadows      : List Shadow := []
  shadowCount  : Nat := 0
  shadowTime   : Nat := 0
  shadowRow    : Nat := 0
  shadowSrc    : Nat := 0
  shadowSub    : Nat := 0
  deriving DecidableEq, Repr

/-- The keep part of a channel: clock state, sleep settings, and the CH crossing registers (R349 to R371). `since` is when DOZE or
SLUMBER was entered, `wakeAt` the keep value at which the request of a running wake was raised. -/
structure Clk where
  st           : ClkSt := .down
  fromSlumber  : Bool := false
  since        : Nat := 0
  wakeAt       : Nat := 0
  wakeReq      : Bool := false
  slumberEn    : Bool := false
  dozeEn       : Bool := true
  slumberUs    : Nat := 200
  dozeIdle     : Nat := 64
  overrun      : Nat := 0
  xQuarantine  : Nat := 0
  xFallback    : Nat := 0
  lateAgree    : Nat := 0
  resetOverrun : Nat := 0
  wakes        : Nat := 0
  slumberWakes : Nat := 0
  deriving DecidableEq, Repr

/-- RQ: ingress and bank queues, round-robin pointers (R58), counters and the failed-trailer record (R72). `full` is work at
the hub whose bank queue holds 64 requests: its credit is not returned (R38). `head` is the number of each bank queue's
oldest entry (R424). -/
structure Rq where
  ingress      : List Packet := []
  bankQ        : List (Nat × Work) := []
  full         : List (Nat × Work) := []
  pointer      : SMap Nat := []
  head         : SMap Nat := []
  ops          : Nat := 0
  denied       : Nat := 0
  badReq       : Nat := 0
  pktErr       : Nat := 0
  down         : Nat := 0
  trailers     : Nat := 0
  trailerFail  : Nat := 0
  stall        : SMap Nat := []
  tfClass      : Nat := 0
  tfStatus     : Nat := 0
  tfOpcode     : Nat := 0
  tfEndpoint   : Nat := 0
  tfIndex      : Nat := 0
  forceErr     : Nat := 0
  deriving DecidableEq, Repr

/-- OS: the object store and its records. -/
structure Os where
  flags       : SMap Flag := []
  sems        : SMap Sem := []
  strs        : SMap Stream := []
  conns       : SMap Conn := []
  bars        : SMap Bar := []
  badMasks    : List Nat := []
  dblCount    : Nat := 0
  dblStrict   : Bool := false
  dblLid      : Nat := 0
  dblIndex    : Nat := 0
  barRearr    : Nat := 0
  barNotMem   : Nat := 0
  barTmo      : Nat := 0
  reGen       : Nat := 0
  reKind      : Nat := 0
  reLid       : Nat := 0
  reIndex     : Nat := 0
  toGen       : Nat := 0
  toAction    : Bool := false
  toCount     : Nat := 0
  toIndex     : Nat := 0
  toTime      : Nat := 0
  nam         : List Nat := []
  namSel      : Nat := 0
  retired     : List (Nat × Nat) := []
  deriving DecidableEq, Repr

/-- The slot unit, the watch table and HW (R88 to R107). -/
structure Hw where
  parked   : List Parked := []
  ended    : List TrainEnd := []
  watches  : SMap Watch := []
  hit      : Nat := 0
  hitEn    : Nat := 0
  operand  : Nat := 0
  busy     : Bool := false
  overrun  : Bool := false
  count    : Nat := 0
  opcode   : Nat := 0
  status   : Nat := 0
  data     : Nat := 0
  deriving DecidableEq, Repr

/-- BW: the lanes, the strobes that wait at their ports while the channel sleeps (R353), and the BW registers (R169). -/
structure Bw where
  lanes    : SMap Lane := []
  namLane  : Nat := 0
  namWord  : Nat := 0
  rearr    : Nat := 0
  nonMem   : Nat := 0
  late     : Nat := 0
  tmo      : Nat := 0
  stall    : Nat := 0
  reGen    : Nat := 0
  reLane   : Nat := 0
  reLid    : Nat := 0
  rePhys   : Nat := 0
  strobes  : List (Nat × Nat) := []
  deriving DecidableEq, Repr

/-- LT: the lock table, the scans of R216 and the LT registers (R224). `fencedIds` are the fenced logical IDs no
scan has covered yet, `scanIds` those of the running scan, `heldMap` a map write that waits: its requester, logical ID and value (R219). -/
structure Lt where
  entries   : SMap LockEntry := []
  fencedIds : List Nat := []
  scanIds   : List Nat := []
  scanning  : Bool := false
  heldMap   : Option (Requester × Nat × Nat) := none
  forceAddr : Nat := 0
  busy      : Bool := false
  overrun   : Bool := false
  fEntry    : Nat := 0
  fStatus   : Nat := 0
  claims    : Nat := 0
  helds     : Nat := 0
  fulls     : Nat := 0
  handoffs  : Nat := 0
  abandons  : Nat := 0
  forces    : Nat := 0
  notOwner  : Nat := 0
  noHeld    : Bool := false
  noOwner   : Nat := 0
  noOwnCtx  : Nat := 0
  noLid     : Nat := 0
  noCtx     : Nat := 0
  noAddr    : Nat := 0
  deriving DecidableEq, Repr

/-- RU: payload store, staged trains, ingress queue with the number of its oldest entry, results that wait, and the RU registers (R204). -/
structure Ru where
  pay       : SMap Payload := []
  staged    : List Staged := []
  queue     : List RuArrival := []
  head      : Nat := 0
  fin       : SMap Final := []
  late      : List LateResp := []
  cfgSel    : Nat := 0
  ruleSel   : Nat := 0
  nfValid   : Bool := false
  nfGen     : Nat := 0
  nfWord    : Nat := 0
  nfOp      : Nat := 0
  nfFmt     : Nat := 0
  nfKind    : Nat := 0
  nfIndex   : Nat := 0
  nfValue   : Nat := 0
  nfPhys    : Nat := 0
  nfLid     : Nat := 0
  nfTime    : Nat := 0
  arrivals  : Nat := 0
  cycles    : Nat := 0
  fullCyc   : Nat := 0
  nfCount   : Nat := 0
  ranges    : Nat := 0
  zeros     : Nat := 0
  rescales  : Nat := 0
  discards  : Nat := 0
  deriving DecidableEq, Repr

/-- CU: the order of LISTENING connections and the CU registers (R135). -/
structure Cu where
  listening : List Nat := []
  commits   : Nat := 0
  pads      : Nat := 0
  ringFull  : Nat := 0
  parks     : Nat := 0
  noReader  : Nat := 0
  brokens   : Nat := 0
  busyCyc   : Nat := 0
  nrTrailer : Bool := false
  nrOpcode  : Nat := 0
  nrSender  : Nat := 0
  nrConn    : Nat := 0
  deriving DecidableEq, Repr

/-- PS: sequences, selectors and the PS registers (R252). -/
structure Ps where
  seqs      : SMap Seq := []
  badWords  : List (Nat × Nat) := []
  entrySel  : Nat := 0
  scoreSel  : Nat := 0
  choiceSel : Nat := 0
  listSel   : Nat := 0
  auValid   : Bool := false
  auSeq     : Nat := 0
  auScore   : Nat := 0
  auKind    : Nat := 0
  auIndex   : Nat := 0
  auData    : Nat := 0
  auTime    : Nat := 0
  dlUs      : Nat := 0
  dlSeq     : Nat := 0
  dlScore   : Nat := 0
  dlEntry   : Nat := 0
  phases    : Nat := 0
  audits    : Nat := 0
  mismatches : Nat := 0
  deadlines : Nat := 0
  conflicts : Nat := 0
  resetOps  : Nat := 0
  deriving DecidableEq, Repr

/-- BG: the bucket, the hold queue in completion order, and the BG registers. `staleRaised` holds the bays whose
running stale episode has been raised (R313). -/
structure Bg where
  bucket      : Int := 0
  holdQ       : List Held := []
  leanBucket  : Int := 0
  leanSeq     : Nat := 0
  leanCause   : Nat := 0
  leanEntry   : Nat := 0
  leanTime    : Nat := 0
  passes      : Nat := 0
  holds       : Nat := 0
  leans       : Nat := 0
  holdTicks   : Nat := 0
  tripTicks   : Nat := 0
  chargedUj   : Nat := 0
  staleRaised : List Nat := []
  deriving DecidableEq, Repr

/-- Blotter states (R405). -/
inductive BlotSt where
  | free | writing | held
  deriving DecidableEq, Repr

/-- DB: inspection, hand setting and the blotter (R413). -/
structure Db where
  inKind    : Nat := 0
  inIndex   : Nat := 0
  inBusy    : Bool := false
  inValid   : Bool := false
  inStatus  : Nat := 0
  inWaiters : Nat := 0
  inData    : SMap Nat := []
  inList    : SMap Nat := []
  inBits    : SMap Nat := []
  waiterSel : Nat := 0
  bitsSel   : Nat := 0
  hand0     : Nat := 0
  hand1     : Nat := 0
  hand2     : Nat := 0
  hBusy     : Bool := false
  hOverrun  : Bool := false
  hCount    : Nat := 0
  hStatus   : Nat := 0
  bSt       : BlotSt := .free
  bTrunc    : Bool := false
  bRefused  : Bool := false
  bCause    : Nat := 0
  bLater    : Nat := 0
  bLines    : Nat := 0
  bCount    : Nat := 0
  bMissed   : Nat := 0
  bTime     : Nat := 0
  bTrigger  : Nat := 0
  bDetail   : Nat := 0
  event     : Bool := false
  eventEn   : Bool := false
  deriving DecidableEq, Repr

/-- An internal event that follows an op within the same command: the completion of an end object's round (R232),
the finalisation of a generation (R194), the passing of a release (R233), what follows a release, the contribution
of accord object `k` (R272 step 3), its local release (step 5), the poisoning of what an object-store word holds that cannot be
corrected as its row is copied (R323). -/
inductive Todo where
  | complete (o : EndObj)
  | finalise (i : Nat)
  | pass (h : Held) (lean : Bool)
  | next (a : After)
  | contribute (k : Nat)
  | accRelease (k : Nat) (lean : Bool) (choice : Nat) (words : List Nat)
  | strike (bank word : Nat)
  deriving DecidableEq, Repr

/-- A fault raised in the present command, for R336 and R318: sub-block, source, class raised, and whether it was
captured. -/
structure RaisedNow where
  sub : Sub
  src : Nat
  cls : Nat
  captured : Bool
  deriving DecidableEq, Repr

/-- A physical error that stands in an array word until a read meets it: sub-block, array, bank, word, and whether it is
uncorrectable (the model's own). -/
structure Upset where
  sub   : Sub
  array : Nat
  bank  : Nat
  word  : Nat
  ue    : Bool
  deriving DecidableEq, Repr

/-- One channel. `upsets` are the errors that stand in its arrays. `todo`, `out`, `raised`, `haltReq` and `errPulse` (the
model's own) carry what one command leaves to do, to send and to report; they are empty between commands. -/
structure Ch where
  ctl      : ChCtl := {}
  clk      : Clk := {}
  rq       : Rq := {}
  os       : Os := {}
  hw       : Hw := {}
  bw       : Bw := {}
  lt       : Lt := {}
  ru       : Ru := {}
  cu       : Cu := {}
  ps       : Ps := {}
  bg       : Bg := {}
  la       : La := {}
  lalog    : LaLog := {}
  db       : Db := {}
  flt      : FaultSets := {}
  img      : Img := {}
  upsets   : List Upset := []
  todo     : List Todo := []
  out      : List Output := []
  raised   : List RaisedNow := []
  haltReq  : Bool := false
  errPulse : Bool := false
  deriving DecidableEq, Repr

/-! ## Shared sub-blocks -/

/-- CL phases (CL_STATUS.PHASE). -/
inductive ClPhase where
  | reset | flashInit | reading | gateWait | done | halted | restart
  deriving DecidableEq, Repr

/-- A section of the image as CL records it (CL_SECT_n, R381). -/
structure Sect where
  crc    : Nat := 0
  error  : Nat := 0
  st     : Nat := 0
  offset : Nat := 0
  length : Nat := 0
  deriving DecidableEq, Repr

/-- A channel restart that CL is reading (R393): the bytes read so far, the bytes still to come, timeouts of the
present read. -/
structure Loading where
  bytes    : List Byte := []
  left     : Nat := 0
  timeouts : Nat := 0
  deriving DecidableEq, Repr

/-- CL (R397): registers, the loaded but not yet committed table and channel images, running restarts, the read of the power-on
load that has timed out once, the channels whose next restart begins with the steps of R379, and what the flash's tables gave for
later commands: the 8D read command, the change sequences, and the dummy cycles at 50 MHz (R376, R377). -/
structure Cl where
  phase     : ClPhase := .reset
  rate      : Nat := 3
  channel   : Nat := 0
  dummy     : Nat := 0
  density   : Nat := 0
  readCmd   : Nat := 0
  changes   : List (List Byte) := []
  dummy50   : Nat := 0
  imageLen  : Nat := 0
  bytes     : Nat := 0
  buildId   : Nat := 0
  sects     : SMap Sect := []
  digest    : List Byte := []
  stored    : List Byte := []
  prot      : SMap Nat := []
  shrd      : Nat := 0
  link      : List Nat := []
  linkDig   : Nat := 0
  imgs      : SMap Img := []
  loads     : SMap Loading := []
  timedOut  : Option Nat := none
  reinit    : List Nat := []
  loadDone  : Bool := false
  deriving DecidableEq, Repr

/-- Load-gate states (PT_LOAD_GATE.STATE). -/
inductive GateSt where
  | waiting | ready | opened | refused
  deriving DecidableEq, Repr

/-- Staging states of a table change (R294). -/
inductive PtSt where
  | idle | edit | staged | approved
  deriving DecidableEq, Repr

/-- PT (R303): the committed table, the staging buffer, the change in progress and the PT registers. `holdAt` is the CORE cycle in
which the ingress hold was placed. -/
structure Pt where
  table         : SMap Nat := []
  tableCrc      : Nat := 0
  stage         : SMap Nat := []
  stageCrc      : Nat := 0
  st            : PtSt := .idle
  ownerSteward  : Bool := false
  seq           : Nat := 0
  checking      : Bool := false
  submitAt      : Nat := 0
  windowStart   : Nat := 0
  holding       : Bool := false
  holdAt        : Nat := 0
  heldChans     : Nat := 0
  hostCheck     : Nat := 0
  hostCmd       : Nat := 0
  hostCode      : Nat := 0
  stewCheck     : Nat := 0
  stewCmd       : Nat := 0
  stewCode      : Nat := 0
  stageSel      : Nat := 0
  tableSel      : Nat := 0
  abSeq         : Nat := 0
  abCheck       : Nat := 0
  abReason      : Nat := 0
  commitTime    : Nat := 0
  commits       : Nat := 0
  aborts        : Nat := 0
  noChan        : Nat := 0
  resetIgnored  : Nat := 0
  commitCause   : Bool := false
  abortCause    : Bool := false
  gate          : GateSt := .waiting
  readyAt       : Nat := 0
  deriving DecidableEq, Repr

/-- A host access that waits in its queue (R293). -/
structure Access where
  who    : Requester
  offset : Nat
  write  : Bool
  value  : Nat
  deriving DecidableEq, Repr

/-- HP (R303, R330): denials, queues, the queue the arbiter visits and what waits at the host interface for a full queue, with
its width (R293), arbitration counts, and SCE_ERR_N with its KEEP synchronisers (R329). `ackAt` is when HP_ERR_ACK last crossed
into KEEP, `ackPend` whether a merged one waits for the end of its spacing interval (R364). -/
structure Hp where
  denied     : Nat := 0
  dCause     : Nat := 0
  dFunction  : Nat := 0
  dWrite     : Bool := false
  dAddr      : Nat := 0
  queues     : SMap (List Access) := []
  arb        : Nat := 0
  atPort     : List (Access × Nat) := []
  issued     : SMap Nat := []
  waits      : SMap Nat := []
  errShared  : Bool := false
  errChans   : Nat := 0
  errNew     : Bool := false
  err1       : Bool := false
  err2       : Bool := false
  errLow     : Bool := false
  errCount   : Nat := 0
  errDone    : Bool := false
  ackNew     : Bool := false
  ack1       : Bool := false
  ack2       : Bool := false
  acked      : Bool := false
  ackAt      : Option Nat := none
  ackPend    : Bool := false
  deriving DecidableEq, Repr

/-- PLL states (CK_CLOCK_STATE.PLL). -/
inductive PllSt where
  | off | locking | locked
  deriving DecidableEq, Repr

/-- A quarantined crossing (R368): since when, when both sides had left reset (R369), and the last good value of Scetor time
where the crossing carries it. -/
structure Quar where
  number : Nat
  since  : Nat
  left   : Nat
  value  : Nat
  raised : Bool
  deriving DecidableEq, Repr

/-- CK and TM: PLLs, fabric mode, shared crossing and shadow registers, timebase alarm with the keep tick at which it was
written (R371, R428). -/
structure Ck where
  pll          : PllSt := .off
  fabricMode   : Nat := 0
  overrun      : Nat := 0
  xQuarantine  : Nat := 0
  xFallback    : Nat := 0
  lateAgree    : Nat := 0
  resetOverrun : Nat := 0
  quar         : List Quar := []
  shadows      : List Shadow := []
  shadowCount  : Nat := 0
  shadowTime   : Nat := 0
  shadowRow    : Nat := 0
  shadowSrc    : Nat := 0
  shadowSub    : Nat := 0
  tmAlarm      : Nat := 0
  tmAlarmAt    : Nat := 0
  tmArmed      : Bool := false
  tmEvent      : Bool := false
  tmEventEn    : Bool := false
  deriving DecidableEq, Repr

/-- One bay telemetry feed (R32). -/
structure Bay where
  cls   : Nat := 0
  power : Nat := 0
  stale : Bool := true
  at_   : Nat := 0
  deriving DecidableEq, Repr

/-- Pair states (CH_PAIR_STATUS.PSTATE). -/
inductive PairSt where
  | single | paired | unpaired | halted
  deriving DecidableEq, Repr

/-- The record of one pair and its compare unit (R334 to R346): for each stream the outputs that only the first
or only the second side has built, each with the CORE cycle in which it was built; none for one behind 64 others, whose stage
stalls (R335). -/
structure Pair where
  st       : PairSt := .single
  survivor : Nat := 0
  cause    : Nat := 0
  source   : Nat := 0
  time     : Nat := 0
  divMissing : Bool := false
  divHalf  : Nat := 0
  divStream : Nat := 0
  divEnd   : Nat := 0
  divFirst : Nat := 0
  divSecond : Nat := 0
  skew     : Nat := 0
  first    : SMap (List (Output × Option Nat)) := []
  second   : SMap (List (Output × Option Nat)) := []
  deriving DecidableEq, Repr

/-- The four fault sets of the shared sub-blocks, and the physical errors that stand in their arrays: sub-block, array,
bank, word, and whether it is uncorrectable (the model's own). -/
structure SharedFaults where
  cl : FaultSet := {}
  hp : FaultSet := {}
  pt : FaultSet := {}
  ck : FaultSet := {}
  upsets : List (SharedSub × Nat × Nat × Nat × Bool) := []
  deriving DecidableEq, Repr

/-- The whole block. `time` is Scetor time at the latest keep tick and `coreK` the CORE cycles since (R358);
`free` counts the free values taken (the model's own); `por` is SCE_POR_N held low; `emitted` is what left the
block in the last command; `resp` holds the responses that wait at the nodes (R37); `outstanding` counts each
endpoint's requests (R36); `nodeWait` holds packets the nodes have not taken, `bayQ` requests they have taken that wait for
a hub credit (R38); `busyAt` is the CORE cycle in which each channel or pair was last busy (R350); `tripPin` is the level of
SCE_TRIP_N (true for asserted), `trip1` and `trip2` its KEEP flops, `tripTaken` what is taken and `trip` what is in effect (R28);
the `xspi` fields are the pins of the configuration port, with DQ none while it is high impedance (R26, R372); `links` are the
links that are up, by port; `resetTakes` are endpoint-reset events taken, with the keep edges left until the acknowledgement (R31);
`laneWakes` are the cores whose wake output a lane release holds high (R145); `irq1`, `irq2` and `irq`, and
`flt1`, `flt2` and `flt`, are the KEEP stages of the interrupt lines (R34) and of SCE_FLT_x (R328), as bit masks. -/
structure State where
  chA         : Ch := {}
  chB         : Ch := {}
  chC         : Ch := {}
  chD         : Ch := {}
  cl          : Cl := {}
  pt          : Pt := {}
  hp          : Hp := {}
  ck          : Ck := {}
  sflt        : SharedFaults := {}
  pairAB      : Pair := {}
  pairCD      : Pair := {}
  bays        : SMap Bay := []
  tripPin     : Bool := false
  trip1       : Bool := false
  trip2       : Bool := false
  tripTaken   : Bool := false
  trip        : Bool := false
  por         : Bool := true
  xspiResetN  : Bool := false
  xspiCsN     : Bool := true
  xspiSck     : Bool := false
  xspiDq      : Option Byte := none
  xspiDqs     : Bool := false
  links       : Nat := 0
  blockHalted : Bool := false
  time        : Nat := 0
  coreK       : Nat := 0
  free        : Nat := 0
  busyAt      : SMap Nat := []
  resp        : List Response := []
  outstanding : SMap Nat := []
  nodeWait    : List Packet := []
  bayQ        : List Packet := []
  resetWait   : List Nat := []
  resetTakes  : List (Nat × Nat) := []
  laneWakes   : List Nat := []
  emitted     : List Output := []
  irq1        : Nat := 0
  irq2        : Nat := 0
  irq         : Nat := 0
  flt1        : Nat := 0
  flt2        : Nat := 0
  flt         : Nat := 0
  pending     : List Instr := []
  deriving DecidableEq, Repr

/-- The machine while SCE_POR_N is held low, before its first release: every field at its reset value. -/
def State.reset : State := {}

end Sys2Proof.Machine
end

