-- ==== Sys2Proof/Machine/Bits.lean ====
section
/-! DEFINITION. Helpers of the whole model: sparse stores, bit fields of a register word, saturating counters. -/

namespace Sys2Proof.Machine

/-! ## Sparse stores -/

/-- What key `k` reads as: its listed value, or the default `d`. -/
def SMap.get {α : Type} (d : α) : SMap α → Nat → α
  | [], _ => d
  | (j, v) :: m, k => if j = k then v else SMap.get d m k

/-- Removes key `k`. -/
def SMap.drop {α : Type} : SMap α → Nat → SMap α
  | [], _ => []
  | (j, v) :: m, k => if j = k then m else (j, v) :: SMap.drop m k

/-- Lists `v` at key `k`, keeping the keys rising. -/
def SMap.insert {α : Type} : SMap α → Nat → α → SMap α
  | [], k, v => [(k, v)]
  | (j, w) :: m, k, v =>
    if k < j then (k, v) :: (j, w) :: m
    else if k = j then (k, v) :: m
    else (j, w) :: SMap.insert m k v

/-- Writes `v` at key `k`; writing the default `d` removes the entry. -/
def SMap.put {α : Type} [DecidableEq α] (d : α) (m : SMap α) (k : Nat) (v : α) : SMap α :=
  if v = d then m.drop k else m.insert k v

/-- Every listed key is at least `n`, keys rise strictly, and no entry equals the default `d`. -/
def SMap.wfFrom {α : Type} [DecidableEq α] (d : α) : Nat → SMap α → Bool
  | _, [] => true
  | n, (j, v) :: m => decide (n ≤ j) && !decide (v = d) && SMap.wfFrom d (j + 1) m

/-- The canonical form of a store with default `d`. -/
def SMap.wf {α : Type} [DecidableEq α] (d : α) (m : SMap α) : Bool := SMap.wfFrom d 0 m

/-! ## Bit fields -/

/-- Bits [hi:lo] of `v`. -/
def fld (v hi lo : Nat) : Nat := v / 2 ^ lo % 2 ^ (hi + 1 - lo)

/-- Bit `b` of `v`. -/
def bit (v b : Nat) : Bool := v.testBit b

/-- A bit as a number. -/
def b01 (b : Bool) : Nat := if b then 1 else 0

/-- `v` placed in bits [hi:lo]; what exceeds the field is dropped. -/
def at_ (hi lo v : Nat) : Nat := v % 2 ^ (hi + 1 - lo) * 2 ^ lo

/-- `v` with bits [hi:lo] replaced by `x`. -/
def setFld (v hi lo x : Nat) : Nat :=
  v % 2 ^ lo + at_ hi lo x + v / 2 ^ (hi + 1) * 2 ^ (hi + 1)

/-- `v` with bit `b` set. -/
def setBit (v b : Nat) : Nat := v ||| 2 ^ b

/-- `v` with bit `b` cleared. -/
def clrBit (v b : Nat) : Nat := if v.testBit b then v - 2 ^ b else v

/-- `a` without the bits of `m`. -/
def andNot (a m : Nat) : Nat := a ^^^ (a &&& m)

/-- The number of one bits among the low `n` bits. -/
def popCount : Nat → Nat → Nat
  | 0, _ => 0
  | n + 1, v => b01 (v.testBit n) + popCount n v

/-- The lowest set bit below `n`, if any. -/
def lowBit (n v : Nat) : Option Nat := (List.range n).find? (fun i => v.testBit i)

/-- The mask of a list of bit numbers. -/
def maskOf (l : List Nat) : Nat := l.foldl setBit 0

/-- A counter that saturates at 0xFFFF_FFFF_FFFF_FFFF. -/
def sat64 (n : Nat) : Nat := min n (2 ^ 64 - 1)

/-- One more on a saturating 64-bit counter. -/
def inc (n : Nat) : Nat := sat64 (n + 1)

/-- A signed value as the 64 bits of its two's complement. -/
def word64 (i : Int) : Nat := (i % (2 ^ 64 : Int)).toNat

/-- A signed value as the 32 bits of its two's complement. -/
def word32 (i : Int) : Nat := (i % (2 ^ 32 : Int)).toNat

/-- The two's complement 64-bit word `n` as a signed value. -/
def signed64 (n : Nat) : Int := if n % 2 ^ 64 < 2 ^ 63 then (n % 2 ^ 64 : Int) else (n % 2 ^ 64 : Int) - 2 ^ 64

/-- Inserts into a sorted list without repeats. -/
def insertId (a : Nat) : List Nat → List Nat
  | [] => [a]
  | b :: l => if a < b then a :: b :: l else if a = b then b :: l else b :: insertId a l

/-- `n` rounded up to a multiple of `d`, divided by `d`. -/
def ceilDiv (n d : Nat) : Nat := (n + d - 1) / d

/-- The numbers below `n` whose bit is set in `v`. -/
def bitsBelow (n v : Nat) : List Nat := (List.range n).filter (fun i => v.testBit i)

/-- 64-bit word `w` of a set of bit numbers: bit `k` stands for number 64 × w + k. -/
def wordOf (ids : List Nat) (w : Nat) : Nat :=
  maskOf ((ids.filter (fun i => i / 64 = w)).map (fun i => i % 64))

end Sys2Proof.Machine
end

