-- ==== Sys2Proof/Machine/Checksums.lean ====
section
/-! DEFINITION. Byte order (R6), CRC-32C (R383) and SHA-256 (R384, FIPS 180-4). -/

namespace Sys2Proof.Machine

/-! ## Bytes, little-endian (R6) -/

/-- The number that bytes spell, least significant first. -/
def leNat : List Byte → Nat
  | [] => 0
  | b :: bs => b.toNat + 256 * leNat bs

/-- The `n` bytes of a number, least significant first. -/
def leBytes : Nat → Nat → List Byte
  | 0, _ => []
  | n + 1, v => BitVec.ofNat 8 v :: leBytes n (v / 256)

/-- `n` bytes from offset `o`; bytes past the end are missing. -/
def slice (o n : Nat) (bs : List Byte) : List Byte := (bs.drop o).take n

/-- The 64-bit words that bytes spell; a last incomplete word is dropped. -/
def leWords : Nat → List Byte → List Nat
  | 0, _ => []
  | n + 1, bs => leNat (bs.take 8) :: leWords n (bs.drop 8)

/-! ## CRC-32C -/

/-- One bit step of the reflected polynomial 0x1EDC_6F41. -/
def crcBit (c : BitVec 32) : BitVec 32 := if c.getLsbD 0 then (c >>> 1) ^^^ 0x82F63B78#32 else c >>> 1

/-- One byte step. -/
def crcByte (c : BitVec 32) (b : Byte) : BitVec 32 :=
  crcBit (crcBit (crcBit (crcBit (crcBit (crcBit (crcBit (crcBit (c ^^^ b.setWidth 32))))))))

/-- CRC-32C of a byte string (R383). -/
def crc32c (bs : List Byte) : Nat := ((bs.foldl crcByte 0xFFFFFFFF#32) ^^^ 0xFFFFFFFF#32).toNat

/-- CRC-32C of 64-bit words laid out little-endian. -/
def crcWords (ws : List Nat) : Nat := crc32c (ws.flatMap (leBytes 8))

/-! ## SHA-256 (R384): the constants come from the square and cube roots of the first primes, as FIPS 180-4 defines them -/

/-- The prime numbers below `n`. -/
def primesBelow (n : Nat) : List Nat :=
  (List.range n).filter (fun p => decide (2 ≤ p) && (List.range p).all (fun d => decide (d < 2) || decide (p % d ≠ 0)))

/-- The largest number below 2 ^ `bits` above `low` whose power `deg` does not pass `n`, found from the top bit down. -/
def rootFrom (deg n : Nat) : Nat → Nat → Nat
  | 0, low => low
  | bits + 1, low => rootFrom deg n bits (if (low + 2 ^ bits) ^ deg ≤ n then low + 2 ^ bits else low)

/-- The first 32 bits of the fraction of the root of degree `deg` of `p`. -/
def rootBits (deg p : Nat) : BitVec 32 := BitVec.ofNat 32 (rootFrom deg (p * 2 ^ (32 * deg)) 40 0)

/-- The two halves of a digest in progress: the last four values of each of the two words that a round makes, newest first. -/
abbrev ShaHalves := List (BitVec 32) × List (BitVec 32)

/-- The start of every digest. -/
def shaStart : ShaHalves := (((primesBelow 8).map (rootBits 2)), ((primesBelow 20).drop 4).map (rootBits 2))

/-- A word against two rotations of itself and a third word. -/
def stir (x : BitVec 32) (i j : Nat) (third : BitVec 32) : BitVec 32 := x.rotateRight i ^^^ x.rotateRight j ^^^ third

/-- The message words of a block, newest first, grown by `n`. -/
def shaGrow : Nat → List (BitVec 32) → List (BitVec 32)
  | 0, w => w
  | n + 1, w =>
    let old := w.getD 14 0
    let young := w.getD 1 0
    shaGrow n ((w.getD 15 0 + w.getD 6 0 + stir old 7 18 (old >>> 3) + stir young 17 19 (young >>> 10)) :: w)

/-- One round, with the sum of its constant and its message word. -/
def shaTurn (s : ShaHalves) (kw : BitVec 32) : ShaHalves :=
  match s with
  | ([p, q, r, out], [x, y, z, last]) =>
    let picked := z ^^^ (x &&& (y ^^^ z))
    let most := (p &&& q) ||| (r &&& (p ^^^ q))
    let mix := kw + last + picked + stir x 6 11 (x.rotateRight 25)
    ([mix + most + stir p 2 13 (p.rotateRight 22), p, q, r], [out + mix, x, y, z])
  | other => other

/-- One 64-byte block, as big-endian words. -/
def shaBlock (s : ShaHalves) (block : List Byte) : ShaHalves :=
  let first := (List.range 16).map (fun i => BitVec.ofNat 32 (leNat (slice (60 - 4 * i) 4 block).reverse))
  let sums := List.zipWith (fun p w => rootBits 3 p + w) (primesBelow 312) (shaGrow 48 first).reverse
  let r := sums.foldl shaTurn s
  (List.zipWith (fun u v => u + v) s.1 r.1, List.zipWith (fun u v => u + v) s.2 r.2)

/-- The first `n` blocks of a padded message. -/
def shaBlocks : Nat → List Byte → ShaHalves → ShaHalves
  | 0, _, s => s
  | n + 1, bs, s => shaBlocks n (bs.drop 64) (shaBlock s (bs.take 64))

/-- SHA-256 of a byte string, as its 32 digest bytes: the message ends in a one bit, zeros, and its length in bits. -/
def sha256 (bs : List Byte) : List Byte :=
  let zeros := (119 - bs.length % 64) % 64
  let whole := bs ++ 0x80#8 :: List.replicate zeros 0x00#8 ++ (leBytes 8 (8 * bs.length)).reverse
  let d := shaBlocks (whole.length / 64) whole shaStart
  (d.1 ++ d.2).flatMap (fun x => (leBytes 4 x.toNat).reverse)

end Sys2Proof.Machine
end

