-- ==== Sys2Proof/Machine/Operands.lean ====
section
/-! DEFINITION. The operand forms and encodings of requests: status codes (R54), opcodes and classes (R44, R45),
index ranges (R25, R43), bank selection, ingress numbers (R58) and endpoint positions (R14). -/

namespace Sys2Proof.Machine

/-! ## Status codes (R54) -/

abbrev stOk : Nat := 0x00
abbrev stPending : Nat := 0x01
abbrev stFalse : Nat := 0x02
abbrev stUnderflow : Nat := 0x03
abbrev stOverflow : Nat := 0x04
abbrev stNoReader : Nat := 0x05
abbrev stBroken : Nat := 0x06
abbrev stNotOwner : Nat := 0x07
abbrev stAbandoned : Nat := 0x08
abbrev stHeld : Nat := 0x09
abbrev stTableFull : Nat := 0x0A
abbrev stSlotsFull : Nat := 0x0B
abbrev stDenied : Nat := 0x0C
abbrev stBadIndex : Nat := 0x0D
abbrev stBadOp : Nat := 0x0E
abbrev stReArrival : Nat := 0x0F
abbrev stNonfinite : Nat := 0x10
abbrev stFenced : Nat := 0x11
abbrev stChannelDown : Nat := 0x12
abbrev stRingFull : Nat := 0x13
abbrev stTimeout : Nat := 0x14
abbrev stPoisoned : Nat := 0x15
abbrev stCancelled : Nat := 0x16
abbrev stPacketError : Nat := 0x17
abbrev stNotMember : Nat := 0x18
abbrev stMisaligned : Nat := 0x19
abbrev stNotBound : Nat := 0x1A

/-! ## Classes (R44) and opcodes (R45) -/

abbrev clFlag : Nat := 0
abbrev clSem : Nat := 1
abbrev clStr : Nat := 2
abbrev clBar : Nat := 3
abbrev clLock : Nat := 4
abbrev clConn : Nat := 5
abbrev clSlot : Nat := 6
abbrev clSeq : Nat := 7

abbrev opFlagSet : Nat := 0x01
abbrev opFlagClear : Nat := 0x02
abbrev opFlagTest : Nat := 0x03
abbrev opFlagWaitSet : Nat := 0x04
abbrev opFlagWaitClear : Nat := 0x05
abbrev opFlagTestClear : Nat := 0x06
abbrev opSemAdd : Nat := 0x08
abbrev opSemSub : Nat := 0x09
abbrev opSemTrysub : Nat := 0x0A
abbrev opSemWaitsub : Nat := 0x0B
abbrev opSemRead : Nat := 0x0C
abbrev opStrProduce : Nat := 0x10
abbrev opStrConsume : Nat := 0x11
abbrev opStrWaitSpace : Nat := 0x12
abbrev opStrWaitData : Nat := 0x13
abbrev opStrRead : Nat := 0x14
abbrev opBarArrive : Nat := 0x18
abbrev opBarArriveWait : Nat := 0x19
abbrev opBarReduceArrive : Nat := 0x1A
abbrev opBarReadResult : Nat := 0x1B
abbrev opLockClaim : Nat := 0x20
abbrev opLockQuery : Nat := 0x21
abbrev opLockRelease : Nat := 0x22
abbrev opLockWait : Nat := 0x23
abbrev opConnOpen : Nat := 0x28
abbrev opConnAccept : Nat := 0x29
abbrev opConnReserve : Nat := 0x2A
abbrev opConnCommit : Nat := 0x2B
abbrev opConnConsume : Nat := 0x2C
abbrev opConnClose : Nat := 0x2D
abbrev opWaitAny : Nat := 0x30
abbrev opSlotCancel : Nat := 0x31
abbrev opSeqSelect : Nat := 0x38

/-- The class of a listed opcode (R45); WAIT_ANY takes five classes and is decided by `waitAnyOk`. -/
def opClass (op : Nat) : Option Nat :=
  if 0x01 ≤ op ∧ op ≤ 0x06 then some clFlag
  else if 0x08 ≤ op ∧ op ≤ 0x0C then some clSem
  else if 0x10 ≤ op ∧ op ≤ 0x14 then some clStr
  else if 0x18 ≤ op ∧ op ≤ 0x1B then some clBar
  else if 0x20 ≤ op ∧ op ≤ 0x23 then some clLock
  else if 0x28 ≤ op ∧ op ≤ 0x2D then some clConn
  else if op = opSlotCancel then some clSlot
  else if op = opSeqSelect then some clSeq
  else none

/-- The ops a trailer may carry (R45, R60). -/
def trailerOp (op : Nat) : Bool :=
  [opFlagSet, opFlagClear, opSemAdd, opStrProduce, opStrConsume, opBarArrive, opLockRelease, opConnCommit].contains op

/-- The ops a remote trailer may carry (R261). -/
def remoteTrailerOp (op : Nat) : Bool :=
  [opFlagSet, opFlagClear, opSemAdd, opStrProduce, opStrConsume].contains op

/-- The ops a host operation may perform (R103). -/
def hostOp (op : Nat) : Bool :=
  [opFlagSet, opFlagClear, opFlagTest, opFlagTestClear, opSemAdd, opSemSub, opSemTrysub, opSemRead].contains op

/-- The wait op a WAIT_ANY packet arms: OPERAND[5:0] (R48). -/
def armedOp (operand : Nat) : Nat := fld operand 5 0

/-- Whether the armed op belongs to the packet's CLASS (R48). -/
def waitAnyOk (operand cls : Nat) : Bool :=
  let a := armedOp operand
  (cls = clFlag && (a = opFlagWaitSet || a = opFlagWaitClear)) || (cls = clSem && a = opSemWaitsub)
    || (cls = clStr && (a = opStrWaitSpace || a = opStrWaitData)) || (cls = clBar && a = opBarArriveWait)
    || (cls = clLock && a = opLockWait)

/-- The width of a class's index (R44); a BAR index counts its barrier bits alone. -/
def indexWidth (cls : Nat) : Nat :=
  if cls = clFlag then 20 else if cls = clSem then 18 else if cls = clStr then 16 else if cls = clBar then 15
  else if cls = clLock then 0 else if cls = clConn then 14 else if cls = clSlot then 2 else 4

/-- The barrier index of a BAR request: the reduction ops keep other fields above it (R47, R176, R198). -/
def barIndex (index : Nat) : Nat := fld index 14 0

/-- PAIR of a reduction op (R47, R198). -/
def pairField (index : Nat) : Nat := fld index 16 15

/-- LAST of BAR_REDUCE_ARRIVE, AUX of BAR_READ_RESULT (R47, R198). -/
def lastField (index : Nat) : Bool := bit index 17

/-- G5 of BAR_REDUCE_ARRIVE (R176). -/
def g5Field (index : Nat) : Nat := fld index 22 18

/-- Whether INDEX is within its class's range (R43, check 8 of R53). -/
def indexOk (op cls index : Nat) : Bool :=
  if op = opBarReduceArrive then true
  else if op = opBarReadResult then decide (g5Field index = 0)
  else decide (index < 2 ^ indexWidth cls)

/-- Whether the owning chapter allows the op on the kind of object INDEX names (check 7 of R53): a reduction op
needs a reduction-capable barrier (R156). -/
def kindOk (op index : Nat) : Bool :=
  if op = opBarReduceArrive ∨ op = opBarReadResult then decide (barIndex index < 0x2000) else true

/-- The word address of a lock op (R46). -/
def lockAddr (operand : Nat) : Nat := fld operand 47 0

/-- The claimant's context (R46). -/
def lockContext (operand : Nat) : Nat := fld operand 51 48

/-- FORCE of LOCK_RELEASE (R206). -/
def lockForce (operand : Nat) : Bool := bit operand 52

/-- The bank of a lock address (R44). -/
def lockBank (addr : Nat) : Nat := fld addr 5 3 ^^^ fld addr 8 6

/-- The bank a request is performed in (R44, R214). -/
def bankOf (op cls index operand : Nat) : Nat :=
  if cls = clLock then
    if op = opWaitAny then fld operand 34 32 else lockBank (lockAddr operand)
  else index % 8

/-! ## Endpoints -/

/-- A tensor core (R14). -/
def isCore (phys : Nat) : Bool := decide (phys < 0x400)

/-- The bay of an endpoint, by its position encoding (R14). -/
def bayOf (phys : Nat) : Nat :=
  if phys < 0x400 then fld phys 9 7
  else if phys < 0x600 then fld (phys - 0x400) 8 6
  else if phys < 0x700 then fld (phys - 0x600) 7 5
  else if phys < 0x708 then phys - 0x700
  else fld (phys - 0x708) 4 2

/-- The ingress an endpoint's packets enter by (R58). -/
def ingressOf (phys : Nat) : Nat :=
  if isCore phys then 8 * fld phys 9 7 + fld phys 6 4 else 64 + bayOf phys

/-- The ingress of host accesses (R58). -/
abbrev hostIngress : Nat := 72

/-! ## Records as words (R73, R80, R109, R117, R157, R209, R88) -/

/-- The 16-bit flag record (R73). -/
def Flag.record (f : Flag) : Nat :=
  at_ 14 14 (b01 f.poisoned) + at_ 13 13 (b01 f.strict) + at_ 12 12 (b01 f.value) + at_ 11 0 f.last

/-- The semaphore word (R80) with `waiters` slots parked. -/
def Sem.word (s : Sem) (waiters : Nat) : Nat :=
  at_ 62 48 waiters + at_ 45 45 (b01 s.firstFit) + at_ 44 44 (b01 s.poisoned) + at_ 43 32 s.last + at_ 31 0 s.value

/-- The fill of a ring (R109). -/
def Stream.fill (s : Stream) : Nat := s.p - s.c

/-- The space of a ring (R109). -/
def Stream.space (s : Stream) : Nat := s.k - (s.p - s.c)

/-- Word 2 of stream pair `i` (R109). -/
def Stream.word2 (s : Stream) (i : Nat) : Nat :=
  at_ 55 44 s.lastCons + at_ 43 32 s.lastProd + at_ 26 26 (b01 (decide (0xC000 ≤ i))) + at_ 25 25 (b01 s.poisoned)
    + at_ 24 0 s.k

/-- The encoding of a connection state (R116). -/
def ConnSt.code : ConnSt → Nat
  | .free => 0 | .listening => 1 | .opened => 2 | .senderClosed => 3 | .readerClosed => 4 | .broken => 5

/-- Word 0 of a connection record (R117), with a reservation `parked` or not. -/
def Conn.word0 (c : Conn) (parked : Bool) : Nat :=
  at_ 58 58 (b01 parked) + at_ 57 57 (b01 c.resValid) + at_ 55 53 c.st.code + at_ 52 48 c.log2 + at_ 47 0 c.base

/-- Word 1 of a connection record (R117). -/
def Conn.word1 (c : Conn) : Nat :=
  at_ 51 48 c.resPad + at_ 42 38 c.resLen + at_ 37 24 c.port + at_ 23 12 c.receiver + at_ 11 0 c.sender

/-- Word 0 of a barrier record (R157). A generation pending in the RU has not reached the gate, so GATED shows
the gate alone. -/
def Bar.word0 (b : Bar) : Nat :=
  at_ 63 32 b.gen.toNat + at_ 31 31 (b01 b.poisoned) + at_ 30 30 (b01 b.holding) + at_ 29 29 (b01 b.gated)
    + at_ 28 28 (b01 b.prevTmo) + at_ 25 13 b.early + at_ 12 0 b.count

/-- Word 1 of barrier `i` (R157). -/
def Bar.word1 (b : Bar) (i : Nat) : Nat :=
  at_ 63 32 b.start + at_ 31 20 b.last + at_ 19 8 b.mask + at_ 7 7 (b01 (decide (i < 0x400)))
    + at_ 6 6 (b01 (decide (i < 0x2000)))

/-- Word 2 of a barrier record (R157). -/
def Bar.word2 (b : Bar) : Nat := at_ 44 32 b.target + at_ 20 20 (b01 b.action) + at_ 19 0 b.timeoutUs

/-- A strict barrier (R156). -/
def barStrict (i : Nat) : Bool := decide (i < 0x400)

/-- A reduction-capable barrier (R156). -/
def barReduce (i : Nat) : Bool := decide (i < 0x2000)

/-- Word 0 of a lock entry (R209). -/
def LockEntry.word0 (e : LockEntry) : Nat :=
  at_ 63 63 (b01 e.valid) + at_ 62 62 (b01 e.held) + at_ 61 61 (b01 e.abandoned) + at_ 60 60 (b01 e.poisoned)
    + at_ 59 48 e.seq.toNat + e.addr / 8 * 8 % 2 ^ 48

/-- Word 1 of a lock entry (R209) with `waiters` slots parked. -/
def LockEntry.word1 (e : LockEntry) (waiters : Nat) : Nat :=
  at_ 62 48 waiters + at_ 47 16 e.time + at_ 15 4 e.owner + at_ 3 0 e.context

/-- RESULT of a lock op on entry number `e` (R210). -/
def LockEntry.result (le : LockEntry) (e waiters : Nat) : Nat :=
  at_ 61 61 (b01 le.valid) + at_ 60 60 (b01 le.abandoned) + at_ 59 59 (b01 le.held) + at_ 58 44 waiters
    + at_ 43 32 le.seq.toNat + at_ 31 16 e + at_ 15 4 le.owner + at_ 3 0 le.context

/-- Bits [63:0] of a slot record (R88). -/
def Parked.low (w : Parked) : Nat :=
  at_ 53 38 w.tag + at_ 37 15 w.index + at_ 14 12 w.cls + at_ 11 6 w.opcode + at_ 5 2 w.train
    + at_ 1 1 (b01 w.lastSeen) + 1

/-- Bits [127:64] of a slot record (R88). -/
def Parked.high (w : Parked) : Nat := at_ 63 32 w.armTime + at_ 31 0 w.operand

/-- RESULT of a barrier arrival (R164): the record after the op, and how the arrival counted. -/
def Bar.result (b : Bar) (earlyTaken released : Bool) : Nat :=
  at_ 31 0 b.gen.toNat + at_ 44 32 b.count + at_ 57 45 b.early + at_ 58 58 (b01 earlyTaken) + at_ 59 59 (b01 released)

end Sys2Proof.Machine
end

