-- ==== Sys2Proof/Machine/Faults.lean ====
section
/-! DEFINITION. Fault sets: the source tables (R309 to R314), capture, precedence and escalation (R317 to R320),
states and drydown (R321), counting in a window (R322 to R324), the reaction shadow (R325). The functions here act
on one fault set or one channel; `Env` is what a channel sees of the rest of the block. -/

namespace Sys2Proof.Machine

/-- What one side of a channel sees of the block during a command: the channel number its packets carry (for a
pair, that of its first side), whether it is the second side, whether it runs in an active pair, the CORE stamp and
the keep time (R358), SCE_TRIP_N as taken, the thermal class of each bay (R32), the bays whose feed is stale, the
shared sub-blocks it may read (PT, CL and their fault sets), its CH_PAIR_STATUS word, the array error its read
meets (0 none, 1 corrected, 2 uncorrectable), the last good Scetor time of each LINK domain whose crossing is quarantined (R368),
and the number of this command's free values. -/
structure Env where
  chan     : Nat
  second   : Bool
  paired   : Bool
  stamp    : Nat
  time     : Nat
  trip     : Bool
  classes  : SMap Nat
  stale    : List Nat
  pt       : Pt
  cl       : Cl
  sflt     : SharedFaults
  pairWord : Nat
  inject   : Nat
  linkTimes : SMap Nat
  fv       : Nat

/-- What a fault carries into the capture (R308, R315) and into the shadow test (R325): its _FE_ADDR, the
endpoint that caused it, the op, the kind of access, whether it was forced, and the lane, link port, bay or SRN port. -/
structure Cause where
  addr   : Nat := 0
  master : Option (Nat × Nat) := none
  cls    : Nat := 0
  opcode : Nat := 0
  access : Nat := 0
  forced : Bool := false
  key    : Nat := 0

/-! ## Source tables -/

/-- The coding of a channel sub-block in CH_SHADOW_SUB. -/
def subCode : Sub → Nat
  | .os => 0 | .rq => 1 | .bw => 2 | .lt => 3 | .ru => 4 | .cu => 5 | .ps => 6 | .bg => 7 | .la => 8

/-- The coding of a shared sub-block in CK_SHADOW_SUB. -/
def sharedSubCode : SharedSub → Nat
  | .cl => 0 | .hp => 1 | .pt => 2 | .ck => 3

/-- The classes of a channel sub-block's sources in order, 1 C, 2 U, 3 F (R309 to R313). -/
def srcClasses : Sub → List Nat
  | .os => [1, 2, 1, 2, 1, 2, 2, 2, 2, 2, 2, 2, 2]
  | .rq => [1, 2, 2, 2, 2, 1, 3, 2, 1, 3, 2]
  | .bw => [2, 2, 3]
  | .lt => [1, 2, 2, 1, 2]
  | .ru => [1, 2, 2, 1, 3, 2]
  | .cu => [1, 3, 2, 1, 2]
  | .ps => [1, 2, 2, 1, 2, 2, 2]
  | .bg => [1, 3]
  | .la => [1, 1, 2, 2, 2, 2]

/-- The classes of a shared sub-block's sources in order (R314). -/
def sharedSrcClasses : SharedSub → List Nat
  | .cl => [3, 3, 3, 3, 2, 2]
  | .hp => [1, 2, 2, 1]
  | .pt => [1, 3, 2, 2, 1]
  | .ck => [3, 3, 2, 1]

/-- The class of source `src`; 0 where the sub-block defines none. -/
def srcClass (u : Sub) (src : Nat) : Nat := (srcClasses u).getD src 0

/-- The class of a shared source; 0 where none is defined. -/
def sharedSrcClass (u : SharedSub) (src : Nat) : Nat := (sharedSrcClasses u).getD src 0

/-- The array ECC sources, which are never shadowed (R325). -/
def arraySrc : Sub → Nat → Bool
  | .os, s => decide (s ≤ 4)
  | .rq, s => decide (5 ≤ s ∧ s ≤ 8)
  | .lt, s => decide (s ≤ 3)
  | .ru, s => decide (s ≤ 4)
  | .cu, s => decide (s ≤ 3)
  | .ps, s => decide (s ≤ 3)
  | .la, s => decide (s = 5)
  | _, _ => false

/-- The array CE source and the array UE source of a sub-block, and the WEAR and lasting sources (R322 to R326). -/
def ceSrc : Sub → Nat | .rq => 5 | _ => 0
def ueSrc : Sub → Nat | .rq => 6 | _ => 1
def wearSrc : Sub → Nat | .os => 4 | .rq => 8 | _ => 3
/-- Source `src` is the WEAR source of a sub-block that has one (R309, R310, R312, R313). -/
def isWear (u : Sub) (src : Nat) : Bool := decide (src = wearSrc u ∧ u ≠ .bw ∧ u ≠ .bg ∧ u ≠ .la)
def lastingSrc : Sub → Nat | .rq => 7 | _ => 2

/-- Whether a sub-block has arrays, and so CE and UE sources that a force arms (R326). -/
def hasArrays : Sub → Bool
  | .bw => false | .bg => false | .la => false | _ => true

/-! ## One fault set -/

/-- The EN field: 1 for every defined source that is not disabled (R315). -/
def enableMask (classes : List Nat) (fs : FaultSet) : Nat := andNot (2 ^ classes.length - 1) fs.disabled

/-- The class captured and not acknowledged: _FE_TYPE.CLASS, or 0 (R319). -/
def capturedClass (fs : FaultSet) : Nat := if fs.captured then fld fs.feType 9 8 else 0

/-- The class a source of class `cls` is raised at against capture class `cap` (R319). -/
def escalate (cap cls : Nat) : Nat :=
  if cap = 1 ∧ cls = 1 then 2 else if cap = 2 ∧ cls = 2 then 3 else cls

/-- _FE_TYPE of a fault (R315). -/
def feTypeOf (k : Cause) (cls src : Nat) : Nat :=
  at_ 26 24 k.cls + at_ 21 16 k.opcode + at_ 15 15 (b01 k.forced) + at_ 14 12 k.access + at_ 9 8 cls + at_ 4 0 src

/-- The capture registers taking a fault (R317). -/
def capture (stamp : Nat) (k : Cause) (cls src : Nat) (fs : FaultSet) : FaultSet :=
  { fs with captured := true, feAddr := k.addr, feMValid := k.master.isSome,
            feMLid := (k.master.getD (0, 0)).1, feMPhys := (k.master.getD (0, 0)).2,
            feType := feTypeOf k cls src, feTime := stamp }

/-- A fault recorded in _FE_ALSO (R317). -/
def recordAlso (cls src : Nat) (fs : FaultSet) : FaultSet :=
  { fs with alsoCount := min 255 (fs.alsoCount + 1), alsoMax := max fs.alsoMax cls, alsoSrc := setBit fs.alsoSrc src }

/-- The state change of a raised fault: FAULTED with the drydown timer loaded, or HALTED at F (R321). -/
def faultState (time cls : Nat) (fs : FaultSet) : FaultSet :=
  match fs.st with
  | .halted => fs
  | _ =>
    if cls = 3 then { fs with st := .halted, cls := max fs.cls cls }
    else { fs with st := .faulted, cls := max fs.cls cls, lastFault := time, loadedUs := fs.drydownUs }

/-- A fault raised on a fault set (R317 to R319). `fresh` tells that the present capture was made by this same
command: the new fault does not escalate against it, and takes its place if it comes first under R318.
Answers the set and the class the fault was raised at. -/
def raiseOn (time stamp : Nat) (fresh : Bool) (cls src : Nat) (k : Cause) (fs : FaultSet) : FaultSet × Nat :=
  let cap := if fresh then 0 else capturedClass fs
  let r := escalate cap cls
  let fs1 := { fs with src := setBit fs.src src, escalated := fs.escalated || decide (r ≠ cls) }
  let fs2 :=
    if !fs.captured then capture stamp k r src fs1
    else if fresh && (decide (fld fs.feType 9 8 < r) || (fld fs.feType 9 8 = r && decide (src < fld fs.feType 4 0))) then
      capture stamp k r src (recordAlso (fld fs.feType 9 8) (fld fs.feType 4 0) fs1)
    else recordAlso r src fs1
  (faultState time r fs2, r)

/-- Writing 1 to _FLT_ACK.ACK (R317). -/
def ackSet (fs : FaultSet) : FaultSet :=
  { fs with captured := false, escalated := false, wear := false, src := 0, alsoCount := 0, alsoMax := 0, alsoSrc := 0 }

/-- What a channel restart does to a fault set (R327, R326). -/
def restartSet (fs : FaultSet) : FaultSet :=
  { ackSet fs with st := .clear, cls := 0, pendForce := none }

/-- The wear window that holds `time`: WINDOW_CE is 0 in a new one (R324). -/
def rollWear (time : Nat) (fs : FaultSet) : FaultSet :=
  if fs.windowStart + 1000 * fs.windowUs ≤ time then
    { fs with windowCe := 0, wearRaised := false,
              windowStart := time - (time - fs.windowStart) % (1000 * fs.windowUs) }
  else fs

/-- Closes the trackers whose window has passed (R322). -/
def closeTrackers (time : Nat) (fs : FaultSet) : FaultSet :=
  { fs with trackers := fs.trackers.filter (fun t => decide (time < t.opened + 1000 * fs.windowUs)) }

/-- The tracker of an array word, if open. -/
def findTracker (array bank word : Nat) (l : List Tracker) : Option Tracker :=
  l.find? (fun t => t.array = array && t.bank = bank && t.word = word)

/-- A corrected error counted on its tracker (R322): the trackers are kept oldest first, a seventeenth replaces
the oldest, and the fourth error closes the tracker. Answers whether the word has become lasting. -/
def countTracker (time array bank word : Nat) (fs : FaultSet) : FaultSet × Bool :=
  let others := fs.trackers.filter (fun t => !(t.array = array && t.bank = bank && t.word = word))
  match findTracker array bank word fs.trackers with
  | some t =>
    if 3 ≤ t.count then ({ fs with trackers := others }, true)
    else ({ fs with trackers := fs.trackers.map (fun u =>
            if u.array = array && u.bank = bank && u.word = word then { u with count := u.count + 1 } else u) }, false)
  | none =>
    let kept := if 16 ≤ others.length then others.drop 1 else others
    ({ fs with trackers := kept ++ [⟨array, bank, word, time, 1⟩] }, false)

/-- A corrected error counted in _CE_COUNT and the wear window (R316, R324). Answers whether WEAR is due. -/
def countCe (time : Nat) (fs : FaultSet) : FaultSet × Bool :=
  let f := rollWear time fs
  let n := min 65535 (f.windowCe + 1)
  ({ f with ceCount := inc f.ceCount, windowCe := n, wearRaised := f.wearRaised || decide (64 ≤ n) },
   decide (64 ≤ n) && !f.wearRaised)

/-! ## The fault sets of a channel -/

/-- The fault set of a sub-block. -/
def Ch.fault (c : Ch) : Sub → FaultSet
  | .os => c.flt.os | .rq => c.flt.rq | .bw => c.flt.bw | .lt => c.flt.lt | .ru => c.flt.ru | .cu => c.flt.cu
  | .ps => c.flt.ps | .bg => c.flt.bg | .la => c.flt.la

/-- A channel with the fault set of one sub-block replaced. -/
def Ch.setFault (c : Ch) (u : Sub) (f : FaultSet) : Ch :=
  match u with
  | .os => { c with flt := { c.flt with os := f } }
  | .rq => { c with flt := { c.flt with rq := f } }
  | .bw => { c with flt := { c.flt with bw := f } }
  | .lt => { c with flt := { c.flt with lt := f } }
  | .ru => { c with flt := { c.flt with ru := f } }
  | .cu => { c with flt := { c.flt with cu := f } }
  | .ps => { c with flt := { c.flt with ps := f } }
  | .bg => { c with flt := { c.flt with bg := f } }
  | .la => { c with flt := { c.flt with la := f } }

/-- The nine sub-blocks. -/
def allSubs : List Sub := [.os, .rq, .bw, .lt, .ru, .cu, .ps, .bg, .la]

/-- A shadow still covers time `t` (R325). -/
def Shadow.running (t : Nat) (s : Shadow) : Bool :=
  match s.ends with
  | none => true
  | some e => decide (t < e)

/-- Whether a shadow names source `src` of sub-block `u` raised with cause `k` (the table of R325). -/
def Shadow.names (s : Shadow) (u : Sub) (src : Nat) (k : Cause) : Bool :=
  let phys := (k.master.getD (0, 0x1000)).2
  match s.row with
  | 0 => (u = .rq && decide (src ≤ 1) && phys = s.key) || (u = .bw && decide (src ≤ 1) && s.lanes.contains k.key)
          || (u = .os && src = 12)
  | 1 => (u = .bg && src = 0 && s.key = 0x4000 + k.key)
          || (u = .rq && decide (src ≤ 1) && (s.key = 0x1000 + k.key || s.key = 0x2000 + k.key))
  | 2 => true
  | _ => u = .la && decide (src ≤ 1) && k.key = s.key

/-- The row of the first running shadow that covers a source; none for the three kinds never shadowed (R325). -/
def Ch.shadowed (c : Ch) (time : Nat) (u : Sub) (src : Nat) (k : Cause) : Option Nat :=
  if k.forced || srcClass u src = 3 || arraySrc u src then none
  else (c.ctl.shadows.find? (fun s => s.running time && s.names u src k)).map (·.row)

/-- A detected source of a channel (R316, R317, R319, R321, R325): shadowed and counted, suppressed by EN, or
raised. A raised WEAR source sets the WEAR bit (R324). A fault raised at F asks for the halt of R305; a fault at U or F starts SCE_ERR_N (R329). -/
def Ch.raise (e : Env) (u : Sub) (src : Nat) (k : Cause) (c : Ch) : Ch :=
  match c.shadowed e.time u src k with
  | some row =>
    { c with ctl := { c.ctl with shadowCount := inc c.ctl.shadowCount, shadowTime := e.stamp % 2 ^ 48,
                                 shadowRow := row, shadowSrc := src, shadowSub := subCode u } }
  | none =>
    if srcClass u src = 0 ∨ bit (c.fault u).disabled src then c
    else
      let fresh := c.raised.any (fun r => r.sub = u && r.captured)
      let p := raiseOn e.time e.stamp fresh (srcClass u src) src k (c.fault u)
      let c1 := c.setFault u (if isWear u src then { p.1 with wear := true } else p.1)
      { c1 with raised := c1.raised ++ [⟨u, src, p.2, fresh || !(c.fault u).captured⟩],
                haltReq := c1.haltReq || p.2 = 3, errPulse := c1.errPulse || decide (2 ≤ p.2) }

/-- What a command does after this falls in a later CORE cycle: the faults raised so far stand captured (R318, R319). -/
def Ch.newCycle (c : Ch) : Ch := { c with raised := c.raised.map (fun r => { r with captured := false }) }

/-- A WEAR warning (R324). -/
def Ch.raiseWear (e : Env) (u : Sub) (c : Ch) : Ch := c.raise e u (wearSrc u) {}

/-- The rows of bank `bank` retired so far (R323). -/
def Ch.retiredIn (c : Ch) (bank : Nat) : Nat := (c.os.retired.filter (fun r => r.1 = bank)).length

/-- A corrected packet or message error: counted towards wear, no tracker (R324). -/
def Ch.correctedPacket (e : Env) (u : Sub) (src : Nat) (k : Cause) (c : Ch) : Ch :=
  let q := countCe e.time (c.fault u)
  let c1 := (c.setFault u q.1).raise e u src k
  if q.2 && (u = .rq) then c1.raiseWear e u else c1

/-- Free value `k` of this command in this channel: its number is used by no other command and no other channel. -/
def Env.freeVal (e : Env) (k : Nat) : Nat := Config.freeNat (Nat.pair e.fv (8 * k + e.chan))

/-- The same surroundings for a read that is not the command's first. -/
def Env.quiet (e : Env) : Env := { e with inject := 0 }

/-- The physical error that stands in words `word` to `word + n − 1` of an array, if any. -/
def Ch.upsetIn (u : Sub) (array bank word n : Nat) (c : Ch) : Option Upset :=
  c.upsets.find? (fun x => x.sub = u && x.array = array && x.bank = bank && decide (word ≤ x.word)
    && decide (x.word < word + n))

/-- What the read of words `word` to `word + n − 1` of an array meets (R326): a pending force on one of them, an error that
stands there, or the error the command brings. 0 none, 1 corrected, 2 uncorrectable; what is met is met once. -/
def Ch.readArray (e : Env) (u : Sub) (array bank word n : Nat) (c : Ch) : Ch × Nat × Nat × Bool :=
  let fs := c.fault u
  if fs.pendForce.isSome && fs.forceArray = array && fs.forceBank = bank && decide (word ≤ fs.forceWord)
      && decide (fs.forceWord < word + n) then
    (c.setFault u { fs with pendForce := none }, if fs.pendForce = some true then 2 else 1, fs.forceWord, true)
  else
    match c.upsetIn u array bank word n with
    | some x => ({ c with upsets := c.upsets.erase x }, if x.ue then 2 else 1, x.word, false)
    | none => (c, e.inject, word + e.freeVal 6 % n, false)

/-- _FE_ADDR of an array word (kind A of R308). -/
def arrayAddr (array bank word : Nat) : Nat := at_ 63 60 array + at_ 59 57 bank + at_ 56 32 word

/-- A corrected error counted, on its tracker and in the wear window (R322, R324). Answers whether the word has become
lasting and whether WEAR is due. -/
def Ch.countCorrected (e : Env) (u : Sub) (array bank word : Nat) (c : Ch) : Ch × Bool × Bool :=
  let q := countCe e.time (c.fault u)
  let t := countTracker e.time array bank word (closeTrackers e.time q.1)
  (c.setFault u t.1, t.2, q.2)

/-- One more word of a row that is copied to a spare (R323): corrected, or OS_UE raised for it and what it holds poisoned. -/
def Ch.copyWord (e : Env) (bank word : Nat) (k : Cause) (c : Ch) : Ch :=
  let r := c.readArray e.quiet .os 0 bank word 1
  let k1 := { k with addr := arrayAddr 0 bank word, forced := r.2.2.2 }
  if r.2.1 = 2 then
    let c1 := r.1.raise e .os 1 k1
    { c1 with todo := c1.todo ++ [.strike bank word] }
  else if r.2.1 = 1 then
    let q := r.1.countCorrected e .os 0 bank word
    let c1 := q.1.raise e .os 0 k1
    if q.2.2 then c1.raiseWear e .os else c1
  else r.1

/-- The row of a word goes to a spare (R323): OS_RETIRE, and the copy of its other words in 24 cycles of the bank. -/
def Ch.retireRow (e : Env) (bank word : Nat) (k : Cause) (c : Ch) : Ch :=
  let row := word / 16
  let c1 := { c with os := { c.os with retired := c.os.retired ++ [(bank, row)] },
                     rq := { c.rq with stall := c.rq.stall.put 0 bank (sat64 (c.rq.stall.get 0 bank + 24)) } }
  (((List.range 16).map (fun i => 16 * row + i)).filter (fun w => w ≠ word)).foldl (fun c w => c.copyWord e bank w k)
    (c1.raise e .os 2 k)

/-- A corrected error at an array word (R322 to R324): counted, on its tracker and in the wear window, and raised
as the CE source or, at the fourth error, as the lasting source or the retirement of the word's row. -/
def Ch.correctedArray (e : Env) (u : Sub) (array bank word : Nat) (k : Cause) (c : Ch) : Ch :=
  let q := c.countCorrected e u array bank word
  let k1 := { k with addr := arrayAddr array bank word }
  let c2 :=
    if !q.2.1 then q.1.raise e u (ceSrc u) k1
    else if u ≠ .os then q.1.raise e u (lastingSrc u) k1
    else if 64 ≤ q.1.retiredIn bank then q.1.raise e u 3 k1
    else q.1.retireRow e bank word k1
  if q.2.2 then c2.raiseWear e u else c2

/-- The read of an array word with its ECC (R308): a corrected error is counted and raised, an uncorrectable one
raises source `ue`. Answers whether the word is uncorrectable. -/
def Ch.readEccAs (e : Env) (u : Sub) (ue array bank word n : Nat) (k : Cause) (c : Ch) : Ch × Bool :=
  let r := c.readArray e u array bank word n
  let k1 := { k with forced := r.2.2.2, addr := arrayAddr array bank r.2.2.1 }
  if r.2.1 = 1 then (r.1.correctedArray e u array bank r.2.2.1 k1, false)
  else if r.2.1 = 2 then (r.1.raise e u ue k1, true)
  else (r.1, false)

/-- The read of an array word, with the sub-block's own UE source. -/
def Ch.readEcc (e : Env) (u : Sub) (array bank word n : Nat) (k : Cause) (c : Ch) : Ch × Bool :=
  c.readEccAs e u (ueSrc u) array bank word n k

end Sys2Proof.Machine
end

