-- ==== Sys2Proof/Machine/Ops.lean ====
section
/-! DEFINITION. The operations every request shares: responses (R50, R51), wait slots and trains (R88 to R100),
host watches (R105), array addresses (R424), and the start of a blotter (R405). -/

namespace Sys2Proof.Machine

/-! ## What an op works with -/

/-- The response flags of R50 that a reduction or a gated release sets. -/
structure RFlags where
  range     : Bool := false
  zeroBlock : Bool := false
  rescale   : Bool := false
  lean      : Bool := false
  deriving DecidableEq, Repr

/-- An op that has reached its bank: who sent it, its packet fields, the access code of _FE_TYPE (1 request,
2 trailer, 3 host, 4 phase sequencer, 5 scan or timer), and whether it is a poisoned trailer (R67). -/
structure Op where
  lid      : Nat
  phys     : Nat
  opcode   : Nat
  cls      : Nat
  index    : Nat
  operand  : Nat := 0
  tag      : Nat := 0
  access   : Nat := 1
  poisoned : Bool := false
  deriving DecidableEq, Repr

/-- How an op ends: a final response now, or no final response yet (it parked, or its response is owed at a release). -/
inductive Reply where
  | done (status result : Nat) (rf : RFlags)
  | later
  deriving DecidableEq, Repr

/-- What a wait op finds (R91, R93): it is decided at once, with its effect done, or it must park; then come the
channel after the read, the RESULT word as found, the generation it waits for, the object number and 32-bit operand
its slot record holds, and what follows the arming. -/
inductive Verdict where
  | decided (c : Ch) (status result : Nat) (rf : RFlags)
  | park (c : Ch) (found : Nat) (gen : BitVec 32) (index operand : Nat) (next : Ch → Ch)

/-- A RESULT that the manual does not state: a free 64-bit value. -/
def Env.freeResult (e : Env) (k : Nat) : Nat := e.freeVal k % 2 ^ 64

/-- The fields of the committed protection table that a channel reads (R287, R288). -/
def tblWord (t : SMap Nat) (c k : Nat) : Nat := t.get 0 (8 + 8 * c + k)
/-- ACCORD of channel `c` in table `t`. -/
def tblAccord (t : SMap Nat) (c : Nat) : Nat := fld (tblWord t c 0) 63 48
/-- RANK of channel `c`. -/
def tblRank (t : SMap Nat) (c : Nat) : Nat := fld (tblWord t c 0) 45 40
/-- LINK_PORTS of channel `c`. -/
def tblLinkPorts (t : SMap Nat) (c : Nat) : Nat := fld (tblWord t c 0) 39 32
/-- BAY_VIEW of channel `c`. -/
def tblBayView (t : SMap Nat) (c : Nat) : Nat := fld (tblWord t c 0) 31 24
/-- HOST_QUOTA of channel `c`. -/
def tblQuota (t : SMap Nat) (c : Nat) : Nat := fld (tblWord t c 0) 19 16
/-- ALLOT of channel `c`. -/
def tblAllot (t : SMap Nat) (c : Nat) : Nat := fld (tblWord t c 0) 15 0
/-- BLOT_BASE of channel `c` as a byte address. -/
def tblBlotBase (t : SMap Nat) (c : Nat) : Nat := fld (tblWord t c 1) 47 12 * 4096
/-- BLOT_SIZE of channel `c` in units of 4 KiB. -/
def tblBlotSize (t : SMap Nat) (c : Nat) : Nat := fld (tblWord t c 2) 31 0
/-- The channel nibble of a physical endpoint: 0 to 3, or 0xF. -/
def tblChan (t : SMap Nat) (phys : Nat) : Nat :=
  fld (t.get 0 (0x68 + phys / 16)) (4 * (phys % 16) + 3) (4 * (phys % 16))
/-- The function map entry of a host function (R290). -/
def tblFn (t : SMap Nat) (f : Nat) : Nat := fld (t.get 0 (0x28 + f / 4)) (16 * (f % 4) + 15) (16 * (f % 4))
/-- BLOT_SIZE as a channel sees it. -/
def Env.blotSize (e : Env) : Nat := tblBlotSize e.pt.table e.chan
/-- BLOT_BASE as a channel sees it. -/
def Env.blotBase (e : Env) : Nat := tblBlotBase e.pt.table e.chan

/-- The endpoint behind an op: none for the phase sequencer and the scans. -/
def Op.master (o : Op) : Option (Nat × Nat) := if o.access ≤ 3 then some (o.lid, o.phys) else none

/-- The cause of an object fault raised by an op (kind O of R308). -/
def Op.cause (o : Op) : Cause :=
  { addr := at_ 54 52 o.cls + at_ 50 28 o.index, master := o.master, cls := o.cls, opcode := o.opcode, access := o.access }

/-- The cause of an array error met by an op (kind A; the address is filled in where the word is read). -/
def Op.arrayCause (o : Op) : Cause :=
  { master := o.master, cls := o.cls, opcode := o.opcode, access := 0 }

/-! ## Array words (R424) -/

/-- The word of flag `i` in its bank. -/
def flagWord (i : Nat) : Nat := i / 32
/-- The word of semaphore `i` in its bank. -/
def semWord (i : Nat) : Nat := 0x8000 + i / 8
/-- The first word of stream pair `i` in its bank. -/
def strWord (i : Nat) : Nat := 0x10000 + 4 * (i / 8)
/-- The first word of barrier `i` in its bank. -/
def barWord (i : Nat) : Nat := 0x18000 + 4 * (i / 8)
/-- The first word of connection `n` in its bank. -/
def connWord (n : Nat) : Nat := 0x1C000 + 2 * (n / 8)
/-- The first word of wait slot `slot` of logical ID `lid` in its bank. -/
def slotWord (lid slot : Nat) : Nat := 0x1D000 + 2 * ((4 * lid + slot) / 8)
/-- The first word of membership mask `m` in its bank. -/
def maskWord (m : Nat) : Nat := 0x1E000 + 32 * (m / 8)
/-- The bitmap word of strict barrier `i` that holds logical ID `lid` for generation parity `k`. -/
def bitmapWord (i k lid : Nat) : Nat := 0x22000 + 64 * (i / 8) + 32 * k + lid / 64 % 32

/-! ## Responses -/

/-- Something leaves the channel. -/
def Ch.emit (o : Output) (c : Ch) : Ch := { c with out := c.out ++ [o] }

/-- A response is built (R50). -/
def Ch.respond (e : Env) (phys opcode status tag result : Nat) (rf : RFlags) (final first : Bool) (c : Ch) : Ch :=
  c.emit (.resp { endpoint := phys, chan := e.chan, opcode := opcode, status := status, range := rf.range,
                  zeroBlock := rf.zeroBlock, rescale := rf.rescale, lean := rf.lean, final := final, tag := tag,
                  result := result, first := first })

/-! ## Wait slots (R88 to R100) -/

/-- The armed slots on one object, in arming order. -/
def Ch.waiters (c : Ch) (cls index : Nat) : List Parked :=
  c.hw.parked.filter (fun w => !w.won && w.cls = cls && w.index = index)

/-- WAITERS of an object. -/
def Ch.waiting (c : Ch) (cls index : Nat) : Nat := (c.waiters cls index).length

/-- Replaces the watch table. -/
def Ch.setParked (c : Ch) (l : List Parked) : Ch := { c with hw := { c.hw with parked := l } }

/-- Slot `s` of logical ID `lid` is armed. -/
def Ch.slotArmed (c : Ch) (lid s : Nat) : Bool := c.hw.parked.any (fun w => w.lid = lid && w.slot = s)

/-- The lowest-numbered free slot of a logical ID (R89). -/
def Ch.freeSlot (c : Ch) (lid : Nat) : Option Nat := [0, 1, 2, 3].find? (fun s => !c.slotArmed lid s)

/-- Two slot records belong to one train: the same sender, TAG and TRAIN, at the same point of the train. Two trains of one
sender that are armed at once differ in TRAIN (R89). -/
def Parked.mate (w v : Parked) : Bool :=
  w.isTrain && v.isTrain && v.lid = w.lid && v.tag = w.tag && v.train = w.train && v.lastSeen = w.lastSeen

/-- A record of a sender's train that waits for its LAST packet. -/
def Parked.inOpen (lid tag : Nat) (v : Parked) : Bool := v.isTrain && !v.lastSeen && v.lid = lid && v.tag = tag

/-- The slot of a train that wins when several of `ws` end in one CORE cycle: the lowest (R93). -/
def lowestOf (ws : List Parked) (w : Parked) : Parked :=
  (([0, 1, 2, 3].filterMap (fun s => ws.find? (fun v => w.mate v && v.slot = s && !v.won))).head?).getD w

/-- The object that a slot record is armed on, by class and number; a lock is named by its entry (R214). -/
def Parked.obj (w : Parked) : Nat × Nat := (w.cls, if w.cls = clLock then fld w.operand 15 0 else w.index)

/-- RESULT of a train's final response (R95). -/
def trainResult (slot train result : Nat) : Nat := at_ 1 0 slot + at_ 5 2 train + at_ 63 32 result

/-- The final response of a wait that was parked, with the wake output of the core that waited (R101). -/
def Ch.respondEnd (e : Env) (phys opcode status tag result : Nat) (rf : RFlags) (c : Ch) : Ch :=
  let c1 := c.respond e phys opcode status tag result rf true false
  if isCore phys then c1.emit (.wake phys) else c1

/-- The read of a slot record as its wait is served (R309). Answers whether it is uncorrectable: the wait then ends with POISONED. -/
def Ch.readSlot (e : Env) (w : Parked) (c : Ch) : Ch × Bool :=
  c.readEcc e.quiet .os 0 ((4 * w.lid + w.slot) % 8) (slotWord w.lid w.slot) 2 { cls := clSlot, opcode := w.opcode }

/-- Ends an armed slot's wait (R51, R93, R94, R96): a plain wait, or a train whose LAST packet was performed, has its
final response built and its slots freed; a train before its LAST packet keeps the winner's slot and its ending. A slot record
that cannot be read ends it with POISONED (R309). -/
def Ch.endWait (e : Env) (given result : Nat) (rf : RFlags) (w : Parked) (c0 : Ch) : Ch :=
  let r := c0.readSlot e w
  let c := r.1
  let status := if r.2 then stPoisoned else given
  if !w.isTrain then
    (c.setParked (c.hw.parked.filter (fun v => !(v.lid = w.lid && v.slot = w.slot)))).respondEnd e w.phys w.opcode status
      w.tag result rf
  else if w.lastSeen then
    (c.setParked (c.hw.parked.filter (fun v => !w.mate v))).respondEnd e w.phys opWaitAny status w.tag
      (trainResult w.slot w.train result) rf
  else
    let kept := c.hw.parked.filter (fun v => !w.mate v || v.slot = w.slot)
    let c1 := c.setParked (kept.map (fun v => if v.lid = w.lid && v.slot = w.slot then { v with won := true } else v))
    let fl := at_ 3 3 (b01 rf.range) + at_ 2 2 (b01 rf.zeroBlock) + at_ 1 1 (b01 rf.rescale) + b01 rf.lean
    { c1 with hw := { c1.hw with ended := c1.hw.ended ++ [⟨w.lid, w.tag, true, status, w.slot, w.train, result, fl,
                                                        (c.hw.parked.filter w.mate).map Parked.obj⟩] } }

/-- Ends those of a list of waits that are still armed. -/
def Ch.endWaits (e : Env) (status result : Nat) (rf : RFlags) : List Parked → Ch → Ch
  | [], c => c
  | w :: ws, c => Ch.endWaits e status result rf ws (if c.hw.parked.contains w then c.endWait e status result rf w else c)

/-- RESULT of a wait that ends without being satisfied: for a flag its record as it then stands (R76), for a lock its entry
without the slots `gone` that end in this cycle (R210), else the word as the op found it (R82, R111, R164). -/
def Ch.unmetWord (gone : List Parked) (w : Parked) (c : Ch) : Nat :=
  if w.cls = clFlag then (c.os.flags.get {} w.index).record
  else if w.cls = clLock then
    let n := fld w.operand 15 0
    (c.lt.entries.get {} n).result n
      ((c.hw.parked.filter (fun v => !v.won && v.obj = w.obj && v ≠ w && !gone.contains v)).length)
  else w.found

/-- Ends waits of one CORE cycle without satisfying them: of a train the lowest slot among them wins (R93). -/
def Ch.endUnmet (e : Env) (status : Nat) : List Parked → Ch → Ch
  | [], c => c
  | w :: ws, c =>
    let v := lowestOf (w :: ws) w
    Ch.endUnmet e status ws (if c.hw.parked.contains w then c.endWait e status (c.unmetWord ws v) {} v else c)

/-- Ends waits whose endpoint's requests can no longer be performed (R52, R100): every train's slots are freed, and
a wait that has its PENDING response receives the status. -/
def Ch.endLost (e : Env) (status : Nat) : List Parked → Ch → Ch
  | [], c => c
  | w :: ws, c =>
    Ch.endLost e status ws
      (if c.hw.parked.contains w then
        if w.isTrain && !w.lastSeen then c.setParked (c.hw.parked.filter (fun v => !w.mate v))
        else c.endWait e status (c.unmetWord ws (lowestOf (w :: ws) w)) {} (lowestOf (w :: ws) w)
       else c)

/-- Frees the slots of an unfinished train and keeps the status its later packets return (R48, R97). -/
def Ch.refuseTrain (lid tag status : Nat) (last : Bool) (c : Ch) : Ch :=
  let mine := c.hw.parked.filter (fun v => v.inOpen lid tag)
  let c1 := c.setParked (c.hw.parked.filter (fun v => !v.inOpen lid tag))
  let rest := c1.hw.ended.filter (fun t => !(t.lid = lid && t.tag = tag))
  { c1 with hw := { c1.hw with
      ended := if last then rest else rest ++ [⟨lid, tag, false, status, 0, 0, 0, 0, mine.map Parked.obj⟩] } }

/-- The TRAIN bits of a sender's unfinished train. -/
def Ch.trainSoFar (c : Ch) (lid tag : Nat) : Nat :=
  maskOf ((c.hw.parked.filter (fun v => v.inOpen lid tag)).map (·.slot))

/-- Arms slot `slot` (R88, R89): the record takes its place at the end of the arming order, and every slot of the
train takes the new TRAIN and LAST_SEEN. -/
def Ch.arm (e : Env) (o : Op) (slot opcode cls index operand train : Nat) (last isTrain : Bool) (gen : BitVec 32)
    (found : Nat) (c : Ch) : Ch :=
  let w : Parked := { lid := o.lid, slot := slot, phys := o.phys, armTime := e.stamp % 2 ^ 32, operand := operand,
                      tag := o.tag, index := index, cls := cls, opcode := opcode, train := train, lastSeen := last,
                      isTrain := isTrain, gen := gen, found := found }
  c.setParked
    (c.hw.parked.map (fun v => if isTrain && v.inOpen o.lid o.tag then { v with train := train, lastSeen := last } else v) ++ [w])

/-! ## Several objects in one CORE cycle (R93) -/

/-- The armed slots that an act on their object ends. -/
def Ch.endedBy (obj : Nat × Nat) (f : Ch → Ch) (c : Ch) : List Parked :=
  (c.hw.parked.filter (fun w => w.isTrain && !w.won && w.obj = obj)).filter (fun w => !(f c).hw.parked.contains w)

/-- Acts on several objects in one CORE cycle: of the slots of one train that they would end the lowest wins, and the others
are as if absent (R93, R213). `k` bounds the rounds in which losers are found. -/
def Ch.together (acts : List ((Nat × Nat) × (Ch → Ch))) : Nat → Ch → Ch
  | 0, c => acts.foldl (fun c a => a.2 c) c
  | k + 1, c =>
    let ended := acts.flatMap (fun a => c.endedBy a.1 a.2)
    let losers := ended.filter (fun w => ended.any (fun v => w.mate v && decide (v.slot < w.slot)))
    if losers.isEmpty then acts.foldl (fun c a => a.2 c) c
    else Ch.together acts k (c.setParked (c.hw.parked.filter (fun w => !losers.contains w)))

/-! ## Host watches (R105) -/

/-- Whether a watch's condition holds on a flag. -/
def Watch.flagHolds (w : Watch) (f : Flag) (changed : Bool) : Bool :=
  match w.cond with
  | 0 => f.value && !f.poisoned
  | 1 => !f.value && !f.poisoned
  | 4 => changed
  | _ => false

/-- Whether a watch's condition holds on a semaphore. -/
def Watch.semHolds (w : Watch) (s : Sem) (changed : Bool) : Bool :=
  match w.cond with
  | 2 => decide (w.threshold ≤ s.value) && !s.poisoned
  | 3 => decide (s.value ≤ w.threshold) && !s.poisoned
  | 4 => changed
  | _ => false

/-- Evaluates the watches of one object: each that holds sets its HW_HIT bit and clears its ENABLE. -/
def Ch.runWatches (cls index : Nat) (holds : Watch → Bool) (c : Ch) : Ch :=
  let hits := c.hw.watches.filter (fun p => p.2.enable && p.2.cls = cls && p.2.index = index && holds p.2)
  { c with hw := { c.hw with
      watches := c.hw.watches.map (fun p =>
        if p.2.enable && p.2.cls = cls && p.2.index = index && holds p.2 then (p.1, { p.2 with enable := false }) else p),
      hit := hits.foldl (fun m p => setBit m p.1) c.hw.hit } }

/-! ## The blotter's start (R404, R405) -/

/-- A blotter starts writing. -/
def Ch.blotStart (e : Env) (cause detail later : Nat) (c : Ch) : Ch :=
  { c with db := { c.db with bSt := .writing, bCause := cause, bLater := later, bLines := 0, bTrigger := e.stamp,
                             bDetail := detail } }

/-- A trigger of the blotter (R404, R405). -/
def Ch.blotTrigger (e : Env) (cause detail : Nat) (c : Ch) : Ch :=
  let missed := { c with db := { c.db with bMissed := inc c.db.bMissed } }
  if e.blotSize = 0 then missed
  else
    match c.db.bSt with
    | .free => c.blotStart e cause detail 0
    | .writing =>
      if cause = 1 then c.blotStart e cause detail (setBit c.db.bLater c.db.bCause)
      else if cause = 7 then { c with db := { c.db with bRefused := true } }
      else { c with db := { c.db with bLater := setBit c.db.bLater cause, bMissed := inc c.db.bMissed } }
    | .held =>
      if cause = 1 then c.blotStart e cause detail 0
      else if cause = 7 then { c with db := { c.db with bRefused := true } }
      else missed

end Sys2Proof.Machine
end

