-- ==== Sys2Proof/Machine/Flags.lean ====
section
/-! DEFINITION. Flags and semaphores (R73 to R87): records, ops, waiter service, poisoning, double sets. -/

namespace Sys2Proof.Machine

/-! ## Flags -/

/-- Flag `i` as stored. -/
def Ch.flag (c : Ch) (i : Nat) : Flag := c.os.flags.get {} i

/-- Stores flag `i`. -/
def Ch.putFlag (i : Nat) (f : Flag) (c : Ch) : Ch := { c with os := { c.os with flags := c.os.flags.put {} i f } }

/-- The waiters of a flag after a change: those whose condition holds end with OK, all end on poison (R77, R87). -/
def Ch.settleFlag (e : Env) (i : Nat) (f : Flag) (c : Ch) : Ch :=
  let ws := c.waiters clFlag i
  if f.poisoned then c.endWaits e stPoisoned f.record {} ws
  else if f.value then c.endWaits e stOk f.record {} (ws.filter (fun w => w.opcode = opFlagWaitSet))
  else c.endWaits e stOk f.record {} (ws.filter (fun w => w.opcode = opFlagWaitClear))

/-- Flag `i` takes a new record: stored, its waiters settled, its host watches evaluated (R91, R105). -/
def Ch.changeFlag (e : Env) (i : Nat) (f : Flag) (c : Ch) : Ch :=
  let old := c.flag i
  if f = old then c
  else
    ((c.putFlag i f).settleFlag e i f).runWatches clFlag i
      (fun w => w.flagHolds f (decide (old.value ≠ f.value ∨ old.poisoned ≠ f.poisoned)))

/-- Poisons flag `i` (R87). -/
def Ch.poisonFlag (e : Env) (i : Nat) (c : Ch) : Ch := c.changeFlag e i { c.flag i with poisoned := true }

/-- The four flags in the word of flag `i` (R73). -/
def flagsOfWord (i : Nat) : List Nat := [0, 1, 2, 3].map (fun p => i / 32 * 32 + 8 * p + i % 8)

/-- An uncorrectable flag word poisons all four of its flags in one CORE cycle (R75): their waiters end together (R93), and
their host watches are evaluated. -/
def Ch.poisonFlagWord (e : Env) (i : Nat) (c : Ch) : Ch :=
  let js := (flagsOfWord i).filter (fun j => !(c.flag j).poisoned)
  let c1 := js.foldl (fun c j => c.putFlag j { c.flag j with poisoned := true }) c
  let c2 := c1.endUnmet e stPoisoned (c1.hw.parked.filter (fun w => !w.won && w.cls = clFlag && js.contains w.index))
  js.foldl (fun c j => c.runWatches clFlag j (fun w => w.flagHolds (c.flag j) true)) c2

/-- The read of flag `i` in its bank. -/
def Ch.readFlag (e : Env) (o : Op) (i : Nat) (c : Ch) : Ch :=
  let r := c.readEcc e .os 0 (i % 8) (flagWord i) 1 o.arrayCause
  if r.2 then r.1.poisonFlagWord e i else r.1

/-- What a flag op makes of the record, and its status (R77). -/
def flagStep (op sender : Nat) (f : Flag) : Flag × Nat :=
  if f.poisoned then (f, stPoisoned)
  else if op = opFlagSet then (if f.value then f else { f with value := true, last := sender }, stOk)
  else if op = opFlagClear then (if f.value then { f with value := false, last := sender } else f, stOk)
  else if op = opFlagTestClear then
    (if f.value then { f with value := false, last := sender } else f, if f.value then stOk else stFalse)
  else (f, if f.value then stOk else stFalse)

/-- A double set is counted and recorded, and on a STRICT flag raises OS_DOUBLE_SET (R78, R108). -/
def Ch.doubleSet (e : Env) (o : Op) (f : Flag) (c : Ch) : Ch :=
  let c1 := { c with os := { c.os with dblCount := inc c.os.dblCount, dblStrict := f.strict, dblLid := o.lid,
                                       dblIndex := o.index } }
  if f.strict then c1.raise e .os 5 o.cause else c1

/-- FLAG_SET, FLAG_CLEAR, FLAG_TEST and FLAG_TEST_CLEAR (R76, R77); a poisoned trailer also poisons the flag (R67). -/
def Ch.flagOp (e : Env) (o : Op) (c : Ch) : Ch × Reply :=
  let c1 := c.readFlag e o o.index
  let f := c1.flag o.index
  let p := flagStep o.opcode o.lid f
  let c2 := if o.opcode = opFlagSet && f.value && !f.poisoned then c1.doubleSet e o f else c1
  (c2.changeFlag e o.index { p.1 with poisoned := p.1.poisoned || o.poisoned }, .done p.2 f.record {})

/-- FLAG_WAIT_SET and FLAG_WAIT_CLEAR (R77). -/
def Ch.flagWait (e : Env) (o : Op) (opcode : Nat) (c : Ch) : Verdict :=
  let c1 := c.readFlag e o o.index
  let f := c1.flag o.index
  if f.poisoned then .decided c1 stPoisoned f.record {}
  else if f.value = decide (opcode = opFlagWaitSet) then .decided c1 stOk f.record {}
  else .park c1 f.record 0 o.index (fld o.operand 31 0) id

/-! ## Semaphores -/

/-- Semaphore `i` as stored. -/
def Ch.sem (c : Ch) (i : Nat) : Sem := c.os.sems.get {} i

/-- Stores semaphore `i`. -/
def Ch.putSem (i : Nat) (s : Sem) (c : Ch) : Ch := { c with os := { c.os with sems := c.os.sems.put {} i s } }

/-- The semaphore word as it stands. -/
def Ch.semWordNow (c : Ch) (i : Nat) : Nat := (c.sem i).word (c.waiting clSem i)

/-- The watches of semaphore `i` after it stood at `old`. -/
def Ch.watchSem (i : Nat) (old : Sem) (c : Ch) : Ch :=
  c.runWatches clSem i (fun w =>
    w.semHolds (c.sem i) (decide (old.value ≠ (c.sem i).value ∨ old.poisoned ≠ (c.sem i).poisoned)))

/-- Serves parked waiters in arming order (R86): each served waiter takes its amount and ends with OK; the service
stops at the first that does not fit, or with FIRST_FIT passes over it. A waiter whose slot record cannot be read ends with
POISONED (R309). -/
def Ch.serveSem (e : Env) (i : Nat) : List Parked → Ch → Ch
  | [], c => c
  | w :: ws, c =>
    if !c.hw.parked.contains w then Ch.serveSem e i ws c
    else
      let r := c.readSlot e w
      let s := c.sem i
      if r.2 then Ch.serveSem e i ws (r.1.endWait e stPoisoned w.found {} w)
      else if w.operand ≤ s.value then
        let s1 := { s with value := s.value - w.operand, last := w.lid }
        Ch.serveSem e i ws
          (((r.1.putSem i s1).endWait e stOk (s1.word (c.waiting clSem i - 1)) {} w).watchSem i s)
      else if s.firstFit then Ch.serveSem e i ws r.1
      else r.1

/-- Semaphore `i` takes a new record: watches, then waiters served, or ended on poison (R86, R87, R91). -/
def Ch.changeSem (e : Env) (i : Nat) (s : Sem) (c : Ch) : Ch :=
  let old := c.sem i
  if s = old then c
  else
    let c1 := (c.putSem i s).watchSem i old
    if s.poisoned then c1.endUnmet e stPoisoned (c1.waiters clSem i)
    else if old.value < s.value then c1.serveSem e i (c1.waiters clSem i)
    else c1

/-- Poisons semaphore `i` (R87). -/
def Ch.poisonSem (e : Env) (i : Nat) (c : Ch) : Ch := c.changeSem e i { c.sem i with poisoned := true }

/-- The read of semaphore `i` in its bank. -/
def Ch.readSem (e : Env) (o : Op) (i : Nat) (c : Ch) : Ch :=
  let r := c.readEcc e .os 0 (i % 8) (semWord i) 1 o.arrayCause
  if r.2 then r.1.poisonSem e i else r.1

/-- What a semaphore op of amount `a` makes of the word, and its status (R83, R84). -/
def semStep (op a sender : Nat) (s : Sem) : Sem × Nat :=
  if s.poisoned then (s, stPoisoned)
  else if op = opSemRead ∨ a = 0 then (s, stOk)
  else if op = opSemAdd then
    if s.value + a ≤ 0x7FFFFFFF then ({ s with value := s.value + a, last := sender }, stOk) else (s, stOverflow)
  else if a ≤ s.value then ({ s with value := s.value - a, last := sender }, stOk)
  else (s, if op = opSemSub then stUnderflow else stFalse)

/-- SEM_ADD, SEM_SUB, SEM_TRYSUB and SEM_READ (R82 to R86). RESULT is the word after the op, before the waiters
that a SEM_ADD then serves in bank cycles of their own. -/
def Ch.semOp (e : Env) (o : Op) (c : Ch) : Ch × Reply :=
  let c1 := c.readSem e o o.index
  let s := c1.sem o.index
  let p := semStep o.opcode (fld o.operand 31 0) o.lid s
  let s2 := { p.1 with poisoned := p.1.poisoned || o.poisoned }
  let c2 := if p.2 = stOverflow then c1.raise e .os 7 o.cause
            else if p.2 = stUnderflow then c1.raise e .os 6 o.cause else c1
  (c2.changeSem e o.index s2, .done p.2 (s2.word (c2.waiting clSem o.index)) {})

/-- SEM_WAITSUB (R83 to R85). -/
def Ch.semWait (e : Env) (o : Op) (c : Ch) : Verdict :=
  let a := fld o.operand 31 0
  let c1 := c.readSem e o o.index
  let s := c1.sem o.index
  let w := c1.semWordNow o.index
  if s.poisoned then .decided c1 stPoisoned w {}
  else if a = 0 then .decided c1 stOk w {}
  else if 0x7FFFFFFF < a then .decided c1 stFalse w {}
  else if a ≤ s.value ∧ (s.firstFit ∨ c1.waiting clSem o.index = 0) then
    let s1 := { s with value := s.value - a, last := o.lid }
    .decided ((c1.putSem o.index s1).watchSem o.index s) stOk (s1.word (c1.waiting clSem o.index)) {}
  else .park c1 w 0 o.index a id

end Sys2Proof.Machine
end

