-- ==== Sys2Proof/Machine/Streams.lean ====
section
/-! DEFINITION. Stream counters and connections (R109 to R135): pairs and their waits, accept and open, reserve,
commit, consume, close, and the reaction to a fenced end. -/

namespace Sys2Proof.Machine

/-! ## Stream pairs -/

/-- Pair `i` as stored. -/
def Ch.str (c : Ch) (i : Nat) : Stream := c.os.strs.get {} i

/-- Stores pair `i`. -/
def Ch.putStr (i : Nat) (s : Stream) (c : Ch) : Ch := { c with os := { c.os with strs := c.os.strs.put {} i s } }

/-- RESULT of a stream op (R111). -/
def strResult (op operand i : Nat) (s : Stream) : Nat :=
  if op = opStrProduce then s.p
  else if op = opStrConsume then s.c
  else if op = opStrWaitData then at_ 24 0 s.fill + at_ 63 32 s.p
  else if op = opStrWaitSpace then at_ 24 0 s.space + at_ 63 32 s.c
  else match fld operand 1 0 with
    | 0 => s.p
    | 1 => s.c
    | 2 => s.word2 i
    | _ => at_ 24 0 s.fill + at_ 56 32 s.k

/-- Whether a stream wait's condition holds (R112). -/
def strHolds (op n : Nat) (s : Stream) : Bool :=
  if op = opStrWaitData then decide (n ≤ s.fill) else decide (n ≤ s.space)

/-- Releases every waiter of a pair whose condition holds (R113). -/
def Ch.settleStr (e : Env) (i : Nat) (s : Stream) (c : Ch) : Ch :=
  let ok := fun op => (c.waiters clStr i).filter (fun w => w.opcode = op && strHolds op w.operand s)
  (c.endWaits e stOk (strResult opStrWaitData 0 i s) {} (ok opStrWaitData)).endWaits e stOk
    (strResult opStrWaitSpace 0 i s) {} (ok opStrWaitSpace)

/-- The waits parked on pair `i`, with the parked reservation of its connection. -/
def Ch.pairWaits (c : Ch) (i : Nat) : List Parked :=
  c.waiters clStr i ++ (if 0xC000 ≤ i then c.waiters clConn (i - 0xC000) else [])

/-- Pair `i` takes a new record: its waiters are settled, or ended on poison (R87, R114). -/
def Ch.changeStr (e : Env) (i : Nat) (s : Stream) (c : Ch) : Ch :=
  if s = c.str i then c
  else
    let c1 := c.putStr i s
    if s.poisoned then c1.endUnmet e stPoisoned (c1.pairWaits i) else c1.settleStr e i s

/-- Poisons pair `i` (R114). -/
def Ch.poisonStr (e : Env) (i : Nat) (c : Ch) : Ch := c.changeStr e i { c.str i with poisoned := true }

/-- The read of pair `i` in its bank. -/
def Ch.readStr (e : Env) (o : Op) (i : Nat) (c : Ch) : Ch :=
  let r := c.readEcc e .os 0 (i % 8) (strWord i) 4 o.arrayCause
  if r.2 then r.1.poisonStr e i else r.1

/-- What a stream op makes of the pair, and its status (R112). -/
def strStep (op a sender : Nat) (s : Stream) : Stream × Nat :=
  if s.poisoned then (s, stPoisoned)
  else if op = opStrProduce then
    if a = 0 then (s, stOk)
    else if s.fill + a ≤ s.k ∧ s.p + a ≤ 2 ^ 64 - 1 then ({ s with p := s.p + a, lastProd := sender }, stOk)
    else (s, stOverflow)
  else if op = opStrConsume then
    if a = 0 then (s, stOk)
    else if a ≤ s.fill then ({ s with c := s.c + a, lastCons := sender }, stOk)
    else (s, stUnderflow)
  else (s, stOk)

/-- STR_PRODUCE, STR_CONSUME and STR_READ (R111, R112). -/
def Ch.strOp (e : Env) (o : Op) (c : Ch) : Ch × Reply :=
  let c1 := c.readStr e o o.index
  let p := strStep o.opcode (fld o.operand 31 0) o.lid (c1.str o.index)
  let s2 := { p.1 with poisoned := p.1.poisoned || o.poisoned }
  let c2 := if p.2 = stOverflow then c1.raise e .os 8 o.cause
            else if p.2 = stUnderflow then c1.raise e .os 9 o.cause else c1
  (c2.changeStr e o.index s2, .done p.2 (strResult o.opcode o.operand o.index s2) {})

/-! ## Connections -/

/-- Connection `n` as stored. -/
def Ch.conn (c : Ch) (n : Nat) : Conn := c.os.conns.get {} n

/-- Stores connection `n`; one that is no longer LISTENING leaves its port's list (R119). -/
def Ch.putConn (n : Nat) (v : Conn) (c : Ch) : Ch :=
  { c with os := { c.os with conns := c.os.conns.put {} n v },
           cu := { c.cu with listening := if v.st = .listening then c.cu.listening
                                          else c.cu.listening.filter (· ≠ n) } }

/-- The pair of connection `n` (R115). -/
abbrev connPair (n : Nat) : Nat := 0xC000 + n

/-- RES_PARKED of connection `n` (R117). -/
def Ch.resParked (c : Ch) (n : Nat) : Bool := decide (0 < c.waiting clConn n)

/-- The stream ops a requester may perform on a connection's pair (R128). -/
def connStrOk (op lid : Nat) (v : Conn) : Bool :=
  let reader := (v.st = .listening || v.st = .opened || v.st = .senderClosed) && v.receiver = lid
  let sender := v.st = .opened && v.sender = lid
  if op = opStrRead then reader || sender
  else if op = opStrWaitData then reader
  else if op = opStrWaitSpace then sender
  else false

/-- STR_WAIT_DATA and STR_WAIT_SPACE (R112, R129). -/
def Ch.strWait (e : Env) (o : Op) (opcode : Nat) (c : Ch) : Verdict :=
  let n := fld o.operand 31 0
  let c1 := c.readStr e o o.index
  let s := c1.str o.index
  let r := strResult opcode 0 o.index s
  if s.poisoned then .decided c1 stPoisoned r {}
  else if n = 0 then .decided c1 stOk r {}
  else if s.k < n then .decided c1 stFalse r {}
  else if strHolds opcode n s then .decided c1 stOk r {}
  else if opcode = opStrWaitData ∧ 0xC000 ≤ o.index ∧ (c1.conn (o.index - 0xC000)).st = .senderClosed then
    .decided c1 stFalse r {}
  else .park c1 r 0 o.index n id

/-- The lowest number at or above `n`, among the next `k`, of a connection that is FREE and not poisoned (R118). -/
def Ch.freeConn (c : Ch) : Nat → Nat → Option Nat
  | 0, _ => none
  | k + 1, n => if (c.conn n).st = .free && !(c.str (connPair n)).poisoned then some n else c.freeConn k (n + 1)

/-- The read of an entry of the CU port lists (array 7). -/
def Ch.readPort (e : Env) (o : Op) (n : Nat) (c : Ch) : Ch := (c.readEcc e.quiet .cu 7 0 n 1 o.arrayCause).1

/-- A connection that a fenced endpoint's earlier op makes joins the running scan (R132). -/
def Ch.scanNew (o : Op) (n : Nat) (c : Ch) : Ch :=
  if c.ctl.fenced.contains o.phys then { c with ctl := { c.ctl with connScan := c.ctl.connScan ++ [(n, o.lid)] } } else c

/-- CONN_ACCEPT (R118). -/
def Ch.connAccept (e : Env) (o : Op) (c : Ch) : Ch × Reply :=
  let log2 := fld o.operand 52 48
  if log2 < 4 ∨ 24 < log2 then (c, .done stBadOp (e.freeResult 0) {})
  else
    match c.freeConn 0x4000 0 with
    | none => (c, .done stTableFull (e.freeResult 0) {})
    | some n =>
      let c1 := (c.putConn n { st := .listening, receiver := o.lid, port := fld o.index 13 0,
                               base := fld o.operand 47 6 * 64, log2 := log2 }).putStr (connPair n)
                  { p := 0, c := 0, k := 2 ^ log2, lastProd := o.lid, lastCons := o.lid }
      let c2 := { c1 with cu := { c1.cu with listening := c1.cu.listening ++ [n] } }
      ((c2.readPort e o n).scanNew o n, .done stOk n {})

/-- CONN_OPEN (R119). -/
def Ch.connOpen (e : Env) (o : Op) (c : Ch) : Ch × Reply :=
  match c.cu.listening.find? (fun n => (c.conn n).port = fld o.index 13 0) with
  | none => (c, .done stFalse (e.freeResult 0) {})
  | some n =>
    let v := c.conn n
    (((c.readPort e o n).putConn n { v with st := .opened, sender := o.lid }).scanNew o n,
     .done stOk (at_ 13 0 n + at_ 18 14 v.log2 + at_ 60 19 (v.base / 64)) {})

/-- The read of connection `n` and its pair; an uncorrectable error poisons the pair (R309, R114). -/
def Ch.readConn (e : Env) (o : Op) (n : Nat) (c : Ch) : Ch :=
  let r := c.readEcc e .os 0 (n % 8) (connWord n) 2 o.arrayCause
  (if r.2 then r.1.poisonStr e (connPair n) else r.1).readStr e.quiet o (connPair n)

/-- Whether the requester is an end the op is permitted to in the present STATE (R133). -/
def connBound (op lid : Nat) (v : Conn) : Bool :=
  if op = opConnConsume then
    (v.st = .listening || v.st = .opened || v.st = .senderClosed) && v.receiver = lid
  else if op = opConnClose then
    match v.st with
    | .listening => v.receiver = lid
    | .senderClosed => v.receiver = lid
    | .opened => v.receiver = lid || v.sender = lid
    | .readerClosed => v.sender = lid
    | .broken => v.sender = lid
    | .free => false
  else (v.st = .opened || v.st = .readerClosed || v.st = .broken) && v.sender = lid

/-- RES_PAD of a reservation of `len` descriptors, if it fits (R122). -/
def resFits (len : Nat) (s : Stream) : Option Nat :=
  let tail := s.k - s.p % s.k
  if len ≤ tail ∧ len ≤ s.space then some 0
  else if tail < len ∧ tail + len ≤ s.space then some tail
  else none

/-- RESULT of a reservation that succeeds (R123). -/
def resResult (len pad : Nat) (v : Conn) (s : Stream) : Nat :=
  at_ 47 0 (if pad = 0 then v.base + 64 * (s.p % s.k) else v.base) + at_ 51 48 pad + at_ 56 52 len

/-- A reservation is taken (R122). -/
def Ch.takeRes (n len pad : Nat) (c : Ch) : Ch :=
  let c1 := c.putConn n { c.conn n with resValid := true, resPad := pad, resLen := len }
  if 0 < pad then { c1 with cu := { c1.cu with pads := inc c1.cu.pads } } else c1

/-- A dropped send on a connection whose reader has closed (R130). -/
def Ch.noReader (o : Op) (c : Ch) : Ch :=
  { c with cu := { c.cu with noReader := inc c.cu.noReader, nrTrailer := decide (o.access = 2), nrOpcode := o.opcode,
                             nrSender := o.lid, nrConn := o.index } }

/-- A send refused in BROKEN is counted (R131). -/
def Ch.brokenSend (c : Ch) : Ch := { c with cu := { c.cu with brokens := inc c.cu.brokens } }

/-- CONN_RESERVE, once bound and not poisoned (R121 to R124, R130, R131). -/
def Ch.connReserve (e : Env) (o : Op) (c : Ch) : Verdict :=
  let n := o.index
  let v := c.conn n
  let s := c.str (connPair n)
  let len := fld o.operand 4 0
  let r := e.freeResult 0
  if len = 0 ∨ 16 < len ∨ s.k / 2 < len then .decided c stBadOp r {}
  else match v.st with
    | .readerClosed => .decided (c.noReader o) stNoReader r {}
    | .broken => .decided c.brokenSend stBroken r {}
    | _ =>
      if v.resValid || c.resParked n then .decided c stFalse r {}
      else match resFits len s with
        | some pad => .decided (c.takeRes n len pad) stOk (resResult len pad v s) {}
        | none =>
          if bit o.operand 8 then
            .park c r 0 n (fld o.operand 31 0)
              (fun c => { c with cu := { c.cu with parks := inc c.cu.parks } })
          else .decided { c with cu := { c.cu with ringFull := inc c.cu.ringFull } } stRingFull r {}

/-- A parked blocking reservation is tried again after a consume (R124). -/
def Ch.retryRes (e : Env) (n : Nat) (c : Ch) : Ch :=
  match (c.waiters clConn n).head? with
  | none => c
  | some w =>
    let r := c.readSlot e w
    let s := c.str (connPair n)
    let len := fld w.operand 4 0
    if r.2 then r.1.endWait e stPoisoned w.found {} w
    else match resFits len s with
      | none => r.1
      | some pad => (r.1.takeRes n len pad).endWait e stOk (resResult len pad (c.conn n) s) {} w

/-- CONN_COMMIT, once bound and not poisoned (R125, R130, R131). -/
def Ch.connCommit (e : Env) (o : Op) (c : Ch) : Ch × Reply :=
  let n := o.index
  let v := c.conn n
  let s := c.str (connPair n)
  match v.st with
  | .readerClosed =>
    ((c.putConn n { v with resValid := false }).noReader o, .done stNoReader (e.freeResult 0) {})
  | .broken => (c.brokenSend, .done stBroken (e.freeResult 0) {})
  | _ =>
    if v.resValid then
      let s1 := { s with p := s.p + v.resPad + v.resLen, lastProd := o.lid }
      let c1 := (c.putConn n { v with resValid := false, resPad := 0, resLen := 0 }).changeStr e (connPair n) s1
      ({ c1 with cu := { c1.cu with commits := inc c1.cu.commits } }, .done stOk s1.p {})
    else (c, .done stFalse (e.freeResult 0) {})

/-- CONN_CONSUME, once bound and not poisoned (R126). -/
def Ch.connConsume (e : Env) (o : Op) (c : Ch) : Ch × Reply :=
  let n := o.index
  let s := c.str (connPair n)
  let d := fld o.operand 24 0
  if d = 0 then (c, .done stOk (e.freeResult 0) {})
  else if d ≤ s.fill then
    let s1 := { s with c := s.c + d, lastCons := o.lid }
    ((c.changeStr e (connPair n) s1).retryRes e n, .done stOk s1.c {})
  else (c.raise e .os 9 o.cause, .done stUnderflow (e.freeResult 0) {})

/-- A connection becomes FREE: K ← 0, P, C and POISONED kept (R129). The record of a FREE connection holds zero in its other
fields, as after a restart (DESIGN CHOICE, log entry 69). -/
def Ch.freeUp (e : Env) (n : Nat) (c : Ch) : Ch :=
  (c.putConn n {}).changeStr e (connPair n) { c.str (connPair n) with k := 0 }

/-- The sender's parked waits on a connection: its blocking reservation and its STR_WAIT_SPACE waits. -/
def Ch.sendWaits (c : Ch) (n : Nat) : List Parked :=
  c.waiters clConn n ++ (c.waiters clStr (connPair n)).filter (fun w => w.opcode = opStrWaitSpace)

/-- The receiver's close of an OPEN connection (R129). -/
def Ch.readerCloses (e : Env) (n : Nat) (c : Ch) : Ch :=
  let c1 := c.putConn n { c.conn n with st := .readerClosed }
  c1.endUnmet e stCancelled (c1.sendWaits n)

/-- The sender's close, or its fence, on an OPEN connection (R129, R131). -/
def Ch.senderCloses (e : Env) (n : Nat) (c : Ch) : Ch :=
  let c1 := c.putConn n { c.conn n with st := .senderClosed, resValid := false, resPad := 0, resLen := 0 }
  c1.endUnmet e stCancelled (c1.pairWaits (connPair n))

/-- CONN_CLOSE, once bound (R129). -/
def Ch.connClose (e : Env) (o : Op) (c : Ch) : Ch × Reply :=
  let n := o.index
  let v := c.conn n
  let c1 := c.readPort e o n
  let c2 :=
    if v.st = .opened then
      if v.receiver = o.lid ∧ v.sender = o.lid then
        (c1.endUnmet e stCancelled (c1.pairWaits (connPair n))).freeUp e n
      else if v.receiver = o.lid then c1.readerCloses e n
      else c1.senderCloses e n
    else c1.freeUp e n
  (c2, .done stOk (c2.conn n).st.code {})

/-- CONN_COMMIT, CONN_CONSUME and CONN_CLOSE with the checks of R133; a poisoned trailer also poisons the pair (R67). -/
def Ch.connOp (e : Env) (o : Op) (c : Ch) : Ch × Reply :=
  let c1 := c.readConn e o o.index
  let v := c1.conn o.index
  let p :=
    if !connBound o.opcode o.lid v then (c1.raise e .cu 4 o.cause, Reply.done stNotBound (e.freeResult 0) {})
    else if (c1.str (connPair o.index)).poisoned ∧ o.opcode ≠ opConnClose then
      (c1, Reply.done stPoisoned (e.freeResult 0) {})
    else if o.opcode = opConnCommit then
      if o.poisoned then
        -- the waiters the commit would satisfy receive POISONED: poison first, then advance P
        (c1.poisonStr e (connPair o.index)).connCommit e o
      else c1.connCommit e o
    else if o.opcode = opConnConsume then c1.connConsume e o
    else c1.connClose e o
  (if o.poisoned then p.1.poisonStr e (connPair o.index) else p.1, p.2)

/-- CONN_RESERVE with the checks of R133. -/
def Ch.connReserveOp (e : Env) (o : Op) (c : Ch) : Verdict :=
  let c1 := c.readConn e o o.index
  if !connBound o.opcode o.lid (c1.conn o.index) then
    .decided (c1.raise e .cu 4 o.cause) stNotBound (e.freeResult 0) {}
  else if (c1.str (connPair o.index)).poisoned then .decided c1 stPoisoned (e.freeResult 0) {}
  else c1.connReserve e o

/-- The reaction of connection `n` to the fence of `lid`, performed as an op in its bank, which reads the record (R131, R132). -/
def Ch.fenceConn (e : Env) (n lid : Nat) (c0 : Ch) : Ch :=
  let c := c0.readConn e.quiet { lid := lid, phys := 0, opcode := 0, cls := clConn, index := n, access := 5 } n
  let v := c.conn n
  let rcv := decide (v.receiver = lid)
  let snd := decide (v.sender = lid) && v.st ≠ .listening
  if rcv && snd && v.st ≠ .free then c.freeUp e n
  else match v.st with
    | .listening => if rcv then c.freeUp e n else c
    | .opened =>
      if rcv then
        let c1 := c.putConn n { v with st := .broken }
        c1.endUnmet e stBroken (c1.sendWaits n)
      else if snd then c.senderCloses e n
      else c
    | .senderClosed => if rcv then c.freeUp e n else c
    | .readerClosed => if snd then c.freeUp e n else c
    | .broken => if snd then c.freeUp e n else c
    | .free => c

/-- FENCE_REACTION: the scan reaches connection `n` (R131). -/
def Ch.fenceReaction (e : Env) (n : Nat) (c : Ch) : Ch :=
  let mine := c.ctl.connScan.filter (fun p => p.1 = n)
  mine.foldl (fun c p => c.fenceConn e n p.2)
    { c with ctl := { c.ctl with connScan := c.ctl.connScan.filter (fun p => p.1 ≠ n) } }

end Sys2Proof.Machine
end

