-- ==== Sys2Proof/Machine/Lanes.lean ====
section
/-! DEFINITION. Wired lanes (R136 to R155): arrivals, releases, forced releases, preload and swap, the not-arrived
latch; and the endpoint map's lookups (R16 to R19). -/

namespace Sys2Proof.Machine

/-! ## The endpoint map -/

/-- The physical endpoint behind a logical ID, if its entry is valid (R16). -/
def Ch.physOf (c : Ch) (lid : Nat) : Option Nat :=
  if 0xFFE ≤ lid then some lid
  else if (c.ctl.map.get {} lid).valid then some (c.ctl.map.get {} lid).phys else none

/-- The logical ID that a physical ID resolves to (R18). -/
def Ch.lidOf (c : Ch) (phys : Nat) : Option Nat :=
  if 0xFFE ≤ phys then some phys
  else (c.ctl.map.find? (fun p => p.2.valid && p.2.phys = phys)).map (·.1)

/-! ## Membership masks -/

/-- A membership mask as a 2,048-bit number. -/
def Ch.mask (c : Ch) (m : Nat) : Nat := c.img.masks.get 0 m

/-- The read of mask `m` (R309): answers whether the mask is poisoned. -/
def Ch.readMask (e : Env) (m : Nat) (c : Ch) : Ch × Bool :=
  if c.os.badMasks.contains m then (c, true)
  else
    let r := c.readEcc e.quiet .os 0 (m % 8) (maskWord m) 32 {}
    if r.2 then ({ r.1 with os := { r.1.os with badMasks := r.1.os.badMasks ++ [m] } }, true) else (r.1, false)

/-- The members of mask `m`, translated through the endpoint map (R146). -/
def Ch.translate (c : Ch) (m : Nat) : List Nat :=
  (bitsBelow 2048 (c.mask m)).filter (fun lid => (c.physOf lid).isSome)

/-! ## Lane state -/

/-- Lane `l` as it stands. -/
def Ch.lane (c : Ch) (l : Nat) : Lane := c.bw.lanes.get {} l

/-- Stores lane `l`. -/
def Ch.putLane (l : Nat) (v : Lane) (c : Ch) : Ch := { c with bw := { c.bw with lanes := c.bw.lanes.put {} l v } }

/-- The release parity RP (R137). -/
def Lane.rp (v : Lane) : Bool := v.gen.getLsbD 0

/-- The parity bit p of a logical ID. -/
def Lane.p (v : Lane) (lid : Nat) : Bool := v.parity.get false lid

/-- Every member reports p = NP (R138); a lane without members is disabled (R149). -/
def Lane.complete (v : Lane) : Bool := !v.members.isEmpty && v.members.all (fun m => v.p m != v.rp)

/-- ANY: some member has arrived in the current round (R151). -/
def Lane.any (v : Lane) : Bool := v.members.any (fun m => v.p m != v.rp)

/-- The parities of a list of logical IDs set to one value. -/
def setParity (b : Bool) (ids : List Nat) (m : SMap Bool) : SMap Bool := ids.foldl (fun m i => m.put false i b) m

/-- _FE_ADDR of a lane fault (kind W of R308). -/
def Lane.addr (v : Lane) (l : Nat) : Nat := at_ 63 32 v.gen.toNat + at_ 4 0 l

/-- The encoding of a lane state. -/
def LaneSt.code : LaneSt → Nat
  | .active => 0 | .holding => 1 | .timedOut => 2

/-- BW_LANE_STATE_l. -/
def Lane.stateWord (v : Lane) : Nat :=
  at_ 63 62 v.st.code + at_ 61 61 (b01 v.tmo) + at_ 60 60 (b01 v.swapPending) + at_ 59 59 (b01 v.preloadBusy)
    + at_ 58 58 (b01 v.any) + at_ 57 57 (b01 v.gated) + at_ 56 56 (b01 v.refused) + at_ 55 44 v.activeMask
    + at_ 43 32 v.nextMask + at_ 31 20 v.members.length

/-- The physical IDs of the cores among some members, for the wake of R145. -/
def Ch.coresOf (c : Ch) (ids : List Nat) : List Nat := (ids.filterMap c.physOf).filter isCore

/-- A parity error on the tree of lane `l` halts the channel (BW_TREE_PARITY of R311); it is met as the lane releases. The model
numbers the trees as array 15, one word for each lane. -/
def Ch.treeRead (e : Env) (l : Nat) (c : Ch) : Ch :=
  let r := c.readArray e.quiet .bw 15 0 l 1
  if r.2.1 = 0 then r.1 else r.1.raise e .bw 2 { addr := (r.1.lane l).addr l, key := l }

/-- The release leaves on the channel's wires, with the cores whose REL rises (R145). -/
def Ch.laneLeaves (e : Env) (l : Nat) (gen : BitVec 32) (tmo : Bool) (risen : List Nat) (c : Ch) : Ch :=
  (c.treeRead e l).emit (.laneRelease e.chan l gen.toNat tmo (c.coresOf risen))

/-- The swap of the two buffers with release parity `rp` (R148): who joins starts at rest. -/
def Lane.swap (rp : Bool) (v : Lane) : Lane :=
  { v with members := v.next, next := v.members, activeMask := v.nextMask, nextMask := v.activeMask, swapPending := false,
           parity := setParity rp (v.next.filter (fun m => !v.members.contains m)) v.parity }

/-- The normal release of a complete round (R138, R143, R148): GEN advances, TMO falls, and NEXT is swapped in where
it is pending. -/
def Ch.releaseLane (e : Env) (l : Nat) (c : Ch) : Ch :=
  let v := c.lane l
  let gen := v.gen + 1
  let v1 : Lane := { v with gen := gen, tmo := false, st := .active, gated := false, timer := none, stalled := none,
                            roundUs := v.timeoutUs }
  (c.putLane l (if v.swapPending then v1.swap (gen.getLsbD 0) else v1)).laneLeaves e l gen false v.members

/-- A forced release (R151, R152): TMO rises, GEN advances, every member is put at rest, nothing is swapped. A complete round
whose release waits for a translation goes with it, and what was to follow that release does not happen: its sequence stays in
RUN at its entry (DESIGN CHOICE, log entry 70). -/
def Ch.forceLane (e : Env) (l : Nat) (st : LaneSt) (c : Ch) : Ch :=
  let v := c.lane l
  let gen := v.gen + 1
  let risen := v.members.filter (fun m => v.p m != v.rp)
  let v1 : Lane := { v with gen := gen, tmo := true, st := st, gated := false, timer := none, stalled := none,
                            roundUs := v.timeoutUs, parity := setParity (gen.getLsbD 0) v.members v.parity }
  (c.putLane l v1).laneLeaves e l gen true risen

/-- A re-arm (R152); a disabled lane is left as it is. -/
def Ch.rearmLane (e : Env) (l : Nat) (c : Ch) : Ch := if (c.lane l).members.isEmpty then c else c.forceLane e l .active

/-- A release of a lane with what follows it (R148): while a translation runs the release, which no gate holds any more, waits
for it. -/
def Ch.releaseLaneThen (e : Env) (l : Nat) (a : After) (c : Ch) : Ch :=
  if (c.lane l).preloadBusy then c.putLane l { c.lane l with stalled := some a, gated := false }
  else
    let c1 := c.releaseLane e l
    { c1 with todo := c1.todo ++ [.next a] }

/-- A disabled lane swaps as soon as NEXT is translated, with GEN as it is: it never releases, and a swap enables it (R149;
DESIGN CHOICE, log entry 71). -/
def Lane.enable (v : Lane) : Lane := if v.members.isEmpty && v.swapPending then v.swap v.rp else v

/-- A preload of mask `m` into NEXT (R147): refused while one runs or waits, or where the mask is poisoned. -/
def Ch.preloadLane (e : Env) (l m : Nat) (c : Ch) : Ch :=
  let v := c.lane l
  if v.preloadBusy || v.swapPending then c.putLane l { v with refused := true }
  else
    let r := c.readMask e m
    if r.2 then r.1.putLane l { v with refused := true }
    else r.1.putLane l { v with preloadBusy := true, nextMask := m }

/-- A translation into NEXT completes (R147, R148); a release that waited for it takes place. -/
def Ch.preloadDone (e : Env) (l : Nat) (c : Ch) : Ch :=
  let v := c.lane l
  if v.preloadBusy then
    let v1 : Lane := { v with preloadBusy := false, swapPending := true, next := c.translate v.nextMask }
    match v.stalled with
    | none => c.putLane l v1.enable
    | some a => (c.putLane l v1).releaseLaneThen e l a
  else c

/-- The timer of a lane stops when the round's AND is complete (R151), and a disabled lane runs none (R149). -/
def Lane.stopTimer (v : Lane) : Lane := if v.members.isEmpty || v.complete then { v with timer := none } else v

/-- A map replacement moves a logical ID's membership in every lane: the new endpoint is at rest (R155); an entry
that is retired leaves the lanes (R136). An ID that gains a valid entry joins a lane at the next translation of its mask, not
at once (DESIGN CHOICE, log entry 72). -/
def Ch.remapLanes (lid : Nat) (valid : Bool) (c : Ch) : Ch :=
  (List.range 32).foldl (fun c l =>
    let v := c.lane l
    let v1 := { v with parity := setParity v.rp [lid] v.parity }
    let v2 : Lane := { v with members := v.members.filter (· ≠ lid), next := v.next.filter (· ≠ lid) }
    if valid then (if v.members.contains lid then c.putLane l v1 else c)
    else if v.members.contains lid || v.next.contains lid then c.putLane l v2.stopTimer.enable
    else c) c

/-! ## Arrivals -/

/-- The node's evaluation of an arrival (R140): the channel afterwards and the CODE it acknowledges with. -/
def Ch.strobe (e : Env) (phys l : Nat) (c : Ch) : Ch :=
  let v := c.lane l
  if c.ctl.fenced.contains phys then c
  else if c.ctl.st ≠ .run then c.emit (.ack phys l 3)
  else
    match (c.lidOf phys).bind (fun lid => if v.members.contains lid then some lid else none) with
    | none =>
      -- an endpoint that no logical ID maps is counted in RQ as well (R18)
      let c1 := if (c.lidOf phys).isNone then { c with rq := { c.rq with denied := inc c.rq.denied } } else c
      ({ c1 with bw := { c1.bw with nonMem := inc c1.bw.nonMem } }).emit (.ack phys l 3)
    | some lid =>
      if v.st = .timedOut then ({ c with bw := { c.bw with late := inc c.bw.late } }).emit (.ack phys l 2)
      else if v.p lid != v.rp then
        (({ c with bw := { c.bw with rearr := inc c.bw.rearr, reGen := v.gen.toNat, reLane := l, reLid := lid,
                                     rePhys := phys } }).raise e .bw 0
          { addr := v.addr l, master := some (lid, phys), access := 1, key := l }).emit (.ack phys l 1)
      else
        let start := if v.timer.isNone && v.st = .active then some e.stamp else v.timer
        let v1 : Lane := { v with parity := v.parity.put false lid !v.rp, timer := start }
        (c.putLane l v1.stopTimer).emit (.ack phys l 0)

/-! ## Timeouts -/

/-- The lane timer of R151 and R427 has expired. -/
def Lane.expired (v : Lane) (time : Nat) : Bool :=
  match v.timer with
  | none => false
  | some s => v.st = .active && !v.members.isEmpty && !v.complete && decide (v.roundUs ≠ 0) && decide (s + 1000 * v.roundUs ≤ time)

/-- The not-arrived latch of a lane (R153). -/
def Ch.latchLane (e : Env) (l : Nat) (c : Ch) : Ch :=
  let v := c.lane l
  let missing := v.members.filter (fun m => v.p m = v.rp)
  let phys := missing.filterMap c.physOf
  c.putLane l { v with nam := missing, namTime := e.stamp,
                       namClusters := maskOf ((phys.filter isCore).map (fun p => 8 * fld p 9 7 + fld p 6 4)),
                       namBays := maskOf ((phys.filter (fun p => !isCore p)).map bayOf) }

/-- The count, the latch and the blotter of a lane timeout (R151, R153). -/
def Ch.noteLaneTimeout (e : Env) (l : Nat) (c : Ch) : Ch :=
  let c2 := ({ c with bw := { c.bw with tmo := inc c.bw.tmo } }).latchLane e l
  c2.blotTrigger e 2 (at_ 63 32 (c.lane l).gen.toNat + l)

/-- What every lane timeout does before its ACTION (R151): fault, count, latch, blotter. -/
def Ch.laneTimesOut (e : Env) (l : Nat) (c : Ch) : Ch :=
  (c.raise e .bw 1 { addr := (c.lane l).addr l, access := 5, key := l }).noteLaneTimeout e l

end Sys2Proof.Machine
end

