-- ==== Sys2Proof/Machine/Numerics.lean ====
section
/-! DEFINITION. Reduction arithmetic (R172, R173, R180 to R185, R188, R189), computed exactly: a finite value is a
sign and a whole number of units of 2^-149, the smallest subnormal of binary32, rounded to nearest even where a
rule rounds. -/

namespace Sys2Proof.Machine

/-- The operations of R172. -/
abbrev opNone : Nat := 0
abbrev opMax : Nat := 1
abbrev opMin : Nat := 2
abbrev opSum : Nat := 3
abbrev opAmax : Nat := 4
abbrev opOr : Nat := 5
abbrev opAnd : Nat := 6
abbrev opNfcnt : Nat := 7

/-- The formats of R173. -/
abbrev fmFp32 : Nat := 0
abbrev fmBf16 : Nat := 1
abbrev fmFp16 : Nat := 2
abbrev fmInt32 : Nat := 3
abbrev fmUint32 : Nat := 4
abbrev fmE8m0 : Nat := 5

/-! ## Floating-point values -/

/-- A floating-point value: NaN, an infinity, or sign and magnitude in units of 2^-149 (so −0 is kept). -/
inductive FVal where
  | nan
  | inf (neg : Bool)
  | fin (neg : Bool) (mag : Nat)
  deriving DecidableEq, Repr

/-- The value of a binary32 word. -/
def decode32 (w : Nat) : FVal :=
  let s := bit w 31
  let ex := fld w 30 23
  let fr := fld w 22 0
  if ex = 255 then (if fr = 0 then .inf s else .nan)
  else if ex = 0 then .fin s fr
  else .fin s ((2 ^ 23 + fr) * 2 ^ (ex - 1))

/-- The value of a binary16 word. -/
def decode16 (w : Nat) : FVal :=
  let s := bit w 15
  let ex := fld w 14 10
  let fr := fld w 9 0
  if ex = 31 then (if fr = 0 then .inf s else .nan)
  else if ex = 0 then .fin s (fr * 2 ^ 125)
  else .fin s ((2 ^ 10 + fr) * 2 ^ (ex + 124))

/-- A magnitude rounded to nearest even at precision `p`, to multiples of at least 2^`u` units. -/
def roundMag (p u m : Nat) : Nat :=
  let k := max u (Nat.log2 m + 1 - p)
  let q := m / 2 ^ k
  let r := m % 2 ^ k
  if 2 * r > 2 ^ k ∨ (2 * r = 2 ^ k ∧ q % 2 = 1) then (q + 1) * 2 ^ k else q * 2 ^ k

/-- The binary32 word of a magnitude that binary32 holds exactly. -/
def magWord32 (m : Nat) : Nat :=
  let e := Nat.log2 m
  if e < 23 then m else (e - 22) * 2 ^ 23 + (m / 2 ^ (e - 23) - 2 ^ 23)

/-- The binary16 word of a magnitude that binary16 holds exactly. -/
def magWord16 (m : Nat) : Nat :=
  let e := Nat.log2 m
  if e < 135 then m / 2 ^ 125 else (e - 134) * 2 ^ 10 + (m / 2 ^ (e - 10) - 2 ^ 10)

/-- The least magnitude beyond binary32's and bfloat16's range, and beyond binary16's. -/
abbrev over32 : Nat := 2 ^ 277
abbrev over16 : Nat := 2 ^ 165

/-- A value as a binary32 word (rounded, saturated), and whether it saturated (R182). -/
def encode32 : FVal → Nat × Bool
  | .nan => (0x7FC00000, false)
  | .inf s => (0x7F800000 + at_ 31 31 (b01 s), false)
  | .fin s m =>
    let r := roundMag 24 0 m
    if over32 ≤ r then (0x7F7FFFFF + at_ 31 31 (b01 s), true) else (magWord32 r + at_ 31 31 (b01 s), false)

/-- Conversion to bfloat16 (R183). -/
def encodeBf16 : FVal → Nat × Bool
  | .nan => (0x7FC0, false)
  | .inf s => (0x7F80 + at_ 15 15 (b01 s), false)
  | .fin s m =>
    let r := roundMag 8 16 m
    if over32 ≤ r then (0x7F7F + at_ 15 15 (b01 s), true) else (magWord32 r / 2 ^ 16 + at_ 15 15 (b01 s), false)

/-- Conversion to binary16 (R183). -/
def encode16 : FVal → Nat × Bool
  | .nan => (0x7E00, false)
  | .inf s => (0x7C00 + at_ 15 15 (b01 s), false)
  | .fin s m =>
    let r := roundMag 11 125 m
    if over16 ≤ r then (0x7BFF + at_ 15 15 (b01 s), true) else (magWord16 r + at_ 15 15 (b01 s), false)

/-- The value of a payload word in a floating-point format. -/
def decodeF (fmt w : Nat) : FVal :=
  if fmt = fmFp16 then decode16 (fld w 15 0)
  else if fmt = fmBf16 then decode32 (fld w 15 0 * 2 ^ 16)
  else decode32 (fld w 31 0)

/-- Order of values with +0 above −0 (R181); NaN does not come here. -/
def FVal.key : FVal → Int
  | .nan => 0
  | .inf s => if s then -(2 ^ 300 : Int) else 2 ^ 300
  | .fin s m => if s then -(m : Int) - 1 else m

/-- The magnitude of a value (R181, AMAX). -/
def FVal.abs : FVal → FVal
  | .nan => .nan
  | .inf _ => .inf false
  | .fin _ m => .fin false m

/-- The signed number of units of a finite value. -/
def FVal.units : FVal → Int
  | .fin s m => if s then -(m : Int) else m
  | _ => 0

/-- The exact sum of two values; rounding is left to the encoding (R182). -/
def FVal.add : FVal → FVal → FVal
  | .nan, _ => .nan
  | _, .nan => .nan
  | .inf s, .inf t => if s = t then .inf s else .nan
  | .inf s, _ => .inf s
  | _, .inf t => .inf t
  | .fin s m, .fin t n =>
    let u := (FVal.fin s m).units + (FVal.fin t n).units
    if u = 0 then .fin (s && t) 0 else .fin (decide (u < 0)) u.natAbs

/-- MAX, MIN, AMAX and SUM of two accumulator values as binary32, and whether the sum saturated (R181, R182). -/
def mergeF (op : Nat) (a b : FVal) : Nat × Bool :=
  match a, b with
  | .nan, _ => encode32 .nan
  | _, .nan => encode32 .nan
  | a, b =>
    if op = opMax then encode32 (if a.key < b.key then b else a)
    else if op = opMin then encode32 (if b.key < a.key then b else a)
    else if op = opAmax then encode32 (if a.abs.key < b.abs.key then b.abs else a.abs)
    else encode32 (a.add b)

/-! ## Accumulator words (R180) -/

/-- FP32, BF16 and FP16. -/
def isFloat (fmt : Nat) : Bool := decide (fmt ≤ fmFp16)

/-- A contribution that is NaN or infinite in its format (R186): 0 NaN, 1 +Inf, 2 −Inf. -/
def nonFinite (fmt w : Nat) : Option Nat :=
  if fmt = fmE8m0 then (if fld w 7 0 = 0xFF then some 0 else none)
  else if isFloat fmt then
    match decodeF fmt w with
    | .nan => some 0
    | .inf s => some (if s then 2 else 1)
    | .fin _ _ => none
  else none

/-- The magnitude of an INT32 word, 0 to 2^31. -/
def mag32 (w : Nat) : Nat := if fld w 31 31 = 1 then 2 ^ 32 - fld w 31 0 else fld w 31 0

/-- A 32-bit word as a signed number. -/
def signed32 (w : Nat) : Int := if fld w 31 31 = 1 then (fld w 31 0 : Int) - 2 ^ 32 else fld w 31 0

/-- A contribution in accumulator form (R180). -/
def accForm (op fmt w : Nat) : Nat :=
  if op = opNfcnt then b01 (nonFinite fmt w).isSome
  else if isFloat fmt then
    (encode32 (if op = opAmax then (decodeF fmt w).abs else decodeF fmt w)).1
  else if op = opSum then (if fmt = fmInt32 then word64 (signed32 w) else fld w 31 0)
  else if op = opAmax then mag32 w
  else if fmt = fmE8m0 then fld w 7 0
  else fld w 31 0

/-- Two accumulator words combined (R181, R182, R184), and whether the word's RANGE is set. -/
def accMerge (op fmt a b : Nat) : Nat × Bool :=
  if op = opNfcnt then ((a + b) % 2 ^ 64, false)
  else if isFloat fmt then mergeF op (decode32 a) (decode32 b)
  else if op = opSum then ((a + b) % 2 ^ 64, false)
  else if op = opOr then (a ||| b, false)
  else if op = opAnd then (a &&& b, false)
  else if fmt = fmE8m0 then
    (if a = 0xFF ∨ b = 0xFF then 0xFF else if op = opMax then max a b else min a b, false)
  else if fmt = fmInt32 ∧ op ≠ opAmax then
    (if op = opMax then (if signed32 a < signed32 b then b else a)
     else (if signed32 b < signed32 a then b else a), false)
  else (if op = opMin then min a b else max a b, false)

/-- An accumulator word in its result format (R183, R184), and whether RANGE is set. -/
def accResult (op fmt a : Nat) : Nat × Bool :=
  if op = opNfcnt then (if 2 ^ 32 - 1 < a then (2 ^ 32 - 1, true) else (a, false))
  else if fmt = fmFp32 then (a, false)
  else if fmt = fmBf16 then encodeBf16 (decode32 a)
  else if fmt = fmFp16 then encode16 (decode32 a)
  else if op = opSum ∧ fmt = fmInt32 then
    let i := signed64 a
    if 2 ^ 31 - 1 < i then (0x7FFFFFFF, true)
    else if i < -(2 ^ 31) then (0x80000000, true)
    else (word32 i, false)
  else if op = opSum then (if 2 ^ 32 - 1 < a then (2 ^ 32 - 1, true) else (a, false))
  else if op = opAmax ∧ fmt = fmInt32 then (if 2 ^ 31 ≤ a then (0x7FFFFFFF, true) else (a, false))
  else (a, false)

/-- The result of an empty word (R185). -/
def emptyResult (op : Nat) : Nat := if op = opAnd then 0xFFFFFFFF else 0

/-! ## Configuration (R171) and scale rules (R188 to R190) -/

/-- OP of payload word `k`. -/
def cfgOp (cfg k : Nat) : Nat := fld cfg (6 * k + 2) (6 * k)
/-- FMT of payload word `k`. -/
def cfgFmt (cfg k : Nat) : Nat := fld cfg (6 * k + 5) (6 * k + 3)
/-- RULE_EN. -/
def cfgRuleEn (cfg : Nat) : Bool := bit cfg 59
/-- DELIVER. -/
def cfgDeliver (cfg : Nat) : Nat := fld cfg 58 56
/-- RULE. -/
def cfgRule (cfg : Nat) : Nat := fld cfg 55 48
/-- Element format of word `k` in a rule's word 0. -/
def ruleElem (r0 k : Nat) : Nat := fld r0 (4 * k + 3) (4 * k)

/-- The emax of an element format (R188). -/
def elemEmax (code : Nat) : Nat :=
  match code with
  | 1 => 2 | 2 => 4 | 3 => 2 | 4 => 8 | 5 => 15 | 8 => 2 | _ => 0

/-- A shared-scale code (R189): the code, ZERO_BLOCK and RANGE. -/
def scaleCode (code : Nat) (amax : FVal) : Nat × Bool × Bool :=
  match amax with
  | .nan => (0xFF, false, false)
  | .inf _ => (0xFF, false, false)
  | .fin _ m =>
    if m = 0 then (127, true, false)
    else
      let v : Int := (Nat.log2 m : Int) - 149 - elemEmax code
      if v < -127 then (0, false, true)
      else if 127 < v then (254, false, true)
      else ((v + 127).toNat, false, false)

/-- Whether a word's OP and FMT are permitted together (R174). -/
def opFmtOk (op fmt : Nat) : Bool :=
  if 6 ≤ fmt then false
  else if op = opNone then true
  else if op = opMax ∨ op = opMin then true
  else if op = opSum then decide (fmt ≤ 4)
  else if op = opAmax then decide (fmt ≤ 3)
  else if op = opOr ∨ op = opAnd then decide (fmt = 3 ∨ fmt = 4)
  else decide (fmt ≤ 2 ∨ fmt = 5)

end Sys2Proof.Machine
end

