-- ==== Sys2Proof/Machine/Barriers.lean ====
section
/-! DEFINITION. Counted barriers (R156 to R169) and the payload record of a reduction-capable one (R170, R192 to
R196): arrivals, releases with their results, timeouts, resets, poisoning. -/

namespace Sys2Proof.Machine

/-! ## Records -/

/-- Barrier `i` as stored. -/
def Ch.bar (c : Ch) (i : Nat) : Bar := c.os.bars.get {} i

/-- Stores barrier `i`. -/
def Ch.putBar (i : Nat) (b : Bar) (c : Ch) : Ch := { c with os := { c.os with bars := c.os.bars.put {} i b } }

/-- The payload record of barrier `i`. -/
def Ch.pay (c : Ch) (i : Nat) : Payload := c.ru.pay.get {} i

/-- Stores the payload record of barrier `i`. -/
def Ch.putPay (i : Nat) (p : Payload) (c : Ch) : Ch := { c with ru := { c.ru with pay := c.ru.pay.put {} i p } }

/-- The configuration word of barrier `i` (R171). -/
def Ch.cfg (c : Ch) (i : Nat) : Nat := c.img.cfgs.get 0 i

/-- The accumulator that serves a generation (R178). -/
def Payload.acc (p : Payload) (gen : BitVec 32) : Acc := if gen.getLsbD 0 then p.acc1 else p.acc0

/-- A record with the accumulator of one generation replaced. -/
def Payload.setAcc (p : Payload) (gen : BitVec 32) (a : Acc) : Payload :=
  if gen.getLsbD 0 then { p with acc1 := a } else { p with acc0 := a }

/-- Scetor time bits [39:8] (R157). -/
def startOf (stamp : Nat) : Nat := fld stamp 39 8

/-! ## Accord objects bound to a local object (R271) -/

/-- The accord object that an end object is bound to, if any: the lowest valid object whose local word names it. -/
def Ch.accObj (c : Ch) (o : EndObj) : Option Nat :=
  if c.la.accord = 0 then none
  else
    (c.img.locals.find? (fun p =>
      bit p.2 63 && bit (c.img.commons.get 0 p.1) 63 &&
        (match o with
         | .lane l => !bit (c.img.commons.get 0 p.1) 62 && fld p.2 36 32 = l
         | .bar i => bit (c.img.commons.get 0 p.1) 62 && fld p.2 46 32 = i))).map (·.1)

/-- Whether an accord object combines payloads (R271). -/
def Ch.accReduce (c : Ch) (k : Nat) : Bool := bit (c.img.commons.get 0 k) 61

/-- A barrier whose accord has broken or failed refuses arrivals with FENCED (R277, R266). -/
def Ch.accFenced (c : Ch) (i : Nat) : Bool := (c.accObj (.bar i)).isSome && (c.la.st = .broken || c.la.st = .failed)

/-! ## How waits on a barrier end -/

/-- RESULT of a barrier wait that a release or a timeout ends (R164, R197): the record as it stands with the flags of the
wait's own arrival, or the generation for a BAR_REDUCE_ARRIVE. -/
def barWaitResult (b : Bar) (w : Parked) : Nat :=
  if w.opcode = opBarReduceArrive then w.gen.toNat else b.result (bit w.found 58) (bit w.found 59)

/-- Ends waits on a barrier without a release (R163, R197). After anything but a timeout RESULT shows the record after the
wait's own arrival (R164, DEDUCED). -/
def Ch.endBarWaits (e : Env) (i status : Nat) : List Parked → Ch → Ch
  | [], c => c
  | w :: ws, c =>
    Ch.endBarWaits e i status ws
      (if c.hw.parked.contains w then c.endWait e status (if status = stTimeout then barWaitResult (c.bar i) w else w.found) {} w
       else c)

/-- Ends the waits of a released generation (R161, R195): `status` and the flags of the release, and the delivered
item for a BAR_REDUCE_ARRIVE. -/
def Ch.releaseWaits (e : Env) (i status item : Nat) (rf : RFlags) : List Parked → Ch → Ch
  | [], c => c
  | w :: ws, c =>
    Ch.releaseWaits e i status item rf ws
      (if c.hw.parked.contains w then
        c.endWait e status (if w.opcode = opBarReduceArrive then item else barWaitResult (c.bar i) w) rf w
       else c)

/-- The waits parked for one generation of barrier `i`. -/
def Ch.genWaits (c : Ch) (i : Nat) (g : BitVec 32) : List Parked := (c.waiters clBar i).filter (fun w => w.gen = g)

/-- Answers the BAR_ARRIVE that completed a generation of a reduction-capable barrier (R195). -/
def Ch.answerLate (e : Env) (i : Nat) (g : BitVec 32) (status : Nat) (rf : RFlags) (c : Ch) : Ch :=
  (c.ru.late.filter (fun l => l.bar = i && l.gen = g)).foldl
    (fun c l => c.respond e l.phys opBarArrive status l.tag ((c.bar i).result l.early true) rf true true)
    { c with ru := { c.ru with late := c.ru.late.filter (fun l => !(l.bar = i && l.gen = g)) } }

/-- Poisons barrier `i` (R166, R87). -/
def Ch.poisonBar (e : Env) (i : Nat) (c : Ch) : Ch :=
  let b := c.bar i
  if b.poisoned then c
  else
    let c1 := c.putBar i { b with poisoned := true }
    (c1.endBarWaits e i stPoisoned (c1.waiters clBar i)).answerLate e i b.gen stOk {}

/-- The read of barrier `i`, its bitmaps and, if strict, its mask (R166, R309). -/
def Ch.readBar (e : Env) (o : Op) (i : Nat) (c : Ch) : Ch :=
  let r := c.readEcc e .os 0 (i % 8) (barWord i) 4 o.arrayCause
  let c1 := if r.2 then r.1.poisonBar e i else r.1
  if barStrict i then
    let k := b01 ((c1.bar i).gen.getLsbD 0)
    let r1 := c1.readEcc e.quiet .os 0 (i % 8) (bitmapWord i k o.lid) 1 o.arrayCause
    let r2 := r1.1.readEcc e.quiet .os 0 (i % 8) (bitmapWord i (1 - k) o.lid) 1 o.arrayCause
    let r3 := r2.1.readMask e (c1.bar i).mask
    if r1.2 || r2.2 || r3.2 then r3.1.poisonBar e i else r3.1
  else c1

/-! ## Arrivals (R159) -/

/-- What R159 decides of an arrival: refused with a status and, for RE_ARRIVAL, its kind; counted for GEN; counted
for GEN + 1. -/
inductive Arrival where
  | refused (status : Nat) (kind : Option Nat)
  | counted
  | early
  deriving DecidableEq, Repr

/-- The outcome of an arrival `d` generations ahead of GEN (R159); `held` is GATED, or a release pending in the RU
(R179), and `isMember` the sender's bit of mask MASK. -/
def arrival (b : Bar) (strict isMember : Bool) (lid : Nat) (d : BitVec 32) : Arrival :=
  if b.poisoned then .refused stPoisoned none
  else if strict && !isMember then .refused stNotMember none
  else if d = 0 then
    if b.gated || b.ruPending then .refused stReArrival (some 0)
    else if strict && b.cur.contains lid then .refused stReArrival (some 0)
    else .counted
  else if d = 1 then
    if strict && b.nxt.contains lid then .refused stReArrival (some 0)
    else if strict && !b.cur.contains lid then .refused stReArrival (some 3)
    else if b.early = b.target then .refused stReArrival (some 0)
    else .early
  else if d.toNat < 2 ^ 31 then .refused stReArrival (some 1)
  else if d = 0xFFFFFFFF ∧ b.prevTmo then .refused stTimeout none
  else .refused stReArrival (some 2)

/-- The record after an accepted arrival (R159 orders 5 and 9, R165). -/
def Bar.take (b : Bar) (strict : Bool) (lid stamp : Nat) (early : Bool) : Bar :=
  if early then
    { b with early := b.early + 1, last := lid, nxt := if strict then insertId lid b.nxt else b.nxt }
  else
    { b with count := b.count + 1, last := lid, cur := if strict then insertId lid b.cur else b.cur,
             start := if b.count = 0 then startOf stamp else b.start }

/-- A refused arrival: its counts, records and fault (R159). -/
def Ch.refuseArrival (e : Env) (o : Op) (i : Nat) (named : Nat) (status : Nat) (kind : Option Nat) (c : Ch) : Ch :=
  match kind with
  | some k =>
    ({ c with os := { c.os with barRearr := inc c.os.barRearr, reGen := named, reKind := k, reLid := o.lid,
                                reIndex := i } }).raise e .os 10 { o.cause with addr := at_ 54 52 clBar + at_ 50 28 i }
  | none =>
    if status = stNotMember then
      ({ c with os := { c.os with barNotMem := inc c.os.barNotMem } }).raise e .os 11
        { o.cause with addr := at_ 54 52 clBar + at_ 50 28 i }
    else c

/-! ## Releases (R161, R194) -/

/-- An accumulator whose SEEN, RANGE and NF bits are cleared (R194, R199); its words stay. -/
def Acc.emptied (a : Acc) : Acc := { a with seen := 0, range := 0, nf := false }

/-- The release of a reduction-capable barrier's record (R194): the finalised result is written, the accumulator
just used is cleared. -/
def Ch.releasePay (i : Nat) (gen : BitVec 32) (lean : Bool) (c : Ch) : Ch :=
  let p := c.pay i
  let f : Final := c.ru.fin.get {} i
  let p1 := { p with res := f.res, scales := f.scales, header := setFld f.header 58 58 (b01 lean) }
  let c1 := c.putPay i (p1.setAcc gen (p.acc gen).emptied)
  { c1 with ru := { c1.ru with
      fin := c1.ru.fin.drop i,
      ranges := if fld f.header 39 32 ≠ 0 then inc c1.ru.ranges else c1.ru.ranges,
      zeros := sat64 (c1.ru.zeros + popCount 8 (fld f.header 47 40)),
      rescales := if bit f.header 57 then inc c1.ru.rescales else c1.ru.rescales } }

/-- The response flags of a release (R195, R250). -/
def headerFlags (header : Nat) (lean : Bool) : RFlags :=
  { range := decide (fld header 39 32 ≠ 0), zeroBlock := decide (fld header 47 40 ≠ 0), rescale := bit header 57,
    lean := lean }

/-- The item DELIVER selects (R171). -/
def deliver (cfg : Nat) (p : Payload) : Nat :=
  let d := cfgDeliver cfg
  if d ≤ 3 then p.res.get 0 d else if d = 4 then p.scales else p.header

/-- After a release the next generation may already be complete: a plain barrier completes, a reduction-capable one
waits for its last arrival to be combined, or is finalised (R161, R179). -/
def Ch.chainBar (i : Nat) (c : Ch) : Ch :=
  let b := c.bar i
  if b.count = b.target ∧ 0 < b.target ∧ !b.poisoned then
    if barReduce i then
      let c1 := c.putBar i { b with ruPending := true }
      let mine := c1.ru.queue.filter (fun a => a.bar = i && a.gen = b.gen)
      if mine.isEmpty then { c1 with todo := c1.todo ++ [.finalise i] }
      else
        -- mark the last queued arrival of the generation as the completing one
        let rec mark : List RuArrival → List RuArrival
          | [] => []
          | a :: l => if a.bar = i ∧ a.gen = b.gen ∧ !(l.any (fun x => x.bar = i && x.gen = b.gen)) then
                        { a with completes := true } :: l else a :: mark l
        { c1 with ru := { c1.ru with queue := mark c1.ru.queue } }
    else { c with todo := c.todo ++ [.complete (.bar i)] }
  else c

/-- The record after a generation ends (R161, R165). After a wake timeout START is now where the new COUNT is non-zero, as after
a release: R165's list does not name START (DESIGN CHOICE, log entry 73). -/
def Bar.advance (b : Bar) (stamp : Nat) (tmo : Bool) : Bar :=
  { b with gen := b.gen + 1, count := b.early, early := 0, prevTmo := tmo,
           holding := false, gated := false, ruPending := false,
           start := if b.early = 0 then b.start else startOf stamp, cur := b.nxt, nxt := [] }

/-- The release of a complete generation (R161). -/
def Ch.releaseBar (e : Env) (i : Nat) (lean : Bool) (c : Ch) : Ch :=
  let b := c.bar i
  let c1 := c.putBar i (b.advance e.stamp false)
  if barReduce i then
    let c2 := c1.releasePay i b.gen lean
    let p := c2.pay i
    let status := if bit p.header 56 then stNonfinite else stOk
    let rf := headerFlags p.header lean
    ((c2.answerLate e i b.gen status rf).releaseWaits e i status (deliver (c.cfg i) p) rf (c2.genWaits i b.gen)).chainBar i
  else
    (c1.releaseWaits e i stOk 0 { lean := lean } (c1.genWaits i b.gen)).chainBar i

/-- A generation ends by wake timeout (R165, R199), or is discarded as its phase restarts (R241); its waits end with `status`. Its
arrivals that still wait in the RU ingress queue leave it uncombined and are not counted in RU_ARRIVAL_COUNT (DESIGN CHOICE, log
entry 74). -/
def Ch.discardBar (e : Env) (i : Nat) (status : Nat) (tmo : Bool) (c : Ch) : Ch :=
  let b := c.bar i
  let c1 := c.putBar i (b.advance e.stamp tmo)
  let c2 := if barReduce i then
      let c2 := c1.putPay i ((c1.pay i).setAcc b.gen ((c1.pay i).acc b.gen).emptied)
      { c2 with ru := { c2.ru with fin := c2.ru.fin.drop i,
                                   queue := c2.ru.queue.filter (fun a => !(a.bar = i && a.gen = b.gen)) } }
    else c1
  ((c2.answerLate e i b.gen stOk {}).endBarWaits e i status (c2.genWaits i b.gen)).chainBar i

/-! ## Timeouts (R165) -/

/-- The counted-barrier timer of R427 has expired. -/
def Bar.expired (b : Bar) (time : Nat) : Bool :=
  decide (b.count ≠ 0) && !b.gated && !b.ruPending && !b.holding && !b.poisoned && decide (b.timeoutUs ≠ 0)
    && decide (ceilDiv (1000 * b.timeoutUs) 256 + 1 ≤ (fld time 39 8 + 2 ^ 32 - b.start) % 2 ^ 32)

/-- The records, the latch and the blotter of a barrier timeout (R165). -/
def Ch.noteBarTimeout (e : Env) (i : Nat) (c1 : Ch) : Ch :=
  let b := c1.bar i
  let c2 := { c1 with os := { c1.os with
      barTmo := inc c1.os.barTmo, toGen := b.gen.toNat, toAction := b.action, toCount := b.count, toIndex := i,
      toTime := e.stamp,
      nam := if barStrict i then (bitsBelow 2048 (c1.mask b.mask)).filter (fun m => !b.cur.contains m)
             else c1.os.nam } }
  c2.blotTrigger e 3 (at_ 63 32 b.gen.toNat + i)

/-- What every barrier timeout does before its ACTION (R165). -/
def Ch.barTimesOut (e : Env) (i : Nat) (c : Ch) : Ch :=
  (c.raise e .os 12 { addr := at_ 54 52 clBar + at_ 50 28 i, access := 5 }).noteBarTimeout e i

/-! ## Resets (R166, R199) -/

/-- The payload side of a reset (R199): accumulators, results, pending work and staged trains go. -/
def Ch.resetPay (i : Nat) (c : Ch) : Ch :=
  if barReduce i then
    let kept := c.ru.staged.filter (fun t => t.bar ≠ i)
    { c with ru := { c.ru with
        pay := c.ru.pay.drop i, fin := c.ru.fin.drop i, queue := c.ru.queue.filter (fun a => a.bar ≠ i),
        staged := kept, discards := sat64 (c.ru.discards + (c.ru.staged.length - kept.length)) } }
  else c

/-- A barrier takes its image record again (R166); LAST reads `last`. -/
def Ch.resetBar (e : Env) (i last : Nat) (c : Ch) : Ch :=
  let g := (c.bar i).gen
  let rest := c.img.bars.get {} i
  let b := { rest with last := last, poisoned := false, cur := [], nxt := [], gated := false, holding := false,
                       ruPending := false }
  let c1 := (c.putBar i b).resetPay i
  (c1.endBarWaits e i stCancelled (c1.waiters clBar i)).answerLate e i g stOk {}

end Sys2Proof.Machine
end

