-- ==== Sys2Proof/Machine/Budget.lean ====
section
/-! DEFINITION. What the sequencer and the budget gate look up (R225 to R232, R243 to R249): entries, scores, end
objects, thermal class, choice tables, the pass test and the charge. -/

namespace Sys2Proof.Machine

/-! ## Phase entries (R228) -/

/-- VALID. -/
def Entry.valid (n : Entry) : Bool := bit n.w0 63
/-- The end object. -/
def Entry.endObj (n : Entry) : EndObj := if bit n.w0 62 then .bar (fld n.w0 54 40) else .lane (fld n.w0 44 40)
/-- GATE. -/
def Entry.gate (n : Entry) : Bool := bit n.w0 61
/-- NSUCC. -/
def Entry.nsucc (n : Entry) : Nat := fld n.w0 60 58
/-- BAYS. -/
def Entry.bays (n : Entry) : Nat := fld n.w0 39 32
/-- COST in µJ. -/
def Entry.cost (n : Entry) : Nat := fld n.w0 31 0
/-- SUCC_k. -/
def Entry.succ (n : Entry) (k : Nat) : Nat := fld n.w1 (16 * k + 15) (16 * k)
/-- CHOICE. -/
def Entry.choice (n : Entry) : Nat := fld n.w2 63 52
/-- DEADLINE_US. -/
def Entry.deadlineUs (n : Entry) : Nat := fld n.w2 51 32
/-- RESET_LEN. -/
def Entry.resetLen (n : Entry) : Nat := fld n.w2 26 17
/-- RESET_PTR. -/
def Entry.resetPtr (n : Entry) : Nat := fld n.w2 16 0

/-- Phase entry `n`. -/
def Ch.entry (c : Ch) (n : Nat) : Entry := c.img.entries.get {} n

/-- Sequence `s`. -/
def Ch.seq (c : Ch) (s : Nat) : Seq := c.ps.seqs.get {} s

/-- Stores sequence `s`. -/
def Ch.putSeq (s : Nat) (q : Seq) (c : Ch) : Ch := { c with ps := { c.ps with seqs := c.ps.seqs.put {} s q } }

/-- The sequence in RUN whose current phase ends at an object (R231, R232). -/
def Ch.seqEnding (c : Ch) (o : EndObj) : Option Nat :=
  (List.range 16).find? (fun s => (c.seq s).st = .run && (c.entry (c.seq s).entry).endObj = o)

/-- Another sequence than `s` whose current phase has the same end object (R231). -/
def Ch.conflicts (c : Ch) (s : Nat) (o : EndObj) : Bool :=
  (List.range 16).any (fun t => t ≠ s && ((c.seq t).st = .run || (c.seq t).st = .held)
    && (c.entry (c.seq t).entry).endObj = o)

/-! ## Reads of the phase tables (array 4 of R424) -/

/-- The read of a phase-table word: answers whether it is bad (R313, PS_UE). -/
def Ch.readPs (e : Env) (bank word n : Nat) (c : Ch) : Ch × Bool :=
  if c.ps.badWords.contains (bank, word) then (c, true)
  else
    let r := c.readEcc e.quiet .ps 4 bank word n { access := 4 }
    if r.2 then ({ r.1 with ps := { r.1.ps with badWords := r.1.ps.badWords ++ [(bank, word)] } }, true)
    else (r.1, false)

/-! ## Heat (R245, R289) and choice (R246) -/

/-- The thermal class of bay `b` as the gate of this channel uses it. -/
def Env.gateClass (e : Env) (b : Nat) : Nat :=
  if bit (tblBayView e.pt.table e.chan) b then (if e.stale.contains b then 3 else e.classes.get 0 b) else 0

/-- The class of a phase (R245). -/
def Env.phaseClass (e : Env) (n : Entry) : Nat :=
  let bays := if n.bays = 0 then 0xFF else n.bays
  ((bitsBelow 8 bays).map e.gateClass).foldl max 0

/-- The budget level of R246. -/
def Ch.level (c : Ch) : Nat :=
  if c.bg.bucket ≤ 0 ∨ c.img.capUj = 0 then 0
  else min 7 ((8 * c.bg.bucket) / (1000 * c.img.capUj : Int)).toNat

/-- The successor index chosen at completion (R233 step 1, R246). -/
def Ch.chooses (e : Env) (n : Entry) (c : Ch) : Nat :=
  if n.nsucc ≤ 1 then 0
  else
    let f := 4 * c.level + e.phaseClass n
    fld (c.img.choices.get 0 n.choice) (2 * f + 1) (2 * f)

/-! ## The gate (R243, R247) -/

/-- The bucket covers the cost of a successor. -/
def Ch.covers (c : Ch) (succ : Nat) : Bool := decide ((1000 * (c.entry succ).cost : Int) ≤ c.bg.bucket)

/-- The class condition of R247 for a completing phase. -/
def Ch.cool (e : Env) (n : Entry) (c : Ch) : Bool := decide (e.phaseClass n < c.img.therm)

/-- The conditions of R247 but for the queue. -/
def Ch.gateOk (e : Env) (n : Entry) (succ : Nat) (c : Ch) : Bool := c.covers succ && c.cool e n && !e.trip

/-- A pass is charged (R243). -/
def Ch.charge (succ : Nat) (c : Ch) : Ch :=
  let cost := (c.entry succ).cost
  { c with bg := { c.bg with
      bucket := max (c.bg.bucket - 1000 * cost) (-(1000 * c.img.capUj : Int)), passes := inc c.bg.passes,
      chargedUj := sat64 (c.bg.chargedUj + cost) } }

/-- Whether the completion of barrier `i` releases it within the completing op's own cycles: not bound to an accord,
and not waiting at the gate. -/
def Ch.releasesNow (e : Env) (i : Nat) (c : Ch) : Bool :=
  if (c.accObj (.bar i)).isSome then false
  else
    match c.seqEnding (.bar i) with
    | none => true
    | some s =>
      let n := c.entry (c.seq s).entry
      if n.nsucc = 0 || !n.gate || c.ctl.st ≠ .run then true
      else c.bg.holdQ.isEmpty && c.gateOk e n (n.succ (c.chooses e n))

/-- Barrier `i` is the end object of a sequence's current phase with GATE = 1 (R162). -/
def Ch.gatedEnd (c : Ch) (i : Nat) : Bool :=
  match c.seqEnding (.bar i) with
  | none => false
  | some s => (c.entry (c.seq s).entry).gate

end Sys2Proof.Machine
end

