-- ==== Sys2Proof/Machine/Reductions.lean ====
section
/-! DEFINITION. Barrier ops (R159, R162, R164, R175 to R179, R197, R198) and the reduction unit: staged trains,
the ingress queue, combination, finalisation (R178 to R187, R189, R191, R193). -/

namespace Sys2Proof.Machine

/-! ## Accepting an arrival -/

/-- Whether the sender is in the barrier's mask (R159 order 2). -/
def Ch.isMember (c : Ch) (i lid : Nat) : Bool := (c.mask (c.bar i).mask).testBit lid && decide (lid < 2048)

/-- What R159 decides of an arrival of `o` at barrier `i`, `d` generations ahead. -/
def Ch.arrivalAt (c : Ch) (o : Op) (i : Nat) (d : BitVec 32) : Arrival :=
  if c.accFenced i then .refused stFenced none
  else arrival (c.bar i) (barStrict i) (c.isMember i o.lid) o.lid d

/-- Whether an accepted arrival at barrier `i` completes its generation. -/
def Ch.wouldComplete (c : Ch) (i : Nat) : Bool := decide ((c.bar i).count + 1 = (c.bar i).target)

/-- Counts an accepted arrival (R159, R178): the record, the RU ingress queue for a reduction-capable barrier, and
the completion of the generation. A poisoned trailer poisons the barrier, which then cannot complete (R67, R232). -/
def Ch.acceptBar (e : Env) (o : Op) (i : Nat) (early : Bool) (words : SMap Nat) (c : Ch) : Ch :=
  let b := c.bar i
  let done := !early && c.wouldComplete i && !o.poisoned
  let b1 := b.take (barStrict i) o.lid e.stamp early
  let c1 := c.putBar i { b1 with ruPending := b.ruPending || (done && barReduce i) }
  let c2 := if barReduce i then
      { c1 with ru := { c1.ru with queue := c1.ru.queue ++
          [⟨i, if early then b.gen + 1 else b.gen, words, o.phys, o.lid, done⟩] } }
    else if done then { c1 with todo := c1.todo ++ [.complete (.bar i)] }
    else c1
  if o.poisoned then c2.poisonBar e i else c2

/-- RESULT of an arrival that is answered at once (R164): after its release, where that follows in the op's own
bank cycles. -/
def Ch.arrivedResult (e : Env) (i : Nat) (early : Bool) (c : Ch) : Nat :=
  let done := !early && c.wouldComplete i
  let b := c.bar i
  let b1 := b.take false 0 e.stamp early
  if done && !barReduce i && c.releasesNow e i then (b1.advance e.stamp false).result false true
  else b1.result early done

/-! ## BAR_ARRIVE and BAR_ARRIVE_WAIT -/

/-- BAR_ARRIVE (R159, R164, R195). A poisoned trailer poisons the barrier whatever its arrival's outcome (R67, R166). -/
def Ch.barArrive (e : Env) (o : Op) (c : Ch) : Ch × Reply :=
  let i := barIndex o.index
  let c1 := c.readBar e o i
  let b := c1.bar i
  let d := BitVec.ofNat 32 o.operand - b.gen
  match c1.arrivalAt o i d with
  | .refused status kind =>
    let c2 := c1.refuseArrival e o i (fld o.operand 31 0) status kind
    (if o.poisoned then c2.poisonBar e i else c2, .done status (b.result false false) {})
  | a =>
    let early := decide (a = .early)
    let r := c1.arrivedResult e i early
    let c2 := c1.acceptBar e o i early []
    if !early && c1.wouldComplete i && barReduce i && o.access = 1 && !o.poisoned then
      ({ c2 with ru := { c2.ru with late := c2.ru.late ++ [⟨i, b.gen, o.phys, o.tag, false⟩] } }, .later)
    else (c2, .done stOk r {})

/-- BAR_ARRIVE_WAIT (R162). -/
def Ch.barWait (e : Env) (o : Op) (c : Ch) : Verdict :=
  let i := barIndex o.index
  let c1 := c.readBar e o i
  let b := c1.bar i
  let g := BitVec.ofNat 32 o.operand
  match c1.arrivalAt o i (g - b.gen) with
  | .refused status kind =>
    .decided (c1.refuseArrival e o i (fld o.operand 31 0) status kind) status (b.result false false) {}
  | a =>
    let early := decide (a = .early)
    let done := !early && c1.wouldComplete i
    if done && !barReduce i && !c1.gatedEnd i && (c1.accObj (.bar i)).isNone then
      .decided (c1.acceptBar e o i early []) stOk (c1.arrivedResult e i early) {}
    else
      .park c1 (((c1.acceptBar e o i early []).bar i).result early done) g i g.toNat (fun c => c.acceptBar e o i early [])

/-! ## BAR_REDUCE_ARRIVE and BAR_READ_RESULT -/

/-- The two payload words of pair `p` placed in a word store (R47). -/
def pairWords (p operand : Nat) (m : SMap Nat) : SMap Nat :=
  (m.insert (2 * p) (fld operand 31 0)).insert (2 * p + 1) (fld operand 63 32)

/-- The sender's staged train, if it names this barrier and TAG (R175). -/
def Ch.stagedFor (c : Ch) (o : Op) (i : Nat) : Option Staged :=
  c.ru.staged.find? (fun t => t.lid = o.lid && t.bar = i && t.tag = o.tag)

/-- Discards the sender's staged train where it names another barrier or TAG, and counts it (R175). -/
def Ch.discardOther (o : Op) (i : Nat) (c : Ch) : Ch :=
  if c.ru.staged.any (fun t => t.lid = o.lid && !(t.bar = i && t.tag = o.tag)) then
    { c with ru := { c.ru with staged := c.ru.staged.filter (fun t => t.lid ≠ o.lid), discards := inc c.ru.discards } }
  else c

/-- A packet with LAST = 0 stages its pair (R175). -/
def Ch.stagePair (o : Op) (c : Ch) : Ch × Reply :=
  let i := barIndex o.index
  let c1 := c.discardOther o i
  let old := ((c1.stagedFor o i).map (·.pairs)).getD []
  let t : Staged := { lid := o.lid, bar := i, tag := o.tag, pairs := pairWords (pairField o.index) o.operand old }
  ({ c1 with ru := { c1.ru with staged := c1.ru.staged.filter (fun t => t.lid ≠ o.lid) ++ [t] } }, .done stOk 0 {})

/-- How far ahead G5 names a generation (R176), as a difference that R159 takes. -/
def g5Ahead (g5 : Nat) (gen : BitVec 32) : BitVec 32 :=
  let d := (g5 + 32 - gen.toNat % 32) % 32
  if d = 0 then 0 else if d = 1 then 1 else if d ≤ 15 then 2 else if d ≤ 30 then 0xFFFFFFFE else 0xFFFFFFFF

/-- The generation that G5 names (R176), the nearest one within 15 ahead or 16 behind (DEDUCED). -/
def g5Named (g5 : Nat) (gen : BitVec 32) : BitVec 32 :=
  let d := (g5 + 32 - gen.toNat % 32) % 32
  if d ≤ 15 then gen + BitVec.ofNat 32 d else gen - BitVec.ofNat 32 (32 - d)

/-- The LAST packet of a BAR_REDUCE_ARRIVE train (R175 to R177, R197). The staged train is cleared, and another one is discarded and
counted, also where the packet then meets SLOTS_FULL: R175 clears it whatever the outcome, R197 says "no change" (DESIGN CHOICE,
log entry 75). -/
def Ch.reduceWait (e : Env) (o : Op) (c : Ch) : Verdict :=
  let i := barIndex o.index
  let c0 := c.discardOther o i
  let words := pairWords (pairField o.index) o.operand (((c0.stagedFor o i).map (·.pairs)).getD [])
  let c1 := ({ c0 with ru := { c0.ru with staged := c0.ru.staged.filter (fun t => t.lid ≠ o.lid) } }).readBar e o i
  let b := c1.bar i
  match c1.arrivalAt o i (g5Ahead (g5Field o.index) b.gen) with
  | .refused status kind =>
    .decided (c1.refuseArrival e o i (g5Named (g5Field o.index) b.gen).toNat status kind) status b.gen.toNat {}
  | a =>
    let early := decide (a = .early)
    let g := if early then b.gen + 1 else b.gen
    .park c1 g.toNat g i g.toNat (fun c => c.acceptBar e o i early words)

/-- The read of a payload record (array 2): an uncorrectable word poisons the barrier (R199). -/
def Ch.readPay (e : Env) (o : Op) (i : Nat) (c : Ch) : Ch :=
  let r := c.readEcc e .ru 2 (i % 8) (24 * (i / 8)) 24 o.arrayCause
  if r.2 then r.1.poisonBar e i else r.1

/-- BAR_READ_RESULT (R198); AUX with PAIR 2 or 3 ends with BAD_INDEX as the outcome of the op (R54). -/
def Ch.readResult (e : Env) (o : Op) (c : Ch) : Ch × Reply :=
  let i := barIndex o.index
  let c1 := (c.readBar e.quiet o i).readPay e o i
  let p := c1.pay i
  if (c1.bar i).poisoned then (c1, .done stPoisoned (e.freeResult 0) {})
  else if lastField o.index then
    if 2 ≤ pairField o.index then (c1, .done stBadIndex (e.freeResult 0) {})
    else (c1, .done stOk (if pairField o.index = 0 then p.scales else p.header) {})
  else (c1, .done stOk (p.res.get 0 (pairField o.index)) {})

/-! ## Combination (R178, R180 to R186) -/

/-- One value folded into an accumulator word (R180): the first is stored, a later one combined. -/
def Acc.fold (a : Acc) (op fmt k form : Nat) : Acc :=
  if bit a.seen k then
    let r := accMerge op fmt (a.words.get 0 k) form
    { a with words := a.words.put 0 k r.1, range := if r.2 then setBit a.range k else a.range }
  else { a with words := a.words.put 0 k form, seen := setBit a.seen k }

/-- A non-finite contribution (R186): counted, and the first of its generation raises the fault and is recorded. -/
def Ch.trapNf (e : Env) (a : RuArrival) (k op fmt w kind : Nat) (first : Bool) (c : Ch) : Ch :=
  let c1 := { c with ru := { c.ru with nfCount := inc c.ru.nfCount } }
  if first then
    let c2 := if c1.ru.nfValid then c1 else
      { c1 with ru := { c1.ru with
          nfValid := true, nfGen := a.gen.toNat, nfWord := k, nfOp := op, nfFmt := fmt, nfKind := kind,
          nfIndex := a.bar, nfValue := w, nfPhys := a.phys, nfLid := a.lid, nfTime := e.stamp } }
    c2.raise e .ru 5 { addr := at_ 54 52 clBar + at_ 50 28 a.bar, master := some (a.lid, a.phys), cls := clBar,
                       opcode := opBarReduceArrive, access := 1 }
  else c1

/-- Folds payload word `k` of an arrival into its accumulator. -/
def Ch.combineWord (e : Env) (a : RuArrival) (k w : Nat) (c : Ch) : Ch :=
  let op := cfgOp (c.cfg a.bar) k
  let fmt := cfgFmt (c.cfg a.bar) k
  if op = opNone then c
  else
    let p := c.pay a.bar
    let acc := p.acc a.gen
    let acc1 := acc.fold op fmt k (accForm op fmt w)
    match if op = opNfcnt then none else nonFinite fmt w with
    | none => c.putPay a.bar (p.setAcc a.gen acc1)
    | some kind =>
      (c.putPay a.bar (p.setAcc a.gen { acc1 with nf := true })).trapNf e a k op fmt w kind (!acc.nf)

/-- Folds an arrival's words, in order. -/
def Ch.combineWords (e : Env) (a : RuArrival) : List (Nat × Nat) → Ch → Ch
  | [], c => c
  | (k, w) :: ws, c => Ch.combineWords e a ws (c.combineWord e a k w)

/-! ## Finalisation (R183 to R185, R189, R191, R193, R194) -/

/-- What finalisation makes of one word: its result, and its RANGE, EMPTY, scale code and ZERO_BLOCK. -/
structure WordResult where
  value : Nat
  range : Bool
  empty : Bool
  scale : Nat
  zero  : Bool
  deriving DecidableEq, Repr

/-- Finalises word `k` of an accumulator under a configuration and a rule's word 0 (0 where no rule applies). -/
def finalWord (cfg rule0 : Nat) (a : Acc) (k : Nat) : WordResult :=
  let op := cfgOp cfg k
  let fmt := cfgFmt cfg k
  let empty := decide (op = opNone) || !bit a.seen k
  let r := if empty then (emptyResult op, false) else accResult op fmt (a.words.get 0 k)
  let code := ruleElem rule0 k
  let sc := if code = 0 then (0, false, false)
            else scaleCode code (if empty then .fin false 0 else decodeF fmt r.1)
  { value := r.1, range := r.2 || bit a.range k || sc.2.2, empty := empty, scale := sc.1, zero := sc.2.1 }

/-- The finalised result of an accumulator (R193, R194), with LEAN still 0. -/
def finalOf (cfg rule0 rule1 : Nat) (gen : BitVec 32) (a : Acc) : Final :=
  let en := cfgRuleEn cfg
  let ws := (List.range 8).map (finalWord cfg (if en then rule0 else 0) a)
  let val := fun k => ((ws[k]?).map (·.value)).getD 0
  let mask := fun (f : WordResult → Bool) =>
    maskOf ((List.range 8).filter (fun k => ((ws[k]?).map f).getD false))
  let vc := en && bit rule0 35 && decide (fld rule1 31 0 < val (fld rule0 34 32))
  { res := [0, 1, 2, 3].foldl (fun m p => m.put 0 p (val (2 * p) + val (2 * p + 1) * 2 ^ 32)) [],
    scales := (List.range 8).foldl (fun n k => n + ((ws[k]?).map (·.scale)).getD 0 * 2 ^ (8 * k)) 0,
    header := at_ 59 59 1 + at_ 57 57 (b01 vc) + at_ 56 56 (b01 a.nf) + at_ 55 48 (mask (·.empty))
              + at_ 47 40 (mask (·.zero)) + at_ 39 32 (mask (·.range)) + at_ 31 0 gen.toNat }

/-- The RU finalises barrier `i` (R179, R194); an accord object's partial is not converted (R200). The phase or the
release comes next. -/
def Ch.finaliseBar (i : Nat) (c : Ch) : Ch :=
  let b := c.bar i
  if b.poisoned then c
  else
    let cfg := c.cfg i
    let partial_ := match c.accObj (.bar i) with | some k => c.accReduce k | none => false
    let f := finalOf cfg (c.img.rules0.get 0 (cfgRule cfg)) (c.img.rules1.get 0 (cfgRule cfg)) b.gen ((c.pay i).acc b.gen)
    let c1 := if partial_ then c else { c with ru := { c.ru with fin := c.ru.fin.put {} i f } }
    { c1 with todo := c1.todo ++ [.complete (.bar i)] }

/-- The payload words of barrier `i` whose OP is not NONE. -/
def Ch.combined (c : Ch) (i : Nat) : Nat := ((List.range 8).filter (fun k => cfgOp (c.cfg i) k ≠ opNone)).length

/-- The combine lanes take the entry at the head of the ingress queue (R178): n words occupy them for ceil(n / 2) cycles (R201). -/
def Ch.combineNext (e : Env) (c : Ch) : Ch :=
  match c.ru.queue with
  | [] => c
  | a :: rest =>
    let k : Cause := { master := some (a.lid, a.phys), cls := clBar, opcode := opBarReduceArrive }
    let r := ({ c with ru := { c.ru with queue := rest, head := (c.ru.head + 1) % 512,
                                         arrivals := inc c.ru.arrivals,
                                         cycles := sat64 (c.ru.cycles + ceilDiv (c.combined a.bar) 2) } }).readEccAs e.quiet .ru 4 3 0 c.ru.head 1 k
    if r.2 then r.1
    else
      let o : Op := { lid := a.lid, phys := a.phys, opcode := opBarReduceArrive, cls := clBar, index := a.bar }
      let c1 := (r.1.readPay e o a.bar).combineWords e a a.words
      if a.completes then { c1 with todo := c1.todo ++ [.finalise a.bar] } else c1

end Sys2Proof.Machine
end

