-- ==== Sys2Proof/Machine/Locks.lean ====
section
/-! DEFINITION. Locks on memory words (R205 to R224): the table, claims, waits, releases and hand-offs, waits by
entry in a train, abandonment by the scan, forced release, poisoning. -/

namespace Sys2Proof.Machine

/-! ## The table (R207, R209) -/

/-- Entry number `n`. -/
def Ch.lockEntry (c : Ch) (n : Nat) : LockEntry := c.lt.entries.get {} n

/-- Stores entry number `n`. -/
def Ch.putLock (n : Nat) (v : LockEntry) (c : Ch) : Ch :=
  { c with lt := { c.lt with entries := c.lt.entries.put {} n v } }

/-- The entry for a word address, if it exists. -/
def Ch.findLock (c : Ch) (addr : Nat) : Option Nat :=
  (c.lt.entries.find? (fun p => p.2.valid && p.2.addr = addr)).map (·.1)

/-- The lowest free entry number of share `b` at or above entry `j`, among the next `k` entries (R207). -/
def Ch.freeLock (c : Ch) (b : Nat) : Nat → Nat → Option Nat
  | 0, _ => none
  | k + 1, j => if (c.lockEntry (8 * j + b)).valid then c.freeLock b k (j + 1) else some (8 * j + b)

/-- The slots parked on entry `n`, in arming order (R214). -/
def Ch.lockWaiters (c : Ch) (n : Nat) : List Parked :=
  c.hw.parked.filter (fun w => !w.won && w.obj = (clLock, n))

/-- WAITERS of entry `n`. -/
def Ch.lockWaiting (c : Ch) (n : Nat) : Nat := (c.lockWaiters n).length

/-- RESULT of a lock op on entry `n`: zero where no entry is valid (R210). -/
def Ch.lockResult (c : Ch) (n : Nat) : Nat :=
  if (c.lockEntry n).valid then (c.lockEntry n).result n (c.lockWaiting n) else 0

/-- The OPERAND bits of a slot armed on a lock (R214). -/
def lockSlotOperand (n context : Nat) (seq : BitVec 12) : Nat :=
  at_ 15 0 n + at_ 19 16 context + at_ 31 20 seq.toNat

/-- Poisons entry `n` (R222): every slot parked on it ends with POISONED, in one CORE cycle. -/
def Ch.poisonLock (e : Env) (n : Nat) (c : Ch) : Ch :=
  let c1 := c.putLock n { c.lockEntry n with poisoned := true }
  c1.endUnmet e stPoisoned (c1.lockWaiters n)

/-- The read of entry `n` in its share. -/
def Ch.readLock (e : Env) (o : Op) (n : Nat) (c : Ch) : Ch :=
  let r := c.readEcc e .lt 1 (n % 8) (2 * (n / 8)) 2 o.arrayCause
  if r.2 then r.1.poisonLock e n else r.1

/-- An identity takes entry `n` (R211). -/
def Ch.takeLock (e : Env) (n lid context : Nat) (c : Ch) : Ch :=
  let c1 := c.putLock n { c.lockEntry n with held := true, owner := lid, context := context, time := startOf e.stamp }
  { c1 with lt := { c1.lt with claims := inc c1.lt.claims } }

/-- An entry is allocated for a word and taken (R207, R209, R211). -/
def Ch.allocLock (e : Env) (n addr lid context : Nat) (c : Ch) : Ch :=
  (c.putLock n { valid := true, seq := (c.lockEntry n).seq + 1, addr := addr }).takeLock e n lid context

/-- Entry `n` is freed: VALID ← 0; its SEQ stays for the next allocation (R209, R212). The other fields of an entry not in use
are zero (DESIGN CHOICE, log entry 67). -/
def Ch.freeEntry (n : Nat) (c : Ch) : Ch := c.putLock n { seq := (c.lockEntry n).seq }

/-- The first waiter of entry `n` whose slot record can be read; the slots of those before it end with POISONED (R309). -/
def Ch.nextOwner (e : Env) : List Parked → Ch → Ch × Option Parked
  | [], c => (c, none)
  | w :: ws, c =>
    if !c.hw.parked.contains w then c.nextOwner e ws
    else
      let r := c.readSlot e w
      if r.2 then (r.1.endWait e stPoisoned (r.1.unmetWord [] w) {} w).nextOwner e ws else (r.1, some w)

/-- The word of entry `n` is handed to a waiter, whose wait ends with a status (R212, R213, R217). -/
def Ch.handLock (e : Env) (n : Nat) (abandoned : Bool) (status : Nat) (w : Parked) (c : Ch) : Ch :=
  let v : LockEntry := { c.lockEntry n with held := true, owner := w.lid, context := fld w.operand 19 16,
                                            time := startOf e.stamp, abandoned := abandoned }
  let c1 := c.putLock n v
  ({ c1 with lt := { c1.lt with handoffs := inc c1.lt.handoffs } }).endWait e status
    (v.result n (c.lockWaiting n - 1)) {} w

/-! ## Claims and waits (R211) -/

/-- What a claim or wait of an identity meets at the entry for a word. -/
inductive LockMet where
  | taken (c : Ch) (status n : Nat)
  | full (c : Ch)
  | other (n : Nat)
  | poisoned (n : Nat)

/-- A claim of entry `n` by an identity (R211). -/
def Ch.claimEntry (e : Env) (n lid context : Nat) (c : Ch) : LockMet :=
  let v := c.lockEntry n
  if v.poisoned then .poisoned n
  else if !v.held then .taken (c.takeLock e n lid context) stAbandoned n
  else if v.owner = lid ∧ v.context = context then .taken c (if v.abandoned then stAbandoned else stOk) n
  else .other n

/-- A claim or wait of the word at `addr` (R208, R211). -/
def Ch.claimWord (e : Env) (addr lid context : Nat) (c : Ch) : LockMet :=
  match c.findLock addr with
  | some n => c.claimEntry e n lid context
  | none =>
    match c.freeLock (lockBank addr) 8192 0 with
    | some n => .taken (c.allocLock e n addr lid context) stOk n
    | none => .full { c with lt := { c.lt with fulls := inc c.lt.fulls } }

/-- The read of the entry for a word, where one exists. -/
def Ch.readWord (e : Env) (o : Op) (c : Ch) : Ch :=
  match c.findLock (lockAddr o.operand) with
  | some n => c.readLock e o n
  | none => c

/-- LOCK_CLAIM (R211). -/
def Ch.lockClaim (e : Env) (o : Op) (c : Ch) : Ch × Reply :=
  let c1 := c.readWord e o
  match c1.claimWord e (lockAddr o.operand) o.lid (lockContext o.operand) with
  | .taken c2 status n => (c2, .done status (c2.lockResult n) {})
  | .full c2 => (c2, .done stTableFull 0 {})
  | .other n => ({ c1 with lt := { c1.lt with helds := inc c1.lt.helds } }, .done stHeld (c1.lockResult n) {})
  | .poisoned n => (c1, .done stPoisoned (c1.lockResult n) {})

/-- LOCK_WAIT (R211, R214). -/
def Ch.lockWait (e : Env) (o : Op) (c : Ch) : Verdict :=
  let c1 := c.readWord e o
  let cx := lockContext o.operand
  match c1.claimWord e (lockAddr o.operand) o.lid cx with
  | .taken c2 status n => .decided c2 status (c2.lockResult n) {}
  | .full c2 => .decided c2 stTableFull 0 {}
  | .other n => .park c1 (c1.lockResult n) 0 0 (lockSlotOperand n cx (c1.lockEntry n).seq) id
  | .poisoned n => .decided c1 stPoisoned (c1.lockResult n) {}

/-- A WAIT_ANY lock packet, evaluated against the entry it names (R214, R215). -/
def Ch.lockWaitEntry (e : Env) (o : Op) (c : Ch) : Verdict :=
  let n := fld o.operand 47 32
  let cx := fld o.operand 51 48
  let seq := BitVec.ofNat 12 (fld o.operand 63 52)
  let c1 := c.readLock e o n
  if !(c1.lockEntry n).valid || decide ((c1.lockEntry n).seq ≠ seq) then .decided c1 stFalse 0 {}
  else
    match c1.claimEntry e n o.lid cx with
    | .taken c2 status n => .decided c2 status (c2.lockResult n) {}
    | .full c2 => .decided c2 stTableFull 0 {}
    | .other n => .park c1 (c1.lockResult n) 0 0 (lockSlotOperand n cx (c1.lockEntry n).seq) id
    | .poisoned n => .decided c1 stPoisoned (c1.lockResult n) {}

/-- LOCK_QUERY (R211). -/
def Ch.lockQuery (e : Env) (o : Op) (c : Ch) : Ch × Reply :=
  let c1 := c.readWord e o
  match c1.findLock (lockAddr o.operand) with
  | none => (c1, .done stFalse 0 {})
  | some n =>
    let v := c1.lockEntry n
    let status := if v.poisoned then stPoisoned else if !v.held then stFalse
                  else if v.abandoned then stAbandoned else stOk
    (c1, .done status (c1.lockResult n) {})

/-! ## Releases (R211, R212, R221, R222) -/

/-- A refused release: counted, recorded, and the LT fault (R211). -/
def Ch.notOwner (e : Env) (o : Op) (v : LockEntry) (c : Ch) : Ch :=
  ({ c with lt := { c.lt with notOwner := inc c.lt.notOwner, noHeld := v.held, noOwner := v.owner, noOwnCtx := v.context,
                              noLid := o.lid, noCtx := lockContext o.operand, noAddr := lockAddr o.operand } }).raise
    e .lt 4 { o.cause with addr := lockAddr o.operand }

/-- The owner's release of entry `n` (R212); for a poisoned trailer the waiter that inherits receives POISONED, and an
entry that would be freed stays valid to be poisoned (R222). -/
def Ch.releaseEntry (e : Env) (n : Nat) (poisoned : Bool) (c : Ch) : Ch :=
  let r := c.nextOwner e (c.lockWaiters n)
  match r.2 with
  | some w => r.1.handLock e n false (if poisoned then stPoisoned else stOk) w
  | none =>
    if poisoned then r.1.putLock n { r.1.lockEntry n with held := false, owner := 0, context := 0, abandoned := false }
    else r.1.freeEntry n

/-- LOCK_RELEASE with FORCE = 0 (R211, R212, R222). -/
def Ch.lockRelease (e : Env) (o : Op) (c : Ch) : Ch × Reply :=
  let c1 := c.readWord e o
  match c1.findLock (lockAddr o.operand) with
  | none => (c1.notOwner e o {}, .done stNotOwner 0 {})
  | some n =>
    let v := c1.lockEntry n
    if v.poisoned then (c1, .done stPoisoned (c1.lockResult n) {})
    else
      let own := v.held && v.owner = o.lid && v.context = lockContext o.operand
      let c2 := if own then c1.releaseEntry e n o.poisoned else c1.notOwner e o v
      let c3 := if o.poisoned then c2.poisonLock e n else c2
      (c3, .done (if own then stOk else stNotOwner) (c3.lockResult n) {})

/-- A forced release (R221): the status, and the entry number or zero. A poisoned trailer's keeps the entry valid, to
be poisoned, and its waiter receives POISONED (R222); an entry that is free and abandoned then keeps ABANDONED (DESIGN
CHOICE, log entry 68). -/
def Ch.forceLock (e : Env) (addr : Nat) (poisoned : Bool) (c : Ch) : Ch × Nat × Nat :=
  let c0 := { c with lt := { c.lt with forces := inc c.lt.forces } }
  match c0.findLock addr with
  | none => (c0, stFalse, 0)
  | some n =>
    let v := c0.lockEntry n
    if v.poisoned || !v.held then
      (if poisoned then c0.putLock n { v with held := false, owner := 0, context := 0 } else c0.freeEntry n, stOk, n)
    else
      let r := c0.nextOwner e (c0.lockWaiters n)
      match r.2 with
      | some w => (r.1.handLock e n true (if poisoned then stPoisoned else stAbandoned) w, stOk, n)
      | none => (r.1.putLock n { v with held := false, owner := 0, context := 0, abandoned := true }, stOk, n)

/-- LOCK_RELEASE with FORCE = 1, from the supervisor (R220 to R222). -/
def Ch.lockForced (e : Env) (o : Op) (c : Ch) : Ch × Reply :=
  let r := (c.readWord e o).forceLock e (lockAddr o.operand) o.poisoned
  match r.1.findLock (lockAddr o.operand) with
  | none => (r.1, .done r.2.1 0 {})
  | some n =>
    let c1 := if o.poisoned then r.1.poisonLock e n else r.1
    (c1, .done r.2.1 (c1.lockResult n) {})

/-! ## The scan (R216, R217) -/

/-- What the scan does to an entry that a fenced ID owns (R217). -/
def Ch.abandonLock (e : Env) (n : Nat) (c : Ch) : Ch :=
  let c0 := { c with lt := { c.lt with abandons := inc c.lt.abandons } }
  let r := c0.nextOwner e (c0.lockWaiters n)
  match r.2 with
  | some w => r.1.handLock e n true stAbandoned w
  | none => r.1.putLock n { r.1.lockEntry n with held := false, owner := 0, context := 0, abandoned := true }

/-- The scan's read of entry `n` (R216). -/
def Ch.scanRead (e : Env) (n : Nat) (c : Ch) : Ch :=
  c.readLock e.quiet { lid := 0, phys := 0, opcode := 0, cls := clLock, index := 0, access := 5 } n

/-- The entries of the table in which an error stands or a forced word lies, pending (R315, R326). -/
def Ch.struckLocks (c : Ch) : List Nat :=
  let f := c.fault .lt
  (c.upsets.filter (fun x => x.sub = .lt && x.array = 1)).map (fun x => 8 * (x.word / 2) + x.bank)
    ++ (if f.pendForce.isSome && f.forceArray = 1 then [8 * (f.forceWord / 2) + f.forceBank] else [])

/-- One CORE cycle of the scan: entry `j` of every share is read, and those that a fenced ID owns are treated together (R216,
R217). -/
def Ch.scanRow (e : Env) (ids : List Nat) (j : Nat) (c : Ch) : Ch :=
  let c1 := ((List.range 8).map (fun b => 8 * j + b)).foldl (fun c n => c.scanRead e n) c.newCycle
  let hit := ((List.range 8).map (fun b => 8 * j + b)).filter (fun n =>
    (c1.lockEntry n).valid && (c1.lockEntry n).held && ids.contains (c1.lockEntry n).owner)
  c1.together (hit.map (fun n => ((clLock, n), fun c => c.abandonLock e n))) 8

/-- A scan starts, for every logical ID fenced before (R216): it reads every entry, and what it reads good and finds free
of a fenced owner it leaves as it is. -/
def Ch.startScan (e : Env) (c : Ch) : Ch :=
  if c.lt.scanning || c.lt.fencedIds.isEmpty then c
  else
    let ids := c.lt.fencedIds
    let met := (c.lt.entries.filter (fun p => p.2.valid && p.2.held && ids.contains p.2.owner)).map (·.1) ++ c.struckLocks
    let rows := met.foldl (fun l n => insertId (n / 8) l) []
    rows.foldl (fun c j => c.scanRow e ids j)
      { c with lt := { c.lt with scanning := true, scanIds := ids, fencedIds := [] } }

/-- A logical ID whose lock scan has not finished (R219). -/
def Ch.scanPending (c : Ch) (lid : Nat) : Bool := c.lt.fencedIds.contains lid || c.lt.scanIds.contains lid

end Sys2Proof.Machine
end

