-- ==== Sys2Proof/Machine/Accords.lean ====
section
/-! DEFINITION. Accords, sending side (R253 to R258, R263, R271, R272, R277): the tree, sync messages and credits,
contributions and accord releases, and what breaking does. -/

namespace Sys2Proof.Machine

/-! ## Message types (R257), reasons (R264, R276) -/

abbrev tyHello : Nat := 1
abbrev tyVerdict : Nat := 2
abbrev tyReady : Nat := 3
abbrev tyFormed : Nat := 4
abbrev tyArrive : Nat := 5
abbrev tyRelease : Nat := 6
abbrev tyTrailer : Nat := 7
abbrev tyTimeReq : Nat := 8
abbrev tyTimeRsp : Nat := 9
abbrev tyBreak : Nat := 10

abbrev reAccordId : Nat := 0x01
abbrev reDigest : Nat := 0x02
abbrev reMajor : Nat := 0x03
abbrev reFeatures : Nat := 0x04
abbrev reRank : Nat := 0x05
abbrev rePort : Nat := 0x06
abbrev reNoAnswer : Nat := 0x07
abbrev reGeneration : Nat := 0x10
abbrev reChoice : Nat := 0x11
abbrev reLinkLost : Nat := 0x12
abbrev reTime : Nat := 0x13
abbrev reMessage : Nat := 0x14
abbrev rePeerRestart : Nat := 0x15
abbrev reBreakReceived : Nat := 0x16

/-- LA_FEATURES (R262 registers): reductions, lanes, remote trailers, paired members. -/
abbrev laFeatures : Nat := 0xF

/-- The engine version of ID_VERSION (R396): 2.1.0. -/
abbrev verMajor : Nat := 2
abbrev verMinor : Nat := 1
abbrev verPatch : Nat := 0

/-! ## The tree -/

/-- The edge to the parent; none at the root. -/
def La.parent (a : La) : Option Edge := a.edges.find? (fun d => d.up)

/-- The edges to the children, in slot order. -/
def La.childEdges (a : La) : List Edge := a.edges.filter (fun d => !d.up)

/-- Rank 0 is the root (R254). -/
def La.isRoot (a : La) : Bool := a.parent.isNone

/-- Accord time (R267): the keep value with the offset. -/
def Ch.accTime (e : Env) (c : Ch) : Int := (e.time : Int) + c.la.timeOffset

/-- The keep value that the LINK domain of a port takes (R358, R365): LINK k serves ports 2k and 2k + 1. -/
def Env.linkTime (e : Env) (p : Nat) : Nat := e.linkTimes.get e.time (p / 2)

/-- Accord time as the link agent of a port stamps it (R267, R268). -/
def Ch.accTimeAt (e : Env) (p : Nat) (c : Ch) : Int := (e.linkTime p : Int) + c.la.timeOffset

/-- Accord time of a record. -/
def Ch.accStamp (e : Env) (c : Ch) : Nat := word64 ((e.stamp : Int) + c.la.timeOffset)

/-- The common word of accord object `k` (R271). -/
def Ch.common (c : Ch) (k : Nat) : Nat := c.img.commons.get 0 k

/-- The local object of accord object `k`, if it is bound here (R271). -/
def Ch.localObj (c : Ch) (k : Nat) : Option EndObj :=
  let w := c.img.locals.get 0 k
  if bit w 63 then some (if bit (c.common k) 62 then .bar (fld w 46 32) else .lane (fld w 36 32)) else none

/-- The state of accord object `k`. -/
def Ch.accState (c : Ch) (k : Nat) : AccObj := c.la.objs.get {} k

/-- Stores the state of accord object `k`. -/
def Ch.putAcc (k : Nat) (a : AccObj) (c : Ch) : Ch := { c with la := { c.la with objs := c.la.objs.put {} k a } }

/-! ## Sending (R256, R258) -/

/-- Credits of a port. -/
def La.credit (a : La) (p : Nat) : Credit := a.credits.get {} p

/-- Whether a message of a type may take a credit: 16 are reserved for types other than TRAILER and ARRIVE. -/
def Credit.allows (k : Credit) (typ : Nat) : Bool :=
  if typ = tyTrailer ∨ typ = tyArrive then decide (16 < k.txAvail) else decide (0 < k.txAvail)

/-- What a message carries as it crosses the link-agent boundary (R268): t1 in TIME_REQ and t3 in TIME_RSP are taken then. -/
def Ch.stamped (e : Env) (p : Nat) (m : Msg) (c : Ch) : Msg :=
  let now := word64 (c.accTimeAt e p)
  if m.typ = tyTimeReq then { m with body := [now] }
  else if m.typ = tyTimeRsp then { m with body := m.body.take 2 ++ [now] }
  else m

/-- A message leaves on a port with one credit; the t1 of a TIME_REQ is kept for its answer. -/
def Ch.sendNow (e : Env) (p : Nat) (m : Msg) (c : Ch) : Ch :=
  let k := c.la.credit p
  ({ c with la := { c.la with credits := c.la.credits.put {} p { k with txAvail := k.txAvail - 1 },
                              reqT1 := if m.typ = tyTimeReq then some (c.accTimeAt e p) else c.la.reqT1 },
            lalog := { c.lalog with msgTx := inc c.lalog.msgTx } }).emit (.msg p (c.stamped e p m))

/-- A message is sent on a port, behind whatever waits there for a credit. -/
def Ch.sendMsg (e : Env) (p : Nat) (m : Msg) (c : Ch) : Ch :=
  if c.la.txWait.any (fun q => q.1 = p) || !(c.la.credit p).allows m.typ then
    { c with la := { c.la with txWait := c.la.txWait ++ [(p, m)] } }
  else c.sendNow e p m

/-- Sends what waits on a port while credits last. -/
def Ch.drainPort (e : Env) (p : Nat) : Nat → Ch → Ch
  | 0, c => c
  | n + 1, c =>
    match c.la.txWait.find? (fun q => q.1 = p) with
    | none => c
    | some q =>
      if (c.la.credit p).allows q.2.typ then
        Ch.drainPort e p n (({ c with la := { c.la with txWait := c.la.txWait.erase q } }).sendNow e p q.2)
      else c

/-- CREDIT_RETURN on a port (R258, R415). -/
def Ch.creditReturn (e : Env) (p : Nat) (c : Ch) : Ch :=
  let k := c.la.credit p
  if 64 ≤ k.txAvail then c
  else
    ({ c with la := { c.la with credits := c.la.credits.put {} p { k with txAvail := k.txAvail + 1 } } }).drainPort e p 64

/-- A message of the accord on a tree edge (R256). -/
def Ch.sendEdge (e : Env) (d : Edge) (typ object : Nat) (body : List Nat) (c : Ch) : Ch :=
  c.sendMsg e d.port { typ := typ, accord := c.la.accord, src := c.la.rank, dst := d.rank, object := object, body := body }

/-- A message on each of some edges. -/
def Ch.sendEdges (e : Env) (ds : List Edge) (typ object : Nat) (body : List Nat) (c : Ch) : Ch :=
  ds.foldl (fun c d => c.sendEdge e d typ object body) c

/-! ## Sequences that end at an object -/

/-- Stops the sequences whose current phase ends at an object (R232): no successor, no debit, and a release held for
one leaves the queue. -/
def Ch.stopEnding (o : EndObj) (c : Ch) : Ch :=
  (List.range 16).foldl (fun c s =>
    let q := c.seq s
    if (q.st = .run || q.st = .held) && (c.entry q.entry).endObj = o then
      let c1 := c.putSeq s { q with st := .stopped, deadlineOn := false }
      { c1 with bg := { c1.bg with holdQ := c1.bg.holdQ.filter (fun h => h.seq ≠ s) } }
    else c) c

/-! ## Breaking (R276, R277) -/

/-- What breaking, or failing to form, does to one bound object (R277). -/
def Ch.breakObj (e : Env) (o : EndObj) (c : Ch) : Ch :=
  match o with
  | .lane l => (c.forceLane e l .timedOut).stopEnding o
  | .bar i => ((c.endBarWaits e i stFenced (c.waiters clBar i)).answerLate e i (c.bar i).gen stOk {}).stopEnding o

/-- The effects of breaking on every bound object. -/
def Ch.breakObjs (e : Env) (c : Ch) : Ch :=
  (c.img.locals.filter (fun p => bit p.2 63 && bit (c.common p.1) 63)).foldl (fun c p =>
    match c.localObj p.1 with
    | some o => c.breakObj e o
    | none => c) c

/-- Where a break came from: its reason, the rank and port it arose at, the reason and origin its BREAK carries, the
port that it is not sent back on, and the object, message type and generations it records; `silent` where LA_BREAK is not
raised for it (R313). -/
structure BreakInfo where
  reason   : Nat
  rank     : Nat
  port     : Nat
  sent     : Nat
  origin   : Nat
  notPort  : Option Nat := none
  object   : Nat := 0
  typ      : Nat := 0
  received : Nat := 0
  expected : Nat := 0
  silent   : Bool := false

/-- A break for the chip's own reason, found at a port. -/
def Ch.ownBreak (c : Ch) (reason port : Nat) : BreakInfo :=
  { reason := reason, rank := c.la.rank, port := port, sent := reason, origin := c.la.rank }

/-- The accord breaks (R277); with nothing left to break, the message is counted as ignored. BREAK goes out on the tree edges
whose ports are the channel's (R255). -/
def Ch.breakAccord (e : Env) (b : BreakInfo) (c : Ch) : Ch :=
  if c.la.st ≠ .formed ∧ c.la.st ≠ .forming then { c with lalog := { c.lalog with ignored := inc c.lalog.ignored } }
  else
    let c1 := { c with
      la := { c.la with st := .broken, reason := b.reason, reasonRank := b.rank, reasonPort := b.port },
      lalog := { c.lalog with breakObject := b.object, breakType := b.typ, breakReceived := b.received,
                              breakExpected := b.expected, breakTime := c.accStamp e } }
    let mine := c1.la.edges.filter (fun d => decide (some d.port ≠ b.notPort) && bit c1.la.linkPorts d.port)
    let c2 := c1.sendEdges e mine tyBreak 0
      [at_ 7 0 b.sent + at_ 13 8 b.origin]
    let gen := (c2.accState b.object).gen.toNat
    let c3 := if b.silent then c2 else c2.raise e .la 4 { addr := at_ 63 32 gen + at_ 7 0 b.object, access := 6, key := b.port }
    (c3.blotTrigger e 6 (at_ 63 32 gen + b.object)).breakObjs e

/-- A re-arm, restart or reset of a bound object breaks the accord with reason GENERATION (R275). -/
def Ch.breakIfBound (e : Env) (o : EndObj) (c : Ch) : Ch :=
  match c.accObj o with
  | none => c
  | some k =>
    if c.la.st = .formed ∨ c.la.st = .forming then
      c.breakAccord e { c.ownBreak reGeneration 0 with object := k, received := (c.accState k).gen.toNat,
                                                       expected := (c.accState k).gen.toNat }
    else c

/-- A channel that leaves RUN while FORMED sends BREAK with reason PEER_RESTART on every tree edge (R275, R305). -/
def Ch.sayGoodbye (e : Env) (c : Ch) : Ch :=
  if c.la.st = .formed then c.sendEdges e c.la.edges tyBreak 0 [at_ 7 0 rePeerRestart + at_ 13 8 c.la.rank] else c

/-- The read of the state of accord object `k` (LA_STATE_UE of R313): an uncorrectable error breaks the accord with reason
GENERATION, without LA_BREAK. Answers whether it did. The model numbers the LA's state as array 15, one word for each object. -/
def Ch.readAcc (e : Env) (k : Nat) (c : Ch) : Ch × Bool :=
  let r := c.readArray e.quiet .la 15 0 k 1
  if r.2.1 = 2 then
    let gen := (r.1.accState k).gen.toNat
    let c1 := r.1.raise e .la 5 { addr := at_ 63 32 gen + at_ 7 0 k }
    (c1.breakAccord e { c1.ownBreak reGeneration 0 with object := k, received := gen, expected := gen, silent := true }, true)
  else (r.1, false)

/-! ## Contributions (R272) -/

/-- Two partials combined under a barrier's configuration (R200). Where this chip has no local barrier of the object,
the manual names no operation, and a word that two parties bring is a free value. -/
def mergeAcc (e : Env) (cfg : Option Nat) (a b : Acc) : Acc :=
  let merged := (List.range 8).foldl (fun (x : Acc) k =>
    if !bit b.seen k then x
    else match cfg with
      | some w => x.fold (cfgOp w k) (cfgFmt w k) k (b.words.get 0 k)
      | none =>
        if bit x.seen k then { x with words := x.words.put 0 k (e.freeResult (16 + k)) }
        else { x with words := x.words.put 0 k (b.words.get 0 k), seen := setBit x.seen k }) a
  { merged with range := merged.range ||| b.range, nf := merged.nf || b.nf }

/-- The configuration of the local barrier of accord object `k`. -/
def Ch.accCfg (c : Ch) (k : Nat) : Option Nat :=
  match c.localObj k with
  | some (.bar i) => some (c.cfg i)
  | _ => none

/-- Word 1 of ARRIVE and RELEASE (R257). -/
def accWord (gen : Nat) (lean : Bool) (choice : Nat) (tmo : Bool) : Nat :=
  at_ 63 32 gen + at_ 31 31 (b01 lean) + at_ 30 29 choice + at_ 28 28 (b01 tmo)

/-- The body words of a partial (R257, ARRIVE words 2 to 10). -/
def partialWords (a : Acc) : List Nat :=
  (List.range 8).map (fun k => a.words.get 0 k) ++ [at_ 7 0 a.seen + at_ 15 8 a.range + at_ 16 16 (b01 a.nf)]

/-- The result words that a RELEASE of a REDUCE object carries (R257): RES pairs, SCALES, HEADER. -/
def resultWords (f : Final) : List Nat := (List.range 4).map (fun p => f.res.get 0 p) ++ [f.scales, f.header]

/-- The root's timer starts with the first ARRIVE or its own completion (R274). -/
def Ch.startAccTimer (e : Env) (k : Nat) (c : Ch) : Ch :=
  let a := c.accState k
  if c.la.isRoot && a.timer.isNone then c.putAcc k { a with timer := some e.stamp } else c

/-- The local part of object `k` completes (R272 step 1): GATED shows, and a REDUCE partial joins in. -/
def Ch.accLocal (e : Env) (k : Nat) (o : EndObj) (c : Ch) : Ch :=
  let c1 := match o with
    | .lane l => c.putLane l { c.lane l with gated := true }
    | .bar i => c.putBar i { c.bar i with gated := true, ruPending := false }
  let a := c1.accState k
  let part := match o with
    | .bar i => if c1.accReduce k then mergeAcc e (c1.accCfg k) a.partialAcc ((c1.pay i).acc (c1.bar i).gen) else a.partialAcc
    | .lane _ => a.partialAcc
  (c1.putAcc k { a with localDone := true, partialAcc := part }).startAccTimer e k

/-- The gate has passed the local part (R272 step 2). -/
def Ch.accPassed (k choice : Nat) (lean : Bool) (c : Ch) : Ch :=
  let a := c.accState k
  let c1 := c.putAcc k { a with passed := true, ownLean := lean, lean := a.lean || lean, choice := max a.choice choice }
  { c1 with todo := c1.todo ++ [.contribute k] }

/-- The result words of a root that has no local barrier of the object: the manual names it no operation, format or rule, so
RES, SCALES and the scale bits of HEADER are free values; VALID, GEN, LEAN, NONFINITE and EMPTY follow from the partial (R193, R200). -/
def foreignResult (e : Env) (a : AccObj) : List Nat :=
  (List.range 5).map (fun n => e.freeResult (24 + n)) ++
    [at_ 59 59 1 + at_ 58 58 (b01 a.lean) + at_ 57 57 (e.freeVal 29) + at_ 56 56 (b01 a.partialAcc.nf)
      + at_ 55 48 (andNot 0xFF a.partialAcc.seen) + at_ 47 40 (e.freeVal 30) + at_ 39 32 (a.partialAcc.range ||| e.freeVal 31)
      + at_ 31 0 a.gen.toNat]

/-- Steps 3 and 4 of R272: once the local part has passed and every child has arrived, the contribution goes up, or
the root releases the accord. -/
def Ch.contribute (e : Env) (k : Nat) (c : Ch) : Ch :=
  let a := c.accState k
  let here := a.passed || (c.localObj k).isNone
  let kids := (c.la.childEdges.map (·.port)).all (fun p => a.children.contains p)
  if !(c.la.st = .formed && bit (c.common k) 63 && here && kids && !a.sent) then c
  else
    match c.la.parent with
    | some d =>
      (c.putAcc k { a with sent := true }).sendEdge e d tyArrive k
        (accWord a.gen.toNat a.lean a.choice false :: (if c.accReduce k then partialWords a.partialAcc else []))
    | none =>
      if c.la.childEdges.isEmpty && (c.localObj k).isNone then c
      else
        let words :=
          if !c.accReduce k then []
          else match c.localObj k with
            | some (.bar i) =>
              let w := c.cfg i
              let f := finalOf w (c.img.rules0.get 0 (cfgRule w)) (c.img.rules1.get 0 (cfgRule w)) (c.bar i).gen a.partialAcc
              resultWords { f with header := setFld f.header 58 58 (b01 a.lean) }
            | _ => foreignResult e a
        let c1 := (c.putAcc k { a with sent := true }).sendEdges e c.la.childEdges tyRelease k
          (accWord a.gen.toNat a.lean a.choice false :: words)
        { c1 with todo := c1.todo ++ [.accRelease k a.lean a.choice words] }

/-- The next generation of object `k` is collected (R272). -/
def Ch.nextAccGen (k : Nat) (c : Ch) : Ch := c.putAcc k { gen := (c.accState k).gen + 1 }

/-- Latches LA_TMO_INFO and moves to the next generation (R274). -/
def Ch.latchTmo (k : Nat) (c : Ch) : Ch :=
  let a := c.accState k
  let missing := (List.range 4).filter (fun j =>
    match c.la.childEdges[j]? with
    | some d => !a.children.contains d.port
    | none => false)
  ({ c with lalog := { c.lalog with tmoGen := a.gen.toNat, tmoObject := k,
                                    tmoLocal := (c.localObj k).isSome && !a.localDone,
                                    tmoChildren := maskOf missing } }).nextAccGen k

/-- A release with TMO = 1 at this chip (R274): the wake timeout's effects on the local object (R151, R165), without its fault. -/
def Ch.accTmo (e : Env) (k : Nat) (c : Ch) : Ch :=
  let o := c.localObj k
  let c1 := c.latchTmo k
  match o with
  | none => c1
  | some (.lane l) => ((c1.noteLaneTimeout e l).forceLane e l .timedOut).stopEnding (.lane l)
  | some (.bar i) => ((c1.noteBarTimeout e i).discardBar e i stTimeout true).stopEnding (.bar i)

end Sys2Proof.Machine
end

