-- ==== Sys2Proof/Machine/Phases.lean ====
section
/-! DEFINITION. The phase sequencer (R225 to R242, R426): reset lists, starts, completions and the transition, the
gate's passes (R247 to R251), deadlines, audits, SEQ_SELECT, RESTART and STOP; and the work an op leaves to do. -/

namespace Sys2Proof.Machine

/-! ## Object lists (R229) -/

/-- KIND of an object-list entry. -/
def runKind (w : Nat) : Nat := fld w 63 61
/-- The objects of a run. -/
def runObjects (w : Nat) : List Nat := (List.range (fld w 55 40 + 1)).map (fun j => fld w 22 0 + j)

/-- _FE_ADDR of a sequence fault (kind S of R308). -/
def seqAddr (s entry : Nat) : Nat := at_ 3 0 s + at_ 31 16 entry

/-- A sequence whose read of a phase table met an uncorrectable word stops (PS_UE of R313). -/
def Ch.stopSeq (s : Nat) (c : Ch) : Ch := c.putSeq s { c.seq s with st := .stopped, deadlineOn := false }

/-- PS_END_CONFLICT for sequence `s` (R231, R426). -/
def Ch.endConflict (e : Env) (s : Nat) (c : Ch) : Ch :=
  ({ c with ps := { c.ps with conflicts := inc c.ps.conflicts } }).raise e .ps 4
    { addr := seqAddr s (c.seq s).entry, access := 4 }

/-! ## Resets (R234, R426) -/

/-- A reset withdraws what the gate holds of this object for another sequence (R426). -/
def Ch.withdraw (e : Env) (s : Nat) (o : EndObj) (c : Ch) : Ch :=
  match c.bg.holdQ.find? (fun h => h.obj = o && h.seq ≠ s) with
  | none => c
  | some h =>
    (({ c with bg := { c.bg with holdQ := c.bg.holdQ.erase h } }).stopSeq h.seq).endConflict e h.seq

/-- The read of a listed object in its bank, by the sequencer or by its audit. -/
def Ch.readObject (e : Env) (access kind i : Nat) (c : Ch) : Ch :=
  let o : Op := { lid := 0, phys := 0, opcode := 0, cls := kind, index := i, access := access }
  match kind with
  | 0 => c.readFlag e.quiet o i
  | 1 => c.readSem e.quiet o i
  | 2 => c.readStr e.quiet o i
  | 3 => c.readBar e.quiet o i
  | _ => c

/-- A sequencer reset of one object for sequence `s` (R234): the bank reads the object and writes it. -/
def Ch.resetObject (e : Env) (s kind i : Nat) (c : Ch) : Ch :=
  let c0 := c.readObject e 4 kind i
  let c1 := { c0 with ps := { c0.ps with resetOps := inc c0.ps.resetOps } }
  match kind with
  | 0 =>
    let r : Flag := c1.img.flags.get {} i
    c1.changeFlag e i { r with poisoned := false, last := 0xFFE }
  | 1 =>
    let r : Sem := c1.img.sems.get {} i
    c1.changeSem e i { c1.sem i with value := r.value, poisoned := false, last := 0xFFE }
  | 2 =>
    let r : Stream := c1.img.strs.get {} i
    c1.changeStr e i { r with poisoned := false, lastProd := 0xFFE, lastCons := 0xFFE }
  | 3 => ((c1.withdraw e s (.bar i)).breakIfBound e (.bar i)).resetBar e i 0xFFE
  | 4 => ((c1.withdraw e s (.lane i)).breakIfBound e (.lane i)).rearmLane e i
  | _ => c

/-- Reads the object-list entries `from_` to `from_ + k − 1`: the objects they list, by kind and number, and whether a bad word
stopped the walk. -/
def Ch.readRuns (e : Env) : Nat → Nat → Ch → Ch × List (Nat × Nat) × Bool
  | 0, _, c => (c, [], false)
  | k + 1, from_, c =>
    let r := c.readPs e 2 from_ 1
    if r.2 then (r.1, [], true)
    else
      let w := c.img.lists.get 0 from_
      let t := Ch.readRuns e k (from_ + 1) r.1
      (t.1, (runObjects w).map (fun i => (runKind w, i)) ++ t.2.1, t.2.2)

/-- The bank that resets an object; the lanes stand beside the banks (R235). -/
def resetBank (x : Nat × Nat) : Nat := if x.1 = 4 then 8 + x.2 else x.2 % 8

/-- The CORE cycle in which each object of a list is reset: the banks work side by side (R235). -/
def resetCycles (l : List (Nat × Nat)) : List (Nat × Nat × Nat) :=
  l.foldl (fun done x => done ++ [((done.filter (fun y => resetBank y.2 = resetBank x)).length, x)]) []

/-- The class and number under which slots are armed on a listed object; no slot is armed on a lane. -/
def listedObj (x : Nat × Nat) : Nat × Nat := (if x.1 ≤ 3 then x.1 else 8, x.2)

/-- Resets the objects of a list for sequence `s`, all banks at once (R234, R235). -/
def Ch.resetAll (e : Env) (s : Nat) (l : List (Nat × Nat)) (c : Ch) : Ch :=
  let timed := resetCycles l
  let last := timed.foldl (fun n x => max n (x.1 + 1)) 0
  (List.range last).foldl (fun c j =>
    c.together ((timed.filter (fun x => x.1 = j)).map (fun x =>
      (listedObj x.2, fun c => c.resetObject e s x.2.1 x.2.2))) 4) c

/-- The reset list of entry `n`, for sequence `s` (R233 step 3); a bad word stops it behind what was listed before. -/
def Ch.resetList (e : Env) (s n : Nat) (c : Ch) : Ch × Bool :=
  let r := c.readPs e 1 (4 * n) 4
  if r.2 then r
  else
    let t := r.1.readRuns e (c.entry n).resetLen (c.entry n).resetPtr
    (t.1.resetAll e s t.2.1, t.2.2)

/-! ## Starting a phase (R236, R231) -/

/-- The preloads of an entry. -/
def Ch.phasePreloads (e : Env) (n : Entry) (c : Ch) : Ch :=
  let c1 := if bit n.w3 45 then c.preloadLane e (fld n.w3 44 40) (fld n.w3 39 28) else c
  if bit n.w3 63 then c1.preloadLane e (fld n.w3 62 58) (fld n.w3 57 46) else c1

/-- The LEAN_FLAG of an entry (R236): reset with VALUE 1. -/
def Ch.leanFlag (e : Env) (n : Entry) (c : Ch) : Ch :=
  let i := fld n.w3 19 0
  let r : Flag := c.img.flags.get {} i
  ({ c with ps := { c.ps with resetOps := inc c.ps.resetOps } }).changeFlag e i
    { r with value := true, poisoned := false, last := 0xFFE }

/-- The start actions of R236 on entry `n`. -/
def Ch.startActions (e : Env) (s n : Nat) (lean : Bool) (c : Ch) : Ch :=
  let en := c.entry n
  let c1 := c.putSeq s { c.seq s with st := .run, entry := n, start := e.stamp, deadlineOn := true, missed := false,
                                      lean := lean }
  let c2 := ({ c1 with ps := { c1.ps with phases := inc c1.ps.phases } }).phasePreloads e en
  if lean && bit en.w3 20 then c2.leanFlag e en else c2

/-- Sequence `s` enters entry `n` (R231, R236). -/
def Ch.startPhase (e : Env) (s n : Nat) (lean : Bool) (c : Ch) : Ch :=
  let r := c.readPs e 1 (4 * n) 4
  if r.2 then r.1.stopSeq s
  else if r.1.conflicts s (c.entry n).endObj then
    let c1 := r.1.putSeq s { r.1.seq s with entry := n, st := .stopped, deadlineOn := false }
    c1.endConflict e s
  else r.1.startActions e s n lean

/-! ## The transition (R233) -/

/-- An object releases, and what follows it waits to be done (R233 steps 4 and 5). -/
def Ch.releaseObj (e : Env) (o : EndObj) (lean : Bool) (a : After) (c : Ch) : Ch :=
  match o with
  | .lane l => c.releaseLaneThen e l a
  | .bar i => ({ c with todo := c.todo ++ [Todo.next a] }).releaseBar e i lean

/-- Steps 3 to 5 of R233 for sequence `s` with successor entry `succ`. -/
def Ch.moveOn (e : Env) (s : Nat) (o : EndObj) (succ chosen : Nat) (lean : Bool) (c : Ch) : Ch :=
  let r := c.resetList e s succ
  if r.2 then (r.1.stopSeq s).releaseObj e o lean .nothing
  else r.1.releaseObj e o lean (.phase s succ chosen lean)

/-- A release that passed the gate: it contributes to its accord (R272 step 3), or the sequence moves on. -/
def Ch.passRelease (e : Env) (h : Held) (lean : Bool) (c : Ch) : Ch :=
  match c.accObj h.obj with
  | some k => c.accPassed k h.chosen lean
  | none => c.moveOn e h.seq h.obj h.succ h.chosen lean

/-- An end object without a successor releases at once, uncharged: at the end of a score, at a STOP, while the
channel closes, or where no sequence ends at it (R231, R233, R242). -/
def Ch.passFree (e : Env) (o : EndObj) (a : After) (c : Ch) : Ch :=
  match c.accObj o with
  | some k => c.accPassed k 0 false
  | none => c.releaseObj e o false a

/-- GATED of an end object (R150, R161). -/
def Ch.gateObj (o : EndObj) (c : Ch) : Ch :=
  match o with
  | .lane l => c.putLane l { c.lane l with gated := true }
  | .bar i => c.putBar i { c.bar i with gated := true, ruPending := false }

/-- A release is held at the gate (R247). -/
def Ch.holdRelease (h : Held) (c : Ch) : Ch :=
  let c1 := (c.gateObj h.obj).putSeq h.seq { c.seq h.seq with st := .held, next := h.succ, chosen := h.chosen,
                                                              deadlineOn := false }
  { c1 with bg := { c1.bg with holdQ := c1.bg.holdQ ++ [h], holds := inc c1.bg.holds } }

/-- Steps 1 and 2 of R233: the phase of sequence `s` has completed at its end object. -/
def Ch.completePhase (e : Env) (s : Nat) (o : EndObj) (c : Ch) : Ch :=
  let en := c.entry (c.seq s).entry
  let c1 := c.putSeq s { c.seq s with deadlineOn := false }
  if c.ctl.st ≠ .run then (c1.stopSeq s).passFree e o .nothing
  else if en.nsucc = 0 then c1.passFree e o (.audit s)
  else
    let r := if en.nsucc = 1 then (c1, false) else c1.readPs e 3 en.choice 1
    if r.2 then (r.1.stopSeq s).passFree e o .nothing
    else
      let k := c.chooses e en
      let h : Held := { seq := s, obj := o, succ := en.succ k, chosen := k, since := e.stamp }
      let now := { r.1 with todo := r.1.todo ++ [Todo.pass h false] }
      if !en.gate then now.charge h.succ
      else if r.1.bg.holdQ.isEmpty && r.1.gateOk e en h.succ then now.charge h.succ
      else r.1.holdRelease h

/-- The sequencer's part of a completion: the phase that ends at the object completes, or it passes freely. -/
def Ch.completeAt (e : Env) (o : EndObj) (c : Ch) : Ch :=
  match c.seqEnding o with
  | some s => c.completePhase e s o
  | none => c.passFree e o .nothing

/-- An end object, or an object that no sequence ends at, completes its round (R232). The state of an accord object that
cannot be read breaks the accord first (R275, R313). -/
def Ch.complete (e : Env) (o : EndObj) (c : Ch) : Ch :=
  match c.accObj o with
  | none => c.completeAt e o
  | some k =>
    let r := c.readAcc e k
    if r.2 then r.1 else (r.1.accLocal e k o).completeAt e o

/-- What follows a release (R233 step 5, R239). -/
def Ch.doAfter (e : Env) (a : After) (c : Ch) : Ch :=
  match a with
  | .nothing => c
  | .phase s succ _ lean =>
    if (c.seq s).st = .run ∨ (c.seq s).st = .held then
      if c.ctl.st = .run then c.startPhase e s succ lean else c.stopSeq s
    else c
  | .audit s =>
    if (c.seq s).st = .run then c.putSeq s { c.seq s with st := .audit, deadlineOn := false } else c

/-- The sequence, in RUN or HELD, whose current phase ends at an object. -/
def Ch.seqAt (c : Ch) (o : EndObj) : Option Nat :=
  (List.range 16).find? (fun s => ((c.seq s).st = .run || (c.seq s).st = .held) && (c.entry (c.seq s).entry).endObj = o)

/-- The result a RELEASE carries, as the RU writes it (R257). -/
def finalFrom (words : List Nat) : Final :=
  { res := [0, 1, 2, 3].foldl (fun m p => m.put 0 p (words.getD p 0)) [], scales := words.getD 4 0,
    header := words.getD 5 0 }

/-- Step 5 of R272: the local part of accord object `k` releases. -/
def Ch.accRelease (e : Env) (k : Nat) (lean : Bool) (choice : Nat) (words : List Nat) (c : Ch) : Ch :=
  let c0 := c.nextAccGen k
  let c1 := { c0 with todo := c0.todo ++ [.contribute k] }
  match c.localObj k with
  | none => c1
  | some o =>
    let c2 := match o with
      | .bar i => if c.accReduce k then { c1 with ru := { c1.ru with fin := c1.ru.fin.put {} i (finalFrom words) } } else c1
      | .lane _ => c1
    let c3 := { c2 with bg := { c2.bg with holdQ := c2.bg.holdQ.filter (fun h => h.obj ≠ o) } }
    match c3.seqAt o with
    | none => c3.releaseObj e o lean .nothing
    | some s =>
      let en := c3.entry (c3.seq s).entry
      if c3.ctl.st ≠ .run then (c3.stopSeq s).releaseObj e o lean .nothing
      else if en.nsucc = 0 then c3.releaseObj e o lean (.audit s)
      else c3.moveOn e s o (en.succ choice) choice lean

/-! ## What an op leaves to do -/

/-- What a word of an object-store bank holds is poisoned (R309), by the regions of R424. -/
def Ch.strikeWord (e : Env) (bank w : Nat) (c : Ch) : Ch :=
  let slot := 8 * ((w - 0x1D000) / 2) + bank
  if w < 0x8000 then c.poisonFlagWord e (32 * w + bank)
  else if w < 0x10000 then c.poisonSem e (8 * (w - 0x8000) + bank)
  else if w < 0x18000 then c.poisonStr e (8 * ((w - 0x10000) / 4) + bank)
  else if w < 0x1C000 then c.poisonBar e (8 * ((w - 0x18000) / 4) + bank)
  else if w < 0x1D000 then c.poisonStr e (connPair (8 * ((w - 0x1C000) / 2) + bank))
  else if w < 0x1E000 then
    c.endUnmet e stPoisoned (c.hw.parked.filter (fun v => !v.won && v.lid = slot / 4 && v.slot = slot % 4))
  else if w < 0x22000 then
    { c with os := { c.os with badMasks := c.os.badMasks ++ [8 * ((w - 0x1E000) / 32) + bank] } }
  else c.poisonBar e (8 * ((w - 0x22000) / 64) + bank)

/-- Does one item of the work a command has caused. -/
def Ch.doTodo (e : Env) (t : Todo) (c : Ch) : Ch :=
  match t with
  | .complete o => c.complete e o
  | .finalise i => c.finaliseBar i
  | .pass h lean => c.passRelease e h lean
  | .next a => c.doAfter e a
  | .contribute k => c.contribute e k
  | .accRelease k lean choice words => c.accRelease e k lean choice words
  | .strike bank word => c.strikeWord e bank word

/-- More work than one command causes: forming an accord contributes at most 256 objects, and each has a short chain. -/
abbrev drainFuel : Nat := 4096

/-- Does the work a command has caused, oldest first. -/
def Ch.drain (e : Env) : Nat → Ch → Ch
  | 0, c => c
  | n + 1, c =>
    match c.todo with
    | [] => c
    | t :: ts => Ch.drain e n (({ c with todo := ts }).doTodo e t)

/-! ## The gate at a keep tick (R247 to R249) -/

/-- The oldest held release may pass under R247: after a trip, not before the releases whose hold ended under it have passed in
lean mode (R249). -/
def Ch.headPasses (e : Env) (c : Ch) : Bool :=
  match c.bg.holdQ with
  | [] => false
  | h :: _ => c.gateOk e (c.entry (c.seq h.seq).entry) h.succ && !c.bg.holdQ.any (fun g => g.cause.isSome)

/-- BUDGET_GATE_PASS: the oldest held release passes if R247 allows it. -/
def Ch.gatePass (e : Env) (c : Ch) : Ch :=
  match c.bg.holdQ with
  | [] => c
  | h :: rest =>
    if c.headPasses e then
      let c1 := { c with bg := { c.bg with holdQ := rest } }
      { c1.charge h.succ with todo := c1.todo ++ [.pass h false] }
    else c

/-- BG_LEAN_INFO.CAUSE for a hold that expires now: 0 budget, 1 thermal, 2 both, 3 trip or queue order only. -/
def Ch.leanCause (e : Env) (h : Held) (c : Ch) : Nat :=
  let en := c.entry (c.seq h.seq).entry
  match c.covers h.succ, c.cool e en with
  | false, true => 0
  | true, false => 1
  | false, false => 2
  | true, true => 3

/-- The hold of a release has lasted MAX_HOLD_US at keep time `t` (R248). -/
def Ch.holdOver (t : Nat) (h : Held) (c : Ch) : Bool := decide (h.since + 1000 * c.img.maxHold ≤ t)

/-- A lean pass of a held release (R248). -/
def Ch.leanRelease (e : Env) (h : Held) (c : Ch) : Ch :=
  let cause := h.cause.getD (c.leanCause e h)
  let c1 := { c with bg := { c.bg with
      holdQ := c.bg.holdQ.erase h, leans := inc c.bg.leans, leanBucket := c.bg.bucket, leanSeq := h.seq,
      leanCause := cause, leanEntry := (c.seq h.seq).entry, leanTime := e.stamp } }
  let c2 := c1.charge h.succ
  { c2 with todo := c2.todo ++ [.pass h true] }

/-- LEAN_PASS of sequence `s` (R248, R249, R251): a normal pass where the pass condition holds as well, unless the hold
expired under the trip; those that did pass in queue order, before any other. -/
def Ch.leanPass (e : Env) (s : Nat) (c : Ch) : Ch :=
  match c.bg.holdQ.find? (fun h => h.seq = s) with
  | none => c
  | some h =>
    if e.trip || !c.holdOver e.time h then c
    else if (c.bg.holdQ.find? (fun g => g.cause.isSome)).getD h ≠ h then c
    else if h.cause.isNone && c.bg.holdQ.head? = some h && c.headPasses e then c.gatePass e
    else c.leanRelease e h

/-! ## Deadlines (R237) -/

/-- The deadline of a sequence's phase has run out (R427). -/
def Seq.overran (q : Seq) (deadlineUs time : Nat) : Bool :=
  q.st = .run && q.deadlineOn && !q.missed && decide (deadlineUs ≠ 0) && decide (q.start + 1000 * deadlineUs ≤ time)

/-- DEADLINE_OVERRUN of sequence `s`. -/
def Ch.deadlineOverrun (e : Env) (s : Nat) (c : Ch) : Ch :=
  let q := c.seq s
  let us := (c.entry q.entry).deadlineUs
  if q.overran us e.time then
    let c1 := c.putSeq s { q with missed := true }
    let c2 := { c1 with ps := { c1.ps with dlUs := us, dlSeq := s, dlScore := q.score, dlEntry := q.entry,
                                           deadlines := inc c1.ps.deadlines } }
    (c2.raise e .ps 5 { addr := seqAddr s q.entry, access := 4 }).blotTrigger e 4 s
  else c

/-! ## Rest state and audit (R238 to R240) -/

/-- Whether an object is at rest (R238). -/
def Ch.atRest (c : Ch) (kind i : Nat) : Bool :=
  match kind with
  | 0 => (c.flag i).value = (c.img.flags.get {} i).value && !(c.flag i).poisoned && c.waiting clFlag i = 0
  | 1 => (c.sem i).value = (c.img.sems.get {} i).value && !(c.sem i).poisoned && c.waiting clSem i = 0
  | 2 =>
    let r : Stream := c.img.strs.get {} i
    (c.str i).fill = r.fill && (c.str i).k = r.k && !(c.str i).poisoned && c.waiting clStr i = 0
  | 3 =>
    let r : Bar := c.img.bars.get {} i
    let b := c.bar i
    b.count = r.count && b.early = r.early && !b.gated && !b.holding && !b.poisoned && c.waiting clBar i = 0
  | 4 =>
    let v := c.lane i
    v.members.all (fun m => v.p m = v.rp) && v.st = .active && !v.gated
  | _ => true

/-- Word 0 of an object as the audit finds it (PS_AUDIT_DATA). -/
def Ch.auditWord (c : Ch) (kind i : Nat) : Nat :=
  match kind with
  | 0 => (c.flag i).record
  | 1 => c.semWordNow i
  | 2 => (c.str i).p
  | 3 => (c.bar i).word0
  | 4 => (c.lane i).stateWord
  | _ => 0

/-- One object that the audit of sequence `s` finds not at rest (R239); `first` of its audit raises the fault. -/
def Ch.auditMiss (e : Env) (s kind i : Nat) (first : Bool) (c : Ch) : Ch :=
  let c1 := { c with ps := { c.ps with mismatches := inc c.ps.mismatches } }
  if !first then c1
  else
    let c2 := if c1.ps.auValid then c1 else
      { c1 with ps := { c1.ps with auValid := true, auSeq := s, auScore := (c.seq s).score, auKind := kind, auIndex := i,
                                   auData := c.auditWord kind i, auTime := e.stamp } }
    c2.raise e .ps 6 { addr := at_ 54 52 kind + at_ 50 28 i, access := 5 }

/-- The audit's visits to the objects of a run. -/
def Ch.auditAll (e : Env) (s kind : Nat) : List Nat → Bool → Ch → Ch × Bool
  | [], first, c => (c, first)
  | i :: is, first, c0 =>
    let c := c0.readObject e 5 kind i
    if c.atRest kind i then Ch.auditAll e s kind is first c
    else Ch.auditAll e s kind is false (c.auditMiss e s kind i first)

/-- The walk over object-list entries (R239): the channel, and whether a bad word stopped it. -/
def Ch.auditRuns (e : Env) (s : Nat) : Nat → Nat → Bool → Ch → Ch × Bool
  | 0, _, _, c => (c, false)
  | k + 1, from_, first, c =>
    let r := c.readPs e 2 from_ 1
    if r.2 then (r.1, true)
    else
      let w := c.img.lists.get 0 from_
      let a := r.1.auditAll e s (runKind w) (runObjects w) first
      Ch.auditRuns e s k (from_ + 1) a.2 a.1

/-- AUDIT_COMPLETE of sequence `s` (R239, R240, R242): the walk, then IDLE, or STOPPED where a STOP waited. -/
def Ch.auditComplete (e : Env) (s : Nat) (c : Ch) : Ch :=
  let q := c.seq s
  if q.st ≠ .audit then c
  else
    let d := c.img.scores.get 0 q.score
    let rd := c.readPs e 0 q.score 1
    let r := if rd.2 then rd else rd.1.auditRuns e s (fld d 48 33) (fld d 32 16) true
    let st := if c.ctl.st ≠ .closing && (r.2 || q.stopping) then SeqSt.stopped else .idle
    let c1 := r.1.putSeq s { r.1.seq s with st := st, stopping := false, deadlineOn := false }
    { c1 with ps := { c1.ps with audits := inc c1.ps.audits } }

/-- The start of the close-time audits (R226, R240, R394): held releases are discarded and every sequence that is not
IDLE goes to AUDIT. -/
def Ch.closeAudits (c : Ch) : Ch :=
  (List.range 16).foldl (fun c s =>
    if (c.seq s).st = .idle then c else c.putSeq s { c.seq s with st := .audit, deadlineOn := false })
    { c with bg := { c.bg with holdQ := [] } }

/-! ## Commands (R227, R241, R242) -/

/-- The outcome of a permitted SEQ_SELECT of a score (R227), performed as one op: its status. -/
def Ch.selectScore (e : Env) (s score : Nat) (c : Ch) : Ch × Nat :=
  let r := c.readPs e 0 score 1
  let q := c.seq s
  if !bit (c.img.scores.get 0 score) 63 then (r.1, stBadIndex)
  else if q.st = .run ∨ q.st = .held ∨ q.st = .audit then (r.1, stFalse)
  else if r.2 then (r.1.stopSeq s, stOk)
  else
    let first := fld (c.img.scores.get 0 score) 15 0
    let c1 := r.1.putSeq s { q with score := score, entry := first, missed := false, lean := false }
    let l := c1.resetList e s first
    if l.2 then (l.1.stopSeq s, stOk) else (l.1.startPhase e s first false, stOk)

/-- The encoding of a sequence state (R226). -/
def SeqSt.code : SeqSt → Nat
  | .idle => 0 | .run => 1 | .held => 2 | .audit => 3 | .stopped => 4

/-- RESULT of SEQ_SELECT (R227). -/
def Seq.result (q : Seq) : Nat := at_ 2 0 q.st.code + at_ 31 16 q.entry

/-- SEQ_SELECT as a request (R227). -/
def Ch.seqSelect (e : Env) (o : Op) (c : Ch) : Ch × Reply :=
  let r := c.selectScore e o.index (fld o.operand 7 0)
  (r.1, .done r.2 (r.1.seq o.index).result {})

/-- The round of an end object is given up for a phase restart (R241). -/
def Ch.endRound (e : Env) (o : EndObj) (c : Ch) : Ch :=
  match o with
  | .lane l => c.rearmLane e l
  | .bar i => c.discardBar e i stCancelled true

/-- RESTART of sequence `s` in RUN (R241). -/
def Ch.restartPhase (e : Env) (s : Nat) (c : Ch) : Ch :=
  let n := (c.seq s).entry
  let o := (c.entry n).endObj
  let r := c.resetList e s n
  if r.2 then r.1.stopSeq s
  else
    let c1 := (r.1.breakIfBound e o).endRound e o
    if (c1.seq s).st = .run then c1.startActions e s n (c1.seq s).lean else c1

/-- STOP of sequence `s` (R242). -/
def Ch.stopCommand (e : Env) (s : Nat) (c : Ch) : Ch :=
  let q := c.seq s
  match q.st with
  | .audit => c.putSeq s { q with stopping := true }
  | .held =>
    match c.bg.holdQ.find? (fun h => h.seq = s) with
    | none => c.stopSeq s
    | some h =>
      (({ c with bg := { c.bg with holdQ := c.bg.holdQ.erase h } }).stopSeq s).passFree e h.obj
        .nothing
  | _ => c.stopSeq s

/-- A write of PS_SEQ_CTL_s (R227, R241, R242). Which of SELECT and RESTART acts when both are written without STOP
is a free value. -/
def Ch.seqCommand (e : Env) (s : Nat) (v : Nat) (c : Ch) : Ch :=
  let c0 := c.putSeq s { c.seq s with ctlScore := fld v 15 8 }
  let done := fun (st : Nat) (c : Ch) => c.putSeq s { c.seq s with ctlStatus := st }
  if !(bit v 0 || bit v 1 || bit v 2) then c0
  else if c0.ctl.st ≠ .run then done stChannelDown c0
  else if bit v 2 then done stOk (c0.stopCommand e s)
  else if bit v 1 && (!bit v 0 || e.freeVal 0 % 2 = 1) then
    if (c0.seq s).st = .run then done stOk (c0.restartPhase e s) else done stFalse c0
  else
    let r := c0.selectScore e s (fld v 15 8)
    done r.2 r.1

end Sys2Proof.Machine
end

