-- ==== Sys2Proof/Machine/AccordMessages.lean ====
section
/-! DEFINITION. Accords, receiving side (R259, R262 to R275): formation, time exchanges, ARRIVE, RELEASE, BREAK, the
accord timer, links. Each received message is taken by the channel that owns its port. -/

namespace Sys2Proof.Machine

/-- Body word `n` of a received message, counted from 1; zero where the message is shorter. -/
def bodyWord (m : MsgIn) (n : Nat) : Nat := (m.body.map (·.toNat)).getD (n - 1) 0

/-- The tree edge behind a port, if any. -/
def La.edgeAt (a : La) (p : Nat) : Option Edge := a.edges.find? (fun d => d.port = p)

/-- Replaces the edge behind a port. -/
def Ch.setEdge (p : Nat) (f : Edge → Edge) (c : Ch) : Ch :=
  { c with la := { c.la with edges := c.la.edges.map (fun d => if d.port = p then f d else d) } }

/-- An accord message that finds nothing to act on is counted (R277). -/
def Ch.ignoreMsg (c : Ch) : Ch := { c with lalog := { c.lalog with ignored := inc c.lalog.ignored } }

/-! ## Formation (R262 to R266) -/

/-- A disagreement: the first of an attempt gives the attempt's reason (R266). -/
def Ch.noteReason (reason rank port : Nat) (c : Ch) : Ch :=
  if c.la.firstReason ≠ 0 then c
  else { c with la := { c.la with firstReason := reason, reason := reason, reasonRank := rank, reasonPort := port } }

/-- An attempt has failed (R266): after 1 + RETRIES of them the accord is FAILED. -/
def Ch.failAttempt (e : Env) (c : Ch) : Ch :=
  if c.la.attempts ≤ c.la.retries then c
  else (({ c with la := { c.la with st := .failed } }).raise e .la 2 {}).breakObjs e

/-- The accord becomes FORMED here (R265): the children hear of it, and what waits for FORMED is sent (R272). -/
def Ch.becomeFormed (e : Env) (c : Ch) : Ch :=
  let c1 := { c with la := { c.la with st := .formed, joining := false } }
  let c2 := c1.sendEdges e c1.la.childEdges tyFormed 0 []
  { c2 with todo := c2.todo ++ (c2.img.commons.filter (fun p => bit p.2 63)).map (fun p => Todo.contribute p.1) }

/-- Formation goes as far as it can (R265 orders 1 and 2), unless the attempt has failed at once (R264). -/
def Ch.formOn (e : Env) (c : Ch) : Ch :=
  if c.la.st ≠ .forming || c.la.attemptDead || !(c.la.childEdges.all (fun d => d.isReady)) then c
  else
    match c.la.parent with
    | none => c.becomeFormed e
    | some d =>
      if d.sentOk && d.recvOk && !d.isReady then
        (c.setEdge d.port (fun d => { d with isReady := true })).sendEdge e d tyReady 0 []
      else c

/-- The body of HELLO (R263). -/
def Ch.helloBody (e : Env) (c : Ch) : List Nat :=
  [c.la.digest, at_ 47 40 verMajor + at_ 39 32 verMinor + laFeatures, e.stamp, Config.idLot.toNat, Config.idDie.toNat]

/-- The attempt fails at once with reason PORT (R264): a tree port is not the channel's, or its link is down. -/
def Ch.failPort (e : Env) (p : Nat) (c : Ch) : Ch :=
  (({ c with la := { c.la with attemptDead := true, joining := false } }).noteReason rePort c.la.rank p).failAttempt e

/-- An attempt starts (R263, R264): HELLO on every tree edge, or at once reason PORT. -/
def Ch.startAttempt (e : Env) (c : Ch) : Ch :=
  let es := c.la.edges.map (fun d => { d with sentOk := false, recvOk := false, isReady := false })
  let c1 := { c with la := { c.la with attempts := c.la.attempts + 1, attemptAt := e.stamp, firstReason := 0, attemptDead := false,
                                       joining := false, reqT1 := none, edges := es } }
  match c1.la.edges.find? (fun d => !bit c1.la.linkPorts d.port || !bit c1.la.up d.port) with
  | some d => c1.failPort e d.port
  | none => (c1.sendEdges e c1.la.edges tyHello 0 (c1.helloBody e)).formOn e

/-- Forming starts when the channel enters RUN (R262). -/
def Ch.startForming (e : Env) (c : Ch) : Ch :=
  if c.la.accord = 0 then c
  else ({ c with la := { c.la with st := .forming, attempts := 0 } }).startAttempt e

/-- FORMATION_ATTEMPT_TIMEOUT: an attempt is over 10 ms after it started (R266). -/
def Ch.attemptTimeout (e : Env) (c : Ch) : Ch :=
  if c.la.st = .forming ∧ c.la.attemptAt + 10000000 ≤ e.time then
    let c1 := (c.noteReason reNoAnswer c.la.rank 0).failAttempt e
    if c1.la.st = .forming then c1.startAttempt e else c1
  else c

/-- The check of a HELLO (R264): the reason, 0 where every check passes. -/
def Ch.helloCheck (m : MsgIn) (c : Ch) : Nat :=
  if m.accord.toNat ≠ c.la.accord then reAccordId
  else if bodyWord m 1 ≠ c.la.digest then reDigest
  else if fld (bodyWord m 2) 47 40 ≠ verMajor then reMajor
  else if fld (bodyWord m 2) 31 0 ≠ laFeatures then reFeatures
  else if (c.la.edgeAt m.port.toNat).map (·.rank) ≠ some m.src.toNat then reRank
  else 0

/-- HELLO (R263, R264, R266). -/
def Ch.onHello (e : Env) (m : MsgIn) (c : Ch) : Ch :=
  let p := m.port.toNat
  let c1 := { c with la := { c.la with
      peerData := [0, 1, 2, 3, 4].foldl (fun s w => s.put 0 (8 * p + w) (bodyWord m (w + 1))) c.la.peerData } }
  match c1.la.st with
  | .forming =>
    let r := c1.helloCheck m
    let c2 := c1.sendMsg e p { typ := tyVerdict, accord := c1.la.accord, src := c1.la.rank, dst := m.src.toNat, body := [r] }
    if r = 0 then (c2.setEdge p (fun d => { d with sentOk := true })).formOn e
    else c2.noteReason r c2.la.rank p
  | .formed => c1.breakAccord e { c1.ownBreak rePeerRestart p with typ := tyHello }
  | _ => c1.ignoreMsg

/-- VERDICT (R264). -/
def Ch.onVerdict (e : Env) (m : MsgIn) (c : Ch) : Ch :=
  let r := fld (bodyWord m 1) 7 0
  match c.la.st with
  | .forming =>
    if r = 0 then (c.setEdge m.port.toNat (fun d => { d with recvOk := true })).formOn e
    else c.noteReason r m.src.toNat m.port.toNat
  | .formed => c
  | _ => c.ignoreMsg

/-- READY from a child (R265). -/
def Ch.onReady (e : Env) (m : MsgIn) (c : Ch) : Ch :=
  match c.la.st with
  | .forming =>
    if (c.la.edgeAt m.port.toNat).any (fun d => !d.up) then
      (c.setEdge m.port.toNat (fun d => { d with isReady := true })).formOn e
    else c
  | .formed => c
  | _ => c.ignoreMsg

/-! ## Accord time (R267 to R270) -/

/-- A TIME_REQ is sent to the parent; t1 is taken as it leaves. -/
def Ch.sendTimeReq (e : Env) (c : Ch) : Ch :=
  match c.la.parent with
  | none => c
  | some d =>
    let t1 := c.accTimeAt e d.port
    ({ c with la := { c.la with reqT1 := some t1, reqAt := e.time } }).sendEdge e d tyTimeReq 0 [word64 t1]

/-- FORMED from the parent (R265 order 3). -/
def Ch.onFormed (e : Env) (m : MsgIn) (c : Ch) : Ch :=
  match c.la.st with
  | .forming =>
    if (c.la.edgeAt m.port.toNat).any (fun d => d.up && d.isReady) && !c.la.joining then
      ({ c with la := { c.la with joining := true } }).sendTimeReq e
    else c
  | .formed => c
  | _ => c.ignoreMsg

/-- TIME_EXCHANGE_DUE (R268, R269). -/
def Ch.timeDue (e : Env) (c : Ch) : Ch :=
  if c.la.st = .formed ∧ c.la.parent.isSome ∧ c.la.reqAt + 1000000 ≤ e.time then
    if c.la.reqT1.isSome then
      let c1 := { c with la := { c.la with missRun := c.la.missRun + 1 },
                         lalog := { c.lalog with timeMisses := inc c.lalog.timeMisses } }
      if 3 ≤ c1.la.missRun then
        c1.breakAccord e { c1.ownBreak reLinkLost ((c1.la.parent.map (·.port)).getD 0) with typ := tyTimeRsp }
      else c1.sendTimeReq e
    else c.sendTimeReq e
  else c

/-- TIME_REQ (R268), received at keep value `rx`: answered, also after a break; t3 is taken as the answer leaves. -/
def Ch.onTimeReq (e : Env) (rx : Nat) (m : MsgIn) (c : Ch) : Ch :=
  if c.la.accord = 0 then c.ignoreMsg
  else
    c.sendMsg e m.port.toNat { typ := tyTimeRsp, accord := c.la.accord, src := c.la.rank, dst := m.src.toNat,
                               body := [bodyWord m 1, word64 ((rx : Int) + c.la.timeOffset), word64 (c.accTimeAt e m.port.toNat)] }

/-- A kept sample moves the offset (R270). -/
def Ch.applyTheta (θ : Int) (δ : Int) (c : Ch) : Ch :=
  { c with la := { c.la with timeOffset := c.la.timeOffset + θ, lastDelay := word32 δ, lastTheta := θ } }

/-- TIME_RSP (R265 order 3, R268 to R270), received at keep value `rx`. -/
def Ch.onTimeRsp (e : Env) (rx : Nat) (m : MsgIn) (c : Ch) : Ch :=
  match c.la.st, c.la.reqT1 with
  | .none, _ => c.ignoreMsg
  | .broken, _ => c.ignoreMsg
  | .failed, _ => c.ignoreMsg
  | _, none => c
  | _, some t1 =>
    let mine := decide ((c.la.parent.map (·.port)) = some m.port.toNat) && decide (signed64 (bodyWord m 1) = t1)
    if !mine then c
    else
      let t4 := (rx : Int) + c.la.timeOffset
      let t2 := signed64 (bodyWord m 2)
      let t3 := signed64 (bodyWord m 3)
      let θ := Int.tdiv ((t2 - t1) + (t3 - t4)) 2
      let δ := (t4 - t1) - (t3 - t2)
      let c1 := { c with la := { c.la with reqT1 := none, missRun := 0 } }
      if δ < 0 ∨ 4000 < δ then
        { c1 with lalog := { c1.lalog with timeDiscards := inc c1.lalog.timeDiscards } }
      else if c1.la.st = .forming then
        if c1.la.joining then (c1.applyTheta θ δ).becomeFormed e else c1
      else if θ.natAbs ≤ 250 then c1.applyTheta θ δ
      else if θ.natAbs ≤ 5000 then
        let c2 := c1.applyTheta θ δ
        ({ c2 with la := { c2.la with timeWarn := true },
                   lalog := { c2.lalog with timeWarns := inc c2.lalog.timeWarns } }).raise e .la 1
          { addr := at_ 18 16 m.port.toNat, access := 6, key := m.port.toNat }
      else
        let c2 := { c1 with la := { c1.la with lastDelay := word32 δ, lastTheta := θ } }
        c2.breakAccord e { c2.ownBreak reTime m.port.toNat with typ := tyTimeRsp }

/-! ## Accord objects -/

/-- A disagreement in state about an object breaks the accord (R273). -/
def Ch.disagree (e : Env) (m : MsgIn) (typ reason k received expected : Nat) (c : Ch) : Ch :=
  c.breakAccord e { c.ownBreak reason m.port.toNat with object := k, typ := typ, received := received, expected := expected }

/-- ARRIVE (R272, R273). -/
def Ch.onArrive (e : Env) (m : MsgIn) (c0 : Ch) : Ch :=
  let k := m.object.toNat
  let c := (c0.readAcc e k).1
  let p := m.port.toNat
  let gen := fld (bodyWord m 1) 63 32
  let a := c.accState k
  match c.la.st with
  | .formed =>
    let child := (c.la.edgeAt p).any (fun d => !d.up)
    if !child || !bit (c.common k) 63 || gen ≠ a.gen.toNat || a.children.contains p then
      c.disagree e m tyArrive reGeneration k gen a.gen.toNat
    else
      let part : Acc := { words := (List.range 8).foldl (fun s j => s.put 0 j (bodyWord m (j + 2))) [],
                          seen := fld (bodyWord m 10) 7 0, range := fld (bodyWord m 10) 15 8, nf := bit (bodyWord m 10) 16 }
      let a1 := { a with children := a.children ++ [p], lean := a.lean || bit (bodyWord m 1) 31,
                         choice := max a.choice (fld (bodyWord m 1) 30 29),
                         partialAcc := if c.accReduce k then mergeAcc e (c.accCfg k) a.partialAcc part else a.partialAcc }
      let c1 := (c.putAcc k a1).startAccTimer e k
      { c1 with todo := c1.todo ++ [Todo.contribute k] }
  | .forming => c
  | _ => c.ignoreMsg

/-- A RELEASE's CHOICE names no successor of the local entry (R273). -/
def Ch.badChoice (k choice : Nat) (c : Ch) : Bool :=
  match (c.localObj k).bind c.seqAt with
  | none => false
  | some s =>
    let n := (c.entry (c.seq s).entry).nsucc
    if n = 0 then decide (choice ≠ 0) else decide (n ≤ choice)

/-- RELEASE (R272 step 5, R273, R274). -/
def Ch.onRelease (e : Env) (m : MsgIn) (c0 : Ch) : Ch :=
  let k := m.object.toNat
  let c := (c0.readAcc e k).1
  let w := bodyWord m 1
  let gen := fld w 63 32
  let choice := fld w 30 29
  let tmo := bit w 28
  let a := c.accState k
  match c.la.st with
  | .formed =>
    let fromParent := decide ((c.la.parent.map (·.port)) = some m.port.toNat)
    if !fromParent || !bit (c.common k) 63 || gen ≠ a.gen.toNat || (!tmo && (c.localObj k).isSome && !a.localDone) then
      c.disagree e m tyRelease reGeneration k gen a.gen.toNat
    else if c.badChoice k choice then c.disagree e m tyRelease reChoice k gen a.gen.toNat
    else
      let body := m.body.map (·.toNat)
      let c1 := c.sendEdges e c.la.childEdges tyRelease k body
      if tmo then
        let c2 := c1.accTmo e k
        { c2 with todo := c2.todo ++ [Todo.contribute k] }
      else { c1 with todo := c1.todo ++ [Todo.accRelease k (bit w 31) choice (body.drop 1)] }
  | .forming => c
  | _ => c.ignoreMsg

/-- BREAK (R277). -/
def Ch.onBreak (e : Env) (m : MsgIn) (c : Ch) : Ch :=
  c.breakAccord e { reason := reBreakReceived, rank := fld (bodyWord m 1) 13 8, port := m.port.toNat,
                    sent := fld (bodyWord m 1) 7 0, origin := fld (bodyWord m 1) 13 8, notPort := some m.port.toNat,
                    typ := tyBreak }

/-- ACCORD_TIMEOUT of object `k` at the root (R274, R427). -/
def Ch.accordTimeout (e : Env) (k : Nat) (c0 : Ch) : Ch :=
  let c := (c0.readAcc e k).1
  let a := c.accState k
  let us := fld (c.common k) 59 40
  let due := match a.timer with
    | none => false
    | some s => decide (us ≠ 0) && decide (s + 1000 * us ≤ e.time)
  if c.la.st = .formed && c.la.isRoot && !a.expired && due then
    let c1 := { c with lalog := { c.lalog with accTimeouts := inc c.lalog.accTimeouts } }
    let c2 := (c1.raise e .la 3 { addr := at_ 63 32 a.gen.toNat + at_ 7 0 k, access := 5 }).blotTrigger e 5
      (at_ 63 32 a.gen.toNat + k)
    if bit (c.common k) 60 then c2.putAcc k { a with expired := true }
    else
      let c3 := (c2.sendEdges e c2.la.childEdges tyRelease k [accWord a.gen.toNat false 0 true]).accTmo e k
      { c3 with todo := c3.todo ++ [Todo.contribute k] }
  else c

/-- LINK_LOST on a port (R276): a tree edge breaks the accord, or spoils a formation attempt (R264). -/
def Ch.linkDown (e : Env) (p : Nat) (c : Ch) : Ch :=
  let c1 := { c with la := { c.la with up := clrBit c.la.up p } }
  if (c1.la.edgeAt p).isNone then c1
  else
    match c1.la.st with
    | .formed => c1.breakAccord e { c1.ownBreak reLinkLost p with notPort := none }
    | .forming => c1.failPort e p
    | _ => c1

/-- LINK_UP on a port. -/
def Ch.linkIsUp (p : Nat) (c : Ch) : Ch := { c with la := { c.la with up := setBit c.la.up p } }

/-! ## Taking a message (R259) -/

/-- The body lengths of each message type (R257). -/
def lenOk (typ len : Nat) : Bool :=
  match typ with
  | 1 => len = 5
  | 2 => len = 1
  | 3 => len = 0
  | 4 => len = 0
  | 5 => len = 1 || len = 10
  | 6 => len = 1 || len = 7
  | 7 => len = 3
  | 8 => len = 1
  | 9 => len = 3
  | 10 => len = 1
  | _ => false

/-- A malformed message (R259); a HELLO's ACCORD and rank are checked by R264 instead. -/
def Ch.malformed (typ : Nat) (m : MsgIn) (c : Ch) : Bool :=
  m.err = .uncorrectable || !lenOk typ m.len.toNat || m.body.length ≠ m.len.toNat
    || (typ ≠ tyHello && m.accord.toNat ≠ c.la.accord)
    || (typ ≠ tyHello && typ ≠ tyTrailer && m.dst.toNat ≠ c.la.rank)

/-- The effect of a well-formed message other than TRAILER, received at keep value `rx`. -/
def Ch.onMessage (e : Env) (rx typ : Nat) (m : MsgIn) (c : Ch) : Ch :=
  match typ with
  | 1 => c.onHello e m
  | 2 => c.onVerdict e m
  | 3 => c.onReady e m
  | 4 => c.onFormed e m
  | 5 => c.onArrive e m
  | 6 => c.onRelease e m
  | 8 => c.onTimeReq e rx m
  | 9 => c.onTimeRsp e rx m
  | 10 => c.onBreak e m
  | _ => c

/-- A message is counted, and a corrected word in it with LA_CE (R259, R313, R326). -/
def Ch.countMsg (e : Env) (m : MsgIn) (c : Ch) : Ch :=
  let forced := c.lalog.forceCe
  let c1 := { c with lalog := { c.lalog with msgRx := inc c.lalog.msgRx, forceCe := false } }
  if m.err = .corrected || forced then
    c1.correctedPacket e .la 0 { addr := at_ 18 16 m.port.toNat, access := 6, key := m.port.toNat, forced := forced }
  else c1

/-- The LA takes a message other than TRAILER (R259), received at keep value `rx`. -/
def Ch.takeMessage (e : Env) (rx typ : Nat) (m : MsgIn) (c : Ch) : Ch :=
  let c1 := c.countMsg e m
  if c1.ctl.st ≠ .run ∧ c1.ctl.st ≠ .closing then c1.ignoreMsg
  else if c1.malformed typ m then
    c1.breakAccord e { c1.ownBreak reMessage m.port.toNat with object := m.object.toNat, typ := typ }
  else c1.onMessage e rx typ m

/-! ## Sending a remote trailer (R260) -/

/-- REMOTE_TRAILER_SEND by an endpoint of this channel. -/
def Ch.sendTrailer (e : Env) (t : TrailerArg) (p : Nat) (c : Ch) : Ch :=
  if c.la.accord = 0 ∨ !bit c.la.linkPorts p then
    { c with lalog := { c.lalog with rtrRefused := inc c.lalog.rtrRefused } }
  else
    c.sendMsg e p { typ := tyTrailer, accord := c.la.accord, src := c.la.rank,
                    dst := ((c.la.edgeAt p).map (·.rank)).getD (e.freeVal 3 % 64),
                    body := [at_ 31 26 t.opcode.toNat + at_ 25 23 t.cls.toNat + at_ 22 0 t.index.toNat,
                             t.operand.toNat, at_ 11 0 t.issuer.toNat] }

end Sys2Proof.Machine
end

