-- ==== Sys2Proof/Machine/Views.lean ====
section
/-! DEFINITION. The words that registers, the blotter and inspection share: fault sets (R315), sequences and the gate
(R252), lanes (R169), accord status (R280), the protection table's sequence number, identity (R396). -/

namespace Sys2Proof.Machine

/-! ## Fault sets (R315) -/

/-- The encoding of a fault-set state (R321). -/
def FltSt.code : FltSt → Nat
  | .clear => 0 | .faulted => 1 | .drydown => 2 | .halted => 3

/-- _FLT_STATUS. -/
def FaultSet.statusWord (f : FaultSet) : Nat :=
  at_ 63 62 f.st.code + at_ 61 60 f.cls + at_ 59 59 (b01 f.captured) + at_ 58 58 (b01 f.escalated)
    + at_ 57 57 (b01 f.wear) + at_ 31 0 f.src

/-- _FLT_FORCE: the target fields. -/
def FaultSet.forceWd (f : FaultSet) : Nat := at_ 63 60 f.forceArray + at_ 59 57 f.forceBank + at_ 56 32 f.forceWord

/-- _FE_MASTER. -/
def FaultSet.masterWord (f : FaultSet) : Nat := at_ 24 24 (b01 f.feMValid) + at_ 23 12 f.feMLid + at_ 11 0 f.feMPhys

/-- _FE_ALSO. -/
def FaultSet.alsoWord (f : FaultSet) : Nat := at_ 47 40 f.alsoCount + at_ 33 32 f.alsoMax + at_ 31 0 f.alsoSrc

/-- The time in ns until a drydown ends. -/
def FaultSet.dryLeft (f : FaultSet) (time : Nat) : Nat := f.lastFault + 1000 * f.loadedUs - time

/-- _DRYDOWN; LEFT_US is rounded up to whole µs. -/
def FaultSet.drydownWord (f : FaultSet) (time : Nat) : Nat :=
  (if f.st = .drydown then at_ 63 32 (ceilDiv (f.dryLeft time) 1000) else 0) + at_ 19 0 f.drydownUs

/-- _CE_WINDOW. -/
def FaultSet.windowWord (f : FaultSet) : Nat := at_ 47 32 f.windowCe + at_ 19 0 f.windowUs

/-- The line of one fault set in a blotter (R406). -/
def FaultSet.line (f : FaultSet) : List Nat :=
  [f.statusWord, f.feAddr, f.masterWord, f.feType, f.feTime, f.alsoWord, f.ceCount, f.recoveries]

/-! ## Sequences and the gate -/

/-- PS_SEQ_STATE_s. -/
def Seq.stateWord (q : Seq) : Nat :=
  at_ 63 61 q.st.code + at_ 60 60 (b01 q.missed) + at_ 59 59 (b01 q.lean) + at_ 55 48 q.score + at_ 47 32 q.entry
    + at_ 31 16 q.next + at_ 1 0 q.chosen

/-- PS_AUDIT_INFO. -/
def Ps.auditInfo (p : Ps) : Nat :=
  at_ 63 63 (b01 p.auValid) + at_ 62 59 p.auSeq + at_ 58 51 p.auScore + at_ 50 48 p.auKind + at_ 22 0 p.auIndex

/-- BG_HOLD. -/
def Ch.holdWord (time : Nat) (c : Ch) : Nat :=
  let head := match c.bg.holdQ with
    | [] => 0
    | h :: _ => at_ 45 32 (min 16383 ((time - h.since) / 1000)) + at_ 31 28 h.seq
  head + at_ 20 16 c.bg.holdQ.length + maskOf (c.bg.holdQ.map (·.seq))

/-- BG_THERM. -/
def thermWord (e : Env) : Nat :=
  at_ 24 24 (b01 e.trip) + 65536 * maskOf e.stale
    + (List.range 8).foldl (fun n b => n + at_ (2 * b + 1) (2 * b) (e.gateClass b)) 0

/-! ## Accords -/

/-- The encoding of an accord state (R262). -/
def AccSt.code : AccSt → Nat
  | .none => 0 | .forming => 1 | .formed => 2 | .broken => 3 | .failed => 4

/-- LA_ACC_STATUS. -/
def La.statusWord (a : La) : Nat :=
  at_ 63 61 a.st.code + at_ 55 48 a.reason + at_ 45 40 a.reasonRank + at_ 34 32 a.reasonPort + at_ 31 24 a.attempts
    + at_ 8 8 (b01 a.timeWarn)

/-! ## Lanes -/

/-- BW_LANE_CTL_l. -/
def Lane.ctlWord (v : Lane) : Nat := at_ 51 32 v.timeoutUs + at_ 29 29 (b01 v.action) + at_ 11 0 v.maskSel

/-- The parity bits of a lane, by logical ID. -/
def Lane.parityIds (v : Lane) : List Nat := (v.parity.filter (fun p => p.2)).map (·.1)

/-! ## Identity (R396) -/

/-- ID_VERSION: 2.1.0. -/
def idVersion : Nat := at_ 47 40 verMajor + at_ 39 32 verMinor + at_ 31 24 verPatch

/-- PT_SEQ.COMMITTED: HEADER.SEQ of the committed table (R287). -/
def Pt.committed (p : Pt) : Nat := fld (p.table.get 0 0) 63 32

/-! ## Payload records (R192) -/

/-- Word `w` of the payload record of barrier `i`. -/
def Ch.payWord (c : Ch) (i w : Nat) : Nat :=
  let p := c.pay i
  if w < 8 then p.acc0.words.get 0 w
  else if w < 16 then p.acc1.words.get 0 (w - 8)
  else if w = 16 then
    at_ 48 48 (b01 p.acc1.nf) + at_ 47 40 p.acc1.range + at_ 39 32 p.acc1.seen + at_ 16 16 (b01 p.acc0.nf)
      + at_ 15 8 p.acc0.range + at_ 7 0 p.acc0.seen
  else if w = 17 then c.cfg i
  else if w < 22 then p.res.get 0 (w - 18)
  else if w = 22 then p.scales
  else p.header

end Sys2Proof.Machine
end

