-- ==== Sys2Proof/Machine/Debug.lean ====
section
/-! DEFINITION. Inspection (R398 to R400), hand setting (R401 to R403) and the blotter's content (R406 to R410). -/

namespace Sys2Proof.Machine

/-! ## Snapshots (R399, R400) -/

/-- The largest INDEX of each snapshot kind, plus one; 0 for an undefined kind. -/
def snapLimit : Nat → Nat
  | 0 => 2 ^ 20 | 1 => 2 ^ 18 | 2 => 2 ^ 16 | 3 => 2 ^ 15 | 4 => 32 | 5 => 2 ^ 16 | 6 => 2 ^ 14 | 7 => 2 ^ 14
  | 8 => 2 ^ 13 | 9 => 2 ^ 12 | _ => 0

/-- The op that a snapshot or a hand action is to the bank: the host's, logical ID 0xFFF. -/
def hostOpOn (cls i : Nat) : Op := { lid := 0xFFF, phys := 0xFFF, opcode := 0, cls := cls, index := i, access := 3 }

/-- The read that a snapshot makes in its bank or share. -/
def Ch.snapRead (e : Env) (kind i : Nat) (c : Ch) : Ch :=
  match kind with
  | 0 => c.readFlag e (hostOpOn clFlag i) i
  | 1 => c.readSem e (hostOpOn clSem i) i
  | 2 => c.readStr e (hostOpOn clStr i) i
  | 3 => c.readBar e (hostOpOn clBar i) i
  | 5 => c.readLock e (hostOpOn clLock i) i
  | 6 => c.readConn e (hostOpOn clConn i) i
  | 8 => c.readPay e (hostOpOn clBar i) i
  | _ => c

/-- The waiters of an object, in arming order; those of a lock entry in hand-off order. -/
def Ch.snapWaiters (c : Ch) (kind i : Nat) : List Parked :=
  match kind with
  | 0 => c.waiters clFlag i
  | 1 => c.waiters clSem i
  | 2 => c.waiters clStr i
  | 3 => c.waiters clBar i
  | 5 => c.lockWaiters i
  | _ => []

/-- DB_INSP_WAITER_DATA for one waiter. -/
def Parked.view (w : Parked) : Nat :=
  at_ 63 63 1 + at_ 31 26 w.opcode + at_ 25 24 w.slot + at_ 23 12 w.phys + at_ 11 0 w.lid

/-- The object words of a snapshot. -/
def Ch.snapWords (c : Ch) (kind i : Nat) : List Nat :=
  match kind with
  | 0 => [(c.flag i).record]
  | 1 => [c.semWordNow i]
  | 2 => [(c.str i).p, (c.str i).c, (c.str i).word2 i]
  | 3 => [(c.bar i).word0, (c.bar i).word1 i, (c.bar i).word2, 0]
  | 4 => [(c.lane i).stateWord, (c.lane i).gen.toNat]
  | 5 => [(c.lockEntry i).word0, (c.lockEntry i).word1 (c.lockWaiting i)]
  | 6 => [(c.conn i).word0 (c.resParked i), (c.conn i).word1]
  | 7 =>
    match c.hw.parked.find? (fun w => 4 * w.lid + w.slot = i) with
    | some w => [w.low, w.high]
    | none => []
  | 8 => [(c.pay i).header, (c.pay i).scales]
  | _ => []

/-- Word `w` of the bit view of a snapshot. -/
def Ch.snapBits (c : Ch) (kind i w : Nat) : Nat :=
  match kind with
  | 3 => if !barStrict i then 0 else if w < 32 then wordOf (c.bar i).cur w else wordOf (c.bar i).nxt (w - 32)
  | 4 => if w < 32 then wordOf (c.lane i).parityIds w else 0
  | 8 => if w < 24 then c.payWord i w else 0
  | 9 => if w < 32 then fld (c.mask i) (64 * w + 63) (64 * w) else 0
  | _ => 0

/-- A list of words as a store. -/
def storeOf (l : List Nat) : SMap Nat := (l.zipIdx).foldl (fun m p => m.put 0 p.2 p.1) []

/-- The result of a snapshot is placed in the inspection registers (R398). -/
def Ch.putSnap (status waiters : Nat) (data list bits : List Nat) (c : Ch) : Ch :=
  { c with db := { c.db with inBusy := false, inValid := true, inStatus := status, inWaiters := waiters,
                             inData := storeOf data, inList := storeOf list, inBits := storeOf bits } }

/-- The stores hold the zeros they are cleared to (R373 step 2, R393 step 2): no section of the channel stands loaded, as its image
has no type 0x0F block (R390). -/
def Ch.unloaded (c : Ch) : Bool := (decide (c.ctl.st = .down) || decide (c.ctl.st = .failed)) && decide (c.img.capUj = 0)

/-- A snapshot of the object that KIND and INDEX name (R398 to R400). -/
def Ch.snapshot (e : Env) (kind i : Nat) (c : Ch) : Ch :=
  if c.ctl.st = .loading then c.putSnap stChannelDown 0 [] [] []
  else if snapLimit kind = 0 then c.putSnap stBadOp 0 [] [] []
  else if snapLimit kind ≤ i then c.putSnap stBadIndex 0 [] [] []
  else
    let c1 := c.snapRead e kind i
    let ws := c1.snapWaiters kind i
    let words := c1.snapWords kind i
    c1.putSnap stOk ws.length (if c.unloaded then words.map (fun _ => 0) else words) ((ws.take 64).map Parked.view)
      ((List.range 64).map (c1.snapBits kind i))

/-! ## Hand actions (R402, R403) -/

/-- A hand WRITE of a semaphore: its waiters are served under R86. -/
def Ch.handSem (e : Env) (i d : Nat) (c : Ch) : Ch :=
  let old := c.sem i
  let s : Sem := { value := fld d 31 0, firstFit := bit d 45, poisoned := false, last := 0xFFF }
  let c1 := (c.putSem i s).watchSem i old
  c1.serveSem e i (c1.waiters clSem i)

/-- A hand WRITE of a stream pair. -/
def Ch.handStr (e : Env) (i p k d : Nat) (c : Ch) : Ch :=
  let s : Stream := { p := p, c := k, k := fld d 24 0, lastProd := 0xFFF, lastCons := 0xFFF, poisoned := false }
  (c.putStr i s).settleStr e i s

/-- The values of R110 for a stream pair. -/
def strOk (p c k : Nat) : Bool := decide (k ≠ 0) && decide (k ≤ 2 ^ 24) && decide (c ≤ p) && decide (p - c ≤ k)

/-- A hand WRITE of a barrier. -/
def Ch.handBar (e : Env) (i d : Nat) (c : Ch) : Ch :=
  let b := c.bar i
  let n := fld d 12 0
  c.putBar i { b with count := n, early := fld d 25 13, poisoned := false, last := 0xFFF,
                      start := if n ≠ 0 then startOf e.stamp else b.start }

/-- A hand RELEASE of a barrier: a wake timeout without its reports; a sequence that ends at it stops. -/
def Ch.handRelease (e : Env) (i : Nat) (c : Ch) : Ch :=
  let c1 := c.stopEnding (.bar i)
  let c2 := c1.putBar i { c1.bar i with last := 0xFFF }
  c2.discardBar e i stTimeout true

/-- A hand CLEAR of a barrier. -/
def Ch.handClear (e : Env) (i : Nat) (c : Ch) : Ch :=
  ((c.stopEnding (.bar i)).breakIfBound e (.bar i)).resetBar e i 0xFFF

/-- A hand FREE of a connection. -/
def Ch.handFree (e : Env) (n : Nat) (c : Ch) : Ch :=
  let c1 := c.endUnmet e stCancelled (c.pairWaits (connPair n))
  (c1.putConn n {}).putStr (connPair n) { c1.str (connPair n) with p := 0, c := 0, k := 0, poisoned := false }

/-- The number of objects of a hand KIND; none where KIND and ACTION name no action. -/
def handLimit (kind action : Nat) : Option Nat :=
  match kind, action with
  | 0, 0 => some (2 ^ 20)
  | 1, 0 => some (2 ^ 18)
  | 2, 0 => some (2 ^ 16)
  | 3, 0 => some (2 ^ 15)
  | 3, 1 => some (2 ^ 15)
  | 3, 2 => some (2 ^ 15)
  | 6, 1 => some (2 ^ 14)
  | _, _ => none

/-- A permitted hand action in its bank: the channel after it, and its status (R402). -/
def Ch.handAct (e : Env) (kind action i d0 d1 d2 : Nat) (c : Ch) : Ch × Nat :=
  match kind, action with
  | 0, _ => (c.changeFlag e i { value := bit d0 12, strict := bit d0 13, poisoned := false, last := 0xFFF }, stOk)
  | 1, _ => if bit d0 31 then (c, stBadOp) else (c.handSem e i d0, stOk)
  | 2, _ => if 0xC000 ≤ i || !strOk d0 d1 (fld d2 24 0) then (c, stBadOp) else (c.handStr e i d0 d1 d2, stOk)
  | 3, 0 =>
    let b := c.bar i
    if barStrict i || decide (b.target ≤ fld d0 12 0) || decide (b.target < fld d0 25 13) then (c, stBadOp)
    else (c.handBar e i d0, stOk)
  | 3, 1 => if (c.bar i).gated then (c, stFalse) else (c.handRelease e i, stOk)
  | 3, _ => if (c.bar i).gated then (c, stFalse) else (c.handClear e i, stOk)
  | _, _ =>
    if (c.conn i).st = .free ∧ !(c.str (connPair i)).poisoned then (c, stFalse) else (c.handFree e i, stOk)

/-- The end of a hand action: STATUS and COUNT are placed and BUSY clears. -/
def Ch.handDone (status : Nat) (c : Ch) : Ch :=
  { c with db := { c.db with hBusy := false, hStatus := status, hCount := (c.db.hCount + 1) % 65536 } }

/-- A hand action (R401, R402). -/
def Ch.handPerform (e : Env) (kind action i d0 d1 d2 : Nat) (c : Ch) : Ch :=
  if c.ctl.st ≠ .run ∧ c.ctl.st ≠ .closing then c.handDone stChannelDown
  else
    match handLimit kind action with
    | none => c.handDone stBadOp
    | some n =>
      if n ≤ i then c.handDone stBadIndex
      else
        let r := c.handAct e kind action i d0 d1 d2
        r.1.handDone r.2

/-! ## The blotter (R406 to R410) -/

/-- The fixed lines before the slot section. -/
abbrev blotFixed : Nat := 314

/-- The lines of one lane (R406). -/
def Ch.laneLines (c : Ch) (l : Nat) : List (List Nat) :=
  let v := c.lane l
  let ids := v.parityIds
  [v.stateWord, v.gen.toNat, v.ctlWord, v.namClusters, v.namBays, v.namTime, 0, 0]
    :: ((List.range 4).map (fun j => (List.range 8).map (fun k => wordOf ids (8 * j + k)))
        ++ (List.range 4).map (fun j => (List.range 8).map (fun k => wordOf v.nam (8 * j + k))))

/-- Words cut into lines of eight, the last filled with zeros. -/
def linesOf : Nat → List Nat → List (List Nat)
  | 0, _ => []
  | n + 1, ws => (ws.take 8 ++ List.replicate (8 - (ws.take 8).length) 0) :: linesOf n (ws.drop 8)

/-- The fault captures, in the order of R406. -/
def Ch.faultLines (e : Env) (c : Ch) : List (List Nat) :=
  (allSubs.map (fun u => (c.fault u).line)) ++ [e.sflt.cl.line, e.sflt.hp.line, e.sflt.pt.line, e.sflt.ck.line]

/-- The sequence and gate lines of R406. -/
def Ch.seqLines (e : Env) (c : Ch) : List (List Nat) :=
  linesOf 5 ((List.range 16).map (fun s => (c.seq s).stateWord) ++ (List.range 16).map (fun s => (c.seq s).start)
    ++ [word64 c.bg.bucket, c.holdWord e.time, thermWord e, c.la.statusWord, e.pairWord, c.ps.auditInfo])

/-- Slots in the order of R408. -/
def slotSort : List Parked → List Parked
  | [] => []
  | w :: ws => insertSlot w (slotSort ws)
where
  insertSlot (w : Parked) : List Parked → List Parked
  | [] => [w]
  | v :: vs => if 4 * w.lid + w.slot < 4 * v.lid + v.slot then w :: v :: vs else v :: insertSlot w vs

/-- The four words of a slot entry (R408). -/
def Ch.slotEntry (c : Ch) (w : Parked) : List Nat :=
  [at_ 31 31 1 + at_ 27 16 ((c.physOf w.lid).getD w.phys) + at_ 13 12 w.slot + at_ 11 0 w.lid, w.low, w.high, 0]

/-- The numbers at which either of two stores lists something, rising. -/
def bothKeys {α β : Type} (a : SMap α) (b : SMap β) : List Nat :=
  (a.map (·.1) ++ b.map (·.1)).foldl (fun l k => insertId k l) []

/-- The objects on which some slot of a class is armed, added to a list. -/
def Ch.withWaited (c : Ch) (cls : Nat) (l : List Nat) : List Nat :=
  (c.hw.parked.filter (fun w => w.cls = cls)).foldl (fun l w => insertId w.index l) l

/-- An object line (R408). -/
def objLine (kind i : Nat) (words : List Nat) (rest waiters : Nat) : List Nat :=
  [at_ 63 61 kind + at_ 22 0 i] ++ words ++ List.replicate (4 - words.length) 0 ++ [rest, waiters, 0]

/-- The object lines of a walk (R409): everything not at rest, by kind and rising index. -/
def Ch.objLines (c : Ch) : List (List Nat) :=
  ((c.withWaited clFlag (bothKeys c.os.flags c.img.flags)).filter (fun i => !c.atRest 0 i)).map (fun i =>
      objLine 0 i [(c.flag i).record] (b01 (c.img.flags.get {} i).value) (c.waiting clFlag i))
  ++ ((c.withWaited clSem (bothKeys c.os.sems c.img.sems)).filter (fun i => !c.atRest 1 i)).map (fun i =>
      objLine 1 i [c.semWordNow i] (c.img.sems.get {} i).value (c.waiting clSem i))
  ++ ((c.withWaited clStr (bothKeys c.os.strs c.img.strs)).filter (fun i => decide (i < 0xC000) && !c.atRest 2 i)).map
      (fun i => objLine 2 i (c.snapWords 2 i)
        (at_ 31 0 (c.img.strs.get {} i).fill + at_ 56 32 (c.img.strs.get {} i).k) (c.waiting clStr i))
  ++ ((c.withWaited clBar (bothKeys c.os.bars c.img.bars)).filter (fun i => !c.atRest 3 i)).map (fun i =>
      objLine 3 i (c.snapWords 3 i)
        (at_ 12 0 (c.img.bars.get {} i).count + at_ 25 13 (c.img.bars.get {} i).early) (c.waiting clBar i))
  ++ (c.lt.entries.filter (fun p => p.2.valid)).map (fun p => objLine 5 p.1 (c.snapWords 5 p.1) 0 (c.lockWaiting p.1))
  ++ (c.os.conns.filter (fun p => p.2.st ≠ .free)).map (fun p => objLine 6 p.1 (c.snapWords 6 p.1) 0 0)

/-- A blotter: its lines after the header, the header's four lines, and whether it is truncated. -/
structure Blotter where
  body      : List (List Nat)
  header    : List (List Nat)
  truncated : Bool

/-- The blotter of a channel as it stands when its walk ends (R406 to R409). -/
def Ch.blotter (e : Env) (c : Ch) : Blotter :=
  let room := 64 * e.blotSize - blotFixed
  let slots := slotSort c.hw.parked
  let slotNeed := (slots.length + 1) / 2
  let slotLines := min slotNeed room
  let shown := slots.take (2 * slotLines)
  let objs := c.objLines
  let objN := min objs.length (room - slotLines)
  let atRestN := (objs.filter (fun l => decide (fld (l.headD 0) 63 61 ≤ 3))).length
  let cut := decide (objN < objs.length) || decide (slotLines < slotNeed)
  let body := c.faultLines e ++ c.seqLines e ++ linesOf 4 ((List.range 32).map (wordOf c.os.nam))
    ++ (List.range 32).flatMap c.laneLines ++ linesOf slotLines (shown.flatMap c.slotEntry) ++ objs.take objN
  let h : List Nat :=
    [0x544C4253 + at_ 39 32 1 + at_ 42 40 e.chan + at_ 43 43 (b01 cut) + at_ 47 44 c.db.bCause + at_ 55 48 c.db.bLater,
     inc c.db.bCount, c.db.bTrigger, e.stamp, Config.idLot.toNat, Config.idDie.toNat, Config.idTestDate.toNat, idVersion,
     c.db.bDetail, e.pt.committed, e.cl.buildId, word64 c.bg.bucket, at_ 31 0 slotLines + at_ 63 32 objN,
     at_ 31 0 (objs.length - objN) + at_ 63 32 (slots.length - shown.length), at_ 31 0 atRestN]
  { body := body, truncated := cut,
    header := linesOf 4 (h ++ [crcWords body.flatten + at_ 63 32 (crcWords h)]) }

/-- The bytes of a line: each word in little-endian order (R6). -/
def lineBytes (ws : List Nat) : List Byte := ws.flatMap (leBytes 8)

/-- Blotter lines leave on the channel's blotter port from a byte address on (R410). -/
def Ch.emitLines (e : Env) (addr : Nat) : List (List Nat) → Ch → Ch
  | [], c => c
  | l :: ls, c => Ch.emitLines e (addr + 64) ls (c.emit (.line e.chan addr (lineBytes l)))

/-- BLOTTER_COMPLETE: the zeroed header line, the body, then the header; the blotter is held (R410). -/
def Ch.blotComplete (e : Env) (c : Ch) : Ch :=
  if c.db.bSt ≠ .writing then c
  else
    let b := c.blotter e
    let base := e.blotBase
    let c1 := ((c.emitLines e base [List.replicate 8 0]).emitLines e (base + 256) b.body).emitLines e base b.header
    { c1 with db := { c1.db with bSt := .held, bTrunc := b.truncated, bLines := b.body.length + b.header.length,
                                 bCount := inc c1.db.bCount, bTime := e.stamp, event := true } }

/-- A write of DB_BLOT_CTL (R404, R405): RELEASE frees a held blotter, GO triggers one. With both bits, RELEASE is
taken first. -/
def Ch.blotCtl (e : Env) (v : Nat) (c : Ch) : Ch :=
  let c1 := if bit v 1 && c.db.bSt = .held then { c with db := { c.db with bSt := .free } } else c
  if bit v 0 then c1.blotTrigger e 7 0 else c1

end Sys2Proof.Machine
end

