-- ==== Sys2Proof/Machine/Channels.lean ====
section
/-! DEFINITION. The life of a channel: states (R392), shadows (R325), fences and reset events (R20, R31), the endpoint
map (R21 to R24, R219, R344), sleep and wake (R349 to R357), halts (R305, R425, R429), restart and close (R393, R394). -/

namespace Sys2Proof.Machine

/-! ## States (R392) -/

/-- A change of CH_STATE; every change sets CH_EVENT.STATE_CHANGE. -/
def Ch.setSt (st : ChSt) (c : Ch) : Ch :=
  if c.ctl.st = st then c else { c with ctl := { c.ctl with st := st, event := true } }

/-- The encoding of a channel state. -/
def ChSt.code : ChSt → Nat
  | .down => 0 | .loading => 1 | .run => 2 | .closing => 3 | .halted => 4 | .failed => 5

/-- The channel performs the effects of its timers and units: in RUN, and while it closes. -/
def Ch.live (c : Ch) : Bool := c.ctl.st = .run || c.ctl.st = .closing

/-! ## Shadows (R325) -/

/-- A shadow starts, unless the same trigger already runs. -/
def Ch.startShadow (row key : Nat) (lanes : List Nat) (c : Ch) : Ch :=
  if c.ctl.shadows.any (fun s => s.row = row && s.key = key && s.ends.isNone) then c
  else { c with ctl := { c.ctl with shadows := c.ctl.shadows ++ [⟨row, key, lanes, none⟩] } }

/-- A trigger ends: its shadow lasts another 256 keep cycles. -/
def Ch.endShadow (time row key : Nat) (c : Ch) : Ch :=
  { c with ctl := { c.ctl with shadows := c.ctl.shadows.map (fun s =>
      if s.row = row && s.key = key && s.ends.isNone then { s with ends := some (time + 5120) } else s) } }

/-- The fence shadows whose connection scan and lock scan have both finished end. -/
def Ch.settleFences (time : Nat) (c : Ch) : Ch :=
  let busy := fun (phys : Nat) =>
    match c.lidOf phys with
    | none => false
    | some lid => c.scanPending lid || c.ctl.connScan.any (fun p => p.2 = lid)
  { c with ctl := { c.ctl with shadows := c.ctl.shadows.map (fun s =>
      if s.row = 0 && s.ends.isNone && !busy s.key then { s with ends := some (time + 5120) } else s) } }

/-! ## Fences (R20, R31) -/

/-- The sender's staged train goes (R20, R175). -/
def Ch.dropStaged (lid : Nat) (c : Ch) : Ch :=
  let kept := c.ru.staged.filter (fun t => t.lid ≠ lid)
  { c with ru := { c.ru with staged := kept, discards := sat64 (c.ru.discards + (c.ru.staged.length - kept.length)) } }

/-- The connections that have a logical ID as an end. -/
def Ch.connsOf (c : Ch) (lid : Nat) : List Nat :=
  (c.os.conns.filter (fun p => p.2.st ≠ .free && (p.2.receiver = lid || (p.2.sender = lid && p.2.st ≠ .listening)))).map (·.1)

/-- A fence takes effect (R20): slots end with FENCED (R100), staged trains go, scans are due. -/
def Ch.fence (e : Env) (phys : Nat) (c : Ch) : Ch :=
  let c1 := { c with ctl := { c.ctl with fenced := insertId phys c.ctl.fenced } }
  match c1.lidOf phys with
  | none => (c1.startShadow 0 phys []).endShadow e.time 0 phys
  | some lid =>
    let lanes := (List.range 32).filter (fun l => (c1.lane l).members.contains lid)
    let c2 := c1.startShadow 0 phys lanes
    let c3 := c2.endLost e stFenced (c2.hw.parked.filter (fun w => w.lid = lid))
    let c4 := ({ c3 with hw := { c3.hw with ended := c3.hw.ended.filter (fun t => t.lid ≠ lid) } }).dropStaged lid
    { c4 with ctl := { c4.ctl with connScan := c4.ctl.connScan ++ (c4.connsOf lid).map (fun n => (n, lid)) },
              lt := { c4.lt with fencedIds := insertId lid c4.lt.fencedIds } }

/-- An endpoint-reset event for an endpoint of this channel is taken (R31). -/
def Ch.takeReset (e : Env) (phys : Nat) (c : Ch) : Ch :=
  if c.ctl.st ≠ .run ∨ c.ctl.fenced.contains phys then
    { c with ctl := { c.ctl with resetIgnored := inc c.ctl.resetIgnored } }
  else c.fence e phys

/-! ## The endpoint map (R21 to R24) -/

/-- The words of the map as CH_MAP_DATA shows them. -/
def Ch.mapData (lid : Nat) (c : Ch) : Nat :=
  let m := if 0xFFE ≤ lid then { valid := true, phys := lid } else c.ctl.map.get {} lid
  at_ 18 18 (b01 (decide (0xFFE ≤ lid))) + at_ 17 17 (b01 (c.ctl.fenced.contains m.phys))
    + at_ 16 16 (b01 m.valid) + at_ 11 0 m.phys

/-- The outcome code of a map write in RUN (R21), orders 2 to 9; `chanOf` is the committed endpoint map. -/
def Ch.mapCode (chan : Nat) (chanOf : Nat → Nat) (lid v : Nat) (c : Ch) : Nat :=
  let valid := bit v 16
  let phys := fld v 11 0
  let m := c.ctl.map.get {} lid
  if 0xFFE ≤ lid then 5
  else if valid = m.valid ∧ phys = m.phys then 0
  else if valid ∧ 0x727 < phys then 1
  else if valid ∧ chanOf phys ≠ chan then 2
  else if valid ∧ c.ctl.map.any (fun p => p.2.valid && p.2.phys = phys && p.1 ≠ lid) then 3
  else if valid ∧ c.ctl.fenced.contains phys then 4
  else if m.valid ∧ !c.ctl.fenced.contains m.phys then 7
  else 0

/-- CH_MAP_RESULT takes an outcome. -/
def Ch.mapResult (lid code : Nat) (c : Ch) : Ch := { c with ctl := { c.ctl with mapResLid := lid, mapResCode := code } }

/-- A map write is evaluated (R21, R155, R344). -/
def Ch.mapEval (chan : Nat) (chanOf : Nat → Nat) (lid v : Nat) (c : Ch) : Ch :=
  if c.ctl.st ≠ .run then c.mapResult lid 8
  else
    let code := c.mapCode chan chanOf lid v
    let m : MapEntry := { valid := bit v 16, phys := fld v 11 0 }
    let c1 := c.mapResult lid code
    if code ≠ 0 ∨ 0xFFE ≤ lid ∨ m = c.ctl.map.get {} lid then c1
    else
      let used := m.valid && decide (m.phys ≤ 0x3FF)
      ({ c1 with ctl := { c1.ctl with map := c1.ctl.map.put {} lid m,
                                      replaced := c1.ctl.replaced + b01 used } }).remapLanes lid m.valid

/-- A write of CH_MAP_DATA for logical ID `lid`: held while that ID has a lock scan to finish (R219). -/
def Ch.mapWrite (who : Requester) (chan : Nat) (chanOf : Nat → Nat) (lid v : Nat) (c : Ch) : Ch :=
  if c.ctl.st = .run && c.scanPending lid then { c with lt := { c.lt with heldMap := some (who, lid, v) } }
  else c.mapEval chan chanOf lid v

/-- SPARES_LEFT (R344): the smaller of what the image's reservation has left and of the free assigned cores. -/
def Ch.sparesLeft (chan : Nat) (chanOf : Nat → Nat) (c : Ch) : Nat :=
  let free := ((List.range 0x400).filter (fun p => chanOf p = chan && !c.ctl.fenced.contains p
    && !c.ctl.map.any (fun q => q.2.valid && q.2.phys = p))).length
  min (c.img.spares - c.ctl.replaced) free

/-- The reactions of a scanned ID's connections still run: they finish before its lock scan, so that a spare inherits no
connection (R131, R219). -/
def Ch.scanBusy (c : Ch) : Bool := c.ctl.connScan.any (fun p => c.lt.scanIds.contains p.2)

/-- LOCK_SCAN_END: the running scan finishes; a map write that waited for it is evaluated (R216, R219). -/
def Ch.endScan (e : Env) (c : Ch) : Ch :=
  if !c.lt.scanning || c.scanBusy then c
  else
    let c1 := ({ c with lt := { c.lt with scanning := false, scanIds := [] } }).settleFences e.time
    match c1.lt.heldMap with
    | none => c1
    | some (who, lid, v) =>
      if c1.scanPending lid then c1
      else
        (({ c1 with lt := { c1.lt with heldMap := none } }).mapEval e.chan (tblChan e.pt.table) lid v).emit
          (.host who (0x100108 + 0x100000 * e.chan) true v false)

/-! ## Sleep and wake (R349 to R357) -/

/-- A channel in RUN whose clocks are gated by sleep or by a wake that runs. -/
def Ch.asleep (c : Ch) : Bool := c.ctl.st = .run && (c.clk.st = .doze || c.clk.st = .slumber || c.clk.st = .waking)

/-- The state that CK_CLOCK_STATE shows (R349): a channel that is not in RUN is DOWN, but for its load, its close, its blotter, and
a host access for which it wakes. -/
def Ch.clockNow (c : Ch) : ClkSt :=
  if c.ctl.st = .run then c.clk.st
  else if c.ctl.st = .loading || c.ctl.st = .closing || c.db.bSt = .writing then .active
  else c.clk.st

/-- A channel that is not in RUN runs its clocks for host accesses (R349). -/
def Ch.lingers (c : Ch) : Bool := c.ctl.st ≠ .run && c.clk.st = .active

/-- A wake request (R353), raised at keep value `time`: the channel is WAKING from the state it leaves. -/
def Ch.wakeUp (time : Nat) (c : Ch) : Ch :=
  if c.ctl.st ≠ .run then c
  else
    match c.clk.st with
    | .doze => { c with clk := { c.clk with st := .waking, fromSlumber := false, wakeReq := true, wakeAt := time } }
    | .slumber => { c with clk := { c.clk with st := .waking, fromSlumber := true, wakeReq := true, wakeAt := time } }
    | .waking => { c with clk := { c.clk with wakeReq := true } }
    | _ => c

/-- The wake request of a host access (R349, R353): a DOWN channel, which holds no PLL vote, wakes as from SLUMBER. -/
def Ch.hostWake (time : Nat) (c : Ch) : Ch :=
  if c.clockNow = .down then
    { c with clk := { c.clk with st := .waking, fromSlumber := true, wakeReq := true, wakeAt := time } }
  else c.wakeUp time

/-- The host accesses of a DOWN channel are served: its clocks stop again (R349). -/
def Ch.gateAgain (c : Ch) : Ch := if c.lingers then { c with clk := { c.clk with st := .down } } else c

/-- The channel is idle under R350, as far as the model keeps its pipelines. -/
def Ch.idle (c : Ch) : Bool :=
  c.rq.ingress.isEmpty && c.rq.bankQ.isEmpty && c.rq.full.isEmpty && c.ru.queue.isEmpty && !c.os.bars.any (fun p => p.2.ruPending)
    && c.bg.holdQ.isEmpty && !c.ps.seqs.any (fun p => p.2.st = .audit)
    && !c.bw.lanes.any (fun p => p.2.preloadBusy || p.2.complete) && !c.lt.scanning && c.lt.fencedIds.isEmpty
    && c.ctl.connScan.isEmpty && c.ctl.resetQ.isEmpty && c.db.bSt ≠ .writing && c.la.txWait.isEmpty
    && c.la.rxWait.isEmpty && c.bw.strobes.isEmpty && c.todo.isEmpty && !c.hw.busy && !c.db.hBusy && !c.db.inBusy
    && !c.lt.busy

/-- The expiries that the keep part's alarm watches (R354): each is the first time at which the timer's own rule finds it expired;
a barrier's timer moves at multiples of 256 ns. -/
def Ch.expiries (c : Ch) (time : Nat) : List Nat :=
  (c.bw.lanes.filterMap (fun p =>
    match p.2.timer with
    | some s =>
      if p.2.st = .active && !p.2.members.isEmpty && !p.2.complete && p.2.roundUs ≠ 0 then some (s + 1000 * p.2.roundUs) else none
    | none => none))
  ++ (c.os.bars.filterMap (fun p =>
    let b := p.2
    if b.count ≠ 0 && !b.gated && !b.ruPending && !b.holding && !b.poisoned && b.timeoutUs ≠ 0 then
      let left := ceilDiv (1000 * b.timeoutUs) 256 + 1
      let gone := (fld time 39 8 + 2 ^ 32 - b.start) % 2 ^ 32
      some (256 * (time / 256 + left - gone))
    else none))
  ++ (c.ps.seqs.filterMap (fun p =>
    let us := (c.entry p.2.entry).deadlineUs
    if p.2.st = .run && p.2.deadlineOn && !p.2.missed && us ≠ 0 then some (p.2.start + 1000 * us) else none))
  ++ (c.la.objs.filterMap (fun p =>
    let us := fld (c.common p.1) 59 40
    match p.2.timer with
    | some s => if us ≠ 0 && !p.2.expired then some (s + 1000 * us) else none
    | none => none))
  ++ (if c.la.st = .formed && c.la.parent.isSome then [c.la.reqAt + 1000000] else [])

/-- The alarm of R354 is due within `k` keep cycles. -/
def Ch.alarmWithin (c : Ch) (time k : Nat) : Bool := (c.expiries time).any (fun t => decide (t ≤ time + 20 * k))

/-- DOZE_ENTRY (R350), at CORE stamp `time`. -/
def Ch.enterDoze (time : Nat) (c : Ch) : Ch :=
  if c.ctl.st = .run && c.clk.st = .active && c.clk.dozeEn && c.idle && !c.clk.wakeReq then
    { c with clk := { c.clk with st := .doze, since := time } }
  else c

/-- SLUMBER_ENTRY (R351). -/
def Ch.enterSlumber (time : Nat) (c : Ch) : Ch :=
  if c.ctl.st = .run && c.clk.st = .doze && c.clk.slumberEn && decide (c.clk.since + 1000 * c.clk.slumberUs ≤ time)
      && !c.alarmWithin time 419 then
    { c with clk := { c.clk with st := .slumber, since := time } }
  else c

/-- ALARM (R354): a wake request W keep cycles before the earliest expiry. -/
def Ch.alarm (time : Nat) (c : Ch) : Ch :=
  match c.clk.st with
  | .doze => if c.alarmWithin time 1 then c.wakeUp time else c
  | .slumber => if c.alarmWithin time 401 then c.wakeUp time else c
  | _ => c

/-! ## Ends without performance (R425, R429, R66) -/

/-- A failed trailer is counted and recorded (R66, R72). -/
def Ch.trailerFails (p : Packet) (status : Nat) (c : Ch) : Ch :=
  { c with rq := { c.rq with trailerFail := inc c.rq.trailerFail, tfClass := p.cls, tfStatus := status,
                             tfOpcode := p.opcode, tfEndpoint := p.phys, tfIndex := p.index } }

/-- A packet that is not performed because the channel left RUN (R425). -/
def Ch.packetDown (e : Env) (p : Packet) (c : Ch) : Ch :=
  if p.trailer then c.trailerFails p stChannelDown
  else
    ({ c with rq := { c.rq with down := inc c.rq.down } }).respond e p.phys p.opcode stChannelDown p.tag (e.freeResult 2) {}
      true true

/-- The trailer that a received TRAILER message is, from link agent 0x700 + port (R261). -/
def remotePacket (m : MsgIn) : Packet :=
  { phys := 0x700 + m.port.toNat, port := 0x700 + m.port.toNat, remote := true, opcode := fld (bodyWord m 1) 31 26,
    cls := fld (bodyWord m 1) 25 23, index := fld (bodyWord m 1) 22 0, operand := bodyWord m 2, tag := 0, trailer := true,
    poisoned := false, ingress := ingressOf (0x700 + m.port.toNat), pkt := .none, mem := .none }

/-- A trailer is taken (R63): the acknowledgement leaves for its tile or link agent, and a remote trailer's receive buffer returns
its credit (R258). -/
def Ch.takeTrailer (p : Packet) (c : Ch) : Ch :=
  let c1 := c.emit (.take p.port p.opcode)
  if p.remote then c1.emit (.creditBack (p.port % 8)) else c1

/-- A trailer that waited for its take when its channel left RUN: it is taken and recorded (R425). -/
def Ch.flushPacket (e : Env) (p : Packet) (c : Ch) : Ch :=
  (if p.trailer then c.takeTrailer p else c).packetDown e p

/-- A sync message that waited when its channel left RUN: a trailer ends with CHANNEL_DOWN (R261, R425), any other finds nothing to
act on (R277); its credit returns. -/
def Ch.flushMessage (e : Env) (q : Nat × MsgIn × Nat) (c : Ch) : Ch :=
  let c1 := c.countMsg e q.2.1
  if q.1 = tyTrailer then
    let c2 := ({ c1 with rq := { c1.rq with down := inc c1.rq.down },
                         lalog := { c1.lalog with rtrRefused := inc c1.lalog.rtrRefused } })
    c2.flushPacket e (remotePacket q.2.1)
  else c1.ignoreMsg.emit (.creditBack q.2.1.port.toNat)

/-- The end of a host operation: its result is placed and BUSY clears (R104). -/
def Ch.hostDone (opcode status result : Nat) (c : Ch) : Ch :=
  { c with hw := { c.hw with busy := false, count := (c.hw.count + 1) % 65536, opcode := opcode, status := status,
                             data := result } }

/-- The end of a host forced release (R220). -/
def Ch.forceDone (status entry : Nat) (c : Ch) : Ch :=
  { c with lt := { c.lt with busy := false, fStatus := status, fEntry := entry } }

/-- Work in a bank queue when the channel halts (R425, R429). -/
def Ch.workDown (e : Env) (w : Work) (c : Ch) : Ch :=
  match w with
  | .req p _ => c.packetDown e p
  | .hostOp opcode _ _ _ => c.hostDone opcode stChannelDown 0
  | .force _ => c.forceDone stChannelDown 0
  | .hand _ _ _ _ _ _ => c.handDone stChannelDown
  | .snapshot kind i => c.snapshot e kind i

/-! ## Leaving RUN (R305, R226, R425) -/

/-- Work at the hub that no bank queue has taken yet. -/
def Ch.flushFull (e : Env) (w : Work) (c : Ch) : Ch :=
  match w with
  | .req p _ => c.flushPacket e p
  | w => c.workDown e w

/-- No receive buffer is occupied any more (R258). -/
def Ch.rxFree (c : Ch) : Ch :=
  let free := (List.range 8).foldl (fun m p => m.put {} p { c.la.credit p with rxHeld := 0 }) c.la.credits
  { c with la := { c.la with credits := free } }

/-- What waits for credits leaves as far as they last. -/
def Ch.drainPorts (e : Env) (c : Ch) : Ch :=
  (List.range 8).foldl (fun c p => c.drainPort e p c.la.txWait.length) c

/-- The BREAK messages that wait for a credit stay, nothing else does (R305 step 2). -/
def Ch.keepBreaks (c : Ch) : Ch :=
  { c with la := { c.la with txWait := c.la.txWait.filter (fun q => q.2.typ = tyBreak) } }

/-- What waits in front of the banks is answered, staged trains go, messages that wait end, and BREAK leaves. -/
def Ch.flushDown (e : Env) (c : Ch) : Ch :=
  let rq := c.rq
  let ms := c.la.rxWait
  let c1 := { c with rq := { rq with ingress := [], bankQ := [], full := [] }, la := { c.la with rxWait := [] }, todo := [] }
  let c2 := rq.ingress.foldl (fun c p => c.flushPacket e p) c1
  let c3 := rq.bankQ.foldl (fun c w => c.workDown e w.2) (rq.full.foldl (fun c w => c.flushFull e w.2) c2)
  let c4 := ((ms.foldl (fun c q => c.flushMessage e q) c3).rxFree.keepBreaks).drainPorts e
  { c4 with ru := { c4.ru with staged := [], discards := sat64 (c4.ru.discards + c4.ru.staged.length) },
            bw := { c4.bw with strobes := [] },
            ctl := { c4.ctl with resetQ := [], connScan := [],
                                 resetIgnored := sat64 (c4.ctl.resetIgnored + c4.ctl.resetQ.length) } }

/-- Parked waits end with CHANNEL_DOWN, and responses owed at a release are given (R52, R305). -/
def Ch.waitsDown (e : Env) (c : Ch) : Ch :=
  let c1 := c.endLost e stChannelDown c.hw.parked
  let owed := c1.ru.late
  let c2 := owed.foldl (fun c l => c.respond e l.phys opBarArrive stOk l.tag ((c.bar l.bar).result l.early true) {} true true)
    { c1 with ru := { c1.ru with late := [] } }
  { c2 with hw := { c2.hw with ended := [] } }

/-- Every sequence is IDLE and held releases are discarded (R226). -/
def Ch.seqsIdle (c : Ch) : Ch :=
  (List.range 16).foldl (fun c s =>
    if (c.seq s).st = .idle then c else c.putSeq s { c.seq s with st := .idle, deadlineOn := false, stopping := false })
    { c with bg := { c.bg with holdQ := [] } }

/-- A map write that waits for a scan ends with NOT_RUNNING (R21, R219). -/
def Ch.mapHeldDown (e : Env) (c : Ch) : Ch :=
  match c.lt.heldMap with
  | none => c
  | some (who, lid, v) =>
    (({ c with lt := { c.lt with heldMap := none } }).mapResult lid 8).emit
      (.host who (0x100108 + 0x100000 * e.chan) true v false)

/-- The scans end with RUN, and so do the triggers of the fence shadows (R325). -/
def Ch.scansOver (time : Nat) (c : Ch) : Ch :=
  { c with lt := { c.lt with scanning := false, fencedIds := [], scanIds := [] },
           ctl := { c.ctl with shadows := c.ctl.shadows.map (fun s =>
             if s.row = 0 && s.ends.isNone then { s with ends := some (time + 5120) } else s) } }

/-- The channel leaves RUN into a state, in the order of R305; `blot` is the blotter's detail where one is written. -/
def Ch.leaveRun (e : Env) (st : ChSt) (blot : Option Nat) (c : Ch) : Ch :=
  let c1 := (c.setSt st).sayGoodbye e
  let c2 := ((c1.flushDown e).waitsDown e).seqsIdle
  let c3 := ((c2.mapHeldDown e).startShadow 2 0 []).scansOver e.time
  let c4 := { c3 with clk := { c3.clk with st := .down, wakeReq := false, fromSlumber := false } }
  match blot with
  | none => c4
  | some d => c4.blotTrigger e 1 d

/-- The blotter detail of a fatal fault: sub-block and source of the fault raised at F (R407). -/
def Ch.fatalDetail (c : Ch) : Nat :=
  match c.raised.find? (fun r => r.cls = 3) with
  | some r => at_ 30 27 (subCode r.sub) + at_ 26 22 r.src
  | none => 0

/-- The reaction to a fault raised at F (R305, R395). `writes` is false on the second side of a divergence (R339). -/
def Ch.haltIfAsked (e : Env) (writes : Bool) (c : Ch) : Ch :=
  if !c.haltReq then c
  else
    let c1 := { c with haltReq := false }
    match c1.ctl.st with
    | .run => c1.leaveRun e .halted (if writes then some c1.fatalDetail else none)
    | .closing => c1.leaveRun e .halted (if writes then some c1.fatalDetail else none)
    | .loading => c1.setSt .halted
    | _ => c1

/-- What a command has left to do is done, then a halt that it asked for. -/
def Ch.settle (e : Env) (c : Ch) : Ch := (c.drain e drainFuel).haltIfAsked e true

/-! ## Restart (R393) -/

/-- The channel after its stores are cleared and its registers reset (R393 steps 2 and 3): what R22, R31, R323, R327,
R371 and R397 keep is kept, and so is a BREAK that still waits to leave. The links' state is taken again as the channel enters RUN. -/
def Ch.cleared (c : Ch) : Ch :=
  let f := c.flt
  let ctl : ChCtl := { st := c.ctl.st, loadError := c.ctl.loadError, event := c.ctl.event, eventEn := c.ctl.eventEn,
                       restarts := c.ctl.restarts, runTime := c.ctl.runTime, resetIgnored := c.ctl.resetIgnored,
                       shadows := c.ctl.shadows }
  let clk : Clk := { slumberEn := c.clk.slumberEn, dozeEn := c.clk.dozeEn, slumberUs := c.clk.slumberUs,
                     dozeIdle := c.clk.dozeIdle }
  let flt : FaultSets := { os := restartSet f.os, rq := restartSet f.rq, bw := restartSet f.bw, lt := restartSet f.lt,
                           ru := restartSet f.ru, cu := restartSet f.cu, ps := restartSet f.ps, bg := restartSet f.bg,
                           la := restartSet f.la }
  { ctl := ctl, clk := clk, flt := flt, os := { retired := c.os.retired }, la := { txWait := c.la.txWait },
    upsets := c.upsets, out := c.out, raised := c.raised, errPulse := c.errPulse }

/-- A channel restart takes effect (R393 steps 1 to 3): the channel is LOADING. -/
def Ch.restart (e : Env) (c : Ch) : Ch :=
  let c1 := if c.ctl.st = .run then c.leaveRun e .loading none else c.setSt .loading
  let c2 := c1.cleared.drainPorts e
  { c2 with ctl := { c2.ctl with restarts := inc c1.ctl.restarts } }

/-! ## Close (R394) -/

/-- CLOSE_COMPLETE: once every audit has ended (R394 steps 4 to 6). -/
def Ch.closeComplete (e : Env) (c : Ch) : Ch :=
  if c.ctl.st = .closing && !c.ps.seqs.any (fun p => p.2.st = .audit) then
    let c1 := ((c.sayGoodbye e).waitsDown e).setSt .down
    let c2 := (c1.seqsIdle).startShadow 2 0 []
    { c2 with clk := { c2.clk with st := .down, wakeReq := false } }
  else c

end Sys2Proof.Machine
end

