-- ==== Sys2Proof/Machine/Requests.lean ====
section
/-! DEFINITION. The request pipeline of a channel (R36 to R72, R88 to R100): ingress checks, bank queues, performance,
responses and trains, trailers, and what the hub does with what waited for a wake. -/

namespace Sys2Proof.Machine

/-! ## Ingress checks (R53) -/

/-- A refusal at the hub: its status, its counter (0 RQ_DENIED_COUNT, 1 RQ_BAD_REQ_COUNT, 2 RQ_PKT_ERR_COUNT) and the RQ
source it raises. -/
structure Refused where
  status : Nat
  count  : Nat
  src    : Option (Nat × Cause)

/-- The op that a packet is, under the identity it resolved. -/
def Packet.op (p : Packet) (lid : Nat) : Op :=
  { lid := lid, phys := p.phys, opcode := p.opcode, cls := p.cls, index := p.index, operand := p.operand, tag := p.tag,
    access := if p.trailer then 2 else if p.phys = 0xFFF then 3 else 1, poisoned := p.poisoned }

/-- The cause of a packet error at an SRN port (kind P of R308): the endpoint of the port it entered by. In an error of the upper
half, which holds the op, the captured type names no op; in one of the lower half it names the op (DEDUCED). -/
def Packet.portCause (p : Packet) (lid : Nat) : Cause :=
  { (p.op lid).cause with addr := at_ 11 0 p.port, cls := 0, opcode := 0, key := p.port }

/-- The cause of a packet error in the lower half. -/
def Packet.lowerCause (p : Packet) (lid : Nat) (forced : Bool) : Cause :=
  { p.portCause lid with cls := p.cls, opcode := p.opcode, forced := forced }

/-- The opcode is listed and sent with its own CLASS, or is a WAIT_ANY that R48 allows (check 7). -/
def opOk (opcode cls operand : Nat) : Bool :=
  if opcode = opWaitAny then waitAnyOk operand cls else opClass opcode = some cls

/-- Check 7: BAD_OP. -/
def badOp (p : Packet) : Bool :=
  !opOk p.opcode p.cls p.operand || !kindOk p.opcode p.index || (p.trailer && !trailerOp p.opcode)

/-- Check 9: MISALIGNED. -/
def misaligned (p : Packet) : Bool :=
  p.cls = clLock && p.opcode ≠ opWaitAny && decide (fld p.operand 2 0 ≠ 0)

/-- Checks 7 to 9 of R53 for an op of `lid`, and the permission conditions of check 10 that need no read (R128, R220). -/
def Ch.checkOp (p : Packet) (lid : Nat) (c : Ch) : Option Refused :=
  let o := p.op lid
  if badOp p then some ⟨stBadOp, 1, some (2, o.cause)⟩
  else if !indexOk p.opcode p.cls p.index then some ⟨stBadIndex, 1, some (3, o.cause)⟩
  else if misaligned p then some ⟨stMisaligned, 1, some (4, { o.cause with addr := lockAddr p.operand })⟩
  else if p.opcode = opLockRelease ∧ lockForce p.operand ∧ !(c.img.supValid && c.img.supLid = lid) then
    some ⟨stDenied, 0, none⟩
  else if p.cls = clStr ∧ 0xC000 ≤ p.index
      ∧ !connStrOk (if p.opcode = opWaitAny then armedOp p.operand else p.opcode) lid (c.conn (p.index - 0xC000)) then
    some ⟨stDenied, 0, none⟩
  else none

/-- Check 10 for SEQ_SELECT (R227, R309): the selector's bit in a mask that is not poisoned. -/
def Ch.selectorOk (e : Env) (lid : Nat) (c : Ch) : Ch × Bool :=
  if !c.img.selEn then (c, false)
  else
    let r := c.readMask e c.img.selMask
    (r.1, !r.2 && decide (lid < 2048) && (c.mask c.img.selMask).testBit lid)

/-- The logical ID that the capture of a packet error names; an endpoint that no logical ID maps leaves it free. -/
def Ch.errLid (e : Env) (p : Packet) (c : Ch) : Nat := (c.lidOf p.phys).getD (e.freeVal 7 % 4096)

/-- A corrected error in the upper half, met at the node (R69): counted and raised before any refusal. -/
def Ch.noteCorrected (e : Env) (p : Packet) (c : Ch) : Ch :=
  if p.pkt = .correctedUpper then c.correctedPacket e .rq 0 (p.portCause (c.errLid e p)) else c

/-- The lower half at hub ingress (R69): a forced or real error is met whatever then becomes of the packet (R326). A corrected one
is counted and raised; of an uncorrectable one the answer tells whether it was forced. -/
def Ch.meetLower (e : Env) (p : Packet) (c : Ch) : Ch × Option Bool :=
  let force := c.rq.forceErr
  let c0 := { c with rq := { c.rq with forceErr := 0 } }
  if p.pkt = .lowerUncorrectable then (c0, some false)
  else if force = 2 then (c0, some true)
  else if p.pkt = .correctedLower ∨ force = 1 then
    (c0.correctedPacket e .rq 0 (p.lowerCause (c.errLid e p) (decide (p.pkt ≠ .correctedLower))), none)
  else (c0, none)

/-- How the checks at the hub end: the identity the packet resolves to, a refusal, or no identity, because the map entry cannot
be read and the channel halts (R310). -/
inductive Checked where
  | passed (lid : Nat)
  | refused (r : Refused)
  | lost

/-- Checks 4 to 10 of R53 in order; `bad` is what the lower half has met. -/
def Ch.checkPacket (e : Env) (p : Packet) (bad : Option Bool) (c : Ch) : Ch × Checked :=
  match c.lidOf p.phys with
  | none => (c, .refused ⟨stDenied, 0, none⟩)
  | some lid =>
    if c.ctl.fenced.contains p.phys then (c, .refused ⟨stFenced, 0, none⟩)
    else
      match bad with
      | some forced => (c, .refused ⟨stPacketError, 2, some (1, p.lowerCause lid forced)⟩)
      | none =>
        let m := c.readEcc e.quiet .rq 6 0 lid 1 { p.lowerCause lid false with access := 0 }
        if m.2 then (m.1, .lost)
        else
          match m.1.checkOp p lid with
          | some r => (m.1, .refused r)
          | none =>
            if p.opcode = opSeqSelect then
              let s := m.1.selectorOk e lid
              (s.1, if s.2 then .passed lid else .refused ⟨stDenied, 0, none⟩)
            else (m.1, .passed lid)

/-- A refusal is counted and its fault raised. -/
def Ch.countRefusal (e : Env) (r : Refused) (c : Ch) : Ch :=
  let c1 := match r.count with
    | 0 => { c with rq := { c.rq with denied := inc c.rq.denied } }
    | 1 => { c with rq := { c.rq with badReq := inc c.rq.badReq } }
    | _ => { c with rq := { c.rq with pktErr := inc c.rq.pktErr } }
  match r.src with
  | none => c1
  | some (s, k) => c1.raise e .rq s k

/-! ## Ops at their bank (check 11) -/

/-- An op that never parks: the channel after it, and how it ends. -/
def Ch.plainOp (e : Env) (o : Op) (c : Ch) : Ch × Reply :=
  if o.cls = clFlag then c.flagOp e o
  else if o.cls = clSem then c.semOp e o
  else if o.cls = clStr then c.strOp e o
  else if o.cls = clBar then
    if o.opcode = opBarArrive then c.barArrive e o
    else if o.opcode = opBarReduceArrive then c.stagePair o
    else c.readResult e o
  else if o.cls = clLock then
    if o.opcode = opLockClaim then c.lockClaim e o
    else if o.opcode = opLockQuery then c.lockQuery e o
    else if lockForce o.operand then c.lockForced e o
    else c.lockRelease e o
  else if o.cls = clConn then
    if o.opcode = opConnAccept then c.connAccept e o
    else if o.opcode = opConnOpen then c.connOpen e o
    else c.connOp e o
  else c.seqSelect e o

/-- The ops that may park in a wait slot (R45). -/
def parks (opcode index : Nat) : Bool :=
  [opFlagWaitSet, opFlagWaitClear, opSemWaitsub, opStrWaitSpace, opStrWaitData, opBarArriveWait, opLockWait,
   opConnReserve].contains opcode || (opcode = opBarReduceArrive && lastField index)

/-- What a wait op finds when its packet is performed (R91). -/
def Ch.verdict (e : Env) (o : Op) (opcode : Nat) (c : Ch) : Verdict :=
  if o.cls = clFlag then c.flagWait e o opcode
  else if o.cls = clSem then c.semWait e o
  else if o.cls = clStr then c.strWait e o opcode
  else if o.cls = clBar then (if opcode = opBarReduceArrive then c.reduceWait e o else c.barWait e o)
  else if o.cls = clLock then (if o.opcode = opWaitAny then c.lockWaitEntry e o else c.lockWait e o)
  else c.connReserveOp e o

/-- Puts an op's own response ahead of what the op sent after the first `n` outputs. -/
def putAt (n : Nat) (o : Output) (l : List Output) : List Output := l.take n ++ o :: l.drop n

/-- The response of an op, placed ahead of what the op let leave (R51). -/
def Ch.answer (e : Env) (o : Op) (n status result : Nat) (rf : RFlags) (final : Bool) (c : Ch) : Ch :=
  { c with out := putAt n (.resp { endpoint := o.phys, chan := e.chan, opcode := o.opcode, status := status,
                                   range := rf.range, zeroBlock := rf.zeroBlock, rescale := rf.rescale,
                                   lean := rf.lean, final := final, tag := o.tag, result := result,
                                   first := true }) c.out }

/-- RESULT of a plain wait op that finds no free slot: the word as the op found it, as every final response of the op
carries it (R76, R82, R111, R164, R210); for BAR_REDUCE_ARRIVE the rules state none (R197). -/
def Ch.slotsFullResult (e : Env) (o : Op) (found : Nat) (c : Ch) : Nat :=
  if o.cls = clBar then
    (if o.opcode = opBarReduceArrive then e.freeResult 1 else (c.bar (barIndex o.index)).result false false)
  else found

/-- A plain wait op (R89, R91): decided at once without a slot, or armed, or SLOTS_FULL. -/
def Ch.waitOp (e : Env) (o : Op) (c : Ch) : Ch :=
  let n := c.out.length
  match c.verdict e o o.opcode with
  | .decided c1 status result rf => c1.answer e o n status result rf true
  | .park c1 found gen index operand next =>
    match c1.freeSlot o.lid with
    | none => c1.answer e o n stSlotsFull (c1.slotsFullResult e o found) {} true
    | some s =>
      (next (c1.arm e o s o.opcode o.cls index operand (2 ^ s) true false gen found)).answer e o n stPending s {} false

/-! ## WAIT_ANY (R48, R49, R93 to R97) -/

/-- Flags of a stored train ending. -/
def TrainEnd.rf (t : TrainEnd) : RFlags :=
  { range := bit t.flags 3, zeroBlock := bit t.flags 2, rescale := bit t.flags 1, lean := bit t.flags 0 }

/-- The object that a WAIT_ANY packet names, as a slot record names it. -/
def Op.target (o : Op) : Nat × Nat := (o.cls, if o.cls = clLock then fld o.operand 47 32 else o.index)

/-- The slots of a sender's unfinished train are freed, and its ending is forgotten. -/
def Ch.closeTrain (lid tag : Nat) (c : Ch) : Ch :=
  let c1 := c.setParked (c.hw.parked.filter (fun v => !v.inOpen lid tag))
  { c1 with hw := { c1.hw with ended := c1.hw.ended.filter (fun t => !(t.lid = lid && t.tag = tag)) } }

/-- The TAGs of the sender's unfinished trains of which a packet has named this object (R49). -/
def Ch.trainsOn (o : Op) (c : Ch) : List Nat :=
  (c.hw.parked.filter (fun w => w.isTrain && !w.lastSeen && w.lid = o.lid && w.obj = o.target)).map (·.tag)
    ++ (c.hw.ended.filter (fun t => t.lid = o.lid && t.objs.contains o.target)).map (·.tag)

/-- A packet that names an object of the sender's unfinished train discards that train (R49). -/
def Ch.dropTrainOn (o : Op) (c : Ch) : Ch := (c.trainsOn o).foldl (fun c tag => c.closeTrain o.lid tag) c

/-- A BAR_ARRIVE_WAIT packet of a train that is DONE still performs its arrival (R162). -/
def Ch.lateArrival (e : Env) (o : Op) (c : Ch) : Ch :=
  if armedOp o.operand = opBarArriveWait then
    match c.barWait e { o with operand := fld o.operand 63 32 } with
    | .decided c1 _ _ _ => c1
    | .park c1 _ _ _ _ next => next c1
  else c

/-- A packet of a train that has already ended (R48, R94, R97), its response placed after the first `n` outputs. -/
def Ch.lateTrainPacket (e : Env) (o : Op) (n : Nat) (t : TrainEnd) (last : Bool) (c : Ch) : Ch :=
  let c1 := if t.done then c.lateArrival e o else c
  let c2 := c1.closeTrain o.lid o.tag
  let more := { c1 with hw := { c1.hw with ended := c1.hw.ended.map (fun v =>
    if v.lid = t.lid && v.tag = t.tag then { v with objs := v.objs ++ [o.target] } else v) } }
  if t.done then
    if last then c2.answer e o n t.status (trainResult t.slot t.train t.result) t.rf true
    else more.answer e o n stOk (at_ 5 2 t.train) {} true
  else
    (if last then c2 else more).answer e o n t.status
      (if last || t.status ≠ stSlotsFull then e.freeResult 1 else at_ 5 2 t.train + e.freeVal 1 % 4) {} true

/-- A train before its LAST packet is DONE through this packet's own slot `s` (R94): the slot stays armed, and the ending waits
for LAST. -/
def Ch.trainDone (e : Env) (o : Op) (s train status result : Nat) (rf : RFlags) (objs : List (Nat × Nat)) (c : Ch) : Ch :=
  let c1 := c.arm e o s (armedOp o.operand) o.cls o.index (fld o.operand 63 32) train false true 0 0
  let c2 := c1.setParked (c1.hw.parked.map (fun v => if v.lid = o.lid && v.slot = s then { v with won := true } else v))
  let fl := at_ 3 3 (b01 rf.range) + at_ 2 2 (b01 rf.zeroBlock) + at_ 1 1 (b01 rf.rescale) + b01 rf.lean
  { c2 with hw := { c2.hw with ended := c2.hw.ended ++ [⟨o.lid, o.tag, true, status, s, train, result, fl, objs⟩] } }

/-- The endings that waited for LAST take the TRAIN bits and the object of one more packet. -/
def Ch.joinEnd (o : Op) (train : Nat) (c : Ch) : Ch :=
  { c with hw := { c.hw with ended := c.hw.ended.map (fun t =>
      if t.lid = o.lid && t.tag = o.tag then { t with train := train } else t) } }

/-- A WAIT_ANY packet that is decided at once (R93 to R96): a lower slot of its train that ended in the same cycle wins, else its
own slot does. -/
def Ch.trainDecided (e : Env) (o : Op) (n s train status result : Nat) (rf : RFlags) (c : Ch) : Ch :=
  let last := bit o.operand 8
  let c1 := c.joinEnd o train
  match c1.hw.ended.find? (fun t => t.lid = o.lid && t.tag = o.tag && decide (t.slot < s)) with
  | some t => c1.lateTrainPacket e o n t last
  | none =>
    let objs := (c.hw.parked.filter (fun v => v.inOpen o.lid o.tag)).map Parked.obj ++ [o.target]
    let c2 := c.closeTrain o.lid o.tag
    if last then c2.answer e o n status (trainResult s train result) rf true
    else (c2.trainDone e o s train status result rf objs).answer e o n stOk (trainResult s train 0) {} true

/-- A WAIT_ANY packet (R93 to R97). -/
def Ch.waitAnyOp (e : Env) (o : Op) (c0 : Ch) : Ch :=
  let last := bit o.operand 8
  let c := c0.dropTrainOn o
  let n := c.out.length
  match c.hw.ended.find? (fun t => t.lid = o.lid && t.tag = o.tag) with
  | some t => c.lateTrainPacket e o n t last
  | none =>
    let soFar := c.trainSoFar o.lid o.tag
    match c.freeSlot o.lid with
    | none =>
      (c.refuseTrain o.lid o.tag stSlotsFull last).answer e o n stSlotsFull
        (if last then e.freeResult 1 else at_ 5 2 soFar + e.freeVal 1 % 4) {} true
    | some s =>
      let train := setBit soFar s
      let armed := armedOp o.operand
      let o1 := if o.cls = clLock then o else { o with operand := fld o.operand 63 32 }
      match c.verdict e o1 armed with
      | .decided c1 status result rf => c1.trainDecided e o n s train status result rf
      | .park c1 found gen index operand next =>
        (next (c1.arm e o s armed o.cls index operand train last true gen found)).answer e o n
          (if last then stPending else stOk) (trainResult s train 0) {} (!last)

/-! ## SLOT_CANCEL (R99, R107) -/

/-- Cancels slot `s` of a logical ID: whether a wait was ended (R99). -/
def Ch.cancelSlot (e : Env) (lid s : Nat) (c : Ch) : Ch × Bool :=
  match c.hw.parked.find? (fun w => w.lid = lid && w.slot = s && !w.won) with
  | none => (c, false)
  | some w =>
    let r := c.readEcc e .os 0 ((4 * lid + s) % 8) (slotWord lid s) 2 { access := 0, cls := clSlot, opcode := opSlotCancel }
    if r.2 then (r.1.endWait e stPoisoned (r.1.unmetWord [] w) {} w, false)
    else (r.1.endWait e stCancelled (r.1.unmetWord [] w) {} w, true)

/-- SLOT_CANCEL (R99). -/
def Ch.slotCancelOp (e : Env) (o : Op) (c : Ch) : Ch :=
  let n := c.out.length
  let r := c.cancelSlot e o.lid o.index
  r.1.answer e o n (if r.2 then stOk else stFalse) (e.freeResult 0) {} true

/-! ## Performance -/

/-- A request at its bank (check 11 of R53): the op, with its responses. -/
def Ch.performReq (e : Env) (o : Op) (c : Ch) : Ch :=
  let c1 := { c with rq := { c.rq with ops := inc c.rq.ops } }
  if o.opcode = opWaitAny then c1.waitAnyOp e o
  else if o.opcode = opSlotCancel then c1.slotCancelOp e o
  else if parks o.opcode o.index then c1.waitOp e o
  else
    let n := c1.out.length
    let r := c1.plainOp e o
    match r.2 with
    | .done status result rf => r.1.answer e o n status result rf true
    | .later => r.1

/-- A trailer at its bank (R61, R66): it has no response, and an ending other than OK is recorded. -/
def Ch.performTrailer (e : Env) (p : Packet) (lid : Nat) (c : Ch) : Ch :=
  let c1 := { c with rq := { c.rq with ops := inc c.rq.ops } }
  let r := c1.plainOp e (p.op lid)
  match r.2 with
  | .done status _ _ => if status = stOk then r.1 else r.1.trailerFails p status
  | .later => r.1

/-- The op that a host operation is (R103). -/
def hostReq (opcode cls index operand : Nat) : Packet :=
  { phys := 0xFFF, port := 0xFFF, opcode := opcode, cls := cls, index := index, operand := operand, tag := 0, trailer := false,
    poisoned := false, ingress := hostIngress, pkt := .none, mem := .none }

/-- Ingress checks 7 and 8 for a host operation (R103); checks 9 and 10 refuse none of the ops it may perform. -/
def hostCheck (opcode cls index : Nat) : Option Refused :=
  let o := (hostReq opcode cls index 0).op 0xFFF
  if !hostOp opcode || opClass opcode ≠ some cls then some ⟨stBadOp, 1, some (2, o.cause)⟩
  else if !indexOk opcode cls index then some ⟨stBadIndex, 1, some (3, o.cause)⟩
  else none

/-- A host operation at its bank (R103, R104). -/
def Ch.performHost (e : Env) (opcode cls index operand : Nat) (c : Ch) : Ch :=
  let r := ({ c with rq := { c.rq with ops := inc c.rq.ops } }).plainOp e ((hostReq opcode cls index operand).op 0xFFF)
  match r.2 with
  | .done status result _ => r.1.hostDone opcode status result
  | .later => r.1.hostDone opcode stOk 0

/-- A host forced release at its bank (R220, R221). -/
def Ch.performForce (e : Env) (addr : Nat) (c : Ch) : Ch :=
  let c1 := match c.findLock addr with
    | some n => c.readLock e { lid := 0xFFF, phys := 0xFFF, opcode := opLockRelease, cls := clLock, index := 0, access := 3 } n
    | none => c
  let r := c1.forceLock e addr false
  r.1.forceDone r.2.1 r.2.2

/-- Any work at its bank. -/
def Ch.performWork (e : Env) (w : Work) (c : Ch) : Ch :=
  match w with
  | .req p lid => if p.trailer then c.performTrailer e p lid else c.performReq e (p.op lid)
  | .hostOp opcode cls index operand => c.performHost e opcode cls index operand
  | .force addr => c.performForce e addr
  | .hand kind action i d0 d1 d2 => c.handPerform e kind action i d0 d1 d2
  | .snapshot kind i => c.snapshot e kind i

/-! ## Bank queues (R38, R44, R56, R58, R59, R201) -/

/-- The bank that a work item goes to (R44): a slot op goes to the bank of the object that its slot is armed on. The snapshot of a
lane goes to no bank, numbered 8. -/
def Ch.workBank (c : Ch) : Work → Nat
  | .req p lid =>
    if p.cls = clSlot then
      match c.hw.parked.find? (fun w => w.lid = lid && w.slot = p.index) with
      | some w => w.obj.2 % 8
      | none => p.index % 8
    else bankOf p.opcode p.cls p.index p.operand
  | .hostOp opcode cls index operand => bankOf opcode cls index operand
  | .force addr => lockBank addr
  | .hand _ _ i _ _ _ => i % 8
  | .snapshot kind i => if kind = 4 then 8 else i % 8

/-- The ingress that a work item came by (R58). -/
def Work.ingress : Work → Nat
  | .req p _ => p.ingress
  | _ => hostIngress

/-- The WAIT_ANY train that a work item is a packet of: its sender and TAG. -/
def Work.train : Work → Option (Nat × Nat)
  | .req p lid => if p.opcode = opWaitAny && !p.trailer then some (lid, p.tag) else none
  | _ => none

/-- An earlier packet of the same train is among some work (R56). -/
def Work.follows (w : Work) (l : List (Nat × Work)) : Bool := w.train.isSome && l.any (fun q => q.2.train = w.train)

/-- Requests that a bank queue holds. -/
def Ch.queuedAt (c : Ch) (b : Nat) : Nat := (c.rq.bankQ.filter (fun q => q.1 = b)).length

/-- Whether the RU ingress queue stalls a work item at the head of its bank (R178, R201): the arrival would be accepted at a
reduction-capable barrier and the queue holds 512. An arrival without payload stalls as well (DESIGN CHOICE, log entry 76). -/
def Ch.stalls (w : Work) (c : Ch) : Bool :=
  match w with
  | .req p lid =>
    let o := p.op lid
    let i := barIndex p.index
    let armed := if p.opcode = opWaitAny then armedOp p.operand else p.opcode
    let arrives := p.cls = clBar && (armed = opBarArrive || armed = opBarArriveWait
      || (armed = opBarReduceArrive && lastField p.index))
    let operand := if p.opcode = opWaitAny then fld p.operand 63 32 else p.operand
    let d := if armed = opBarReduceArrive then g5Ahead (g5Field p.index) (c.bar i).gen
             else BitVec.ofNat 32 operand - (c.bar i).gen
    arrives && barReduce i && decide (512 ≤ c.ru.queue.length) &&
      (match c.arrivalAt o i d with | .refused _ _ => false | _ => true)
  | _ => false

/-- A receive buffer of a link port is occupied by what waits, or no longer (R258). -/
def Ch.rxHold (p : Nat) (more : Bool) (c : Ch) : Ch :=
  let k := c.la.credit p
  let k1 := { k with rxHeld := if more then k.rxHeld + 1 else k.rxHeld - 1 }
  { c with la := { c.la with credits := c.la.credits.put {} p k1 } }

/-- The work is placed in its bank queue (R38): a trailer is counted and taken (R63). -/
def Ch.accept (w : Work) (c : Ch) : Ch :=
  match w with
  | .req p _ =>
    if p.trailer then ({ c with rq := { c.rq with trailers := inc c.rq.trailers } }).takeTrailer p else c
  | _ => c

/-- The work goes to the end of its bank queue. -/
def Ch.pushBank (b : Nat) (w : Work) (c : Ch) : Ch := { c with rq := { c.rq with bankQ := c.rq.bankQ ++ [(b, w)] } }

/-- The read of the bank-queue entry that the work takes (array 5 of R424): an uncorrectable one halts the channel. -/
def Ch.queueRead (e : Env) (b : Nat) (c : Ch) : Ch × Bool := c.readEcc e.quiet .rq 5 b (2 * c.rq.head.get 0 b) 2 {}

/-- The head of a bank queue is performed: the queue and the bank's pointer move past it (R58). -/
def Ch.performHead (e : Env) (b : Nat) (w : Work) (c : Ch) : Ch :=
  let r := c.queueRead e b
  if r.2 then { r.1 with rq := { r.1.rq with bankQ := (b, w) :: r.1.rq.bankQ } }
  else
    ({ r.1 with rq := { r.1.rq with
        head := r.1.rq.head.put 0 b ((r.1.rq.head.get 0 b + 1) % 64),
        pointer := r.1.rq.pointer.put 0 b ((w.ingress + 1) % 73) } }).performWork e w

/-- Work enters its bank: performed, or queued behind what the bank already holds, behind an earlier packet of its train, or
behind the RU. -/
def Ch.enterBank (e : Env) (b : Nat) (w : Work) (c : Ch) : Ch :=
  let c1 := c.accept w
  if c1.rq.bankQ.any (fun q => q.1 = b) || w.follows c1.rq.bankQ || c1.stalls w then c1.pushBank b w
  else c1.performHead e b w

/-- A remote trailer that no bank queue takes yet occupies its receive buffer. -/
def Work.holdsRx (w : Work) (more : Bool) (c : Ch) : Ch :=
  match w with
  | .req p _ => if p.remote then c.rxHold (p.port % 8) more else c
  | _ => c

/-- Work that the hub passed goes to its bank; where 64 requests are queued there, it stays at the hub with its credit (R38). -/
def Ch.toBank (e : Env) (w : Work) (c : Ch) : Ch :=
  let b := c.workBank w
  if b = 8 then c.performWork e w
  else if 64 ≤ c.queuedAt b ∨ w.follows c.rq.full then
    w.holdsRx true { c with rq := { c.rq with full := c.rq.full ++ [(b, w)] } }
  else c.enterBank e b w

/-- Bank queues that have room again take what waited at the hub, oldest first. -/
def Ch.refillBanks : Nat → Ch → Ch
  | 0, c => c
  | n + 1, c =>
    match c.rq.full.find? (fun q =>
        decide (c.queuedAt q.1 < 64) && !q.2.follows (c.rq.full.takeWhile (fun r => r ≠ q))) with
    | none => c
    | some q =>
      Ch.refillBanks n ((((q.2.holdsRx false { c with rq := { c.rq with full := c.rq.full.erase q } }).accept q.2)).pushBank q.1 q.2)

/-- The head of a bank queue that can be performed now. -/
def Ch.ready (c : Ch) (q : Nat × Work) : Bool :=
  let before := c.rq.bankQ.takeWhile (fun r => r ≠ q)
  !before.any (fun r => r.1 = q.1) && !q.2.follows before && !c.stalls q.2

/-- Serves the heads of the bank queues that no longer wait, each bank in order. -/
def Ch.serveBanks (e : Env) : Nat → Ch → Ch
  | 0, c => c
  | n + 1, c =>
    match c.rq.bankQ.find? c.ready with
    | none => c
    | some q =>
      let e1 := { e with fv := 2 * Nat.pair e.fv (n + 4096) + 1, inject := 0 }
      let c1 := ({ c with rq := { c.rq with bankQ := c.rq.bankQ.erase q } }).newCycle.performHead e1 q.1 q.2
      Ch.serveBanks e n ((c1.settle e1).refillBanks c1.rq.full.length)

/-! ## Packets at the hub -/

/-- A refused request or trailer: its response, or its take and its record; and the end of its train, for checks 6 to 10 (R48, R53,
R66). -/
def Ch.refusePacket (e : Env) (p : Packet) (r : Refused) (c : Ch) : Ch :=
  let c1 := c.countRefusal e r
  if p.trailer then (c1.takeTrailer p).trailerFails p r.status
  else
    let c2 := c1.respond e p.phys p.opcode r.status p.tag (e.freeResult 2) {} true true
    match c.lidOf p.phys with
    | some lid =>
      if p.opcode = opWaitAny && r.status ≠ stFenced then c2.refuseTrain lid p.tag r.status (bit p.operand 8) else c2
    | none => c2

/-- Whether a WAIT_ANY packet belongs to a train that a refusal at checks 6 to 10 ended (R48): it is answered, not checked again. A
packet that names an object of that train starts a new one (R49). -/
def Ch.deadTrain (p : Packet) (c : Ch) : Option (Nat × TrainEnd) :=
  if p.trailer || p.opcode ≠ opWaitAny then none
  else
    match c.lidOf p.phys with
    | none => none
    | some lid =>
      if c.ctl.fenced.contains p.phys then none
      else
        (c.hw.ended.find? (fun t => t.lid = lid && t.tag = p.tag && !t.done && t.status ≠ stSlotsFull
          && !t.objs.contains (p.op lid).target)).map (fun t => (lid, t))

/-- A packet at the hub of an awake channel (R53, R63). -/
def Ch.hubPacket (e : Env) (p : Packet) (c : Ch) : Ch :=
  let l := c.meetLower e p
  match l.1.deadTrain p with
  | some (lid, t) => l.1.lateTrainPacket e (p.op lid) l.1.out.length t (bit p.operand 8)
  | none =>
    let r := l.1.checkPacket e p l.2
    match r.2 with
    | .passed lid => r.1.toBank e (.req p lid)
    | .refused f => r.1.refusePacket e p f
    | .lost => r.1.flushPacket e p

/-- A packet for the channel that its node has passed: it waits at ingress while the channel sleeps (R39). -/
def Ch.packetIn (e : Env) (p : Packet) (c : Ch) : Ch :=
  if c.asleep then ({ c with rq := { c.rq with ingress := c.rq.ingress ++ [p] } }).wakeUp e.time
  else c.hubPacket e p

/-- A node's refusal with CHANNEL_DOWN (check 3 of R53); a trailer so refused is recorded under R66. -/
def Ch.nodeDown (e : Env) (p : Packet) (c : Ch) : Ch :=
  if p.trailer then
    (({ c with rq := { c.rq with down := inc c.rq.down } }).takeTrailer p).trailerFails p stChannelDown
  else c.packetDown e p

/-- The error of an array read that a packet brings to one side of a channel. -/
def injectOf (m : MemErr) (second : Bool) : Nat :=
  match m, second with
  | .ceFirst, false => 1
  | .ceSecond, true => 1
  | .ceBoth, _ => 1
  | .ueFirst, false => 2
  | .ueSecond, true => 2
  | .ueBoth, _ => 2
  | _, _ => 0

/-- The surroundings of item `i` of several that one command performs: free values of its own. -/
def Env.item (e : Env) (i : Nat) (m : MemErr) : Env :=
  { e with fv := 2 * Nat.pair e.fv i + 1, inject := injectOf m e.second }

/-! ## Remote trailers (R261) -/

/-- A refused remote trailer is counted by the LA as well (R261). -/
def Ch.refuseRemote (e : Env) (p : Packet) (r : Refused) (c : Ch) : Ch :=
  let c1 := c.refusePacket e p r
  { c1 with lalog := { c1.lalog with rtrRefused := inc c1.lalog.rtrRefused } }

/-- A remote trailer that is taken: LA_RTR_LAST and LA_RTR_COUNT. -/
def Ch.noteRemote (m : MsgIn) (p : Packet) (c : Ch) : Ch :=
  { c with lalog := { c.lalog with
      rtr := inc c.lalog.rtr,
      rtrLast := at_ 61 56 m.src.toNat + at_ 55 44 (fld (bodyWord m 3) 11 0) + at_ 43 38 p.opcode + at_ 37 35 p.cls
                 + at_ 22 0 p.index } }

/-- A malformed TRAILER is refused and counted, and breaks nothing (R259, R261). -/
def Ch.refuseMessage (m : MsgIn) (c : Ch) : Ch :=
  ({ c with lalog := { c.lalog with rtrRefused := inc c.lalog.rtrRefused } }).emit (.creditBack m.port.toNat)

/-- A remote trailer at hub ingress: the checks of R53 and R261. -/
def Ch.remoteHub (e : Env) (m : MsgIn) (p : Packet) (c : Ch) : Ch :=
  let o := p.op ((c.lidOf p.phys).getD 0)
  let l := c.meetLower e p
  if (l.1.lidOf p.phys).isSome && !l.1.ctl.fenced.contains p.phys && l.2.isNone && !remoteTrailerOp p.opcode then
    l.1.refuseRemote e p ⟨stBadOp, 1, some (2, o.cause)⟩
  else
    let r := l.1.checkPacket e p l.2
    match r.2 with
    | .refused f => r.1.refuseRemote e p f
    | .lost => r.1.flushPacket e p
    | .passed lid =>
      if r.1.la.st ≠ .formed ∧ r.1.la.st ≠ .broken then r.1.refuseRemote e p ⟨stDenied, 0, none⟩
      else (r.1.noteRemote m p).toBank e (.req p lid)

/-- REMOTE_TRAILER (R259, R261). -/
def Ch.remoteTrailer (e : Env) (m : MsgIn) (c : Ch) : Ch :=
  let c1 := c.countMsg e m
  if c1.malformed tyTrailer m then c1.refuseMessage m
  else if c1.ctl.st ≠ .run then
    let c2 := c1.nodeDown e (remotePacket m)
    { c2 with lalog := { c2.lalog with rtrRefused := inc c2.lalog.rtrRefused } }
  else c1.remoteHub e m (remotePacket m)

/-- A sync message that its link agent takes, received at keep value `rx`: processed, its credit returns; a trailer's with its
take (R258). -/
def Ch.messageNow (e : Env) (rx typ : Nat) (m : MsgIn) (c : Ch) : Ch :=
  if typ = tyTrailer then c.remoteTrailer e m else (c.takeMessage e rx typ m).emit (.creditBack m.port.toNat)

/-- A remote trailer of a port that no bank queue takes yet: what follows it on the port waits (R259, R261). -/
def Ch.trailerWaits (p : Nat) (c : Ch) : Bool :=
  c.rq.full.any (fun q => match q.2 with | .req k _ => k.remote && decide (k.port % 8 = p) | _ => false)

/-- A sync message waits at its link agent with its credit taken (R353). -/
def Ch.holdMessage (e : Env) (typ : Nat) (m : MsgIn) (c : Ch) : Ch :=
  ({ c with la := { c.la with rxWait := c.la.rxWait ++ [(typ, m, e.linkTime m.port.toNat)] } }).rxHold m.port.toNat true

/-- A sync message at its link agent: it waits while the channel sleeps, and behind what waits on its port (R259, R353). -/
def Ch.messageIn (e : Env) (typ : Nat) (m : MsgIn) (c : Ch) : Ch :=
  let p := m.port.toNat
  if c.asleep then (c.holdMessage e typ m).wakeUp e.time
  else if c.trailerWaits p || c.la.rxWait.any (fun q => q.2.1.port.toNat = p) then c.holdMessage e typ m
  else c.messageNow e (e.linkTime p) typ m

/-! ## After a wake (R353) -/

/-- The strobes that waited at the ports. -/
def Ch.serveStrobes (e : Env) (c : Ch) : Ch :=
  c.bw.strobes.foldl (fun c s => (c.newCycle.strobe e s.1 s.2).settle e) { c with bw := { c.bw with strobes := [] } }

/-- The messages that waited, in order, but for those behind a trailer that still waits. -/
def Ch.serveMessages (e : Env) : Nat → Ch → Ch
  | 0, c => c
  | n + 1, c =>
    match c.la.rxWait.find? (fun q => !c.trailerWaits q.2.1.port.toNat) with
    | none => c
    | some q =>
      let e1 := e.item (8192 + n) .none
      let c1 := (({ c with la := { c.la with rxWait := c.la.rxWait.erase q } }).newCycle).rxHold q.2.1.port.toNat false
      Ch.serveMessages e n ((c1.messageNow e1 q.2.2 q.1 q.2.1).settle e1)

/-- The reset events that waited in the reset queue. -/
def Ch.serveResets (e : Env) (c : Ch) : Ch :=
  c.ctl.resetQ.foldl (fun c p => (c.newCycle.takeReset e p).settle e) { c with ctl := { c.ctl with resetQ := [] } }

/-- The bank that a packet at hub ingress is bound to. -/
def Ch.packetBank (c : Ch) (p : Packet) : Nat := c.workBank (.req p ((c.lidOf p.phys).getD 0))

/-- How far an ingress stands behind a bank's round-robin pointer (R58). -/
def Ch.turn (c : Ch) (b ingress : Nat) : Nat := (ingress + 73 - c.rq.pointer.get 0 b) % 73

/-- The packet that the hub serves next: of the packets at the head of their ingresses that are bound to the bank of the oldest,
the first at or after the bank's pointer (R58). -/
def Ch.nextPacket (c : Ch) : Option Packet :=
  match c.rq.ingress with
  | [] => none
  | p :: _ =>
    let b := c.packetBank p
    let heads := c.rq.ingress.filter (fun q =>
      (c.rq.ingress.find? (fun r => r.ingress = q.ingress)) = some q && decide (c.packetBank q = b))
    some (heads.foldl (fun best q => if c.turn b q.ingress < c.turn b best.ingress then q else best) p)

/-- The packets that waited at ingress. -/
def Ch.servePackets (e : Env) : Nat → Ch → Ch
  | 0, c => c
  | n + 1, c =>
    match c.nextPacket with
    | none => c
    | some p =>
      let e1 := e.item (65536 + n) p.mem
      let c1 := ({ c with rq := { c.rq with ingress := c.rq.ingress.erase p } }).newCycle
      Ch.servePackets e n ((c1.hubPacket e1 p).settle e1)

/-- The end of a wake (R355, R356): the channel is ACTIVE, and what waited for it is served. -/
def Ch.wakeDone (e : Env) (slumber : Bool) (c : Ch) : Ch :=
  if c.clk.st ≠ .waking || c.clk.fromSlumber ≠ slumber then c
  else
    let k := { c.clk with st := .active, fromSlumber := false, wakeReq := false,
                          wakes := if slumber then c.clk.wakes else inc c.clk.wakes,
                          slumberWakes := if slumber then inc c.clk.slumberWakes else c.clk.slumberWakes }
    let c1 := ({ c with clk := k }).serveStrobes e
    let c2 := (c1.serveMessages e c1.la.rxWait.length).serveResets e
    c2.servePackets e c2.rq.ingress.length

/-! ## The orderly close (R394) -/

/-- Everything in the RU ingress queue and the bank queues is completed (R394 step 2). -/
def Ch.finishWork (e : Env) : Nat → Ch → Ch
  | 0, c => c
  | n + 1, c =>
    if c.ru.queue.isEmpty && c.rq.bankQ.isEmpty then c
    else
      let e1 := e.item (131072 + n) .none
      Ch.finishWork e n (((c.newCycle.combineNext e1).settle e1).serveBanks e1 1)

/-- The audits of a close that nothing has halted meanwhile (R394 step 3). -/
def Ch.closeOn (c : Ch) : Ch := if c.ctl.st = .closing then c.closeAudits else c

/-- ORDERLY_CLOSE of a channel in RUN (R394 steps 1 to 3): the state, the work in hand, the audits. Its clocks run on as it closes
(`Ch.clockNow`). -/
def Ch.orderlyClose (e : Env) (c : Ch) : Ch :=
  if c.ctl.st ≠ .run then c
  else
    let c1 := (({ c with clk := { c.clk with st := .down } }).setSt .closing).startShadow 2 0 []
    let c2 := c1.servePackets e c1.rq.ingress.length
    let c3 := c2.finishWork e (c2.ru.queue.length + 2 * (c2.rq.bankQ.length + c2.rq.full.length))
    c3.closeOn

end Sys2Proof.Machine
end

