-- ==== Sys2Proof/Machine/Block.lean ====
section
/-! DEFINITION. The block around its channels: what leaves it (R37), commands on a channel or a pair (R331 to R340), the
compare unit (R334, R335), faults of the shared sub-blocks (R306, R314 to R320). -/

namespace Sys2Proof.Machine

/-! ## Channels and pairs -/

/-- Channel `n`: 0 A, 1 B, 2 C, 3 D (R10). -/
def State.ch (s : State) (n : Nat) : Ch :=
  match n with
  | 0 => s.chA | 1 => s.chB | 2 => s.chC | _ => s.chD

/-- Replaces channel `n`. -/
def State.setCh (n : Nat) (c : Ch) (s : State) : State :=
  match n with
  | 0 => { s with chA := c } | 1 => { s with chB := c } | 2 => { s with chC := c } | _ => { s with chD := c }

/-- The record of the pair that channel `n` belongs to. -/
def State.pair (s : State) (n : Nat) : Pair := if n < 2 then s.pairAB else s.pairCD

/-- Replaces the record of the pair that channel `n` belongs to. -/
def State.setPair (n : Nat) (p : Pair) (s : State) : State :=
  if n < 2 then { s with pairAB := p } else { s with pairCD := p }

/-- Channel `n` is the second side of a pair (R331). -/
def State.isSecond (s : State) (n : Nat) : Bool := n % 2 = 1 && (s.pair n).st ≠ .single

/-- Channel `n` is a side of a pair. -/
def State.isPaired (s : State) (n : Nat) : Bool := (s.pair n).st ≠ .single

/-- The sides on which a command of channel or pair `n` acts. -/
def State.sides (s : State) (n : Nat) : List Nat :=
  match (s.pair n).st with
  | .single => [n]
  | .unpaired => [n + (s.pair n).survivor]
  | _ => [n, n + 1]

/-- The side whose state stands for channel or pair `n` where one is enough. -/
def State.lead (s : State) (n : Nat) : Nat :=
  if (s.pair n).st = .unpaired then n + (s.pair n).survivor else n

/-- The encoding of a pair state. -/
def PairSt.code : PairSt → Nat
  | .single => 0 | .paired => 1 | .unpaired => 2 | .halted => 3

/-- CH_PAIR_STATUS as the window of one side shows it; all zero in a single channel. -/
def Pair.statusWord (p : Pair) (second : Bool) : Nat :=
  if p.st = .single then 0
  else at_ 63 62 p.st.code + at_ 61 61 (b01 second) + at_ 60 60 p.survivor + at_ 11 8 p.cause + at_ 4 0 p.source

/-! ## Surroundings -/

/-- The channel nibble that a packet carries: captured with a closing write (R61), else that of its endpoint in a table. -/
def Packet.nibble (t : SMap Nat) (p : Packet) : Nat := if p.capt < 16 then p.capt else tblChan t p.phys

/-- The CORE cycles since the count of Scetor time began: 30 to a keep cycle. -/
def State.coreNow (s : State) : Nat := 30 * (s.time / 20) + s.coreK

/-- Channel or pair `n` is busy in this CORE cycle (R350). -/
def State.busyNow (n : Nat) (s : State) : State := { s with busyAt := s.busyAt.put 0 n s.coreNow }

/-- The CORE stamp of a command (R358). -/
def State.stamp (s : State) : Nat := s.time + 2 * s.coreK / 3

/-- A crossing is quarantined: what comes from its other side is ignored (R368). -/
def State.quarantined (s : State) (q : Nat) : Bool := s.ck.quar.any (fun x => x.number = q)

/-- The last good Scetor time of the destination domains whose crossing is quarantined: HOST as 4, LINK k as k (R365, R368). -/
def State.frozenTimes (s : State) : SMap Nat :=
  [0, 1, 2, 3, 4].filterMap (fun k =>
    (s.ck.quar.find? (fun x => x.number = 0x9000 + (if k = 4 then 0 else k + 1))).map (fun x => (k, x.value)))

/-- What one side of channel `n` sees; the second side of a pair stamps and numbers as the first. A channel that sleeps
stamps with keep values. -/
def State.env (n : Nat) (second : Bool) (m : MemErr) (s : State) : Env :=
  { chan := n, second := second, paired := (s.pair n).st = .paired,
    stamp := if (s.ch n).asleep then s.time else s.stamp, time := s.time, trip := s.trip,
    classes := s.bays.map (fun p => (p.1, p.2.cls)),
    stale := (List.range 8).filter (fun b => (s.bays.get {} b).stale),
    pt := s.pt, cl := s.cl, sflt := s.sflt, pairWord := (s.pair n).statusWord second,
    inject := injectOf m second, linkTimes := s.frozenTimes, fv := 2 * s.free }

/-! ## What leaves the block -/

/-- The responses among some outputs. -/
def responsesOf (l : List Output) : List Response :=
  l.filterMap (fun o => match o with | .resp r => some r | _ => none)

/-- The cores whose release wire rises with some outputs (R145). -/
def risingCores (l : List Output) : List Nat :=
  l.flatMap (fun o => match o with | .laneRelease _ _ _ _ cores => cores | _ => [])

/-- Outputs leave: responses wait at their nodes until they are delivered (R37), a lane release holds the wake outputs of its cores
(R145). -/
def State.leave (l : List Output) (s : State) : State :=
  { s with emitted := s.emitted ++ l, resp := s.resp ++ responsesOf l, laneWakes := s.laneWakes ++ risingCores l }

/-- A fault at U or F starts SCE_ERR_N (R329): channel `n`, or a shared sub-block. -/
def State.errPulse (n : Option Nat) (s : State) : State :=
  let h := { s.hp with errNew := true, errShared := s.hp.errShared || n.isNone,
                       errChans := match n with | some c => setBit s.hp.errChans c | none => s.hp.errChans }
  { s with hp := h }

/-- A side has done its part of a command: its state is kept, some outputs leave, its report goes on. -/
def State.finish (n : Nat) (c : Ch) (l : List Output) (s : State) : State :=
  let s1 := s.setCh n { c with todo := [], out := [], raised := [], haltReq := false, errPulse := false }
  (if c.errPulse then s1.errPulse (some n) else s1).leave l

/-! ## The compare unit (R334 to R339) -/

/-- The stream an output belongs to; 5 for what is not compared. -/
def Output.stream : Output → Nat
  | .resp _ => 0
  | .take _ _ => 0
  | .ack _ _ _ => 1
  | .laneRelease _ _ _ _ _ => 1
  | .wake _ => 2
  | .msg _ _ => 3
  | .line _ _ _ => 4
  | .creditBack _ => 5
  | .resetTake _ => 5
  | .flash _ => 5
  | .flashReset => 5
  | .fabricAck _ _ => 5
  | .host _ _ _ _ _ => 5

/-- Bits [127:64] of a response (R50). -/
def Response.high (r : Response) : Nat :=
  at_ 63 52 r.endpoint + at_ 51 48 r.chan + at_ 47 42 r.opcode + at_ 41 36 r.status + at_ 20 20 (b01 r.range)
    + at_ 19 19 (b01 r.zeroBlock) + at_ 18 18 (b01 r.rescale) + at_ 17 17 (b01 r.lean) + at_ 16 16 (b01 r.final)
    + at_ 15 0 r.tag

/-- The header word of a sync message (R256). -/
def Msg.header (m : Msg) : Nat :=
  at_ 63 60 m.typ + at_ 59 56 m.body.length + at_ 55 40 m.accord + at_ 39 34 m.src + at_ 33 28 m.dst + at_ 27 20 m.object

/-- The words of an output, as the divergence record takes them. -/
def Output.words : Output → List Nat
  | .resp r => [r.result, r.high]
  | .take port opcode => [0, at_ 63 52 port + at_ 47 42 opcode]
  | .ack phys lane code => [at_ 11 0 phys + at_ 20 16 lane + at_ 25 24 code]
  | .laneRelease _ lane gen tmo _ => [at_ 63 32 gen + at_ 8 8 (b01 tmo) + at_ 4 0 lane]
  | .wake phys => [phys]
  | .msg _ m => m.header :: m.body
  | .line _ addr bytes => leWords 8 bytes ++ [addr]
  | .creditBack port => [port]
  | .resetTake phys => [phys]
  | .flash c => [c.addr]
  | .flashReset => []
  | .fabricAck port high => [2 * port + b01 high]
  | .host _ offset _ value _ => [value, offset]

/-- The destination of an output (CH_PAIR_DIV_INFO.ENDPOINT). -/
def Output.dest : Output → Nat
  | .resp r => r.endpoint
  | .take port _ => port
  | .ack phys _ _ => phys
  | .wake phys => phys
  | .msg port _ => port
  | _ => 0

/-- The first word in which two outputs differ: its number, and the words of the two. -/
def diffAt : Nat → List Nat → List Nat → Nat × Nat × Nat
  | n, [], [] => (n, 0, 0)
  | n, x :: _, [] => (n, x, 0)
  | n, [], y :: _ => (n, 0, y)
  | n, x :: a, y :: b => if x = y then diffAt (n + 1) a b else (n, x, y)

/-- The outputs of one stream that one side has built and the other has not, in order, with their build cycles. -/
abbrev Waiting := List (Output × Option Nat)

/-- The outputs of a stream in CORE cycle `now`: the first 64 are built, the stage that builds those behind them stalls (R335). -/
def Waiting.built (now : Nat) (l : Waiting) : Waiting :=
  l.zipIdx.map (fun p => (p.1.1, if p.2 < 64 then some (p.1.2.getD now) else p.1.2))

/-- How long the first output of a stream has waited, up to the 256 CORE cycles of R335. -/
def Waiting.lead (now : Nat) : Waiting → Nat
  | (_, some b) :: _ => min 256 (now - b)
  | _ => 0

/-- The result of matching one stream: what both built, what is left of each, the largest lead, and a mismatch: two outputs
that differ, or one that the other side has not built for more than 256 CORE cycles. -/
structure Matched where
  passed : List Output
  first  : Waiting
  second : Waiting
  skew   : Nat
  bad    : Option (Option Output × Option Output)

/-- Matches two streams of outputs in order, in CORE cycle `now`. -/
def matchOuts (now : Nat) : Waiting → Waiting → Matched
  | [], b => ⟨[], [], b, b.lead now, none⟩
  | a, [] => ⟨[], a, [], a.lead now, none⟩
  | (x, i) :: a, (y, j) :: b =>
    let i' := i.getD now
    let j' := j.getD now
    if min i' j' + 256 < now then
      ⟨[], (x, i) :: a, (y, j) :: b, 256, some (if i' < j' then (some x, none) else (none, some y))⟩
    else if x = y then
      let r := matchOuts now a b
      { r with passed := x :: r.passed, skew := max (now - min i' j') r.skew }
    else ⟨[], (x, i) :: a, (y, j) :: b, 0, some (some x, some y)⟩

/-- The result of a comparison: what leaves, the outputs left waiting on either side, the largest lead, and a mismatch with its
stream. -/
structure Compared where
  passed : List Output
  first  : SMap Waiting
  second : SMap Waiting
  skew   : Nat
  bad    : Option (Nat × Option Output × Option Output)

/-- The outputs of stream `k` among what a side has built, behind what waits. -/
def joinStream (now k : Nat) (waiting : SMap Waiting) (l : List Output) : Waiting :=
  (Waiting.built now (waiting.get [] k ++ (l.filter (fun o => o.stream = k)).map (fun o => (o, none))))

/-- Compares one more stream. -/
def Pair.matchStream (now : Nat) (p : Pair) (a b : List Output) (r : Compared) (k : Nat) : Compared :=
  let m := matchOuts now (joinStream now k p.first a) (joinStream now k p.second b)
  { passed := r.passed ++ m.passed, first := r.first.put [] k (Waiting.built now m.first),
    second := r.second.put [] k (Waiting.built now m.second), skew := max r.skew m.skew,
    bad := match r.bad with | some x => some x | none => m.bad.map (fun d => (k, d.1, d.2)) }

/-- Compares what the two sides built in one command; what is not compared leaves from the first side. -/
def Pair.compareOuts (now : Nat) (p : Pair) (a b : List Output) : Compared :=
  if p.first = [] ∧ p.second = [] ∧ a = b then ⟨a, [], [], p.skew, none⟩
  else
    [0, 1, 2, 3, 4].foldl (p.matchStream now a b) ⟨a.filter (fun o => o.stream = 5), p.first, p.second, p.skew, none⟩

/-- The sources that are side-local whatever their class (R336). -/
def sideLocal (r : RaisedNow) : Bool :=
  decide (r.cls = 3) || (r.src = 1 && (r.sub = .os || r.sub = .lt || r.sub = .ru || r.sub = .cu || r.sub = .ps))
    || (r.sub = .rq && r.src = 6) || (r.sub = .ru && r.src = 4) || (r.sub = .la && r.src = 5)

/-- A fault that one side raised and the other did not (R336). -/
def localFault (mine other : List RaisedNow) : Option RaisedNow :=
  mine.find? (fun r => sideLocal r &&
    !other.any (fun q => q.sub = r.sub && q.src = r.src && (r.cls ≠ 3 || q.cls = 3)))

/-- A divergence (R339): both sides raise RQ_PAIR_DIVERGE and halt, and the pair records it. `d` is the output of each
side where there is one, with its stream; `pass` is what matched before. -/
def State.diverge (n : Nat) (ea eb : Env) (a b : Ch) (d : Option (Nat × Option Output × Option Output))
    (pass : List Output) (s : State) : State :=
  let a1 := (({ a with out := [] }).raise ea .rq 9 {}).haltIfAsked ea true
  let b1 := (({ b with out := [] }).raise eb .rq 9 {}).haltIfAsked eb false
  let p := s.pair n
  let p1 : Pair := { p with st := .halted, time := ea.stamp, first := [], second := [] }
  let p2 : Pair :=
    match d with
    | none => p1
    | some (k, x, y) =>
      let w := diffAt 0 ((x.map Output.words).getD []) ((y.map Output.words).getD [])
      { p1 with divMissing := x.isNone || y.isNone, divHalf := w.1 % 2, divStream := k,
                divEnd := (((x.map Output.dest).orElse (fun _ => y.map Output.dest)).getD 0),
                divFirst := w.2.1, divSecond := w.2.2 }
  let s1 := (s.setPair n p2).finish n a1 (pass ++ a1.out)
  s1.finish (n + 1) b1 []

/-- Outputs of all streams that wait in the compare unit for one side. -/
def queued (m : SMap Waiting) : List Output := m.flatMap (fun p => p.2.map (·.1))

/-- A side is dropped (R337, R338): `second` tells which, `r` why. The survivor's outputs pass unmatched. -/
def State.dropSide (n : Nat) (second : Bool) (r : RaisedNow) (e : Env) (dropped survivor : Ch) (s : State) : State :=
  let p := s.pair n
  let early := if second then queued p.first else queued p.second
  let p1 : Pair := { p with st := .unpaired, survivor := b01 (!second), cause := subCode r.sub, source := r.src,
                            time := e.stamp, first := [], second := [] }
  let v := (survivor.raise e .rq 10 {}).haltIfAsked e true
  let s1 := (s.setPair n p1).finish (n + b01 second) { dropped with haltReq := false } []
  s1.finish (n + b01 (!second)) v (early ++ v.out)

/-- Both sides have done a command with no side-local fault: their outputs are compared (R334, R339). -/
def State.compare (n : Nat) (ea eb : Env) (a b : Ch) (s : State) : State :=
  let p := s.pair n
  let q := p.compareOuts s.coreNow a.out b.out
  match q.bad with
  | some d => s.diverge n ea eb a b (some d) q.passed
  | none =>
    let p1 : Pair := { p with first := q.first, second := q.second, skew := q.skew }
    let s1 := (s.setPair n p1).finish n a q.passed
    s1.finish (n + 1) b []

/-- A command on both sides of an active pair (R332 to R339). -/
def State.runPair (n : Nat) (m : MemErr) (f : Env → Ch → Ch) (s : State) : State :=
  let ea := s.env n false m
  let eb := s.env n true m
  let a := (f ea (s.ch n)).drain ea drainFuel
  let b := (f eb (s.ch (n + 1))).drain eb drainFuel
  match localFault a.raised b.raised, localFault b.raised a.raised with
  | none, none => s.compare n ea eb (a.haltIfAsked ea true) (b.haltIfAsked eb true)
  | some r, none => s.dropSide n false r eb a b
  | none, some r => s.dropSide n true r ea b a
  | some _, some _ => s.diverge n ea eb a b none []

/-- A command on one side alone: a single channel, or the survivor of a pair. -/
def State.runAlone (n k : Nat) (m : MemErr) (f : Env → Ch → Ch) (s : State) : State :=
  let e := s.env n (decide (k ≠ n)) m
  let c := (f e (s.ch k)).settle e
  s.finish k c c.out

/-- A command on both sides of a halted pair: comparison has stopped, and what leaves is the first side's. -/
def State.runHalted (n : Nat) (m : MemErr) (f : Env → Ch → Ch) (s : State) : State :=
  let eb := s.env n true m
  let b := (f eb (s.ch (n + 1))).settle eb
  (s.runAlone n n m f).finish (n + 1) b []

/-- A command's effect on channel `n`, or on the pair whose first side is `n`. -/
def State.onChan (n : Nat) (m : MemErr) (f : Env → Ch → Ch) (s : State) : State :=
  match (s.pair n).st with
  | .single => s.runAlone n n m f
  | .paired => s.runPair n m f
  | .unpaired => s.runAlone n (n + (s.pair n).survivor) m f
  | .halted => s.runHalted n m f

/-- An error that a command brings into a word of one side's arrays stands there until a read meets it. -/
def Ch.plant (m : MemErr) (e : Env) (c : Ch) : Ch :=
  match m with
  | .upset second u w ue =>
    if second = e.second then
      { c with upsets := c.upsets ++ [⟨u, w.array.toNat, w.bank.toNat, w.word.toNat, ue⟩] }
    else c
  | _ => c

/-- A command that names channel `n`: nothing where it names the second side of a pair. The channel is busy in its cycle (R350). -/
def State.atChan (n : Nat) (m : MemErr) (f : Env → Ch → Ch) (s : State) : State :=
  if s.isSecond n then s else (s.onChan n m (fun e c => f e (c.plant m e))).busyNow n

/-- An effect on one side's own state, without the compare unit: its fault sets, its selectors, its clocks. -/
def State.onSide (k : Nat) (f : Env → Ch → Ch) (s : State) : State :=
  let n := if s.isSecond k then k - 1 else k
  s.runAlone n k .none f

/-- An event of a unit of a channel acts only while the channel is in RUN or closing, and awake. -/
def whenLive (f : Env → Ch → Ch) (e : Env) (c : Ch) : Ch := if c.live && !c.asleep then f e c else c

/-- An effect on channel or pair `n` that is no work of its own. -/
def State.onOwn (n : Nat) (f : Env → Ch → Ch) (s : State) : State := if s.isSecond n then s else s.onChan n .none f

/-- Applies an effect to some channels or pairs. -/
def State.onList (f : Env → Ch → Ch) (l : List Nat) (s : State) : State := l.foldl (fun s n => s.onOwn n f) s

/-- An effect on every channel and pair. -/
def State.onAll (f : Env → Ch → Ch) (s : State) : State := s.onList f [0, 1, 2, 3]

/-! ## Shared faults (R306, R314, R320) -/

/-- The fault set of a shared sub-block. -/
def State.sharedFault (s : State) : SharedSub → FaultSet
  | .cl => s.sflt.cl | .hp => s.sflt.hp | .pt => s.sflt.pt | .ck => s.sflt.ck

/-- Replaces the fault set of a shared sub-block. -/
def State.setShared (u : SharedSub) (f : FaultSet) (s : State) : State :=
  match u with
  | .cl => { s with sflt := { s.sflt with cl := f } }
  | .hp => { s with sflt := { s.sflt with hp := f } }
  | .pt => { s with sflt := { s.sflt with pt := f } }
  | .ck => { s with sflt := { s.sflt with ck := f } }

/-- A channel leaves RUN by a shared halt (R305, R306, R395). -/
def Ch.sharedHalt (d : Nat) (e : Env) (c : Ch) : Ch :=
  match c.ctl.st with
  | .run => c.leaveRun e .halted (some d)
  | .closing => c.leaveRun e .halted (some d)
  | .loading => c.setSt .down
  | _ => c

/-- A shared halt of channel `n`, with no comparison in a pair (R340): what leaves is the first side's, or the survivor's. -/
def State.haltOne (d : Nat) (s : State) (n : Nat) : State :=
  let first := n / 2 * 2
  let second := s.isPaired n && decide (n % 2 = 1)
  let e := s.env (if second then first else n) second .none
  let c := (Ch.sharedHalt d e (s.ch n)).settle e
  s.finish n c (if s.isPaired n && s.lead first ≠ n then [] else c.out)

/-- The block halts (R306): every channel leaves RUN, CL reads no more flash. -/
def State.blockHalt (u : SharedSub) (src : Nat) (s : State) : State :=
  let d := at_ 31 31 1 + at_ 30 27 (sharedSubCode u) + at_ 26 22 src
  let s1 := [0, 1, 2, 3].foldl (State.haltOne d) s
  { s1 with blockHalted := true, cl := { s1.cl with phase := .halted, loads := [] },
            pt := { s1.pt with checking := false, holding := false, heldChans := 0 } }

/-- The channel that a crossing serves alone, if any (R365): the channel of its endpoint, the owner of its link port, or
the channel whose keep part it is. -/
def State.crossingChan (s : State) (q : Nat) : Option Nat :=
  let kind := fld q 15 12
  let i := fld q 11 0
  if 1 ≤ kind ∧ kind ≤ 3 then
    let c := tblChan s.pt.table i
    if c < 4 ∧ s.pt.gate = .opened then some c else none
  else if kind = 5 then [0, 1, 2, 3].find? (fun c => bit (tblLinkPorts s.pt.table c) i && !s.isSecond c)
  else if kind = 6 ∧ i < 4 then some i
  else none

/-- A crossing number of R365. -/
def crossingOk (q : Nat) : Bool :=
  let i := fld q 11 0
  match fld q 15 12 with
  | 1 => decide (i < 0x400)
  | 2 => decide (0x400 ≤ i ∧ i < 0x728)
  | 3 => decide (i < 0x728)
  | 4 => decide (i < 8)
  | 5 => decide (i < 8)
  | 6 => decide (i < 4)
  | 7 => decide (i = 0)
  | 8 => decide (i = 0)
  | 9 => decide (i ≤ 4)
  | _ => false

/-- The crossing registers of the keep parts that a crossing serves: the one whose keep part it is, or both of a pair. -/
def State.onClks (q n : Nat) (f : Clk → Clk) (s : State) : State :=
  (if fld q 15 12 = 6 then [n] else s.sides n).foldl
    (fun s k => s.setCh k { s.ch k with clk := f (s.ch k).clk }) s

/-- A fallback of R360 or R362 on a crossing (R363): counted and recorded in the crossing's scope. -/
def State.noteFallback (q : Nat) (s : State) : State :=
  if !crossingOk q then s
  else
    match s.crossingChan q with
    | none => { s with ck := { s.ck with lateAgree := inc s.ck.lateAgree, xFallback := q } }
    | some n => s.onClks q n (fun k => { k with lateAgree := inc k.lateAgree, xFallback := q })

/-- What a command brings besides its own words, where that is no error in a channel's array: an error in an array of a shared
sub-block, or a fallback. -/
def State.brings (m : MemErr) (s : State) : State :=
  match m with
  | .sharedUpset u w ue =>
    { s with sflt := { s.sflt with upsets := s.sflt.upsets ++ [(u, w.array.toNat, w.bank.toNat, w.word.toNat, ue)] } }
  | .late q => s.noteFallback q.toNat
  | _ => s

/-- The row of the shadow that covers a shared source (R325): a crossing in quarantine, or one that serves only a channel
that is not in RUN. -/
def State.sharedShadow (u : SharedSub) (src q : Nat) (s : State) : Option Nat :=
  if u ≠ .ck ∨ src < 2 then none
  else if src = 3 && s.ck.shadows.any (fun x => x.running s.time && x.row = 1 && x.key = q) then some 1
  else
    match s.crossingChan q with
    | none => none
    | some c => if (s.ch c).ctl.shadows.any (fun x => x.running s.time && x.row = 2) then some 2 else none

/-- A fault of a source that never escalates (R320): captured or recorded at its own class. -/
def raiseFlat (time stamp cls src : Nat) (k : Cause) (fs : FaultSet) : FaultSet :=
  let f1 := { fs with src := setBit fs.src src }
  faultState time cls (if f1.captured then recordAlso cls src f1 else capture stamp k cls src f1)

/-- A detected source of a shared sub-block (R314 to R321, R325): CL_LINK and CL_CHANNEL never escalate, a fault raised
at F halts the block, one at U or F starts SCE_ERR_N. `fresh` tells that the capture was made by this command. -/
def State.raiseSharedAs (fresh : Bool) (u : SharedSub) (src : Nat) (k : Cause) (s : State) : State :=
  let cls := sharedSrcClass u src
  let fs := s.sharedFault u
  match (if k.forced then none else s.sharedShadow u src k.key) with
  | some row =>
    { s with ck := { s.ck with shadowCount := inc s.ck.shadowCount, shadowTime := s.stamp % 2 ^ 48, shadowRow := row,
                               shadowSrc := src, shadowSub := sharedSubCode u } }
  | none =>
    if cls = 0 ∨ bit fs.disabled src then s
    else
      let r := if u = .cl ∧ 4 ≤ src then (raiseFlat s.time s.stamp cls src k fs, cls)
               else raiseOn s.time s.stamp fresh cls src k fs
      let wear := decide (u = .hp ∧ src = 3 ∨ u = .pt ∧ src = 4)
      let s1 := s.setShared u (if wear then { r.1 with wear := true } else r.1)
      let s2 := if 2 ≤ r.2 then s1.errPulse none else s1
      if r.2 = 3 ∧ !s2.blockHalted then s2.blockHalt u src else s2

/-- The first source that a command raises in a shared sub-block. -/
def State.raiseShared (u : SharedSub) (src : Nat) (k : Cause) (s : State) : State := s.raiseSharedAs false u src k

/-- A corrected error at a word of PT's or HP's arrays (R322, R324): counted, on its tracker and in the wear window. -/
def State.correctedShared (u : SharedSub) (lasting wear array bank word : Nat) (forced : Bool) (s : State) : State :=
  let q := countCe s.time (s.sharedFault u)
  let t := countTracker s.time array bank word (closeTrackers s.time q.1)
  let k : Cause := { addr := at_ 63 60 array + at_ 59 57 bank + at_ 56 32 word, forced := forced }
  let s1 := (s.setShared u t.1).raiseShared u (if t.2 then lasting else 0) k
  if q.2 then
    s1.raiseSharedAs ((s1.sharedFault u).captured && !(s.sharedFault u).captured) u wear {}
  else s1

/-- The read of words `word` to `word + n − 1` of a shared array: a pending force (R326) or an error that stands there is met.
0 none, 1 corrected, 2 uncorrectable, with the word, and whether it was forced. -/
def State.sharedForce (u : SharedSub) (array bank word n : Nat) (s : State) : State × Nat × Nat × Bool :=
  let f := s.sharedFault u
  if f.pendForce.isSome && f.forceArray = array && f.forceBank = bank && decide (word ≤ f.forceWord)
      && decide (f.forceWord < word + n) then
    (s.setShared u { f with pendForce := none }, if f.pendForce = some true then 2 else 1, f.forceWord, true)
  else
    match s.sflt.upsets.find? (fun x => x.1 = u && x.2.1 = array && x.2.2.1 = bank && decide (word ≤ x.2.2.2.1)
        && decide (x.2.2.2.1 < word + n)) with
    | some x =>
      ({ s with sflt := { s.sflt with upsets := s.sflt.upsets.erase x } }, if x.2.2.2.2 then 2 else 1, x.2.2.2.1, false)
    | none => (s, 0, word, false)

/-- Free value `k` of this command that belongs to no channel. -/
def State.freeVal (k : Nat) (s : State) : Nat := Config.freeNat (Nat.pair (2 * s.free) (8 * k + 7))

/-- The next step within a command takes free values of its own. -/
def State.renew (s : State) : State := { s with free := s.free + 1 }

/-- A command begins: CORE cycles pass, of which R358 gives only the bound, and what left before is gone. -/
def State.begin (s : State) : State :=
  { s with coreK := s.coreK + s.freeVal 99 % (30 - s.coreK), free := s.free + 1, emitted := [] }

end Sys2Proof.Machine
end

