-- ==== Sys2Proof/Machine/Isolation.lean ====
section
/-! DEFINITION. The protection table and its validity (R287 to R291), and its change by two parties (R294 to R301). -/

namespace Sys2Proof.Machine

/-! ## Validity (R291) -/

/-- Every entry of a function-map word keeps to bits [6:0] (R290). -/
abbrev fnMask : Nat := 0x007F007F007F007F

/-- The bits that word `w` of the table defines (R287, R288, R290). -/
def tblDefined (w : Nat) : Nat :=
  if w = 0 then 0xFFFFFFFF0000FF00
  else if w = 1 then 0x3
  else if w = 2 then 0x1
  else if 0x8 ≤ w ∧ w < 0x28 then
    (if w % 8 = 0 then 0xFFFF3FFFFF0FFFFF
     else if w % 8 = 1 then 0x0000FFFFFFFFF000
     else if w % 8 = 2 then 0xFFFFFFFF
     else if w % 8 = 3 then 0x7
     else 0)
  else if 0x28 ≤ w ∧ w < 0x68 then fnMask
  else if 0x68 ≤ w ∧ w ≤ 0xDA then 2 ^ 64 - 1
  else 0

/-- A bit outside every field of the table is set. -/
def tblReservedSet (t : SMap Nat) : Bool := (List.range 256).any (fun w => decide (andNot (t.get 0 w) (tblDefined w) ≠ 0))

/-- PAIR_AB or PAIR_CD, whichever concerns channel `c`. -/
def tblPaired (t : SMap Nat) (c : Nat) : Bool := bit (t.get 0 1) (c / 2)

/-- Channel `c` counts as a channel of its own in the checks of R291: it is no second side (R331). -/
def tblOwn (t : SMap Nat) (c : Nat) : Bool := !(c % 2 = 1 && tblPaired t c)

/-- The channels of the checks. -/
def tblChans (t : SMap Nat) : List Nat := [0, 1, 2, 3].filter (tblOwn t)

/-- Check 0x03: an endpoint nibble that is no channel and not 0xF, or an ID that is no endpoint. -/
def tblBadEndpoint (t : SMap Nat) : Bool :=
  (List.range 0x730).any (fun x => let c := tblChan t x
    (decide (4 ≤ c) && decide (c ≠ 15)) || (decide (0x728 ≤ x) && decide (c ≠ 15)))

/-- Check 0x05: shared link ports, or a link agent that is not its port owner's. -/
def tblBadLink (t : SMap Nat) : Bool :=
  (List.range 8).any (fun p =>
    match (tblChans t).filter (fun c => bit (tblLinkPorts t c) p) with
    | [] => decide (tblChan t (0x700 + p) ≠ 15)
    | [c] => decide (tblChan t (0x700 + p) ≠ c)
    | _ => true)

/-- Check 0x06 for the pair whose first side is `a`. -/
def tblBadPair (t : SMap Nat) (a : Nat) : Bool :=
  tblPaired t a &&
    ((List.range 0x728).any (fun x => tblChan t x = a + 1)
      || [0, 1, 2, 3].any (fun k => tblWord t a k ≠ tblWord t (a + 1) k)
      || (List.range 256).any (fun f => bit (tblFn t f) a != bit (tblFn t f) (a + 1)))

/-- Check 0x07: a bay in view that holds an endpoint of another channel. -/
def tblBadView (t : SMap Nat) : Bool :=
  (List.range 0x728).any (fun x =>
    let o := tblChan t x
    decide (o < 4) && (tblChans t).any (fun c => decide (c ≠ o) && bit (tblBayView t c) (bayOf x)))

/-- Two blotter regions overlap. -/
def tblOverlap (t : SMap Nat) (c d : Nat) : Bool :=
  decide (tblBlotBase t c < tblBlotBase t d + 4096 * tblBlotSize t d)
    && decide (tblBlotBase t d < tblBlotBase t c + 4096 * tblBlotSize t c)

/-- Check 0x08: a region below 8 units, or two that overlap. -/
def tblBadBlotter (t : SMap Nat) : Bool :=
  let rs := (tblChans t).filter (fun c => tblBlotSize t c ≠ 0)
  rs.any (fun c => decide (tblBlotSize t c < 8)) || rs.any (fun c => rs.any (fun d => decide (c < d) && tblOverlap t c d))

/-- The first check of R291 that fails; 0 where the table is valid. -/
def tblCheck (t : SMap Nat) : Nat :=
  if fld (t.get 0 0) 15 8 ≠ 1 then 1
  else if tblReservedSet t then 2
  else if tblBadEndpoint t then 3
  else if [0, 1, 2, 3].any (fun c => tblQuota t c = 0) then 4
  else if tblBadLink t then 5
  else if tblBadPair t 0 || tblBadPair t 2 then 6
  else if tblBadView t then 7
  else if tblBadBlotter t then 8
  else 0

/-- The 256 words of a table. -/
def tblWords (t : SMap Nat) : List Nat := (List.range 256).map (fun w => t.get 0 w)

/-! ## Affected channels and levels (R299) -/

/-- The level that a change from table `a` to table `b` asks of channel `c`: 0 none, 1 QUIET, 2 DOWN. -/
def changeLevel (a b : SMap Nat) (c : Nat) : Nat :=
  if tblPaired a c ≠ tblPaired b c ∨ tblAccord a c ≠ tblAccord b c ∨ tblRank a c ≠ tblRank b c
      ∨ tblLinkPorts a c ≠ tblLinkPorts b c ∨ tblBayView a c ≠ tblBayView b c ∨ tblBlotBase a c ≠ tblBlotBase b c
      ∨ tblBlotSize a c ≠ tblBlotSize b c
      ∨ (List.range 0x728).any (fun x => tblChan a x ≠ tblChan b x && (tblChan a x = c || tblChan b x = c)) then 2
  else if tblAllot a c ≠ tblAllot b c ∨ tblQuota a c ≠ tblQuota b c ∨ fld (tblWord a c 3) 2 0 ≠ fld (tblWord b c 3) 2 0
      ∨ (List.range 256).any (fun f => bit (tblFn a f) c != bit (tblFn b f) c) then 1
  else 0

/-- The channels that the staged change affects. -/
def Pt.affected (p : Pt) : List Nat :=
  if p.st = .staged ∨ p.st = .approved then [0, 1, 2, 3].filter (fun c => decide (changeLevel p.table p.stage c ≠ 0)) else []

/-- The highest level that the staged change asks. -/
def Pt.level (p : Pt) : Nat := (p.affected.map (changeLevel p.table p.stage)).foldl max 0

/-- A channel is QUIET while in RUN (R299). -/
def Ch.quiet (c : Ch) : Bool :=
  !c.ps.seqs.any (fun p => p.2.st ≠ .idle && p.2.st ≠ .stopped) && c.bg.holdQ.isEmpty && c.hw.parked.isEmpty
    && c.rq.bankQ.isEmpty && c.rq.full.isEmpty && c.ru.queue.isEmpty && c.ru.staged.isEmpty && c.rq.ingress.isEmpty

/-- The side that stands for channel `n` in PT's tests. -/
def State.standIn (s : State) (n : Nat) : Ch := s.ch (if s.isPaired n then s.lead (n / 2 * 2) else n)

/-- Channel `n` is DOWN (R299, R331): neither it nor the other side of its pair is in RUN. -/
def State.isDown (s : State) (n : Nat) : Bool :=
  (if s.isPaired n then [n / 2 * 2, n / 2 * 2 + 1] else [n]).all (fun k => (s.ch k).ctl.st ≠ .run)

/-- Channel `n` is QUIET (R299): DOWN, or its work is done and every credit of its requests is back. -/
def State.isQuiet (s : State) (n : Nat) : Bool :=
  s.isDown n || ((s.standIn n).quiet && !s.bayQ.any (fun p => p.nibble s.pt.table = (if s.isPaired n then n / 2 * 2 else n)))

/-- Every affected channel has reached its level. -/
def State.levelsReached (s : State) : Bool :=
  s.pt.affected.all (fun c => if changeLevel s.pt.table s.pt.stage c = 2 then s.isDown c else s.isQuiet c)

/-! ## Results and aborts (R294, R298, R301) -/

/-- A command's outcome in the result register of its party: CMD, CODE and CHECK. -/
def Pt.result (steward : Bool) (cmd code check : Nat) (p : Pt) : Pt :=
  if steward then { p with stewCmd := cmd, stewCode := code, stewCheck := check }
  else { p with hostCmd := cmd, hostCode := code, hostCheck := check }

/-- No change is in progress. -/
def Pt.toIdle (p : Pt) : Pt :=
  { p with st := .idle, ownerSteward := false, seq := 0, stage := [], stageCrc := 0, checking := false, submitAt := 0,
           windowStart := 0, holding := false, holdAt := 0, heldChans := 0 }

/-- A change is aborted for a reason (R298): 1 host, 2 steward, 3 WINDOW, 4 MISMATCH, 5 CHECK. -/
def Pt.abortChange (reason check : Nat) (p : Pt) : Pt :=
  { p.toIdle with abSeq := p.seq, abReason := reason, abCheck := check, aborts := inc p.aborts, abortCause := true }

/-- A change of PT alone. -/
def State.onPt (f : Pt → Pt) (s : State) : State := { s with pt := f s.pt }

/-! ## The commands of a change -/

/-- OPEN (R295). -/
def Pt.opens (steward : Bool) (v : Nat) (p : Pt) : Pt :=
  if p.st ≠ .idle then p.result steward 1 1 0
  else if fld v 31 0 ≠ (p.committed + 1) % 2 ^ 32 then p.result steward 1 2 0
  else
    ({ p with st := .edit, ownerSteward := steward, seq := fld v 31 0,
              stage := p.table.put 0 0 (setFld (p.table.get 0 0) 63 32 (fld v 31 0)) }).result steward 1 0 0

/-- A write of PT_STAGE_DATA (R295, R296). -/
def Pt.stageWord (steward : Bool) (v : Nat) (p : Pt) : Pt :=
  if p.st = .edit && !p.checking && p.ownerSteward = steward && decide (p.stageSel ≠ 0) then
    { p with stage := p.stage.put 0 p.stageSel v }
  else p

/-- SUBMIT (R296): the check starts. -/
def Pt.submit (steward : Bool) (stamp : Nat) (p : Pt) : Pt :=
  if p.st ≠ .edit ∨ p.checking then p.result steward 2 1 0
  else if p.ownerSteward ≠ steward then p.result steward 2 3 0
  else { p with checking := true, submitAt := stamp }

/-- The end of the 512 cycles (R296): STAGED, or the change is aborted with reason CHECK. -/
def Pt.checked (stamp : Nat) (p : Pt) : Pt :=
  let code := tblCheck p.stage
  if code = 0 then
    ({ p with st := .staged, checking := false, stageCrc := crcWords (tblWords p.stage), windowStart := stamp }).result
      p.ownerSteward 2 0 0
  else (p.result p.ownerSteward 2 4 code).abortChange 5 code

/-- APPROVE (R297). -/
def Pt.approve (steward : Bool) (v : Nat) (p : Pt) : Pt :=
  if p.st ≠ .staged then p.result steward 3 1 0
  else if p.ownerSteward = steward then p.result steward 3 3 0
  else if fld v 31 0 = p.seq ∧ fld v 63 32 = p.stageCrc then ({ p with st := .approved }).result steward 3 0 0
  else (p.result steward 3 5 0).abortChange 4 0

/-- ABORT (R298). -/
def Pt.abort (steward : Bool) (p : Pt) : Pt :=
  if p.st = .idle then p.result steward 4 1 0
  else (p.result steward 4 0 0).abortChange (if steward then 2 else 1) 0

/-- The 100 ms window has run out (R300). -/
def Pt.windowOver (p : Pt) (stamp : Nat) : Bool := decide (p.windowStart + 100000000 ≤ stamp)

/-- The record of a pair after a commit changed its PAIR bit. -/
def Pair.commit (was now : Bool) (p : Pair) : Pair :=
  if was = now then p else if now then { st := .paired } else {}

/-- The new table is applied (R300 step 3). -/
def State.applyTable (s : State) : State :=
  let t := s.pt.table
  let n := s.pt.stage
  let p := s.pt.toIdle
  { s with
    pairAB := s.pairAB.commit (tblPaired t 0) (tblPaired n 0)
    pairCD := s.pairCD.commit (tblPaired t 2) (tblPaired n 2)
    pt := { p with table := n, tableCrc := s.pt.stageCrc, commitTime := s.stamp, commits := inc p.commits,
                   commitCause := true } }

/-! ## Errors of PT's arrays (R314, R326) -/

/-- PT reads all words of its committed table (array 8) or of its staging buffer (array 9): a forced error or one that stands there is met.
Answers whether a staging word was uncorrectable; in the committed table that halts the block. -/
def State.readTable (staging : Bool) (s : State) : State × Bool :=
  let a := if staging then 9 else 8
  let r := s.sharedForce .pt a 0 0 256
  let k : Cause := { addr := at_ 63 60 a + at_ 56 32 r.2.2.1, forced := r.2.2.2 }
  if r.2.1 = 1 then (r.1.correctedShared .pt 3 4 a 0 r.2.2.1 r.2.2.2, false)
  else if r.2.1 = 2 then (r.1.raiseShared .pt (if staging then 2 else 1) k, staging)
  else (r.1, false)

/-- An uncorrectable staging word aborts the change with reason CHECK and code 0 (R314). -/
def State.readStage (s : State) : State × Bool :=
  let r := s.readTable true
  if r.2 then
    ({ r.1 with pt := (if r.1.pt.checking then r.1.pt.result r.1.pt.ownerSteward 2 4 0 else r.1.pt).abortChange 5 0 }, true)
  else (r.1, false)

end Sys2Proof.Machine
end

