-- ==== Sys2Proof/Machine/Clocks.lean ====
section
/-! DEFINITION. Clocks and time at block level: bay telemetry (R32), crossings in quarantine (R365, R368, R369), PLLs (R348),
interrupt lines (R33, R34), SCE_FLT_x and SCE_ERR_N (R328, R329), and the keep tick (R244, R358). -/

namespace Sys2Proof.Machine

/-! ## Crossings (R365, R368, R369) -/

/-- The crossing by which an endpoint's packets enter. -/
def srnCrossing (phys : Nat) : Nat := if isCore phys then 0x1000 + phys else 0x2000 + phys

/-- The crossing by which an access enters: the host port, or the steward port. -/
def portCrossing : Requester → Nat
  | .host _ => 0x7000
  | .steward => 0x8000

/-- A shadow of the shared sub-blocks starts, unless it already runs. -/
def Ck.startShadow (row key : Nat) (k : Ck) : Ck :=
  if k.shadows.any (fun x => x.row = row && x.key = key && x.ends.isNone) then k
  else { k with shadows := k.shadows ++ [⟨row, key, [], none⟩] }

/-- A trigger of the shared sub-blocks ends: its shadow lasts another 256 keep cycles. -/
def Ck.endShadow (time row key : Nat) (k : Ck) : Ck :=
  { k with shadows := k.shadows.map (fun x =>
      if x.row = row && x.key = key && x.ends.isNone then { x with ends := some (time + 5120) } else x) }

/-- The channels whose sources the quarantine of a crossing shadows: those that may read a telemetry feed, or the one
that the port serves (R325). -/
def State.quarChans (s : State) (q : Nat) : List Nat :=
  match fld q 15 12 with
  | 4 => [0, 1, 2, 3].filter (fun c => !s.isSecond c)
  | 1 => (s.crossingChan q).toList
  | 2 => (s.crossingChan q).toList
  | _ => []

/-! ## Bay telemetry (R32, R289, R313) -/

/-- A channel in RUN learns that the feed of a bay in its view is stale: BG_FEED_STALE, once per stale episode. -/
def Ch.feedStale (b : Nat) (e : Env) (c : Ch) : Ch :=
  if c.ctl.st = .run && bit (tblBayView e.pt.table e.chan) b && !c.bg.staleRaised.contains b then
    ({ c with bg := { c.bg with staleRaised := c.bg.staleRaised ++ [b] } }).raise e .bg 0 { addr := b, key := b }
  else c

/-- The stale episode of a bay is over. -/
def Ch.feedFresh (b : Nat) (c : Ch) : Ch :=
  { c with bg := { c.bg with staleRaised := c.bg.staleRaised.filter (· ≠ b) } }

/-- The feed of a bay becomes stale: class 3 is used, the last power value stays. -/
def State.feedGoesStale (b : Nat) (s : State) : State :=
  let v : Bay := s.bays.get {} b
  let s1 := { s with bays := s.bays.put {} b { v with stale := true } }
  s1.onAll (Ch.feedStale b)

/-- BAY_TELEMETRY: a value is agreed into KEEP, at the first attempts or by the fallback of R362. -/
def State.telemetry (b cls power : Nat) (fallback : Bool) (s : State) : State :=
  if s.quarantined (0x4000 + b) then s
  else
    let v : Bay := { cls := cls, power := power, stale := false, at_ := s.time }
    let s1 := { s with bays := s.bays.put {} b v }
    (if fallback then s1.noteFallback (0x4000 + b) else s1).onAll (fun _ c => c.feedFresh b)

/-- FEED_STALE: 100 µs without a new agreed value. -/
def State.feedTimeout (b : Nat) (s : State) : State :=
  let v : Bay := s.bays.get {} b
  if !v.stale && decide (v.at_ + 100000 ≤ s.time) then s.feedGoesStale b else s

/-! ## Quarantine -/

/-- The scope's record of a quarantine (R368, R371). -/
def State.noteQuarantine (q dropped : Nat) (s : State) : State :=
  match s.crossingChan q with
  | none => { s with ck := { s.ck with xQuarantine := q, resetOverrun := sat64 (s.ck.resetOverrun + dropped) } }
  | some c => s.onClks q c (fun k => { k with xQuarantine := q, resetOverrun := sat64 (k.resetOverrun + dropped) })

/-- Accesses that the host interface still holds from a side that is reset. -/
def Access.fromSide (kind : Nat) (a : Access) : Bool :=
  match a.who with
  | .host _ => kind = 7
  | .steward => kind = 8

/-- What was being transferred on a crossing when its far side was reset does not arrive: packets at the node by the port they came by,
strobes not evaluated yet, accesses at the host interface. Answers how many items were dropped. -/
def State.dropTransfers (q : Nat) (s : State) : State × Nat :=
  let kind := fld q 15 12
  let i := fld q 11 0
  if kind = 1 ∨ kind = 2 then
    let kept := s.nodeWait.filter (fun p => p.port ≠ i)
    ({ s with nodeWait := kept }, s.nodeWait.length - kept.length)
  else if kind = 3 then
    let n := ([0, 1, 2, 3].map (fun k => if s.isSecond k then 0 else
      ((s.ch (s.lead k)).bw.strobes.filter (fun x => x.1 = i)).length)).foldl (· + ·) 0
    (s.onAll (fun _ c => { c with bw := { c.bw with strobes := c.bw.strobes.filter (fun x => x.1 ≠ i) } }), n)
  else
    let kept := s.hp.atPort.filter (fun p => !p.1.fromSide kind)
    ({ s with hp := { s.hp with atPort := kept } }, s.hp.atPort.length - kept.length)

/-- The last good Scetor time of a crossing that is quarantined from now on, or still. -/
def State.goodTime (q : Nat) (s : State) : Nat := ((s.ck.quar.find? (fun x => x.number = q)).map (·.value)).getD s.time

/-- QUARANTINE (R368): a side of a crossing enters reset, with `dropped` items lost besides those that the model holds. When both
sides have left reset again the manual does not say: some keep cycles on. -/
def State.quarantine (q dropped : Nat) (s : State) : State :=
  if !crossingOk q then s
  else
    let qs := s.ck.quar.filter (fun x => x.number ≠ q) ++ [⟨q, s.time, s.time + 20 * s.freeVal 3, s.goodTime q, false⟩]
    let s1 := { s with ck := { s.ck with quar := qs }.startShadow 1 q }
    let s2 := s1.onList (fun _ c => c.startShadow 1 q []) (s1.quarChans q)
    let d := s2.dropTransfers q
    let lost := d.2 + dropped
    let s3 := d.1.noteQuarantine q lost
    let s4 := if lost = 0 then s3 else s3.raiseShared .ck 3 { addr := q, key := q }
    let v : Bay := s4.bays.get {} (fld q 11 0)
    if fld q 15 12 = 4 ∧ !v.stale then s4.feedGoesStale (fld q 11 0) else s4

/-- RESET_DONE_EXCHANGE (R369): the crossing leaves quarantine. -/
def State.exchangeDone (q : Nat) (s : State) : State :=
  if !s.quarantined q then s
  else
    let qs := s.ck.quar.filter (fun x => x.number ≠ q)
    let s1 := { s with ck := { s.ck with quar := qs }.endShadow s.time 1 q }
    s1.onList (fun e c => c.endShadow e.time 1 q) (s1.quarChans q)

/-- CK_QUARANTINE (R369): the exchange is still missing 1,024 keep cycles after both sides left reset. -/
def State.exchangeLate (q : Nat) (s : State) : State :=
  match s.ck.quar.find? (fun x => x.number = q && !x.raised && decide (x.left + 20480 ≤ s.time)) with
  | none => s
  | some _ =>
    let qs := s.ck.quar.map (fun x => if x.number = q then { x with raised := true } else x)
    ({ s with ck := { s.ck with quar := qs } }).raiseShared .ck 2 { addr := q, key := q }

/-! ## PLLs (R348, R349) -/

/-- The encoding of a clock state. -/
def ClkSt.code : ClkSt → Nat
  | .down => 0 | .active => 1 | .doze => 2 | .slumber => 3 | .waking => 4

/-- The encoding of a PLL state. -/
def PllSt.code : PllSt → Nat
  | .off => 0 | .locking => 1 | .locked => 2

/-- The clock state of channel `n` in its pair or alone. -/
def State.clockOf (s : State) (n : Nat) : ClkSt := (s.ch n).clockNow

/-- A channel is active, dozing or waking. -/
def State.anyClocked (s : State) : Bool :=
  [0, 1, 2, 3].any (fun n => s.clockOf n = .active || s.clockOf n = .doze || s.clockOf n = .waking)

/-- Something needs the PLLs (R348): a channel, a load, a check or a commit, or a host access. -/
def State.pllNeeded (s : State) : Bool :=
  s.anyClocked || s.cl.phase = .flashInit || s.cl.phase = .reading || s.cl.phase = .restart || s.pt.checking
    || s.pt.st = .approved || !s.hp.queues.isEmpty

/-- The PLLs stand as what needs them asks. -/
def State.pllRight (s : State) : Bool := if s.pllNeeded then s.ck.pll ≠ .off else s.ck.pll = .off

/-- The PLLs start or stop. -/
def State.setPll (s : State) : State :=
  if s.pllRight then s else { s with ck := { s.ck with pll := if s.pllNeeded then .locking else .off } }

/-- CK_PLL_LOCK (R314): lock is lost; a fault while a channel is active, dozing or waking. -/
def State.lockLost (s : State) : State :=
  if s.ck.pll ≠ .locked then s
  else
    let s1 := { s with ck := { s.ck with pll := .locking } }
    if s.anyClocked then s1.raiseShared .ck 0 {} else s1

/-! ## Lines and pins -/

/-- The causes of the interrupt lines (R33, R317): line 9 × c + sub-block of channel c, then 36 + shared sub-block. -/
def State.irqCauses (s : State) : Nat :=
  let chan := fun (n : Nat) =>
    let c := s.ch n
    allSubs.filter (fun u => (c.fault u).src ≠ 0
        || (u = .os && c.hw.hit &&& c.hw.hitEn ≠ 0)
        || (u = .ps && ((c.ctl.event && c.ctl.eventEn) || (c.db.event && c.db.eventEn))))
      |>.map (fun u => 9 * n + subCode u)
  let shared := [SharedSub.cl, .hp, .pt, .ck].filter (fun u => (s.sharedFault u).src ≠ 0
      || (u = .cl && s.cl.loadDone) || (u = .pt && (s.pt.commitCause || s.pt.abortCause))
      || (u = .ck && s.ck.tmEvent && s.ck.tmEventEn))
  maskOf ([0, 1, 2, 3].flatMap chan ++ shared.map (fun u => 36 + sharedSubCode u))

/-- The channels that hold SCE_FLT_x high (R328). -/
def State.fltCauses (s : State) : Nat :=
  maskOf ([0, 1, 2, 3].filter (fun n => s.blockHalted || allSubs.any (fun u => ((s.ch n).fault u).st ≠ .clear)))

/-- A merged HP_ERR_ACK leaves at the end of its spacing interval of 4 keep cycles, by time `t` (R364). -/
def Hp.ackFlow (t : Nat) (h : Hp) : Hp :=
  match h.ackAt with
  | none => h
  | some a => if h.ackPend && decide (a + 80 ≤ t) then { h with ackNew := true, ackPend := false, ackAt := some (a + 80) } else h

/-- An HP_ERR_ACK occurs inside the spacing interval of the one before it (R364). -/
def Hp.ackClose (t : Nat) (h : Hp) : Bool :=
  match h.ackAt with
  | none => false
  | some a => decide (t < a + 80)

/-- HP_ERR_ACK crosses into KEEP at stamp `t`, or is merged (R329, R364). -/
def Hp.sendAck (t : Nat) (h0 : Hp) : Hp :=
  let h := h0.ackFlow t
  if h.ackClose t then { h with ackPend := true } else { h with ackNew := true, ackAt := some t }

/-- SCE_ERR_N at a keep edge (R329): faults and HP_ERR_ACK come through their flops, the low time counts on. -/
def Hp.tick (h : Hp) : Hp :=
  let h1 : Hp := { h with err1 := h.errNew, err2 := h.err1, errNew := false, ack1 := h.ackNew, ack2 := h.ack1, ackNew := false }
  let h2 : Hp :=
    if h.err2 then { h1 with errLow := true, errCount := 1, errDone := false, acked := false }
    else { h1 with errCount := if h.errLow then min 101 (h.errCount + 1) else h.errCount }
  if h.ack2 && !h.err2 && !h.errNew then
    (if h2.errDone then { h2 with errLow := false, acked := false } else { h2 with acked := h2.errLow })
  else h2

/-- The end of the low time of SCE_ERR_N (R329). -/
def Hp.lowTimeEnd (h : Hp) : Hp :=
  if h.errLow && decide (100 < h.errCount) then
    (if h.acked then { h with errDone := true, errLow := false, acked := false } else { h with errDone := true })
  else h

/-! ## The keep tick (R244, R249, R358) -/

/-- The refill of the bucket at a keep tick (R244). -/
def Ch.refill (allot : Nat) (c : Ch) : Ch :=
  { c with bg := { c.bg with bucket := min (c.bg.bucket + 2 * allot) (1000 * c.img.capUj : Int) } }

/-- The read of the budget's state at a keep tick (BG_STATE_ERROR of R313). The model numbers it as array 15, word 0. -/
def Ch.readBudget (e : Env) (c : Ch) : Ch :=
  let r := c.readArray e.quiet .bg 15 0 0 1
  if r.2.1 = 0 then r.1 else r.1.raise e .bg 1 {}

/-- Counts of a keep tick, and what is unmet for a hold that runs out while SCE_TRIP_N is asserted (R248, R249). -/
def Ch.tickGate (e : Env) (c : Ch) : Ch :=
  { c with bg := { c.bg with
      holdTicks := if c.bg.holdQ.isEmpty then c.bg.holdTicks else inc c.bg.holdTicks,
      tripTicks := if e.trip then inc c.bg.tripTicks else c.bg.tripTicks,
      holdQ := c.bg.holdQ.map (fun h =>
        if e.trip && h.cause.isNone && c.holdOver e.time h then { h with cause := some (c.leanCause e h) } else h) } }

/-- The head of some bank queue holds work that `f` tells. -/
def Ch.someHead (f : Work → Bool) (c : Ch) : Bool :=
  c.rq.bankQ.any (fun q => (c.rq.bankQ.find? (fun r => r.1 = q.1)) = some q && f q.2)

/-- Work that the CU performs (R416). -/
def Work.forCu : Work → Bool
  | .req p _ => p.cls = clConn
  | _ => false

/-- A count of waiting cycles grows in a keep cycle only where something waits; by how much the manual leaves to timing: at most
its 30 CORE cycles, or 15 WIRE cycles. -/
def waited (waits : Bool) (count extra bound : Nat) : Nat := if waits then sat64 (count + extra % (bound + 1)) else count

/-- The cycle counts of a keep cycle. -/
def Ch.countCycles (e : Env) (c : Ch) : Ch :=
  if !c.live || c.asleep then c
  else
    let stall := (List.range 8).foldl (fun (m : SMap Nat) b =>
      m.put 0 b (waited (c.rq.bankQ.any (fun q => q.1 = b)) (m.get 0 b) (e.freeVal (20 + b)) 30)) c.rq.stall
    { c with rq := { c.rq with stall := stall },
             bw := { c.bw with stall := waited (c.bw.lanes.any (fun p => p.2.stalled.isSome)) c.bw.stall (e.freeVal 28) 15 },
             ru := { c.ru with fullCyc := waited (c.someHead c.stalls) c.ru.fullCyc (e.freeVal 30) 30 },
             cu := { c.cu with busyCyc := waited (c.someHead Work.forCu) c.cu.busyCyc (e.freeVal 31) 30 },
             lalog := { c.lalog with creditWait := waited (!c.la.txWait.isEmpty) c.lalog.creditWait (e.freeVal 32) 30 } }

/-- A channel at a keep tick. -/
def Ch.tick (e : Env) (c : Ch) : Ch :=
  (((c.readBudget e).refill (tblAllot e.pt.table e.chan)).tickGate e).countCycles e

/-- The keep tick and the alarm of channel or pair `n` do not reach it: the crossing of a keep part is in quarantine (R365, R368). -/
def State.keepCut (s : State) (n : Nat) : Bool := (s.sides n).any (fun k => s.quarantined (0x6000 + k))

/-- SCE_TRIP_N at a keep edge (R28): two flops, two equal samples, then the effect one edge later. -/
def State.tickTrip (s : State) : State :=
  { s with trip1 := s.tripPin, trip2 := s.trip1, tripTaken := if s.trip1 = s.trip2 then s.trip1 else s.tripTaken,
           trip := s.tripTaken }

/-- The take acknowledgements of endpoint-reset events: at the third keep edge (R31). -/
def State.tickTakes (s : State) : State :=
  let due := s.resetTakes.filter (fun p => decide (p.2 ≤ 1))
  { s with resetTakes := (s.resetTakes.filter (fun p => decide (1 < p.2))).map (fun p => (p.1, p.2 - 1)),
           emitted := s.emitted ++ due.map (fun p => Output.resetTake p.1) }

/-- Channel or pair `n` is in RUN and not idle: it is busy in this CORE cycle (R350). -/
def State.markBusy (s : State) (n : Nat) : State :=
  if s.isSecond n then s
  else
    let c := s.ch (s.lead n)
    if c.ctl.st = .run && !c.idle then s.busyNow n else s

/-- KEEP_TICK (R358). -/
def State.keepTick (s : State) : State :=
  let t := s.time + 20
  let s1 := { s with time := t, coreK := 0, irq1 := s.irqCauses, irq2 := s.irq1, irq := s.irq2,
                     flt1 := s.fltCauses, flt2 := s.flt1, flt := s.flt2, hp := (s.hp.ackFlow t).tick, laneWakes := [] }
  let s2 := s1.tickTrip.tickTakes
  [0, 1, 2, 3].foldl State.markBusy (s2.onList Ch.tick ([0, 1, 2, 3].filter (fun n => !s2.keepCut n)))

end Sys2Proof.Machine
end

