-- ==== Sys2Proof/Machine/Image.lean ====
section
/-! DEFINITION. The Ponus image (R380 to R390): header, section table, LINK, and the blocks of a channel section with
every load error. -/

namespace Sys2Proof.Machine

/-! ## Load error codes (R390) -/

abbrev leMissing : Nat := 0x01
abbrev leBounds : Nat := 0x02
abbrev leCrc : Nat := 0x03
abbrev leFormat : Nat := 0x04
abbrev leBlock : Nat := 0x05
abbrev leChanged : Nat := 0x06
abbrev leFlash : Nat := 0x07
abbrev leDigest : Nat := 0x08
abbrev leRefused : Nat := 0x09
abbrev leGateTimeout : Nat := 0x0A
abbrev leMap : Nat := 0x10
abbrev leSemaphore : Nat := 0x11
abbrev leStream : Nat := 0x12
abbrev leBarrier : Nat := 0x13
abbrev leReduce : Nat := 0x14
abbrev lePhase : Nat := 0x15
abbrev leAccord : Nat := 0x16
abbrev leLane : Nat := 0x17
abbrev leConfig : Nat := 0x18
abbrev leTree : Nat := 0x30
abbrev leShared : Nat := 0x31

/-- The lowest code among those whose condition holds; 0 where none does. -/
def lowest (l : List (Bool × Nat)) : Nat :=
  ((l.filter (·.1)).map (·.2)).foldl (fun a b => if a = 0 then b else min a b) 0

/-! ## Header and section table (R380 to R382) -/

/-- A little-endian field of `n` bytes at byte `o`. -/
def leAt (bs : List Byte) (o n : Nat) : Nat := leNat (slice o n bs)

/-- Entry `n` of the section table: TAG, OFFSET, LENGTH, CRC. -/
structure SectEntry where
  tag : Nat
  offset : Nat
  length : Nat
  crc : Nat
  deriving DecidableEq, Repr

/-- The section number of a TAG (R381); 0 where the TAG is none. -/
def tagNumber (t : Nat) : Nat :=
  if t = 0x544F5250 then 1 else if t = 0x44524853 then 2 else if t = 0x4B4E494C then 3 else if t = 0x414E4843 then 4
  else if t = 0x424E4843 then 5 else if t = 0x434E4843 then 6 else if t = 0x444E4843 then 7 else 0

/-- Section-table entry `n`. -/
def sectAt (bs : List Byte) (n : Nat) : SectEntry :=
  { tag := leAt bs (0x40 + 16 * n) 4, offset := leAt bs (0x44 + 16 * n) 4, length := leAt bs (0x48 + 16 * n) 4,
    crc := leAt bs (0x4C + 16 * n) 4 }

/-- IMAGE_LEN. -/
def imageLen (bs : List Byte) : Nat := leAt bs 8 4

/-- SECTION_COUNT. -/
def sectCount (bs : List Byte) : Nat := leAt bs 0xC 2

/-- The used entries. -/
def sectsOf (bs : List Byte) : List SectEntry := (List.range (min 7 (sectCount bs))).map (sectAt bs)

/-- One entry keeps to R381. -/
def sectOk (len : Nat) (e : SectEntry) : Bool :=
  tagNumber e.tag ≠ 0 && e.offset % 64 = 0 && decide (0x100 ≤ e.offset) && decide (e.length ≠ 0) && e.length % 8 = 0
    && decide (e.offset + e.length ≤ len)

/-- Neighbouring entries ascend in number and offset and do not overlap (R382). -/
def sectsAscend : List SectEntry → Bool
  | [] => true
  | [_] => true
  | a :: b :: l => decide (tagNumber a.tag < tagNumber b.tag) && decide (a.offset < b.offset)
      && decide (a.offset + a.length ≤ b.offset) && sectsAscend (b :: l)

/-- All bytes of a stretch are zero. -/
def zeroAt (bs : List Byte) (o n : Nat) : Bool := (slice o n bs).all (fun b => b = 0#8)

/-- The load error of the header (R380, R381, R382, R390), with the flash density in MiB. -/
def headerError (bs : List Byte) (density : Nat) : Nat :=
  let n := sectCount bs
  let len := imageLen bs
  lowest [
    (decide (n = 0 ∨ 7 < n) || !(sectsOf bs).all (sectOk len) || !sectsAscend (sectsOf bs)
      || !zeroAt bs (0x40 + 16 * min 7 n) (16 * (7 - min 7 n)), leBounds),
    (decide (crc32c (slice 0 0x18 bs ++ slice 0x40 0x70 bs) ≠ leAt bs 0x18 4), leCrc),
    (decide (leAt bs 0 4 ≠ 0x53554E50 ∨ leAt bs 4 2 ≠ 2 ∨ leAt bs 6 2 ≠ 0) || !zeroAt bs 0x0E 2 || !zeroAt bs 0x1C 4
      || !zeroAt bs 0xB0 0x50 || decide (len < 0x100 ∨ 0x10000000 < len ∨ density * 2 ^ 20 < len), leFormat)]

/-- The bytes that the image digest covers (R384). -/
def digestBytes (bs : List Byte) : List Byte := slice 0 0x20 bs ++ bs.drop 0x40

/-- The entry of section number `n`, if used. -/
def sectOf (bs : List Byte) (n : Nat) : Option SectEntry := (sectsOf bs).find? (fun e => tagNumber e.tag = n)

/-- The bytes of a section. -/
def SectEntry.bytes (e : SectEntry) (bs : List Byte) : List Byte := slice e.offset e.length bs

/-! ## LINK (R386) -/

/-- One accord of the LINK section: its ID, SIZE, RETRIES, its 64 rank entries and its common words. -/
structure Accord where
  id      : Nat
  size    : Nat
  retries : Nat
  ranks   : List Nat
  commons : List Nat

/-- Rank entry `r` of a block's words 1 to 16. -/
def rankEntry (ws : List Nat) (r : Nat) : Nat := fld (ws.getD (1 + r / 4) 0) (16 * (r % 4) + 15) (16 * (r % 4))

/-- The accord blocks of a LINK section; none where the words do not end exactly at the last block. -/
def parseAccords : Nat → List Nat → Option (List Accord)
  | 0, ws => if ws.isEmpty then some [] else none
  | n + 1, ws =>
    let w0 := ws.headD 0
    let k := fld w0 8 0
    if ws.length < 17 + k then none
    else
      (parseAccords n (ws.drop (17 + k))).map (fun l =>
        { id := fld w0 63 48, size := fld w0 38 32, retries := fld w0 31 24,
          ranks := (List.range 64).map (rankEntry ws), commons := (ws.drop 17).take k } :: l)

/-- Whether every header word of the blocks keeps its reserved bits and OBJECTS in range. -/
def accordHeadsOk : Nat → List Nat → Bool
  | 0, _ => true
  | n + 1, ws =>
    let w0 := ws.headD 0
    andNot w0 0xFFFF007FFF0001FF = 0 && decide (fld w0 8 0 ≤ 256) && accordHeadsOk n (ws.drop (17 + fld w0 8 0))

/-- A rank is present. -/
def Accord.present (a : Accord) (r : Nat) : Bool := bit (a.ranks.getD r 0) 0
/-- The parent of a rank. -/
def Accord.parent (a : Accord) (r : Nat) : Nat := fld (a.ranks.getD r 0) 6 1
/-- The port of a rank that leads to its parent. -/
def Accord.portUp (a : Accord) (r : Nat) : Nat := fld (a.ranks.getD r 0) 9 7
/-- The port of the parent that leads to a rank. -/
def Accord.portDown (a : Accord) (r : Nat) : Nat := fld (a.ranks.getD r 0) 12 10

/-- The children of a rank, in ascending rank. -/
def Accord.children (a : Accord) (r : Nat) : List Nat :=
  (List.range 64).filter (fun x => decide (x ≠ 0) && a.present x && a.parent x = r)

/-- A rank lies at most `n` edges below rank 0. -/
def Accord.depthOk (a : Accord) : Nat → Nat → Bool
  | 0, r => r = 0
  | n + 1, r => r = 0 || a.depthOk n (a.parent r)

/-- The ports of the edges of a rank. -/
def Accord.portsAt (a : Accord) (r : Nat) : List Nat :=
  (if r = 0 then [] else [a.portUp r]) ++ (a.children r).map a.portDown

/-- The tree conditions of R254. -/
def Accord.treeOk (a : Accord) : Bool :=
  let rs := (List.range 64).filter a.present
  a.present 0 && rs.length = a.size && rs.all (fun r => r = 0 || a.present (a.parent r))
    && rs.all (fun r => decide ((a.children r).length ≤ 4) && a.depthOk 3 r && decide (a.portsAt r).Nodup)

/-- A block keeps its ranges and reserved bits (R386, R271). -/
def Accord.fieldsOk (a : Accord) : Bool :=
  decide (a.id ≠ 0) && decide (1 ≤ a.size ∧ a.size ≤ 64) && a.ranks.all (fun x => fld x 15 13 = 0)
    && a.commons.all (fun w => fld w 39 0 = 0 && decide (fld w 59 40 ≤ 1000000))

/-- IDs ascend strictly. -/
def idsAscend : List Accord → Bool
  | [] => true
  | [_] => true
  | a :: b :: l => decide (a.id < b.id) && idsAscend (b :: l)

/-- The accords of a LINK section given as words, where the section is valid. -/
def linkAccords (ws : List Nat) : Option (List Accord) :=
  let w0 := ws.headD 0
  let n := fld w0 9 0
  if n = 0 ∨ andNot w0 0x3FF ≠ 0 ∨ !accordHeadsOk n (ws.drop 1) then none
  else
    match parseAccords n (ws.drop 1) with
    | none => none
    | some l => if l.all Accord.treeOk && l.all Accord.fieldsOk && idsAscend l then some l else none

/-- The edges of rank `r`: the one to its parent first, then the children in ascending rank. -/
def Accord.edges (a : Accord) (r : Nat) : List Edge :=
  (if r = 0 ∨ !a.present r then [] else [{ port := a.portUp r, rank := a.parent r, up := true }])
    ++ (a.children r).map (fun x => { port := a.portDown x, rank := x, up := false })

/-! ## Channel sections (R387, R388) -/

/-- Words per record of a block type; 0 where the type is unknown. -/
def recWords (t : Nat) : Nat :=
  match t with
  | 0x01 => 1 | 0x02 => 1 | 0x03 => 1 | 0x04 => 3 | 0x05 => 3 | 0x06 => 1 | 0x07 => 2 | 0x08 => 32 | 0x09 => 1
  | 0x0A => 1 | 0x0B => 4 | 0x0C => 1 | 0x0D => 1 | 0x0E => 1 | 0x0F => 4 | _ => 0

/-- Objects per record: four flags, else one. -/
def recStep (t : Nat) : Nat := if t = 0x02 then 4 else 1

/-- The number of indices of a block type. -/
def recLimit (t : Nat) : Nat :=
  match t with
  | 0x01 => 0xFFE | 0x02 => 2 ^ 20 | 0x03 => 2 ^ 18 | 0x04 => 0xC000 | 0x05 => 0x8000 | 0x06 => 0x2000 | 0x07 => 256
  | 0x08 => 4096 | 0x09 => 32 | 0x0A => 256 | 0x0B => 65536 | 0x0C => 131072 | 0x0D => 4096 | 0x0E => 256 | 0x0F => 1
  | _ => 0

/-- The bits that word `w` of a record of a type may set. -/
def recDefined (t w : Nat) : Nat :=
  match t, w with
  | 0x01, _ => 0x10FFF
  | 0x02, _ => 0x3000300030003000
  | 0x03, _ => 0x2000FFFFFFFF
  | 0x04, 2 => 0x1FFFFFF
  | 0x05, 0 => 0xFFFFFFFF03FFFFFF
  | 0x05, 1 => 0xFFF00
  | 0x05, _ => 0x1FFF001FFFFF
  | 0x06, _ => 0x0FFFFFFFFFFFFFFF
  | 0x07, 0 => 0xFFFFFFFFF
  | 0x07, _ => 0xFFFFFFFF
  | 0x09, _ => 0xFFFFF20001FFF
  | 0x0A, _ => 0x8001FFFFFFFFFFFF
  | 0x0B, 0 => 0xFC7FFFFFFFFFFFFF
  | 0x0B, 2 => 0xFFFFFFFF07FFFFFF
  | 0x0B, 3 => 0xFFFFFFFFF01FFFFF
  | 0x0C, _ => 0xE0FFFF00007FFFFF
  | 0x0E, _ => 0x80007FFF00000000
  | 0x0F, 0 => 0x1FFF0000007F
  | 0x0F, 1 => 0x1FFF
  | 0x0F, 2 => 0x73FFFFFFFFFFF
  | 0x0F, _ => 0
  | _, _ => 2 ^ 64 - 1

/-- A reserved bit of a record is set. -/
def recReserved (t : Nat) (ws : List Nat) : Bool :=
  (ws.zipIdx).any (fun p => decide (andNot p.1 (recDefined t p.2) ≠ 0))

/-- A section as far as it is read: its image values, the index ranges its blocks cover, the barriers they load, the
lowest record error so far, and whether the configuration block came. -/
structure SectLoad where
  img   : Img := {}
  cover : List (Nat × Nat × Nat) := []
  bars  : List Nat := []
  error : Nat := 0
  cfg   : Bool := false

/-- The flag of a 16-bit record. -/
def imageFlag (v : Nat) : Flag := { value := bit v 12, strict := bit v 13 }

/-- The four flags of a record from flag `i` on. -/
def putFlags (i w : Nat) (m : SMap Flag) : SMap Flag :=
  [0, 1, 2, 3].foldl (fun f j => SMap.put {} f (i + j) (imageFlag (fld w (16 * j + 15) (16 * j)))) m

/-- The barrier of a record. -/
def imageBar (w0 w1 w2 : Nat) : Bar :=
  { gen := BitVec.ofNat 32 (fld w0 63 32), early := fld w0 25 13, count := fld w0 12 0, mask := fld w1 19 8,
    target := fld w2 44 32, action := bit w2 20, timeoutUs := fld w2 19 0 }

/-- A membership mask of 32 words. -/
def imageMask (ws : List Nat) : Nat := (ws.zipIdx).foldl (fun m p => m + p.1 * 2 ^ (64 * p.2)) 0

/-- Whether a stream pair breaks R110. -/
def strBroken (p c k : Nat) : Bool := decide (k = 0 ∨ 2 ^ 24 < k ∨ p < c ∨ k < p - c)

/-- One record of a type at an index. -/
def SectLoad.take (t i : Nat) (ws : List Nat) (l : SectLoad) : SectLoad :=
  let w := fun n => ws.getD n 0
  let m := l.img
  let err := fun (b : Bool) (code : Nat) => if b then (if l.error = 0 then code else min l.error code) else l.error
  match t with
  | 0x01 => { l with img := { m with map := m.map.put 0 i (w 0) } }
  | 0x02 => { l with img := { m with flags := putFlags i (w 0) m.flags } }
  | 0x03 =>
    let x : Sem := { value := fld (w 0) 31 0, firstFit := bit (w 0) 45 }
    { l with img := { m with sems := m.sems.put {} i x }, error := err (bit (w 0) 31) leSemaphore }
  | 0x04 =>
    let x : Stream := { p := w 0, c := w 1, k := fld (w 2) 24 0 }
    { l with img := { m with strs := m.strs.put {} i x }, error := err (strBroken (w 0) (w 1) (w 2)) leStream }
  | 0x05 => { l with img := { m with bars := m.bars.put {} i (imageBar (w 0) (w 1) (w 2)) }, bars := l.bars ++ [i] }
  | 0x06 => { l with img := { m with cfgs := m.cfgs.put 0 i (w 0) } }
  | 0x07 => { l with img := { m with rules0 := m.rules0.put 0 i (w 0), rules1 := m.rules1.put 0 i (w 1) } }
  | 0x08 => { l with img := { m with masks := m.masks.put 0 i (imageMask ws) } }
  | 0x09 => { l with img := { m with lanes := m.lanes.put 0 i (w 0) }, error := err (decide (1000000 < fld (w 0) 51 32)) leLane }
  | 0x0A => { l with img := { m with scores := m.scores.put 0 i (w 0) } }
  | 0x0B => { l with img := { m with entries := m.entries.put {} i ⟨w 0, w 1, w 2, w 3⟩ } }
  | 0x0C => { l with img := { m with lists := m.lists.put 0 i (w 0) } }
  | 0x0D => { l with img := { m with choices := m.choices.put 0 i (w 0) } }
  | 0x0E => { l with img := { m with locals := m.locals.put 0 i (w 0) } }
  | 0x0F =>
    let x : Img := { m with supValid := bit (w 0) 44, supLid := fld (w 0) 43 32, spares := fld (w 0) 6 0,
                            selEn := bit (w 1) 12, selMask := fld (w 1) 11 0, capUj := fld (w 2) 31 0,
                            maxHold := if fld (w 2) 45 32 = 0 then 2000 else fld (w 2) 45 32, therm := fld (w 2) 50 48 }
    { l with cfg := true, img := x }
  | _ => l

/-- The records of a block: none where one sets a reserved bit. -/
def SectLoad.records (t : Nat) : Nat → Nat → List Nat → SectLoad → Option SectLoad
  | 0, _, _, l => some l
  | n + 1, i, ws, l =>
    let r := ws.take (recWords t)
    if recReserved t r then none
    else SectLoad.records t n (i + recStep t) (ws.drop (recWords t)) (l.take t i r)

/-- The blocks of a section; none for a BLOCK error (R388). The fuel is the number of words. -/
def SectLoad.blocks : Nat → List Nat → SectLoad → Option SectLoad
  | 0, ws, l => if ws.isEmpty then some l else none
  | fuel + 1, ws, l =>
    match ws with
    | [] => some l
    | h :: rest =>
      let t := fld h 63 56
      let first := fld h 55 32
      let n := fld h 31 0
      let stop := first + recStep t * n
      if recWords t = 0 ∨ n = 0 ∨ first % recStep t ≠ 0 ∨ recLimit t < stop ∨ rest.length < recWords t * n
          ∨ l.cover.any (fun c => c.1 = t && decide (c.2.1 < stop) && decide (first < c.2.2)) then none
      else
        match SectLoad.records t n first rest { l with cover := (t, first, stop) :: l.cover } with
        | none => none
        | some l1 => SectLoad.blocks fuel (rest.drop (recWords t * n)) l1

/-! ## Checks over a whole section (R390) -/

/-- MAP: two valid entries name one physical ID, or an entry names another channel's endpoint (R17). -/
def Img.mapBad (m : Img) (tbl : SMap Nat) (chan : Nat) : Bool :=
  let phys := (m.map.filter (fun p => bit p.2 16)).map (fun p => fld p.2 11 0)
  !decide phys.Nodup || phys.any (fun x => decide (0xFFE ≤ x)
    || (decide (x < 0x728) && decide (tblChan tbl x < 4) && decide (tblChan tbl x ≠ chan)))

/-- BARRIER: a loaded barrier breaks R158. -/
def Img.barBad (m : Img) (i : Nat) : Bool :=
  let b : Bar := m.bars.get {} i
  decide (b.target = 0 ∨ 4096 < b.target ∨ b.target ≤ b.count ∨ b.target < b.early ∨ 1000000 < b.timeoutUs)
    || (if barStrict i then
          decide (b.target ≠ popCount 2048 (m.masks.get 0 b.mask) ∨ b.count ≠ 0 ∨ b.early ≠ 0)
        else decide (b.mask ≠ 0))

/-- REDUCE: a configuration breaks R174 or its rule breaks R190. -/
def Img.reduceBad (m : Img) (cfg : Nat) : Bool :=
  let op := fun k => fld cfg (6 * k + 2) (6 * k)
  let fmt := fun k => fld cfg (6 * k + 5) (6 * k + 3)
  let r0 := m.rules0.get 0 (fld cfg 55 48)
  let elem := fun k => fld r0 (4 * k + 3) (4 * k)
  (List.range 8).any (fun k => !opFmtOk (op k) (fmt k)) || decide (6 ≤ fld cfg 58 56)
    || (bit cfg 59 &&
        ((List.range 8).any (fun k => decide (9 ≤ elem k)
            || (decide (elem k ≠ 0) && (decide (op k ≠ opAmax) || !isFloat (fmt k))))
          || (bit r0 35 && (decide (op (fld r0 34 32) ≠ opSum) || decide (fmt (fld r0 34 32) ≠ fmUint32)))))

/-- The successors of an entry. -/
def Entry.succs (n : Entry) : List Nat := (List.range n.nsucc).map n.succ

/-- The entries reachable from a work list; each is taken once. -/
def Img.reach (m : Img) : Nat → List Nat → List Nat → List Nat
  | 0, _, seen => seen
  | fuel + 1, work, seen =>
    match work with
    | [] => seen
    | n :: rest =>
      if seen.contains n then m.reach fuel rest seen
      else m.reach fuel ((m.entries.get {} n).succs ++ rest) (n :: seen)

/-- The end objects of some entries. -/
def Img.ends (m : Img) (l : List Nat) : List EndObj := l.map (fun n => (m.entries.get {} n).endObj)

/-- Object-list entry `w` names an end object among `os`. -/
def listNames (w : Nat) (os : List EndObj) : Bool :=
  os.any (fun o => match o with
    | .lane l => fld w 63 61 = 4 && decide (fld w 22 0 ≤ l) && decide (l ≤ fld w 22 0 + fld w 55 40)
    | .bar i => fld w 63 61 = 3 && decide (fld w 22 0 ≤ i) && decide (i ≤ fld w 22 0 + fld w 55 40))

/-- A score whose phases reset an object that ends one of them. -/
def Img.scoreBad (m : Img) (w : Nat) : Bool :=
  let rs := m.reach (8 * m.entries.length + 8) [fld w 15 0] []
  let os := m.ends rs
  rs.any (fun n =>
    let e : Entry := m.entries.get {} n
    (List.range e.resetLen).any (fun j => listNames (m.lists.get 0 (e.resetPtr + j)) os))

/-- A field of a choice table names no successor. -/
def choiceBad (t nsucc : Nat) : Bool := (List.range 32).any (fun f => decide (nsucc ≤ fld t (2 * f + 1) (2 * f)))

/-- An entry breaks R230, which asks VALID only where it names successors and choices. -/
def Img.entryBad (m : Img) (n : Entry) : Bool :=
  decide (4 < n.nsucc)
    || (n.valid && (n.succs.any (fun x => !(m.entries.get {} x).valid)
      || (decide (2 ≤ n.nsucc) && choiceBad (m.choices.get 0 n.choice) n.nsucc)))
    || (!bit n.w0 62 && decide (32 ≤ fld n.w0 54 40))
    || (n.gate && n.succs.any (fun x => decide (m.capUj < (m.entries.get {} x).cost)))
    || decide (131072 < n.resetPtr + n.resetLen)

/-- An object-list run breaks R230. -/
def runBad (w : Nat) : Bool :=
  let stop := fld w 22 0 + fld w 55 40 + 1
  match fld w 63 61 with
  | 0 => decide (2 ^ 20 < stop)
  | 1 => decide (2 ^ 18 < stop)
  | 2 => decide (0xC000 < stop)
  | 3 => decide (0x8000 < stop)
  | 4 => decide (32 < stop)
  | _ => true

/-- PHASE: R230. -/
def Img.phaseBad (m : Img) : Bool :=
  m.entries.any (fun p => m.entryBad p.2) || m.lists.any (fun p => runBad p.2)
    || m.scores.any (fun p => decide (131072 < fld p.2 32 16 + fld p.2 48 33)
        || (bit p.2 63 && (!(m.entries.get {} (fld p.2 15 0)).valid || m.scoreBad p.2)))

/-- The end object that accord object `k` is bound to. -/
def boundTo (common loc : Nat) : Option EndObj :=
  if bit common 63 && bit loc 63 then
    some (if bit common 62 then .bar (fld loc 46 32) else .lane (fld loc 36 32))
  else none

/-- ACCORD: R271 and the load rule of R273, with the accord's common words. -/
def Img.accordBad (m : Img) (commons : List Nat) : Bool :=
  let common := fun k => commons.getD k 0
  let objs := m.locals.filterMap (fun p => boundTo (common p.1) p.2)
  !decide objs.Nodup
    || m.locals.any (fun p =>
        match boundTo (common p.1) p.2 with
        | none => false
        | some (.lane l) => decide (fld p.2 46 37 ≠ 0) || decide (fld (m.lanes.get 0 l) 51 32 ≠ 0)
        | some (.bar i) => (bit (common p.1) 61 && !barReduce i) || decide ((m.bars.get {} i).timeoutUs ≠ 0))
    || m.entries.any (fun p => p.2.valid && decide (2 ≤ p.2.nsucc) && objs.contains p.2.endObj
        && (List.range (p.2.nsucc - 1)).any (fun k =>
            decide ((m.entries.get {} (p.2.succ k)).cost < (m.entries.get {} (p.2.succ (k + 1))).cost)))

/-- CONFIG: the configuration block's ranges. -/
def Img.configBad (m : Img) (tbl : SMap Nat) (chan : Nat) : Bool :=
  let used := (m.map.filter (fun p => bit p.2 16)).map (fun p => fld p.2 11 0)
  let unused := ((List.range 0x400).filter (fun x => tblChan tbl x = chan && !used.contains x)).length
  decide (64 < m.spares ∨ unused < m.spares ∨ m.capUj = 0 ∨ 10000 < m.maxHold ∨ m.therm = 0 ∨ 4 < m.therm)

/-- The image of a channel section, or its load error (R390). `accord` is none where LINK is not to be consulted, else
the accord's common words where LINK holds the channel's accord. -/
def loadSection (bs : List Byte) (tbl : SMap Nat) (chan : Nat) (accord : Option (Option (List Nat))) : Nat ⊕ Img :=
  let ws := leWords (bs.length / 8) bs
  match SectLoad.blocks ws.length ws {} with
  | none => .inl leBlock
  | some l =>
    let m := l.img
    let e := lowest [
      (m.mapBad tbl chan, leMap), (decide (l.error ≠ 0), l.error), (l.bars.any m.barBad, leBarrier),
      (m.cfgs.any (fun p => m.reduceBad p.2), leReduce), (m.phaseBad, lePhase),
      ((match accord with
        | none => false
        | some none => true
        | some (some commons) => m.accordBad commons), leAccord),
      (!l.cfg || m.configBad tbl chan, leConfig)]
    if e = 0 then .inr m else .inl e

end Sys2Proof.Machine
end

