-- ==== Sys2Proof/Machine/Startup.lean ====
section
/-! DEFINITION. From power-on to RUN (R372 to R379), the load gate (R391), entry into RUN, and channel restart (R393). -/

namespace Sys2Proof.Machine

/-! ## Power (R372, R373) -/

/-- The block while SCE_POR_N is low: every field at its reset value; the waiting commands and the count of free values
taken are not the block's. -/
def State.powerDown (s : State) : State := { pending := s.pending, free := s.free }

/-- The flash answers, and its SFDP is what R376 asks; a table without 4-byte address support counts as missing (DESIGN CHOICE, log
entry 94). -/
def flashOk (f : FlashDev) : Bool :=
  f.answers && f.sfdp && f.tables && f.fourByte && decide (64 ≤ f.density) && decide (f.density ≤ 1024)

/-- The dummy cycles that the profile lists for a rate. -/
def flashDummy (f : FlashDev) (rate : Nat) : Option Nat := (f.dummies.find? (fun p => p.1 = rate)).map (·.2)

/-- The rate of R378 with its dummy cycles: the highest that the profile allows and lists. -/
def flashRate (f : FlashDev) : Option (Nat × Nat) :=
  ([(0, 200), (1, 150), (2, 100), (3, 50)].filterMap (fun p =>
    if p.2 ≤ f.maxMHz then (flashDummy f p.1).map (fun d => (p.1, d)) else none)).head?

/-- The FLASH clock of a rate code in MHz (R378). -/
def flashMHz (rate : Nat) : Nat :=
  match rate with
  | 0 => 200 | 1 => 150 | 2 => 100 | _ => 50

/-- The read of `len` bytes of SFDP (R377). -/
def sfdpRead (len : Nat) : FlashCmd :=
  { code := [0x5A], octal := false, mhz := 50, addrBytes := 3, addr := 0, dummy := 8, len := len }

/-- The commands of steps 4 and 5 of R373: SFDP, of which `len` bytes are read, the change sequences, and the verification. -/
def Cl.initCmds (len : Nat) (k : Cl) : List Output :=
  .flash (sfdpRead len)
    :: k.changes.map (fun b => .flash { code := b.map (·.toNat), octal := false, mhz := 50, addrBytes := 0, addr := 0, dummy := 0, len := 0 })
    ++ [.flash { code := [0x5A, 0xA5], octal := true, mhz := 50, addrBytes := 4, addr := 0, dummy := k.dummy50, len := 4 }]

/-- One burst of an image read (R377). -/
def Cl.burst (k : Cl) (addr len : Nat) : Output :=
  .flash { code := [k.readCmd / 256, k.readCmd % 256], octal := true, mhz := flashMHz k.rate, addrBytes := 4, addr := addr,
           dummy := k.dummy, len := len }

/-- The bursts that read the first `n` bytes of the flash: 4 KiB each, aligned to 4 KiB. -/
def Cl.bursts (k : Cl) (n : Nat) : List Output :=
  (List.range (ceilDiv n 4096)).map (fun j => k.burst (4096 * j) (min 4096 (n - 4096 * j)))

/-- The bytes of the flash from 0 on; what the device's list does not give reads as erased. -/
def flashBytes (f : FlashDev) (n : Nat) : List Byte :=
  let l := f.bytes.take n
  l ++ List.replicate (n - l.length) 0xFF#8

/-- A change of CL alone. -/
def State.onCl (f : Cl → Cl) (s : State) : State := { s with cl := f s.cl }

/-- Section `n` takes a state and an error. -/
def Cl.putSect (n st error : Nat) (k : Cl) : Cl :=
  let v : Sect := k.sects.get {} n
  { k with sects := k.sects.put {} n { v with st := st, error := error } }

/-- A free number of this command, between two bounds. -/
def State.freeWithin (lo hi k : Nat) (s : State) : Nat := lo + s.freeVal k % (hi + 1 - lo)

/-- A section fails (R314, R390): CL_SECT_n and the CL source, whose address names the section and the code. -/
def State.sectionFails (src n code : Nat) (s : State) : State :=
  (s.onCl (Cl.putSect n 2 code)).raiseShared .cl src { addr := at_ 3 0 n + at_ 15 8 code }

/-- Section `n` is loaded. -/
def State.sectionLoads (n : Nat) (s : State) : State := s.onCl (Cl.putSect n 1 0)

/-- The table entries as CL records them. -/
def recordSects (bs : List Byte) (m : SMap Sect) : SMap Sect :=
  (sectsOf bs).foldl (fun m e =>
    let v : Sect := { crc := e.crc, offset := e.offset, length := e.length }
    m.put {} (tagNumber e.tag) v) m

/-- The load error of a PROT section. -/
def protError (bs : List Byte) (e : SectEntry) : Nat :=
  let b := e.bytes bs
  let t := tblCheck (storeOf (leWords 256 b))
  lowest [(decide (e.length ≠ 2048), leBounds), (decide (crc32c b ≠ e.crc), leCrc), (decide (t ≠ 0), 0x20 + t)]

/-- The load error of an SHRD section (R385). -/
def shrdError (bs : List Byte) (e : SectEntry) : Nat :=
  let b := e.bytes bs
  let ws := leWords 8 b
  lowest [(decide (e.length ≠ 64), leBounds), (decide (crc32c b ≠ e.crc), leCrc),
          (decide (fld (ws.headD 0) 63 32 ≠ 0) || (ws.drop 1).any (fun w => decide (w ≠ 0)), leShared)]

/-- PROT is loaded and checked. -/
def State.loadProt (bs : List Byte) (s : State) : State :=
  match sectOf bs 1 with
  | none => s.sectionFails 2 1 leMissing
  | some e =>
    let code := protError bs e
    if code ≠ 0 then s.sectionFails 2 1 code
    else (s.sectionLoads 1).onCl (fun k => { k with prot := storeOf (leWords 256 (e.bytes bs)) })

/-- SHRD is loaded and checked. -/
def State.loadShrd (bs : List Byte) (s : State) : State :=
  if s.blockHalted then s
  else
    match sectOf bs 2 with
    | none => s.sectionFails 3 2 leMissing
    | some e =>
      let code := shrdError bs e
      if code ≠ 0 then s.sectionFails 3 2 code
      else (s.sectionLoads 2).onCl (fun k => { k with shrd := leAt (e.bytes bs) 0 4 })

/-- LINK is loaded and checked: its words are kept where it is valid. -/
def State.loadLink (bs : List Byte) (s : State) : State :=
  if s.blockHalted then s
  else
    match sectOf bs 3 with
    | none => if [0, 1, 2, 3].any (fun c => tblAccord s.cl.prot c ≠ 0) then s.sectionFails 4 3 leMissing else s
    | some e =>
      let b := e.bytes bs
      let ws := leWords (e.length / 8) b
      let s1 := s.onCl (fun k => { k with linkDig := leNat ((sha256 b).take 8) })
      let code := lowest [(decide (crc32c b ≠ e.crc), leCrc), ((linkAccords ws).isNone, leTree)]
      if code ≠ 0 then s1.sectionFails 4 3 code else (s1.sectionLoads 3).onCl (fun k => { k with link := ws })

/-- The accord `id` of the LINK section that CL holds. -/
def Cl.accord (k : Cl) (id : Nat) : Option Accord := ((linkAccords k.link).getD []).find? (fun a => a.id = id)

/-- What a section's check consults of LINK (R390): nothing without an accord. -/
def Cl.accordOf (k : Cl) (id : Nat) : Option (Option (List Nat)) :=
  if id = 0 then none else some ((k.accord id).map (·.commons))

/-- A channel's section has failed: the channel is FAILED with its error, on both sides where it is a pair. -/
def Ch.loadFails (code : Nat) (c : Ch) : Ch := ({ c with ctl := { c.ctl with loadError := code } }).setSt .failed

/-- The sides of the channel or pair that a table gives `n`. -/
def tblSides (t : SMap Nat) (n : Nat) : List Nat := if tblPaired t n then [n, n + 1] else [n]

/-- An effect on the sides that the loaded table gives channel `n`, before any of them runs. -/
def State.onSides (n : Nat) (f : Ch → Ch) (s : State) : State :=
  (tblSides s.cl.prot n).foldl (fun s k => s.setCh k (f (s.ch k))) s

/-- A channel section at power-on (R382, R390): the channel is LOADING until the gate opens, or FAILED. With LINK failed a channel of
an accord keeps no image and has no failure of its own. -/
def State.loadChan (bs : List Byte) (s : State) (n : Nat) : State :=
  if s.blockHalted || !tblOwn s.cl.prot n then s
  else
    match sectOf bs (4 + n) with
    | none => s
    | some e =>
      let b := e.bytes bs
      let id := tblAccord s.cl.prot n
      let noLink := id ≠ 0 ∧ s.cl.link = []
      let r := loadSection b s.cl.prot n (if noLink then none else s.cl.accordOf id)
      match (if crc32c b ≠ e.crc then .inl leCrc else r) with
      | .inl code =>
        ((s.onSides n (Ch.setSt .loading)).onSides n (Ch.loadFails code)).sectionFails 5 (4 + n) code
      | .inr m =>
        let s1 := (s.onSides n (Ch.setSt .loading)).sectionLoads (4 + n)
        if noLink then s1 else s1.onCl (fun k => { k with imgs := k.imgs.put {} n m })

/-- The digest of the whole image is compared at the end of the pass (R384). -/
def State.checkDigest (bs : List Byte) (s : State) : State :=
  if s.blockHalted then s
  else
    let d := sha256 (digestBytes bs)
    let st := slice 0x20 32 bs
    let s1 := s.onCl (fun k => { k with digest := d, stored := st, bytes := bs.length })
    if d = st then s1 else s1.sectionFails 1 0 leDigest

/-- How far the pass had come when a section halted the block: past the section's end, by what timing leaves open. -/
def State.noteStop (bs : List Byte) (s : State) : State :=
  if !s.blockHalted ∨ s.cl.bytes ≠ 0 then s
  else
    let stop := ((sectsOf bs).filter (fun e => fld s.sflt.cl.feAddr 3 0 = tagNumber e.tag)).map (fun e => e.offset + e.length)
    let n := s.freeWithin (stop.headD 0x100) bs.length 40
    s.onCl (fun k => { k with bytes := n })

/-- The single linear pass over the image (R373 steps 6 to 8, R382). -/
def State.readImage (f : FlashDev) (s : State) : State :=
  let head := flashBytes f 0x100
  let code := headerError head f.density
  let s1 := s.onCl (fun k =>
    let v : Sect := { crc := leAt head 0x18 4 }
    { k with phase := .reading, imageLen := imageLen head, buildId := leAt head 0x10 8, sects := k.sects.put {} 0 v })
  if code ≠ 0 then ((s1.onCl (fun k => { k with bytes := 0x100 + s.freeWithin 0 0xF00 40 })).sectionFails 1 0 code)
  else
    let bs := flashBytes f (imageLen head)
    let s2 := (s1.onCl (fun k => { k with sects := recordSects bs k.sects })).sectionLoads 0
    let s3 := ((s2.loadProt bs).loadShrd bs).loadLink bs
    (([0, 1, 2, 3].foldl (State.loadChan bs) s3).checkDigest bs).noteStop bs

/-- CL takes from the flash's tables what later commands need (R376 to R378). -/
def Cl.takeTables (f : FlashDev) (rate dummy dummy50 : Nat) (k : Cl) : Cl :=
  { k with density := f.density, rate := rate, dummy := dummy, readCmd := f.readCmd.toNat, changes := f.changes, dummy50 := dummy50 }

/-- How many bytes of SFDP are read: the manual gives only the bound of 2 KiB (R376). -/
def State.sfdpLen (s : State) : Nat := s.freeWithin 4 2048 41

/-- POR_RELEASE (R373): time starts, the flash is brought up, and the image is read; a step that fails raises CL_FLASH. -/
def State.powerUp (f : FlashDev) (s : State) : State :=
  let s1 := { s with por := false, time := 0, coreK := 0, xspiResetN := true, ck := { s.ck with pll := .locking } }
  let s2 := s1.onCl (fun k => { k with phase := .flashInit })
  if !flashOk f then (s2.leave [.flash (sfdpRead s.sfdpLen)]).raiseShared .cl 0 {}
  else
    match flashRate f with
    | none => ((s2.onCl (fun k => { k with density := f.density })).leave [.flash (sfdpRead s.sfdpLen)]).raiseShared .cl 0 {}
    | some (rate, dummy) =>
      let s3 := s2.onCl (Cl.takeTables f rate dummy ((flashDummy f 3).getD (s.freeVal 42)))
      let s4 := s3.leave (s3.cl.initCmds s.sfdpLen)
      if !f.verifies then s4.raiseShared .cl 0 {}
      else
        let s5 := s4.readImage f
        s5.leave (s5.cl.bursts s5.cl.bytes)

/-! ## Entry into RUN (R373 step 10, R388, R389, R393 step 6) -/

/-- A map entry as a record gives it. -/
def mapEntryOf (w : Nat) : MapEntry := { valid := bit w 16, phys := fld w 11 0 }

/-- The accord objects as they start: each collects the generation of the barrier it is bound to, 0 for a lane (R272). -/
def boundGens (commons : SMap Nat) (m : Img) : SMap AccObj :=
  m.locals.foldl (fun (a : SMap AccObj) p =>
    if bit p.2 63 && bit (commons.get 0 p.1) 62 then a.put {} p.1 { gen := (m.bars.get {} (fld p.2 46 32)).gen } else a) []

/-- The channel's stores take an image (R388, R389) and its place in its accord; the LA sees which links are up. A lane whose record
has MASK_VALID = 0 shows ACTIVE_MASK 0 (DESIGN CHOICE, log entry 77). -/
def Ch.takeImage (m : Img) (acc : Option Accord) (rank ports links id digest : Nat) (c : Ch) : Ch :=
  let img : Img := match acc with
    | none => m
    | some a => { m with commons := storeOf a.commons }
  let ctl := { c.ctl with map := m.map.foldl (fun k p => k.put {} p.1 (mapEntryOf p.2)) [] }
  let os := { c.os with flags := m.flags, sems := m.sems, strs := m.strs, bars := m.bars }
  let la := { c.la with accord := id, rank := rank, linkPorts := ports, up := links, digest := digest,
                        objs := boundGens img.commons m,
                        size := (acc.map (·.size)).getD 0, retries := (acc.map (·.retries)).getD 0,
                        edges := (acc.map (fun a => a.edges rank)).getD [] }
  let c1 := { c with ctl := ctl, os := os, la := la, img := img, bg := { c.bg with bucket := (1000 * m.capUj : Int) } }
  m.lanes.foldl (fun c p =>
    let w := p.2
    let on := bit w 12
    c.putLane p.1 { activeMask := if on then fld w 11 0 else 0, members := if on then c.translate (fld w 11 0) else [],
                    timeoutUs := fld w 51 32, roundUs := fld w 51 32, action := bit w 29 }) c1

/-- The channel enters RUN: unfenced, active, and forming where it has an accord (R262, R392); it learns which of its
feeds are stale. -/
def Ch.enterRun (e : Env) (c : Ch) : Ch :=
  let c1 := ({ c with ctl := { c.ctl with loadError := 0, runTime := e.stamp }, clk := { c.clk with st := .active } }).setSt .run
  let c2 := c1.endShadow e.time 2 0
  let c3 := e.stale.foldl (fun c b => c.feedStale b e) c2
  c3.startForming e

/-- Channel or pair `n` takes an image and enters RUN. -/
def State.runImage (n : Nat) (m : Img) (s : State) : State :=
  let t := s.pt.table
  let id := tblAccord t n
  let acc := s.cl.accord id
  let dig := s.cl.linkDig
  let up := s.links
  (s.onChan n .none (fun e c => (c.takeImage m acc (tblRank t n) (tblLinkPorts t n) up id dig).enterRun e)).busyNow n

/-! ## The load gate (R391) -/

/-- LOAD_GATE_READY: the digests are presented and the gate is READY. -/
def State.gateReady (s : State) : State :=
  if s.cl.phase ≠ .reading ∨ s.blockHalted then s
  else
    { s with cl := { s.cl with phase := .gateWait, loadDone := true }, pt := { s.pt with gate := .ready, readyAt := s.stamp } }

/-- The pair record that a table sets. -/
def pairOf (t : SMap Nat) (c : Nat) : Pair := if tblPaired t c then { st := .paired } else {}

/-- A channel that is LOADING without an image goes DOWN as the gate opens: its accord's LINK section failed. -/
def Ch.loadsNothing (c : Ch) : Ch := if c.ctl.st = .loading then c.setSt .down else c

/-- OPEN (R391): PROT is committed, and every loaded channel enters RUN. -/
def State.openGate (s : State) : State :=
  let t := s.cl.prot
  let imgs := s.cl.imgs
  let pt := { s.pt with gate := .opened, table := t, tableCrc := crcWords (tblWords t) }
  let s1 := { s with pt := pt, pairAB := pairOf t 0, pairCD := pairOf t 2, ck := { s.ck with fabricMode := s.cl.shrd },
                     cl := { s.cl with phase := .done, imgs := [] } }
  let s2 := imgs.foldl (fun s p => s.runImage p.1 p.2) s1
  { s2 with chA := s2.chA.loadsNothing, chB := s2.chB.loadsNothing, chC := s2.chC.loadsNothing, chD := s2.chD.loadsNothing }

/-- REFUSE, or no answer within 1 s (R391). -/
def State.refuseGate (code : Nat) (s : State) : State :=
  ({ s with pt := { s.pt with gate := .refused }, cl := { s.cl with imgs := [] } }).sectionFails 1 0 code

/-- A write of PT_LOAD_GATE from the steward port. -/
def State.gateWrite (v : Nat) (s : State) : State :=
  if s.pt.gate ≠ .ready ∨ s.blockHalted then s
  else if bit v 1 then s.refuseGate leRefused
  else if bit v 0 then s.openGate
  else s

/-- GATE_TIMEOUT: 1 s after READY. -/
def State.gateTimeout (s : State) : State :=
  if s.pt.gate = .ready ∧ !s.blockHalted ∧ s.pt.readyAt + 1000000000 ≤ s.stamp then s.refuseGate leGateTimeout else s

/-! ## Channel restart (R393) -/

/-- A restart has ended; the rotation of slots runs while some channel is restarting. -/
def Cl.endLoad (n : Nat) (k : Cl) : Cl :=
  let l := k.loads.drop n
  { k with loads := l, phase := if k.phase = .restart ∧ l = [] then .done else k.phase }

/-- The sides that a restart of `n` has put into LOADING fail. -/
def State.restartFails (n code : Nat) (s : State) : State :=
  let s1 := (s.onChan n .none (fun _ c => c.loadFails code)).onCl (Cl.endLoad n)
  s1.sectionFails 5 (4 + n) code

/-- A write of RESTART (R393, R395): both sides of a pair restart together and are PAIRED again. -/
def State.restart (n : Nat) (s : State) : State :=
  let st := (s.ch (s.lead n)).ctl.st
  if st = .loading ∨ st = .closing then s
  else
    let p := s.pair n
    let s1 := s.onChan n .none Ch.restart
    let k := n + (1 - p.survivor)
    let s2 := if p.st = .unpaired then
        let e := s1.env n (decide (k ≠ n)) .none
        s1.setCh k { (s1.ch k).restart e with todo := [], out := [], raised := [], haltReq := false, errPulse := false }
      else s1
    let s3 := if p.st = .single then s2 else s2.setPair n { st := .paired }
    let v : Sect := s3.cl.sects.get {} (4 + n)
    s3.onCl (fun k => { k with phase := .restart, loads := k.loads.insert n { left := v.length } })

/-- The first slot of a restart that follows a failed one begins with steps 4 and 5 of R373 again (R379). -/
def State.reinitFor (n : Nat) (s : State) : State :=
  if s.cl.reinit.contains n then
    (s.leave (s.cl.initCmds s.sfdpLen)).onCl (fun k => { k with reinit := k.reinit.filter (· ≠ n) })
  else s

/-- RESTART_SLOT: the slot of channel `n` reads one burst of its section, to the next 4 KiB boundary (R377, R393). -/
def State.restartSlot (n : Nat) (burst : List Byte) (s : State) : State :=
  if s.cl.phase ≠ .restart then s
  else
    let s1 := s.onCl (fun k => { k with channel := n })
    match s.cl.loads.find? (fun p => p.1 = n) with
    | none => s1
    | some (_, l) =>
      let v : Sect := s.cl.sects.get {} (4 + n)
      let m := min l.left (4096 - (v.offset + l.bytes.length) % 4096)
      let got := burst.take m
      let bs := l.bytes ++ got ++ List.replicate (m - got.length) 0xFF#8
      let s2 := s1.reinitFor n
      let s3 := if m = 0 then s2 else s2.leave [s2.cl.burst (v.offset + l.bytes.length) m]
      s3.onCl (fun k => { k with bytes := bs.length, loads := k.loads.insert n { bytes := bs, left := l.left - m } })

/-- The outcome of the checks of a restarted channel's section (R390, R393). -/
def State.restartCheck (n : Nat) (bs : List Byte) (s : State) : Nat ⊕ Img :=
  let v : Sect := s.cl.sects.get {} (4 + n)
  if v.length = 0 then .inl leMissing
  else
    match loadSection bs s.pt.table n (s.cl.accordOf (tblAccord s.pt.table n)) with
    | .inl code => .inl (if crc32c bs ≠ v.crc then min leChanged code else code)
    | .inr m => if crc32c bs ≠ v.crc then .inl leChanged else .inr m

/-- RESTART_LOAD_DONE: all bursts are read and the last check is complete. -/
def State.restartDone (n : Nat) (s : State) : State :=
  match s.cl.loads.find? (fun p => p.1 = n) with
  | none => s
  | some (_, l) =>
    if l.left ≠ 0 ∨ (s.ch (s.lead n)).ctl.st ≠ .loading then s
    else
      match s.restartCheck n l.bytes with
      | .inl code => s.restartFails n code
      | .inr m => ((s.onCl (Cl.endLoad n)).sectionLoads (4 + n)).runImage n m

/-! ## Flash read timeouts (R379) -/

/-- The reaction to a first timeout: SCE_XSPI_RESET_N pulses, steps 4 and 5 of R373 are repeated, and the read of `len` bytes at `addr`
is issued again, unless those steps fail. -/
def State.retryRead (addr len : Nat) (ok : Bool) (s : State) : State :=
  s.leave (.flashReset :: s.cl.initCmds s.sfdpLen ++ (if ok then [s.cl.burst addr len] else []))

/-- FLASH_READ_TIMEOUT of burst `read` while the image is read at power-on. -/
def State.loadTimeout (read : Nat) (reinitOk : Bool) (s : State) : State :=
  if s.cl.timedOut = some read then (s.onCl (fun k => { k with imgs := [] })).raiseShared .cl 0 {}
  else
    let s1 := s.retryRead (4096 * read) (min 4096 (s.cl.imageLen - 4096 * read)) reinitOk
    if reinitOk then s1.onCl (fun k => { k with timedOut := some read })
    else (s1.onCl (fun k => { k with imgs := [] })).raiseShared .cl 0 {}

/-- FLASH_READ_TIMEOUT during a channel restart: the read of the channel whose slot runs. -/
def State.restartTimeout (reinitOk : Bool) (s : State) : State :=
  let found := (s.cl.loads.find? (fun p => p.1 = s.cl.channel)).orElse (fun _ => s.cl.loads.head?)
  match found with
  | none => s
  | some (n, l) =>
    let fails := fun (s : State) => (s.onCl (fun k => { k with reinit := insertId n k.reinit })).restartFails n leFlash
    if l.timeouts ≠ 0 then fails s
    else
      let v : Sect := s.cl.sects.get {} (4 + n)
      let a := v.offset + l.bytes.length
      let s1 := s.retryRead a (min l.left (4096 - a % 4096)) reinitOk
      if reinitOk then s1.onCl (fun k => { k with loads := k.loads.insert n { l with timeouts := 1 } }) else fails s1

/-- FLASH_READ_TIMEOUT (R379). -/
def State.flashTimeout (read : Nat) (reinitOk : Bool) (s : State) : State :=
  match s.cl.phase with
  | .reading => s.loadTimeout read reinitOk
  | .restart => s.restartTimeout reinitOk
  | _ => s

end Sys2Proof.Machine
end

