-- ==== Sys2Proof/Machine/FaultOps.lean ====
section
/-! DEFINITION. What is done to a fault set from outside: acknowledgement (R317), enables and forces (R315, R326), drydown
(R321), trackers and wear windows (R322, R324), the ends of shadows (R325), SCE_ERR_N (R329). -/

namespace Sys2Proof.Machine

/-! ## One fault set -/

/-- The classes of a unit's sources. -/
def unitClasses : FltUnit → List Nat
  | .chan _ u => srcClasses u
  | .shared u => sharedSrcClasses u

/-- The fault set of a unit. -/
def State.unitFault (s : State) : FltUnit → FaultSet
  | .chan c u => (s.ch c.val).fault u
  | .shared u => s.sharedFault u

/-- Replaces the fault set of a unit; in a pair, that of the side it names (R333). -/
def State.setUnit (u : FltUnit) (f : FaultSet) (s : State) : State :=
  match u with
  | .chan c u => s.setCh c.val ((s.ch c.val).setFault u f)
  | .shared u => s.setShared u f

/-- A change of one unit's fault set. -/
def State.onUnit (u : FltUnit) (f : FaultSet → FaultSet) (s : State) : State := s.setUnit u (f (s.unitFault u))

/-- The sources whose EN bit a write may clear: those of class C or U. -/
def enWritable (classes : List Nat) : Nat :=
  maskOf ((classes.zipIdx.filter (fun p => decide (p.1 ≠ 3))).map (·.2))

/-- A write of _FLT_ENABLE (R315). -/
def writeEnable (classes : List Nat) (v : Nat) (fs : FaultSet) : FaultSet :=
  { fs with disabled := andNot (enWritable classes) (fld v 31 0) }

/-- The target fields of a write of _FLT_FORCE (R326): a change of one ends a pending force. -/
def writeTarget (v : Nat) (fs : FaultSet) : FaultSet :=
  let a := fld v 63 60
  let b := fld v 59 57
  let w := fld v 56 32
  if a = fs.forceArray ∧ b = fs.forceBank ∧ w = fs.forceWord then fs
  else { fs with forceArray := a, forceBank := b, forceWord := w, pendForce := none }

/-- A write of _DRYDOWN. -/
def writeDrydown (v : Nat) (fs : FaultSet) : FaultSet :=
  let n := fld v 19 0
  if 64 ≤ n ∧ n ≤ 1000000 then { fs with drydownUs := n } else fs

/-- A write of _CE_WINDOW (R315, R324). -/
def writeWindow (time v : Nat) (fs : FaultSet) : FaultSet :=
  let n := fld v 19 0
  if 1000 ≤ n ∧ n ≤ 1000000 then
    { fs with windowUs := n, windowCe := 0, wearRaised := false, windowStart := time, trackers := [] }
  else fs

/-- A fault's reaction completes (R321). -/
def reactionDone (fs : FaultSet) : FaultSet := match fs.st with | .faulted => { fs with st := .drydown } | _ => fs

/-- A drydown ends once its time has passed (R321). -/
def drydownOver (time : Nat) (fs : FaultSet) : FaultSet :=
  match fs.st with
  | .drydown =>
    if fs.lastFault + 1000 * fs.loadedUs ≤ time then { fs with st := .clear, cls := 0, recoveries := inc fs.recoveries } else fs
  | _ => fs

/-- The registers of the set (R315), by offset from its base + 0xF00; none where there is no register. -/
def FaultSet.reg (classes : List Nat) (time off : Nat) (fs : FaultSet) : Option Nat :=
  match off with
  | 0x00 => some fs.statusWord
  | 0x08 => some (enableMask classes fs)
  | 0x10 => some fs.forceWd
  | 0x18 => some 0
  | 0x20 => some fs.feAddr
  | 0x28 => some fs.masterWord
  | 0x30 => some fs.feType
  | 0x38 => some fs.feTime
  | 0x40 => some fs.alsoWord
  | 0x48 => some fs.ceCount
  | 0x50 => some fs.recoveries
  | 0x58 => some (fs.drydownWord time)
  | 0x60 => some fs.windowWord
  | _ => none

/-! ## Acknowledgement -/

/-- The non-fault causes of a shared sub-block's line go with its acknowledgement: the manual names no other register. -/
def State.ackCauses (u : SharedSub) (s : State) : State :=
  match u with
  | .cl => { s with cl := { s.cl with loadDone := false } }
  | .pt => { s with pt := { s.pt with commitCause := false, abortCause := false } }
  | _ => s

/-- A write of _FLT_ACK (R317). -/
def State.ackUnit (u : FltUnit) (v : Nat) (s : State) : State :=
  if bit v 0 then
    let s1 := s.onUnit u ackSet
    match u with
    | .shared k => s1.ackCauses k
    | .chan _ _ => s1
  else s

/-! ## Forces (R326) -/

/-- The kind of access that a forced non-ECC source records. -/
def forcedCause : Cause := { access := 7, forced := true }

/-- Source `src` of a channel's sub-block is forced. -/
def Ch.forceSrc (u : Sub) (e : Env) (c : Ch) (src : Nat) : Ch :=
  if srcClass u src = 0 then c
  else if hasArrays u && src = ceSrc u then c.setFault u { c.fault u with pendForce := some false }
  else if hasArrays u && (src = ueSrc u || (u = .ru && src = 4)) then c.setFault u { c.fault u with pendForce := some true }
  else if u = .rq && decide (src ≤ 1) then { c with rq := { c.rq with forceErr := src + 1 } }
  else if u = .la && src = 0 then { c with lalog := { c.lalog with forceCe := true } }
  else c.raise e u src forcedCause

/-- A write of _FLT_FORCE in a channel. -/
def Ch.force (u : Sub) (v : Nat) (e : Env) (c : Ch) : Ch :=
  (bitsBelow 32 (fld v 31 0)).foldl (Ch.forceSrc u e) (c.setFault u (writeTarget v (c.fault u)))

/-- An effect on one side of a channel that may raise a fault there: in an active pair a side-local one drops the side
(R336, R337). -/
def State.onSideFault (k : Nat) (f : Env → Ch → Ch) (s : State) : State :=
  let n := if s.isSecond k then k - 1 else k
  let second := decide (k ≠ n)
  if (s.pair n).st = .paired then
    let e := s.env n second .none
    let c := (f e (s.ch k)).drain e drainFuel
    match c.raised.find? sideLocal with
    | some r =>
      let o := s.env n (!second) .none
      s.dropSide n second r o c (s.ch (n + b01 (!second)))
    | none => s.finish k c c.out
  else s.onSide k f

/-- The array sources of a shared sub-block: whether a force of `src` arms an uncorrectable error. -/
def sharedArms (u : SharedSub) (src : Nat) : Option Bool :=
  match u with
  | .hp => if src = 0 then some false else if src = 1 then some true else none
  | .pt => if src = 0 then some false else if src = 1 ∨ src = 2 then some true else none
  | _ => none

/-- The forced sources that are raised, the highest class first (R318). -/
def forceOrder (u : SharedSub) (v : Nat) : List Nat :=
  let l := (bitsBelow 32 (fld v 31 0)).filter (fun i => (sharedArms u i).isNone)
  [3, 2, 1].flatMap (fun k => l.filter (fun i => sharedSrcClass u i = k))

/-- A write of _FLT_FORCE in a shared sub-block. -/
def State.forceShared (u : SharedSub) (v : Nat) (s : State) : State :=
  let had := (s.sharedFault u).captured
  let f := writeTarget v (s.sharedFault u)
  let f1 := (bitsBelow 32 (fld v 31 0)).foldl (fun (f : FaultSet) i =>
    match sharedArms u i with
    | some b => { f with pendForce := some b }
    | none => f) f
  (forceOrder u v).foldl (fun s i => s.raiseSharedAs (!had && (s.sharedFault u).captured) u i forcedCause) (s.setShared u f1)

/-- A forced packet error waits at the hub check, which serves both sides of a pair alike (R69, R332; log entry 86): the force of
RQ_PKT_CE or RQ_PKT_UE arms it on the other side too. -/
def State.armBoth (k : Nat) (u : Sub) (v : Nat) (s : State) : State :=
  if u = .rq && (s.pair k).st = .paired && (bit v 0 || bit v 1) then
    let o := k / 2 * 2 + (1 - k % 2)
    s.setCh o { s.ch o with rq := { (s.ch o).rq with forceErr := if bit v 1 then 2 else 1 } }
  else s

/-- The load of a channel that is no longer LOADING stops (R305). -/
def State.stopLoads (s : State) : State :=
  let ended := (s.cl.loads.map (·.1)).filter (fun n => (s.ch (s.lead n)).ctl.st ≠ .loading)
  let kept := s.cl.imgs.filter (fun p => (s.ch (s.lead p.1)).ctl.st = .loading)
  s.onCl (fun k => ended.foldl (fun k n => k.endLoad n) { k with imgs := kept })

/-- A write of _FLT_FORCE. -/
def State.forceUnit (u : FltUnit) (v : Nat) (s : State) : State :=
  match u with
  | .chan c k => ((s.armBoth c.val k v).onSideFault c.val (Ch.force k v)).stopLoads
  | .shared k => s.forceShared k v

/-- The side on which a write in the window of side `k` acts: the survivor, for a pair's first window (R338). -/
def State.actsOn (s : State) (k : Nat) : Nat := if s.isSecond k then k else s.lead k

/-- The unit on which a write of a fault set's register acts. -/
def State.unitWritten (s : State) : FltUnit → FltUnit
  | .chan c u => .chan (Fin.ofNat 4 (s.actsOn c.val)) u
  | .shared u => .shared u

/-- A write of a register of the set that stands for a unit, by offset from its base + 0xF00. -/
def State.writeFaultOf (u : FltUnit) (off v : Nat) (s : State) : State :=
  match off with
  | 0x08 => s.onUnit u (writeEnable (unitClasses u) v)
  | 0x10 => s.forceUnit u v
  | 0x18 => s.ackUnit u v
  | 0x58 => s.onUnit u (writeDrydown v)
  | 0x60 => s.onUnit u (writeWindow s.time v)
  | _ => s

/-- A write of a register of a fault set. -/
def State.writeFault (u : FltUnit) (off v : Nat) (s : State) : State := s.writeFaultOf (s.unitWritten u) off v

/-! ## Shadows and SCE_ERR_N -/

/-- SHADOW_END: the shadows whose time is over are gone (R325). -/
def State.endShadows (s : State) : State :=
  let left := fun (l : List Shadow) => l.filter (fun x => x.running s.time)
  let clean := fun (c : Ch) => { c with ctl := { c.ctl with shadows := left c.ctl.shadows } }
  { s with chA := clean s.chA, chB := clean s.chB, chC := clean s.chC, chD := clean s.chD,
           ck := { s.ck with shadows := left s.ck.shadows } }

/-- HP_ERR_STATUS. -/
def Hp.errWord (h : Hp) : Nat := at_ 8 8 (b01 h.errLow) + at_ 4 4 (b01 h.errShared) + at_ 3 0 h.errChans

/-- A write of HP_ERR_ACK (R329): the causes clear at once, and the event crosses into KEEP; one merged with the event before it sets
its bit of CK_XING_STATUS (R364). -/
def State.errAck (v : Nat) (s : State) : State :=
  if bit v 0 then
    let merged := (s.hp.ackFlow s.stamp).ackClose s.stamp
    { s with hp := { s.hp.sendAck s.stamp with errShared := false, errChans := 0 },
             ck := if merged then { s.ck with overrun := setBit s.ck.overrun 7 } else s.ck }
  else s

end Sys2Proof.Machine
end

