-- ==== Sys2Proof/Machine/Registers.lean ====
section
/-! DEFINITION. What every register of the host port reads as (the address map, R418 to R421), and what a read clears. Each
function takes an offset within its sub-block; an offset that names no register reads zero (R420). -/

namespace Sys2Proof.Machine

/-- The number of a repeated register: `off` lies among `n` words from `base` on. -/
def regNo (off base n : Nat) : Option Nat := if base ≤ off ∧ off < base + 8 * n then some ((off - base) / 8) else none

/-- The sub-block with a fault set at a page of a channel window. -/
def subAt (page : Nat) : Option Sub :=
  match page with
  | 1 => some .rq | 2 => some .os | 3 => some .bw | 4 => some .lt | 5 => some .ru | 6 => some .cu | 7 => some .ps
  | 8 => some .bg | 9 => some .la | _ => none

/-- The shared sub-block with a fault set at a page of the shared region. -/
def sharedAt (page : Nat) : Option SharedSub :=
  match page with
  | 1 => some .cl | 2 => some .hp | 3 => some .pt | 4 => some .ck | _ => none

/-- The fault-set unit that an offset of the host port lies in, with the offset within the set. -/
def faultAt (off : Nat) : Option (FltUnit × Nat) :=
  let page := off / 0x1000 % 0x100
  let o := off % 0x1000
  if o < 0xF00 then none
  else if off < 0x100000 then (sharedAt page).map (fun u => (.shared u, o - 0xF00))
  else (subAt page).map (fun u => (.chan (Fin.ofNat 4 (off / 0x100000 - 1)) u, o - 0xF00))

/-! ## CH -/

/-- The next alarm of R354; all ones when none runs. -/
def Ch.nextAlarm (time : Nat) (c : Ch) : Nat :=
  if !c.live then 2 ^ 61 - 1
  else
    match (c.expiries time).min? with
    | none => 2 ^ 61 - 1
    | some t => 20 * ceilDiv t 20 % 2 ^ 61

/-- CH_SLEEP_CTL. -/
def Clk.ctlWord (k : Clk) : Nat :=
  at_ 33 33 (b01 k.slumberEn) + at_ 32 32 (b01 k.dozeEn) + at_ 31 12 k.slumberUs + at_ 11 0 k.dozeIdle

/-- CH registers. -/
def Ch.readCh (e : Env) (p : Pair) (off : Nat) (c : Ch) : Nat :=
  match off with
  | 0x000 => at_ 63 61 c.ctl.st.code + at_ 55 48 c.ctl.loadError
  | 0x010 => b01 c.ctl.event
  | 0x018 => b01 c.ctl.eventEn
  | 0x020 => c.ctl.restarts
  | 0x028 => c.ctl.runTime
  | 0x100 => c.ctl.mapSel
  | 0x108 => c.mapData c.ctl.mapSel
  | 0x110 => at_ 27 16 c.ctl.mapResLid + at_ 3 0 c.ctl.mapResCode
  | 0x118 => at_ 14 8 c.img.spares + at_ 6 0 (c.sparesLeft e.chan (tblChan e.pt.table))
  | 0x120 => c.ctl.resetIgnored
  | 0x200 => c.ctl.shadowCount
  | 0x208 => at_ 63 16 c.ctl.shadowTime + at_ 10 8 c.ctl.shadowRow + at_ 4 0 c.ctl.shadowSrc
  | 0x210 => at_ 3 0 c.ctl.shadowSub
  | 0x300 => e.pairWord
  | 0x308 => p.time
  | 0x310 => at_ 18 18 (b01 p.divMissing) + at_ 17 17 p.divHalf + at_ 16 14 p.divStream + at_ 11 0 p.divEnd
  | 0x318 => p.divFirst
  | 0x320 => p.divSecond
  | 0x328 => at_ 8 0 p.skew
  | 0x400 => c.clk.ctlWord
  | 0x408 => at_ 63 61 c.clockNow.code + at_ 60 0 (c.nextAlarm e.time)
  | 0x410 => at_ 15 0 c.clk.overrun
  | 0x418 => at_ 63 48 c.clk.xQuarantine + at_ 47 32 c.clk.xFallback
  | 0x420 => c.clk.lateAgree
  | 0x428 => c.clk.resetOverrun
  | 0x430 => c.clk.wakes
  | 0x438 => c.clk.slumberWakes
  | _ => 0

/-! ## RQ, OS, BW -/

/-- RQ registers. -/
def Ch.readRq (off : Nat) (c : Ch) : Nat :=
  match off with
  | 0x000 =>
    at_ 39 32 (maskOf ((List.range 8).filter (fun b => decide (64 ≤ c.queuedAt b))))
      + at_ 9 0 ((List.range 8).foldl (fun n b => n + min 64 (c.queuedAt b)) 0)
  | 0x010 => c.rq.ops
  | 0x018 => c.rq.denied
  | 0x020 => c.rq.badReq
  | 0x028 => c.rq.pktErr
  | 0x030 => c.rq.down
  | 0x038 => c.rq.trailers
  | 0x040 => c.rq.trailerFail
  | 0x048 => at_ 54 52 c.rq.tfClass + at_ 51 46 c.rq.tfStatus + at_ 45 40 c.rq.tfOpcode + at_ 34 23 c.rq.tfEndpoint
      + at_ 22 0 c.rq.tfIndex
  | _ => match regNo off 0x080 8 with | some b => c.rq.stall.get 0 b | none => 0

/-- OS registers. -/
def Ch.readOs (off : Nat) (c : Ch) : Nat :=
  match off with
  | 0x100 => c.os.dblCount
  | 0x108 => at_ 32 32 (b01 c.os.dblStrict) + at_ 31 20 c.os.dblLid + at_ 19 0 c.os.dblIndex
  | 0x110 => c.os.barRearr
  | 0x118 => c.os.barNotMem
  | 0x120 => c.os.barTmo
  | 0x128 => at_ 63 32 c.os.reGen + at_ 28 27 c.os.reKind + at_ 26 15 c.os.reLid + at_ 14 0 c.os.reIndex
  | 0x130 => at_ 63 32 c.os.toGen + at_ 31 31 (b01 c.os.toAction) + at_ 27 15 c.os.toCount + at_ 14 0 c.os.toIndex
  | 0x138 => c.os.toTime
  | 0x140 => c.os.namSel
  | 0x148 => wordOf c.os.nam c.os.namSel
  | 0x180 => (List.range 8).foldl (fun n b => n + at_ (7 * b + 6) (7 * b) (64 - c.retiredIn b)) 0
  | _ => 0

/-- BW registers. -/
def Ch.readBw (off : Nat) (c : Ch) : Nat :=
  match off with
  | 0x300 => at_ 9 5 c.bw.namLane + at_ 4 0 c.bw.namWord
  | 0x308 => wordOf (c.lane c.bw.namLane).nam c.bw.namWord
  | 0x310 => (c.lane c.bw.namLane).namClusters
  | 0x318 => (c.lane c.bw.namLane).namBays
  | 0x320 => (c.lane c.bw.namLane).namTime
  | 0x400 => c.bw.rearr
  | 0x408 => c.bw.nonMem
  | 0x410 => c.bw.late
  | 0x418 => c.bw.tmo
  | 0x420 => c.bw.stall
  | 0x428 => at_ 63 32 c.bw.reGen + at_ 28 24 c.bw.reLane + at_ 23 12 c.bw.reLid + at_ 11 0 c.bw.rePhys
  | _ =>
    match regNo off 0x000 32, regNo off 0x100 32, regNo off 0x200 32 with
    | some l, _, _ => (c.lane l).stateWord
    | _, some l, _ => (c.lane l).ctlWord
    | _, _, some l => (c.lane l).gen.toNat
    | _, _, _ => 0

/-! ## LT, RU, CU -/

/-- Valid entries of a lock share. -/
def Ch.lockShare (c : Ch) (b : Nat) : Nat := (c.lt.entries.filter (fun p => p.2.valid && p.1 % 8 = b)).length

/-- The share with the most valid entries, the lowest number on a tie. -/
def Ch.fullestShare (c : Ch) : Nat :=
  (List.range 8).foldl (fun m b => if c.lockShare m < c.lockShare b then b else m) 0

/-- LT registers. -/
def Ch.readLt (off : Nat) (c : Ch) : Nat :=
  match off with
  | 0x000 =>
    at_ 63 63 (b01 c.lt.scanning) + at_ 50 48 c.fullestShare + at_ 45 32 (c.lockShare c.fullestShare)
      + at_ 16 0 (c.lt.entries.filter (fun p => p.2.valid)).length
  | 0x008 => at_ 12 12 (b01 c.img.supValid) + at_ 11 0 c.img.supLid
  | 0x100 => c.lt.forceAddr
  | 0x108 => at_ 63 63 (b01 c.lt.busy) + at_ 62 62 (b01 c.lt.overrun) + at_ 31 16 c.lt.fEntry + at_ 5 0 c.lt.fStatus
  | 0x200 => c.lt.claims
  | 0x208 => c.lt.helds
  | 0x210 => c.lt.fulls
  | 0x218 => c.lt.handoffs
  | 0x220 => c.lt.abandons
  | 0x228 => c.lt.forces
  | 0x230 => c.lt.notOwner
  | 0x238 => at_ 32 32 (b01 c.lt.noHeld) + at_ 31 20 c.lt.noOwner + at_ 19 16 c.lt.noOwnCtx + at_ 15 4 c.lt.noLid
      + at_ 3 0 c.lt.noCtx
  | 0x240 => at_ 47 0 c.lt.noAddr
  | _ => 0

/-- RU registers. Which combine lane is busy is timing that the manual does not give. -/
def Ch.readRu (e : Env) (off : Nat) (c : Ch) : Nat :=
  match off with
  | 0x000 =>
    at_ 27 16 c.ru.staged.length + (if c.ru.queue.isEmpty then 0 else at_ 13 12 (e.freeVal 33))
      + at_ 10 10 (b01 (decide (512 ≤ c.ru.queue.length))) + at_ 9 0 (min 512 c.ru.queue.length)
  | 0x100 => c.ru.cfgSel
  | 0x108 => c.cfg c.ru.cfgSel
  | 0x110 => c.ru.ruleSel
  | 0x118 => c.img.rules0.get 0 c.ru.ruleSel
  | 0x120 => c.img.rules1.get 0 c.ru.ruleSel
  | 0x200 => at_ 63 32 c.ru.nfGen + at_ 31 31 (b01 c.ru.nfValid) + at_ 30 28 c.ru.nfWord + at_ 27 25 c.ru.nfOp
      + at_ 24 22 c.ru.nfFmt + at_ 21 20 c.ru.nfKind + at_ 14 0 c.ru.nfIndex
  | 0x208 => at_ 63 32 c.ru.nfValue + at_ 23 12 c.ru.nfPhys + at_ 11 0 c.ru.nfLid
  | 0x210 => c.ru.nfTime
  | 0x300 => c.ru.arrivals
  | 0x308 => c.ru.cycles
  | 0x310 => c.ru.fullCyc
  | 0x318 => c.ru.nfCount
  | 0x320 => c.ru.ranges
  | 0x328 => c.ru.zeros
  | 0x330 => c.ru.rescales
  | 0x338 => c.ru.discards
  | _ => 0

/-- Connections in a state. -/
def Ch.connCount (c : Ch) (p : Conn → Bool) : Nat := (c.os.conns.filter (fun q => p q.2)).length

/-- CU registers. -/
def Ch.readCu (off : Nat) (c : Ch) : Nat :=
  match off with
  | 0x000 =>
    at_ 46 32 (c.connCount (fun v => v.st = .broken)) + at_ 30 16 (c.connCount (fun v => v.st = .listening))
      + at_ 14 0 (c.connCount (fun v => v.st ≠ .free))
  | 0x010 => c.cu.commits
  | 0x018 => c.cu.pads
  | 0x020 => c.cu.ringFull
  | 0x028 => c.cu.parks
  | 0x030 => c.cu.noReader
  | 0x038 => c.cu.brokens
  | 0x040 => c.cu.busyCyc
  | 0x048 => at_ 38 38 (b01 c.cu.nrTrailer) + at_ 37 32 c.cu.nrOpcode + at_ 27 16 c.cu.nrSender + at_ 13 0 c.cu.nrConn
  | _ => 0

/-! ## PS, BG -/

/-- Word `w` of a phase entry. -/
def Entry.word (n : Entry) (w : Nat) : Nat :=
  match w with
  | 0 => n.w0 | 1 => n.w1 | 2 => n.w2 | _ => n.w3

/-- PS registers. -/
def Ch.readPs0 (off : Nat) (c : Ch) : Nat :=
  match off with
  | 0x200 => at_ 12 12 (b01 c.img.selEn) + at_ 11 0 c.img.selMask
  | 0x300 => c.ps.entrySel
  | 0x330 => c.ps.scoreSel
  | 0x338 => c.img.scores.get 0 c.ps.scoreSel
  | 0x340 => c.ps.choiceSel
  | 0x348 => c.img.choices.get 0 c.ps.choiceSel
  | 0x350 => c.ps.listSel
  | 0x358 => c.img.lists.get 0 c.ps.listSel
  | 0x400 => c.ps.auditInfo
  | 0x408 => c.ps.auData
  | 0x410 => c.ps.auTime
  | 0x418 => at_ 63 44 c.ps.dlUs + at_ 43 40 c.ps.dlSeq + at_ 39 32 c.ps.dlScore + at_ 15 0 c.ps.dlEntry
  | 0x500 => c.ps.phases
  | 0x508 => c.ps.audits
  | 0x510 => c.ps.mismatches
  | 0x518 => c.ps.deadlines
  | 0x520 => c.ps.conflicts
  | 0x528 => c.ps.resetOps
  | _ =>
    match regNo off 0x000 16, regNo off 0x080 16, regNo off 0x100 16, regNo off 0x308 4 with
    | some s, _, _, _ => (c.seq s).stateWord
    | _, some s, _, _ => (c.seq s).start
    | _, _, some s, _ => at_ 53 48 (c.seq s).ctlStatus + at_ 15 8 (c.seq s).ctlScore
    | _, _, _, some w => (c.entry c.ps.entrySel).word w
    | _, _, _, _ => 0

/-- BG registers. -/
def Ch.readBg (e : Env) (off : Nat) (c : Ch) : Nat :=
  match off with
  | 0x000 => word64 c.bg.bucket
  | 0x008 => at_ 50 48 c.img.therm + at_ 45 32 c.img.maxHold + at_ 31 0 c.img.capUj
  | 0x010 => tblAllot e.pt.table e.chan
  | 0x018 => thermWord e
  | 0x020 => c.holdWord e.time
  | 0x028 => word32 (c.bg.leanBucket / 1000) * 2 ^ 32 + at_ 31 28 c.bg.leanSeq + at_ 17 16 c.bg.leanCause + at_ 15 0 c.bg.leanEntry
  | 0x030 => c.bg.leanTime
  | 0x100 => c.bg.passes
  | 0x108 => c.bg.holds
  | 0x110 => c.bg.leans
  | 0x118 => c.bg.holdTicks
  | 0x120 => c.bg.tripTicks
  | 0x128 => c.bg.chargedUj
  | _ => 0

/-! ## LA, DB, HW -/

/-- LA_ACC_CFG, with the table's accord and rank. -/
def La.cfgWord (a : La) (accord rank : Nat) : Nat :=
  let kids := a.childEdges
  at_ 63 48 accord + at_ 45 40 rank + at_ 38 32 a.size + at_ 31 24 a.retries + at_ 23 23 (b01 a.parent.isSome)
    + at_ 22 20 ((a.parent.map (·.port)).getD 0) + at_ 19 16 (2 ^ kids.length - 1)
    + (kids.zipIdx).foldl (fun n d => n + at_ (4 * d.2 + 2) (4 * d.2) d.1.port) 0

/-- LA_CREDIT_p. -/
def Credit.word (k : Credit) : Nat := at_ 46 40 k.rxHeld + at_ 30 24 (min 16 k.txAvail) + at_ 6 0 k.txAvail

/-- LA registers. -/
def Ch.readLa (e : Env) (off : Nat) (c : Ch) : Nat :=
  let own := tblLinkPorts e.pt.table e.chan
  match off with
  | 0x000 => at_ 23 16 (c.la.up &&& own) + at_ 15 8 (maskOf (c.la.edges.map (·.port))) + at_ 7 0 own
  | 0x008 => laFeatures
  | 0x800 => c.la.cfgWord (tblAccord e.pt.table e.chan) (tblRank e.pt.table e.chan)
  | 0x808 => c.la.statusWord
  | 0x810 => e.cl.linkDig
  | 0x818 => c.la.peerSel
  | 0x850 => word64 c.la.timeOffset
  | 0x858 => at_ 63 32 c.la.lastDelay + word32 c.la.lastTheta
  | 0x860 => word64 (c.accTime e)
  | 0x868 => c.la.objSel
  | 0x870 => c.common c.la.objSel
  | 0x878 => fld (c.img.locals.get 0 c.la.objSel) 63 32 * 2 ^ 32 + (c.accState c.la.objSel).gen.toNat
  | 0x880 => at_ 15 8 c.lalog.breakObject + at_ 3 0 c.lalog.breakType
  | 0x888 => at_ 63 32 c.lalog.breakReceived + at_ 31 0 c.lalog.breakExpected
  | 0x890 => c.lalog.breakTime
  | 0x898 => c.lalog.rtrLast
  | 0x8A0 => at_ 63 32 c.lalog.tmoGen + at_ 15 8 c.lalog.tmoObject + at_ 4 4 (b01 c.lalog.tmoLocal) + at_ 3 0 c.lalog.tmoChildren
  | 0x900 => c.lalog.msgTx
  | 0x908 => c.lalog.msgRx
  | 0x910 => c.lalog.creditWait
  | 0x918 => c.lalog.rtr
  | 0x920 => c.lalog.rtrRefused
  | 0x928 => c.lalog.timeWarns
  | 0x930 => c.lalog.timeDiscards
  | 0x938 => c.lalog.timeMisses
  | 0x940 => c.lalog.accTimeouts
  | 0x948 => c.lalog.ignored
  | _ =>
    match regNo off 0x100 8, regNo off 0x820 5 with
    | some p, _ => (c.la.credit p).word
    | _, some w => c.la.peerData.get 0 (8 * c.la.peerSel + w)
    | _, _ => 0

/-- The encoding of a blotter state. -/
def BlotSt.code : BlotSt → Nat
  | .free => 0 | .writing => 1 | .held => 2

/-- DB registers. -/
def Ch.readDb (off : Nat) (c : Ch) : Nat :=
  let d := c.db
  match off with
  | 0x000 => at_ 63 60 d.inKind + at_ 22 0 d.inIndex
  | 0x008 => at_ 63 63 (b01 d.inBusy) + at_ 62 62 (b01 d.inValid) + at_ 61 56 d.inStatus + at_ 46 32 d.inWaiters
  | 0x030 => d.waiterSel
  | 0x038 => d.inList.get 0 d.waiterSel
  | 0x040 => d.bitsSel
  | 0x048 => d.inBits.get 0 d.bitsSel
  | 0x100 => d.hand0
  | 0x108 => d.hand1
  | 0x110 => d.hand2
  | 0x120 => at_ 63 63 (b01 d.hBusy) + at_ 62 62 (b01 d.hOverrun) + at_ 31 16 d.hCount + at_ 5 0 d.hStatus
  | 0x208 => at_ 63 62 d.bSt.code + at_ 61 61 (b01 d.bTrunc) + at_ 60 60 (b01 d.bRefused) + at_ 59 56 d.bCause
      + at_ 55 48 d.bLater + at_ 31 0 d.bLines
  | 0x210 => d.bCount
  | 0x218 => d.bMissed
  | 0x220 => d.bTime
  | 0x228 => b01 d.event
  | 0x230 => b01 d.eventEn
  | _ => match regNo off 0x010 4 with | some w => d.inData.get 0 w | none => 0

/-- HW_WATCH_n. -/
def Watch.word (w : Watch) : Nat :=
  at_ 63 32 w.threshold + at_ 31 31 (b01 w.enable) + at_ 30 28 w.cond + at_ 26 24 w.cls + at_ 19 0 w.index

/-- HW registers. -/
def Ch.readHw (off : Nat) (c : Ch) : Nat :=
  match off with
  | 0x200 => c.hw.hit
  | 0x208 => c.hw.hitEn
  | 0x300 => c.hw.operand
  | 0x310 => at_ 63 63 (b01 c.hw.busy) + at_ 62 62 (b01 c.hw.overrun) + at_ 31 16 c.hw.count + at_ 13 8 c.hw.opcode
      + at_ 5 0 c.hw.status
  | 0x318 => c.hw.data
  | _ =>
    match regNo off 0x000 64 with
    | some n => let w : Watch := c.hw.watches.get {} n; w.word
    | none => 0

/-- A register of a channel window, outside the fault sets. -/
def Ch.readPage (e : Env) (p : Pair) (page off : Nat) (c : Ch) : Nat :=
  match page with
  | 0 => c.readCh e p off
  | 1 => c.readRq off
  | 2 => c.readOs off
  | 3 => c.readBw off
  | 4 => c.readLt off
  | 5 => c.readRu e off
  | 6 => c.readCu off
  | 7 => c.readPs0 off
  | 8 => c.readBg e off
  | 9 => c.readLa e off
  | 0xB => c.readDb off
  | 0xC => c.readHw off
  | _ => 0

/-- What a read clears (RC fields). -/
def Ch.clearRead (page off : Nat) (c : Ch) : Ch :=
  match page, off with
  | 0, 0x410 => { c with clk := { c.clk with overrun := 0 } }
  | 4, 0x108 => { c with lt := { c.lt with overrun := false } }
  | 9, 0x808 => { c with la := { c.la with timeWarn := false } }
  | 0xB, 0x120 => { c with db := { c.db with hOverrun := false } }
  | 0xB, 0x208 => { c with db := { c.db with bRefused := false } }
  | 0xC, 0x310 => { c with hw := { c.hw with overrun := false } }
  | 3, _ =>
    match regNo off 0x000 32 with
    | some l => c.putLane l { c.lane l with refused := false }
    | none => c
  | _, _ => c

/-! ## The shared region -/

/-- The encoding of a CL phase. -/
def ClPhase.code : ClPhase → Nat
  | .reset => 0 | .flashInit => 1 | .reading => 2 | .gateWait => 3 | .done => 4 | .halted => 5 | .restart => 6

/-- ID registers (R396). -/
def readId (off : Nat) : Nat :=
  match off with
  | 0x000 => Config.idLot.toNat
  | 0x008 => Config.idDie.toNat
  | 0x010 => Config.idTestDate.toNat
  | 0x018 => idVersion
  | _ => 0

/-- CL registers. -/
def Cl.read (off : Nat) (k : Cl) : Nat :=
  match off with
  | 0x000 => at_ 63 61 k.phase.code + at_ 60 59 k.rate + at_ 55 52 k.channel + at_ 47 40 k.dummy + at_ 39 29 k.density
  | 0x008 => at_ 63 32 k.imageLen + at_ 31 0 k.bytes
  | 0x010 => k.buildId
  | _ =>
    match regNo off 0x100 8 with
    | some n =>
      let v : Sect := k.sects.get {} n
      at_ 63 32 v.crc + at_ 31 24 v.error + at_ 23 22 v.st
    | none => 0

/-- Host accesses that wait for the window of queue `q`. -/
def Hp.waiting (h : Hp) (q : Nat) : List Access := h.queues.get [] q

/-- HP registers; `busy` marks the queues with an access in progress. -/
def Hp.read (busy off : Nat) (h : Hp) : Nat :=
  match off with
  | 0x100 => at_ 28 24 busy + (List.range 5).foldl (fun n q => n + at_ (4 * q + 3) (4 * q) (min 8 (h.waiting q).length)) 0
  | 0x200 => h.denied
  | 0x208 => at_ 33 32 h.dCause + at_ 31 24 h.dFunction + at_ 23 23 (b01 h.dWrite) + at_ 22 0 h.dAddr
  | 0x400 => h.errWord
  | _ =>
    match regNo off 0x300 5, regNo off 0x340 5 with
    | some q, _ => h.issued.get 0 q
    | _, some q => h.waits.get 0 q
    | _, _ => 0

/-- The encoding of a staging state. -/
def PtSt.code : PtSt → Nat
  | .idle => 0 | .edit => 1 | .staged => 2 | .approved => 3

/-- The encoding of a gate state. -/
def GateSt.code : GateSt → Nat
  | .waiting => 0 | .ready => 1 | .opened => 2 | .refused => 3

/-- PT_STATE. -/
def Pt.stateWord (p : Pt) (stamp : Nat) : Nat :=
  let inWindow := p.st = .staged || p.st = .approved
  at_ 63 61 p.st.code + at_ 60 60 (b01 p.ownerSteward) + at_ 59 58 p.level + at_ 55 52 (maskOf p.affected)
    + (if inWindow then at_ 51 32 (ceilDiv (p.windowStart + 100000000 - stamp) 1000) else 0) + at_ 31 0 p.seq

/-- PT registers. -/
def State.readPt (off : Nat) (s : State) : Nat :=
  let p := s.pt
  match off with
  | 0x000 => p.stateWord s.stamp
  | 0x008 => p.committed
  | 0x030 => at_ 15 8 p.hostCheck + at_ 7 4 p.hostCmd + at_ 3 0 p.hostCode
  | 0x038 => at_ 15 8 p.stewCheck + at_ 7 4 p.stewCmd + at_ 3 0 p.stewCode
  | 0x040 => p.stageSel
  | 0x048 => p.stage.get 0 p.stageSel
  | 0x050 => p.stageCrc
  | 0x058 => p.tableSel
  | 0x060 => p.table.get 0 p.tableSel
  | 0x068 => p.tableCrc
  | 0x070 => at_ 7 4 (maskOf ([0, 1, 2, 3].filter s.isDown)) + at_ 3 0 (maskOf ([0, 1, 2, 3].filter s.isQuiet))
  | 0x078 => at_ 63 32 p.abSeq + at_ 15 8 p.abCheck + at_ 2 0 p.abReason
  | 0x080 => p.commitTime
  | 0x140 => at_ 63 62 p.gate.code
  | 0x800 => p.noChan
  | 0x808 => p.commits
  | 0x810 => p.aborts
  | 0x818 => p.resetIgnored
  | _ =>
    if p.gate = .waiting then 0
    else
      match regNo off 0x100 4, regNo off 0x120 4 with
      | some w, _ => leNat (slice (8 * w) 8 s.cl.digest)
      | _, some w => leNat (slice (8 * w) 8 s.cl.stored)
      | _, _ => 0

/-- CK registers. -/
def State.readCk (off : Nat) (s : State) : Nat :=
  let k := s.ck
  match off with
  | 0x000 =>
    let lock := b01 (k.pll = .locked)
    at_ 49 49 lock + at_ 48 48 lock + at_ 33 32 k.pll.code
      + [0, 1, 2, 3].foldl (fun n c => n + at_ (3 * c + 2) (3 * c) (s.clockOf c).code) 0
  | 0x008 => k.fabricMode
  | 0x100 => at_ 15 0 k.overrun
  | 0x108 => at_ 63 48 k.xQuarantine + at_ 47 32 k.xFallback
  | 0x110 => k.lateAgree
  | 0x118 => k.resetOverrun
  | 0x200 => k.shadowCount
  | 0x208 => at_ 63 16 k.shadowTime + at_ 10 8 k.shadowRow + at_ 4 0 k.shadowSrc
  | 0x210 => at_ 3 0 k.shadowSub
  | _ => 0

/-- TM registers. -/
def State.readTm (off : Nat) (s : State) : Nat :=
  match off with
  | 0x000 => (s.frozenTimes.get s.time 4) % 2 ^ 64
  | 0x008 => s.ck.tmAlarm
  | 0x010 => b01 s.ck.tmEvent
  | 0x018 => b01 s.ck.tmEventEn
  | _ => 0

/-- The channel or pair that window `k` belongs to, by its first side. -/
def State.firstOf (s : State) (k : Nat) : Nat := if s.isSecond k then k - 1 else k

/-- The side whose clocks and map write decide for window `k`. -/
def State.windowSide (s : State) (k : Nat) : Nat := s.lead (s.firstOf k)

/-- A map write in window `k` is in progress (R219). -/
def State.mapHeld (k : Nat) (s : State) : Bool := !s.isSecond k && (s.ch (s.windowSide k)).lt.heldMap.isSome

/-- The channel window `k` takes no access: its channel's clocks do not run (R349, R353), or it has a map write in progress (R219,
R293). -/
def State.windowBusy (k : Nat) (s : State) : Bool :=
  (s.ch (s.windowSide k)).clockNow ≠ .active || s.mapHeld k

/-- PT holds the windows of some channels (R300). -/
def State.windowHeld (k : Nat) (s : State) : Bool := s.pt.holding && bit s.pt.heldChans k

/-- The queues with an access in progress. -/
def State.busyQueues (s : State) : Nat :=
  maskOf (([0, 1, 2, 3].filter (fun k => s.windowBusy k && ((s.hp.waiting (k + 1) ≠ []) || s.mapHeld k))).map (· + 1))

/-- The side whose window holds offset `off`, with its pair's first side. -/
def State.windowOf (off : Nat) (s : State) : Nat × Nat :=
  let k := off / 0x100000 - 1
  (s.firstOf k, k)

/-- What the register at a host-port offset reads as. -/
def State.readReg (off : Nat) (s : State) : Nat :=
  let page := off / 0x1000 % 0x100
  let o := off % 0x1000
  match faultAt off with
  | some (u, r) => ((s.unitFault u).reg (unitClasses u) s.time r).getD 0
  | none =>
    if 0x100000 ≤ off then
      let w := s.windowOf off
      (s.ch w.2).readPage (s.env w.1 (decide (w.2 ≠ w.1)) .none) (s.pair w.1) page o
    else
      match page with
      | 0 => readId o
      | 1 => s.cl.read o
      | 2 => s.hp.read s.busyQueues o
      | 3 => s.readPt o
      | 4 => s.readCk o
      | 5 => s.readTm o
      | _ => 0

/-- What a read of a host-port offset clears. -/
def State.clearRead (off : Nat) (s : State) : State :=
  let page := off / 0x1000 % 0x100
  let o := off % 0x1000
  if 0x100000 ≤ off then
    let k := (s.windowOf off).2
    if (faultAt off).isSome then s else s.setCh k ((s.ch k).clearRead page o)
  else if page = 4 ∧ o = 0x100 then { s with ck := { s.ck with overrun := 0 } }
  else s

end Sys2Proof.Machine
end

