-- ==== Sys2Proof/Machine/RegisterWrites.lean ====
section
/-! DEFINITION. What a write of every register of the host port does (the address map, R419 to R422, R430), in one channel,
in a pair (R333), and in the shared region. -/

namespace Sys2Proof.Machine

/-! ## Actions with a BUSY bit (R104, R220, R398, R401) -/

/-- A write of HW_OP_CMD (R103, R104): checks 7 and 8 of R53 come before its bank. -/
def Ch.hostCmd (e : Env) (v : Nat) (c : Ch) : Ch :=
  let op := fld v 5 0
  if c.hw.busy then { c with hw := { c.hw with overrun := true } }
  else if c.ctl.st ≠ .run then c.hostDone op stChannelDown 0
  else
    match hostCheck op (fld v 10 8) (fld v 38 16) with
    | some f => (c.countRefusal e f).hostDone op f.status (e.freeResult 0)
    | none => ({ c with hw := { c.hw with busy := true } }).toBank e (.hostOp op (fld v 10 8) (fld v 38 16) c.hw.operand)

/-- A write of LT_FORCE (R220). -/
def Ch.forceCmd (e : Env) (v : Nat) (c : Ch) : Ch :=
  let addr := 8 * fld v 47 3
  let c1 := { c with lt := { c.lt with forceAddr := addr } }
  if !bit v 48 then c1
  else if c.lt.busy then { c1 with lt := { c1.lt with overrun := true } }
  else if c.ctl.st ≠ .run then c1.forceDone stChannelDown 0
  else ({ c1 with lt := { c1.lt with busy := true } }).toBank e (.force addr)

/-- A write of DB_HAND_CMD (R401). -/
def Ch.handCmd (e : Env) (v : Nat) (c : Ch) : Ch :=
  if c.db.hBusy then { c with db := { c.db with hOverrun := true } }
  else if c.ctl.st ≠ .run then c.handDone stChannelDown
  else
    ({ c with db := { c.db with hBusy := true } }).toBank e
      (.hand (fld v 63 60) (fld v 59 56) (fld v 22 0) c.db.hand0 c.db.hand1 c.db.hand2)

/-- A write of DB_INSP_SEL (R398). -/
def Ch.inspect (e : Env) (v : Nat) (c : Ch) : Ch :=
  if c.db.inBusy then c
  else
    let k := fld v 63 60
    let i := fld v 22 0
    let c1 := { c with db := { c.db with inKind := k, inIndex := i, inBusy := true } }
    if c.live then c1.toBank e (.snapshot k i) else c1.snapshot e k i

/-! ## Registers of a channel -/

/-- A write of CH_SLEEP_CTL; a field out of its range keeps its value. -/
def Clk.write (v : Nat) (k : Clk) : Clk :=
  let us := fld v 31 12
  let idle := fld v 11 0
  { k with slumberEn := bit v 33, dozeEn := bit v 32,
           slumberUs := if us = 0 then k.slumberUs else us,
           dozeIdle := if idle < 16 then k.dozeIdle else idle }

/-- A write of BW_LANE_CTL_l (R147, R152, R169). -/
def Ch.laneCtl (e : Env) (l v : Nat) (c : Ch) : Ch :=
  let us := fld v 51 32
  let w := c.lane l
  let c1 := c.putLane l { w with timeoutUs := us, action := bit v 29, maskSel := fld v 11 0 }
  let c2 := if bit v 28 then c1.preloadLane e l (fld v 11 0) else c1
  if bit v 27 then
    if (c2.lane l).gated then c2.putLane l { c2.lane l with refused := true }
    else if (c2.lane l).members.isEmpty then c2
    else (c2.breakIfBound e (.lane l)).rearmLane e l
  else c2

/-- A write that would set ENABLE of a watch is one that R105 lets arm it. -/
def watchOk (cls index cond : Nat) : Bool :=
  (cls = clFlag && decide (index < 2 ^ 20) && (cond = 0 || cond = 1 || cond = 4))
    || (cls = clSem && decide (index < 2 ^ 18) && (cond = 2 || cond = 3 || cond = 4))

/-- A write of HW_WATCH_n (R105): it is evaluated when ENABLE is written, but for COND 4. -/
def Ch.writeWatch (n v : Nat) (c : Ch) : Ch :=
  let cls := fld v 26 24
  let i := fld v 19 0
  let cond := fld v 30 28
  let on := bit v 31 && watchOk cls i cond
  let w : Watch := { threshold := fld v 63 32, enable := on, cond := cond, cls := cls, index := i }
  let hits := on && (if cls = clFlag then w.flagHolds (c.flag i) false else w.semHolds (c.sem i) false)
  let h := { c.hw with watches := c.hw.watches.put {} n (if hits then { w with enable := false } else w) }
  { c with hw := if hits then { h with hit := setBit h.hit n } else h }

/-- A write of HW_SLOT_CANCEL (R107). -/
def Ch.hostCancel (e : Env) (v : Nat) (c : Ch) : Ch :=
  let lid := fld v 11 0
  if 0xFFE ≤ lid then c else (c.cancelSlot e lid (fld v 17 16)).1

/-- A write of a selector register (a register whose name ends in _SEL, R333); none for any other register. -/
def Ch.writeSel (e : Env) (page off v : Nat) (c : Ch) : Option Ch :=
  match page, off with
  | 0, 0x100 => some { c with ctl := { c.ctl with mapSel := fld v 11 0 } }
  | 2, 0x140 => some { c with os := { c.os with namSel := fld v 4 0 } }
  | 3, 0x300 => some { c with bw := { c.bw with namLane := fld v 9 5, namWord := fld v 4 0 } }
  | 5, 0x100 => some { c with ru := { c.ru with cfgSel := fld v 12 0 } }
  | 5, 0x110 => some { c with ru := { c.ru with ruleSel := fld v 7 0 } }
  | 7, 0x300 => some { c with ps := { c.ps with entrySel := fld v 15 0 } }
  | 7, 0x330 => some { c with ps := { c.ps with scoreSel := fld v 7 0 } }
  | 7, 0x340 => some { c with ps := { c.ps with choiceSel := fld v 11 0 } }
  | 7, 0x350 => some { c with ps := { c.ps with listSel := fld v 16 0 } }
  | 9, 0x818 => some { c with la := { c.la with peerSel := fld v 2 0 } }
  | 9, 0x868 => some { c with la := { c.la with objSel := fld v 7 0 } }
  | 0xB, 0x000 => some (c.inspect e v)
  | 0xB, 0x030 => some { c with db := { c.db with waiterSel := fld v 5 0 } }
  | 0xB, 0x040 => some { c with db := { c.db with bitsSel := fld v 5 0 } }
  | _, _ => none

/-- CH registers that need no more than the channel. -/
def Ch.writeCh (off v : Nat) (c : Ch) : Ch :=
  match off with
  | 0x010 => if bit v 0 then { c with ctl := { c.ctl with event := false } } else c
  | 0x018 => { c with ctl := { c.ctl with eventEn := bit v 0 } }
  | 0x400 => { c with clk := c.clk.write v }
  | _ => c

/-- DB registers. -/
def Ch.writeDb (e : Env) (off v : Nat) (c : Ch) : Ch :=
  match off with
  | 0x100 => { c with db := { c.db with hand0 := v } }
  | 0x108 => { c with db := { c.db with hand1 := v } }
  | 0x110 => { c with db := { c.db with hand2 := v } }
  | 0x118 => c.handCmd e v
  | 0x200 => c.blotCtl e v
  | 0x228 => if bit v 0 then { c with db := { c.db with event := false } } else c
  | 0x230 => { c with db := { c.db with eventEn := bit v 0 } }
  | _ => c

/-- HW registers. -/
def Ch.writeHw (e : Env) (off v : Nat) (c : Ch) : Ch :=
  match off with
  | 0x200 => { c with hw := { c.hw with hit := andNot c.hw.hit v } }
  | 0x208 => { c with hw := { c.hw with hitEn := v } }
  | 0x300 => { c with hw := { c.hw with operand := v } }
  | 0x308 => c.hostCmd e v
  | 0x320 => c.hostCancel e v
  | _ => match regNo off 0x000 64 with | some n => c.writeWatch n v | none => c

/-- A write of a register of a channel window, outside the fault sets, CH_CTL and CH_MAP_DATA. -/
def Ch.writePage (e : Env) (page off v : Nat) (c : Ch) : Ch :=
  match c.writeSel e page off v with
  | some c1 => c1
  | none =>
    match page with
    | 0 => c.writeCh off v
    | 3 => match regNo off 0x100 32 with | some l => c.laneCtl e l v | none => c
    | 4 => if off = 0x100 then c.forceCmd e v else c
    | 5 => if off = 0x200 ∧ bit v 31 then { c with ru := { c.ru with nfValid := false } } else c
    | 7 =>
      if off = 0x400 ∧ bit v 63 then { c with ps := { c.ps with auValid := false } }
      else match regNo off 0x100 16 with | some s => c.seqCommand e s v | none => c
    | 0xB => c.writeDb e off v
    | 0xC => c.writeHw e off v
    | _ => c

/-! ## Channel windows (R333) -/

/-- A write of CH_CTL (R393 to R395): RESTART is taken before CLOSE. -/
def State.writeCtl (n v : Nat) (s : State) : State :=
  if bit v 0 then s.restart n
  else if bit v 1 then s.onChan n .none Ch.orderlyClose
  else s

/-- A write of CH_MAP_DATA in a first side's window changes, on both sides, the entry that its selector names (R22). -/
def State.writeMap (who : Requester) (n v : Nat) (s : State) : State :=
  let lid := (s.ch (s.lead n)).ctl.mapSel
  s.onChan n .none (fun e c => c.mapWrite who e.chan (tblChan e.pt.table) lid v)

/-- A write in the window of a second side (R333): a selector acts on that side, a map write returns PAIRED, or NOT_RUNNING where the
side is not in RUN (R21). -/
def State.writeSecond (k page off v : Nat) (s : State) : State :=
  if page = 0 ∧ off = 0x108 then
    s.setCh k ((s.ch k).mapResult (s.ch k).ctl.mapSel (if (s.ch k).ctl.st = .run then 6 else 8))
  else s.onSideFault k (fun e c => (c.writeSel e page off v).getD c)

/-- A write in a channel window, outside the fault sets. -/
def State.writeWindow (who : Requester) (off v : Nat) (s : State) : State :=
  let page := off / 0x1000 % 0x100
  let o := off % 0x1000
  let w := s.windowOf off
  if w.1 ≠ w.2 then s.writeSecond w.2 page o v
  else if page = 0 ∧ o = 0x008 then s.writeCtl w.1 v
  else if page = 0 ∧ o = 0x108 then s.writeMap who w.1 v
  else s.onChan w.1 .none (fun e c => c.writePage e page o v)

/-! ## The shared region -/

/-- The party that a requester is. -/
def isSteward : Requester → Bool
  | .steward => true
  | .host _ => false

/-- The command of a table change that a write of a host-port offset is. -/
def ptCmdOf (off : Nat) : Option Nat :=
  match off with
  | 0x3010 => some 1
  | 0x3018 => some 2
  | 0x3020 => some 3
  | 0x3028 => some 4
  | _ => none

/-- A command of a table change, refused while PT is halted (R301). -/
def State.ptCommand (who : Requester) (cmd : Nat) (f : Pt → Pt) (s : State) : State :=
  if s.blockHalted then s.onPt (fun p => p.result (isSteward who) cmd 1 0) else s.onPt f

/-- OPEN reads the committed table as it copies it (R295, R314). -/
def State.ptOpen (who : Requester) (v : Nat) (s : State) : State :=
  let s1 := if s.pt.st = .idle ∧ fld v 31 0 = (s.pt.committed + 1) % 2 ^ 32 ∧ !s.blockHalted then (s.readTable false).1 else s
  s1.ptCommand who 1 (Pt.opens (isSteward who) v)

/-- A write of a PT register. -/
def State.writePt (who : Requester) (off v : Nat) (s : State) : State :=
  let st := isSteward who
  match off with
  | 0x010 => s.ptOpen who v
  | 0x018 => s.ptCommand who 2 (Pt.submit st s.stamp)
  | 0x020 => s.ptCommand who 3 (Pt.approve st v)
  | 0x028 => s.ptCommand who 4 (Pt.abort st)
  | 0x040 => s.onPt (fun p => { p with stageSel := fld v 7 0 })
  | 0x048 => if s.blockHalted then s else s.onPt (Pt.stageWord st v)
  | 0x058 => s.onPt (fun p => { p with tableSel := fld v 7 0 })
  | 0x140 => if st then s.gateWrite v else s
  | _ => s

/-- A write of a TM register (R428). -/
def State.writeTm (off v : Nat) (s : State) : State :=
  match off with
  | 0x008 => { s with ck := { s.ck with tmAlarm := v, tmArmed := true, tmAlarmAt := s.time } }
  | 0x010 => if bit v 0 then { s with ck := { s.ck with tmEvent := false } } else s
  | 0x018 => { s with ck := { s.ck with tmEventEn := bit v 0 } }
  | _ => s

/-- A write of the register at a host-port offset. -/
def State.writeReg (who : Requester) (off v : Nat) (s : State) : State :=
  match faultAt off with
  | some (u, r) => s.writeFault u r v
  | none =>
    if 0x100000 ≤ off then s.writeWindow who off v
    else
      match off / 0x1000 with
      | 2 => if off = 0x2408 then s.errAck v else s
      | 3 => s.writePt who (off % 0x1000) v
      | 5 => s.writeTm (off % 0x1000) v
      | _ => s

end Sys2Proof.Machine
end

