-- ==== Sys2Proof/Machine/HostPort.lean ====
section
/-! DEFINITION. A host or steward access from its arrival to its completion (R292, R293, R374, R306, R419 to R422). -/

namespace Sys2Proof.Machine

/-! ## Checks -/

/-- An access completes towards its port. -/
def State.answer (a : Access) (value : Nat) (error : Bool) (s : State) : State :=
  s.leave [.host a.who a.offset a.write value error]

/-- A denied access (R292): counted and recorded; it completes with an error indication. -/
def State.deny (a : Access) (fn cause : Nat) (s : State) : State :=
  let h := { s.hp with denied := inc s.hp.denied, dCause := cause, dFunction := fn, dWrite := a.write, dAddr := a.offset }
  ({ s with hp := h }).answer a (if a.write then a.value else 0) true

/-- An access refused before the checks of R292 (R419); `width` is its width in bits. -/
def reserved (off width : Nat) : Bool := decide (0x500000 ≤ off) || decide (off % 8 ≠ 0) || decide (width < 64)

/-- A fault-set register that may be read, or _FLT_ACK. -/
def faultReadable (off : Nat) : Bool :=
  match faultAt off with
  | some (_, r) => decide (r ≤ 0x60)
  | none => false

/-- _FLT_ACK of some sub-block, or HP_ERR_ACK. -/
def isAck (off : Nat) : Bool :=
  decide (off = 0x2408) || (match faultAt off with | some (_, r) => decide (r = 0x18) | none => false)

/-- What R374 allows before the gate opens. -/
def earlyOk (a : Access) : Bool :=
  if a.write then isAck a.offset
  else faultReadable a.offset || decide (a.offset = 0x2400) ||
    (decide (a.offset < 0x6000) && [0, 1, 4, 5].contains (a.offset / 0x1000))

/-- What a halted block still performs (R306). -/
def haltedOk (a : Access) : Bool :=
  if a.write then isAck a.offset else faultReadable a.offset || decide (a.offset = 0x2400) || decide (a.offset < 0x1000)

/-- The function map lets the access reach its window (checks 1 and 2 of R292). -/
def windowCause (t : SMap Nat) (fn : Nat) (a : Access) : Option Nat :=
  let f := tblFn t fn
  if 0x100000 ≤ a.offset then (if bit f (a.offset / 0x100000 - 1) then none else some 0)
  else if a.offset / 0x1000 = 3 then (if bit f 6 then none else some 1)
  else if bit f (if a.write then 5 else 4) then none
  else some 0

/-- A write of _FLT_FORCE sets a bit of a source that the sub-block defines (R315, R326). -/
def forcesAny (classes : List Nat) (v : Nat) : Bool := classes.zipIdx.any (fun p => decide (p.1 ≠ 0) && bit v p.2)

/-- The access needs a debug enable that is 0 (check 3 of R292, R302). -/
def debugMissing (t : SMap Nat) (a : Access) : Bool :=
  let o := a.offset % 0x1000
  let forces := match faultAt a.offset with
    | some (u, r) => a.write && r = 0x10 && forcesAny (unitClasses u) a.value
    | none => false
  if 0x100000 ≤ a.offset then
    let en := tblWord t (a.offset / 0x100000 - 1) 3
    let db := a.offset / 0x1000 % 0x100 = 0xB
    (db && decide (o ≤ 0x048) && !bit en 0) || (db && a.write && decide (0x100 ≤ o ∧ o ≤ 0x118) && !bit en 1)
      || (forces && !bit en 2)
  else forces && !bit (t.get 0 2) 0

/-- The cause with which a host access is denied, if any. -/
def State.denial (fn width : Nat) (a : Access) (s : State) : Option Nat :=
  if reserved a.offset width then some 3
  else if s.pt.gate ≠ .opened then (if earlyOk a then none else some 0)
  else
    match windowCause s.pt.table fn a with
    | some k => some k
    | none => if debugMissing s.pt.table a then some 2 else none

/-! ## Performance and queues (R293) -/

/-- The queue of an offset. -/
def queueOf (off : Nat) : Nat := off / 0x100000

/-- The access takes effect, and completes; a map write held for a lock scan completes when the scan ends (R219). An access to a
channel's window keeps it busy (R350). -/
def State.effect (a : Access) (s : State) : State :=
  let k := queueOf a.offset - 1
  let s0 := if queueOf a.offset = 0 then s else s.busyNow (s.firstOf k)
  if a.write then
    let s1 := s0.writeReg a.who a.offset a.value
    if 0x100000 ≤ a.offset && a.offset % 0x100000 = 0x108 && s1.mapHeld k && !s.mapHeld k then s1
    else s1.answer a a.value false
  else (s0.clearRead a.offset).answer a (s.readReg a.offset) false

/-- An issued access reads its queue entry (array 10): an error there is corrected, or the access is not performed. The arbiter goes
on to the next queue. -/
def State.perform (a : Access) (s : State) : State :=
  let q := queueOf a.offset
  let w := s.hp.issued.get 0 q % 8
  let h := { s.hp with issued := s.hp.issued.put 0 q (inc (s.hp.issued.get 0 q)), arb := (q + 1) % 5 }
  let s0 : State := { s with hp := h }
  let r : State × Nat × Nat × Bool := s0.sharedForce .hp 10 q w 1
  if r.2.1 = 2 then
    let k : Cause := { addr := at_ 63 60 10 + at_ 59 57 q + at_ 56 32 w, forced := r.2.2.2 }
    (r.1.raiseShared .hp 1 k).answer a (if a.write then a.value else 0) true
  else if r.2.1 = 1 then (r.1.correctedShared .hp 2 3 10 q w r.2.2.2).effect a
  else r.1.effect a

/-- The window of queue `q` takes no access now: its channel's clocks do not run, it is held, or it has one in progress. -/
def State.blocked (q : Nat) (s : State) : Bool := decide (0 < q) && (s.windowBusy (q - 1) || s.windowHeld (q - 1))

/-- The channel of queue `q` is asked to wake for what its queue holds (R349, R353). -/
def State.wakeFor (q : Nat) (s : State) : State :=
  if 0 < q then s.onOwn (s.firstOf (q - 1)) (fun e c => c.hostWake e.time) else s

/-- An access waits in its queue, which holds 8, or at the host interface for a queue that is full. -/
def State.enqueue (a : Access) (width : Nat) (s : State) : State :=
  let q := queueOf a.offset
  if 8 ≤ (s.hp.waiting q).length then { s with hp := { s.hp with atPort := s.hp.atPort ++ [(a, width)] } }
  else ({ s with hp := { s.hp with queues := s.hp.queues.put [] q (s.hp.waiting q ++ [a]) } }).wakeFor q

/-- A block that has halted answers what R306 does not list with an error. -/
def State.refusedByHalt (a : Access) (s : State) : Bool := s.blockHalted && !haltedOk a

/-- The answer of a halted block: the access is not performed; PT answers a command with WRONG_STATE (R301). -/
def State.haltAnswer (a : Access) (s : State) : State :=
  let s1 := match (if a.write then ptCmdOf a.offset else none) with
    | some cmd => s.ptCommand a.who cmd id
    | none => s
  s1.answer a (if a.write then a.value else 0) true

/-- A write of CH_CTL.RESTART in the window of a channel whose clocks do not run: nothing waits before it, and it ends a wake that
runs (R357). -/
def State.restartsNow (a : Access) (s : State) : Bool :=
  let k := queueOf a.offset - 1
  a.write && decide (0x100000 ≤ a.offset) && decide (a.offset % 0x100000 = 0x008) && bit a.value 0 && !s.isSecond k
    && s.hp.waiting (k + 1) = [] && !s.mapHeld k && !s.windowHeld k

/-- A host access that passed its checks is performed, or waits in its queue. -/
def State.letIn (a : Access) (width : Nat) (s : State) : State :=
  if s.refusedByHalt a then s.haltAnswer a
  else if s.restartsNow a then s.perform a
  else if s.blocked (queueOf a.offset) || decide (s.hp.waiting (queueOf a.offset) ≠ []) then s.enqueue a width
  else s.perform a

/-- The steward port reaches PT only, and is never denied (R292, R422). -/
def State.stewardAccess (a : Access) (width : Nat) (s : State) : State :=
  if a.offset / 0x1000 = 3 ∧ a.offset % 8 = 0 ∧ 64 ≤ width then s.effect a
  else s.answer a (if a.write then a.value else 0) false

/-- A host access at the host port: checked, and let in. -/
def State.seat (fn : Nat) (a : Access) (width : Nat) (s : State) : State :=
  match s.denial fn width a with
  | some k => s.deny a fn k
  | none => s.letIn a width

/-- An access arrives; one from a quarantined port is ignored (R368). Behind one that waits for a full queue, the host interface holds
all others (R293). -/
def State.access (a : Access) (width : Nat) (s : State) : State :=
  if s.quarantined (portCrossing a.who) then s
  else
    match a.who with
    | .steward => s.stewardAccess a width
    | .host fn =>
      if s.hp.atPort = [] then s.seat fn.toNat a width
      else { s with hp := { s.hp with atPort := s.hp.atPort ++ [(a, width)] } }

/-- A 64-bit write. -/
def State.hostWrite (who : Requester) (off v : Nat) (s : State) : State := s.access ⟨who, off, true, v⟩ 64

/-! ## The arbiter (R293) -/

/-- The head of queue `q` can be issued, or is refused. -/
def State.canIssue (q : Nat) (s : State) : Bool :=
  match s.hp.waiting q with
  | [] => false
  | a :: _ => !s.blocked q || s.refusedByHalt a

/-- The quota of a queue: 4 for S, HOST_QUOTA for a channel. -/
def State.quotaOf (q : Nat) (s : State) : Nat := if q = 0 then 4 else max 1 (tblQuota s.pt.table (q - 1))

/-- The host interface places the accesses that waited for a full queue, while there is room. -/
def State.admitWaiting : Nat → State → State
  | 0, s => s
  | n + 1, s =>
    match s.hp.atPort with
    | [] => s
    | (a, w) :: rest =>
      if 8 ≤ (s.hp.waiting (queueOf a.offset)).length then s
      else
        let fn := match a.who with | .host f => f.toNat | .steward => 0
        State.admitWaiting n (({ s with hp := { s.hp with atPort := rest } }).renew.seat fn a w)

/-- One HOST cycle: the head of queue `q` is issued, and every other eligible head waits a cycle more. -/
def State.issueFrom (q : Nat) (s : State) : State :=
  match s.hp.waiting q with
  | [] => s
  | a :: rest =>
    let others := [0, 1, 2, 3, 4].filter (fun k => decide (k ≠ q) && s.canIssue k)
    let h := { s.hp with queues := s.hp.queues.put [] q rest,
                         waits := others.foldl (fun m k => m.put 0 k (inc (m.get 0 k))) s.hp.waits }
    let s1 := ({ s with hp := h }).renew
    let s2 := if s1.refusedByHalt a then s1.haltAnswer a else s1.perform a
    s2.admitWaiting s2.hp.atPort.length

/-- The arbiter's visit to queue `q`: it issues up to a quota. -/
def State.visit (q : Nat) : Nat → State → State
  | 0, s => s
  | n + 1, s => if s.canIssue q then State.visit q n (s.issueFrom q) else s

/-- The next queue that the arbiter visits with effect, in the order S, A, B, C, D. -/
def State.nextQueue (s : State) : Option Nat := ((List.range 5).map (fun i => (s.hp.arb + i) % 5)).find? (fun q => s.canIssue q)

/-- The arbiter at work, until nothing can be issued. -/
def State.arbitrate : Nat → State → State
  | 0, s => s
  | n + 1, s =>
    match s.nextQueue with
    | none => s
    | some q =>
      let s1 := s.visit q (s.quotaOf q)
      State.arbitrate n { s1 with hp := { s1.hp with arb := (q + 1) % 5 } }

/-- The host accesses that wait. -/
def Hp.backlog (h : Hp) : Nat := ((List.range 5).map (fun q => (h.waiting q).length)).foldl (· + ·) 0 + h.atPort.length

/-- What waits at the host port is served as far as it can be; a channel that stopped while its queue waits is asked to wake. -/
def State.serveHost (s : State) : State :=
  let s1 := s.arbitrate s.hp.backlog
  [1, 2, 3, 4].foldl (fun s q => if s.hp.waiting q ≠ [] then s.wakeFor q else s) s1

/-- The host-port offset of a register of channel `c`'s window. -/
def chanOff (c page off : Nat) : Nat := 0x100000 * (c + 1) + 0x1000 * page + off

/-- The host-port offset of a fault set's register. -/
def faultOff (u : FltUnit) (r : Nat) : Nat :=
  match u with
  | .chan c k =>
    let page := match k with
      | .rq => 1 | .os => 2 | .bw => 3 | .lt => 4 | .ru => 5 | .cu => 6 | .ps => 7 | .bg => 8 | .la => 9
    chanOff c.val page (0xF00 + r)
  | .shared k =>
    let page := match k with | .cl => 1 | .hp => 2 | .pt => 3 | .ck => 4
    0x1000 * page + 0xF00 + r

end Sys2Proof.Machine
end

