-- ==== Sys2Proof/Machine/Nodes.lean ====
section
/-! DEFINITION. The block's edges: SRN nodes (R31, R36, R37, R53), link ports (R255, R325), what waits at them, the steps of a
table change (R296 to R300), and the common shape of a command. -/

namespace Sys2Proof.Machine

/-! ## SRN nodes -/

/-- The committed channel nibble of an endpoint; 15 for none, and before the gate opens. -/
def State.nibble (s : State) (phys : Nat) : Nat := if s.pt.gate = .opened then tblChan s.pt.table phys else 15

/-- The channel or pair that an endpoint belongs to, if any. -/
def State.ownerOf (s : State) (phys : Nat) : Option Nat := if s.nibble phys < 4 then some (s.nibble phys) else none

/-- The channel or pair of a packet: that of its endpoint, or the one captured with a closing write (R41, R61). -/
def State.packetOwner (s : State) (p : Packet) : Option Nat :=
  if s.pt.gate = .opened ∧ p.nibble s.pt.table < 4 then some (p.nibble s.pt.table) else none

/-- An endpoint has one request more outstanding (R36). -/
def State.issue (p : Packet) (s : State) : State :=
  if p.trailer then s else { s with outstanding := s.outstanding.put 0 p.phys (s.outstanding.get 0 p.phys + 1) }

/-- A fabric port that uses the Scetor-1 handshake (R366). -/
def State.fabricPort (s : State) (port : Nat) : Bool :=
  decide (0x708 ≤ port) && decide (port < 0x728) && bit s.ck.fabricMode (port - 0x708)

/-- The node takes the packet from its port: with the Scetor-1 handshake, ACK rises, and drops once REQ has dropped (R366). -/
def State.acknowledge (p : Packet) (s : State) : State :=
  if s.fabricPort p.port then s.leave [.fabricAck p.port true, .fabricAck p.port false] else s

/-- A node answers for no channel (checks 1 and 2 of R53): the response carries CHANNEL 0xF. -/
def State.noChannel (p : Packet) (opcode status tag : Nat) (s : State) : State :=
  let s1 := s.onPt (fun k => { k with noChan := inc k.noChan })
  let f := s1.sflt.pt
  let s2 := if p.pkt = .correctedUpper ∨ p.pkt = .correctedLower then s1.setShared .pt { f with ceCount := inc f.ceCount } else s1
  if p.trailer then s2.leave [.take p.port opcode]
  else
    s2.leave [.resp { endpoint := p.phys, chan := 15, opcode := opcode, status := status, tag := tag,
                      result := s.freeVal 2 % 2 ^ 64 }]

/-- The upper half of a packet cannot be read (check 1 of R53). -/
def Packet.unreadable (p : Packet) : Bool := p.pkt = .upperUncorrectable

/-- A trailer whose upper half cannot be read, as its record shows it: what the half says is not to be trusted. -/
def Packet.garbled (e : Env) (p : Packet) : Packet :=
  { p with phys := e.freeVal 60 % 4096, opcode := e.freeVal 61 % 64, cls := e.freeVal 62 % 8, index := e.freeVal 63 % 2 ^ 23 }

/-- PACKET_ERROR (check 1 of R53, R69): counted and raised in the channel the node last assigned the port to. A trailer is taken, and
recorded under R66. -/
def Ch.packetError (e : Env) (p : Packet) (c : Ch) : Ch :=
  let k : Cause := { addr := at_ 11 0 p.port, master := some ((c.lidOf p.port).getD (e.freeVal 7 % 4096), p.port), access := 1,
                     key := p.port }
  let c1 := ({ c with rq := { c.rq with pktErr := inc c.rq.pktErr } }).raise e .rq 1 k
  if p.trailer then (c1.takeTrailer { p with opcode := 0 }).trailerFails (p.garbled e) stPacketError
  else c1.respond e p.phys 0 stPacketError 0xFFFF (e.freeResult 2) {} true true

/-- PT holds a channel's ingress (R300). -/
def State.held (n : Nat) (s : State) : Bool := s.pt.holding && bit s.pt.heldChans n

/-! ### Credits (R12, R38) -/

/-- A packet at the hub whose credit RQ has not returned, from bay `b`. -/
def Work.fromBay (b : Nat) : Work → Bool
  | .req p _ => decide (bayOf p.port = b)
  | _ => false

/-- The hub credits of bay `b` that channel `n`'s packets hold. -/
def State.hubUsed (n b : Nat) (s : State) : Nat :=
  let c := s.ch (s.lead n)
  (c.rq.ingress.filter (fun p => bayOf p.port = b)).length + (c.rq.full.filter (fun q => q.2.fromBay b)).length

/-- A bay node has a hub credit for a packet of channel `n`, and no earlier packet of the channel waits for one. -/
def State.hubRoom (n : Nat) (p : Packet) (s : State) : Bool :=
  decide (s.hubUsed n (bayOf p.port) < 64)
    && !s.bayQ.any (fun q => s.packetOwner q = some n && bayOf q.port = bayOf p.port)

/-- A cluster node has a credit towards its bay node for a core's request of channel `n`. -/
def State.clusterRoom (n : Nat) (p : Packet) (s : State) : Bool :=
  !p.trailer && isCore p.port
    && decide ((s.bayQ.filter (fun q => s.packetOwner q = some n && q.ingress = p.ingress)).length < 32)

/-! ### From the port to the hub -/

/-- A packet of channel `n` goes from its node to the hub; check 3 of R53 is the node's. -/
def State.forward (n : Nat) (p : Packet) (s : State) : State :=
  if (s.ch (s.lead n)).ctl.st ≠ .run then s.atChan n p.mem (fun e c => (c.noteCorrected e p).nodeDown e p)
  else s.atChan n p.mem (fun e c => (c.noteCorrected e p).packetIn e p)

/-- A packet that its node takes: checks 1 to 3 of R53, then the hub, or the bay node while there is no hub credit. -/
def State.take (p : Packet) (s : State) : State :=
  let s1 := (s.issue p).acknowledge p
  if p.unreadable then
    match s.ownerOf p.port with
    | none => s1.noChannel p 0 stPacketError 0xFFFF
    | some n => s1.atChan n p.mem (fun e c => c.packetError e p)
  else
    match s.packetOwner p with
    | none => s1.noChannel p p.opcode stDenied p.tag
    | some n =>
      if (s.ch (s.lead n)).ctl.st = .run && !s.hubRoom n p then { s1 with bayQ := s1.bayQ ++ [p] } else s1.forward n p

/-- The node cannot take a packet now: a 17th request of its endpoint (R36), a channel that is held (R300), no credit (R38), or an
earlier packet of the channel that waits at the port. -/
def State.mustWait (p : Packet) (s : State) : Bool :=
  (!p.trailer && decide (16 ≤ s.outstanding.get 0 p.phys))
    || (match s.packetOwner p with
        | some n => s.held n || ((s.ch (s.lead n)).ctl.st = .run && !s.hubRoom n p && !s.clusterRoom n p)
        | none => false)
    || s.nodeWait.any (fun q => q.port = p.port && s.packetOwner q = s.packetOwner p)

/-- A packet is presented to its node: taken, or it waits. -/
def State.present (p : Packet) (s : State) : State :=
  if s.mustWait p then { s with nodeWait := s.nodeWait ++ [p] } else s.take p

/-- A packet that waits at its bay node goes on once there is a hub credit. -/
def State.onward (p : Packet) (s : State) : State :=
  match s.packetOwner p with
  | none => s.noChannel p p.opcode stDenied p.tag
  | some n =>
    if (s.ch (s.lead n)).ctl.st = .run && !s.hubRoom n p then { s with bayQ := s.bayQ ++ [p] } else s.forward n p

/-- A packet arrives; from a quarantined port it does not (R368). Trailers come by the port of their tile or link agent. -/
def State.packet (p : Packet) (s : State) : State :=
  if s.quarantined (srnCrossing p.port) then s else (s.brings p.mem).present p

/-- The packet of a request command. -/
def reqPacket (opcode : Nat) (r : Req) : Packet :=
  { phys := r.endpoint.toNat, port := r.endpoint.toNat, opcode := opcode, cls := r.cls.toNat, index := r.index.toNat,
    operand := r.operand.toNat, tag := r.tag.toNat, trailer := false, poisoned := false,
    ingress := ingressOf r.endpoint.toNat, pkt := r.pkt, mem := r.mem }

/-- The two words of a request packet (R40), with the channel that the node inserts: bits [127:64] and [63:0]. -/
def requestWords (chan opcode : Nat) (r : Req) : Nat × Nat :=
  (at_ 63 52 r.endpoint.toNat + at_ 51 48 chan + at_ 47 42 opcode + at_ 41 39 r.cls.toNat + at_ 38 16 r.index.toNat
     + at_ 15 0 r.tag.toNat, r.operand.toNat)

/-- What the two words of a request packet say (R40): CHANNEL, OPCODE, and the request. -/
def requestOfWords (w : Nat × Nat) : Nat × Nat × Req :=
  (fld w.1 51 48, fld w.1 47 42,
   { endpoint := BitVec.ofNat 12 (fld w.1 63 52), cls := BitVec.ofNat 3 (fld w.1 41 39), index := BitVec.ofNat 23 (fld w.1 38 16),
     tag := BitVec.ofNat 16 (fld w.1 15 0), operand := BitVec.ofNat 64 w.2, pkt := .none, mem := .none })

/-- An SRN request (R40). -/
def State.request (opcode : Nat) (r : Req) (s : State) : State := s.packet (reqPacket opcode r)

/-- The packet of a trailer command: its issuer's, by the tile's port. -/
def trailerPacket (t : TrailerArg) : Packet :=
  { phys := t.issuer.toNat, port := t.tile.toNat, capt := t.chan.toNat, opcode := t.opcode.toNat, cls := t.cls.toNat,
    index := t.index.toNat, operand := t.operand.toNat, tag := 0, trailer := true, poisoned := t.poisoned,
    ingress := ingressOf t.tile.toNat, pkt := t.pkt, mem := t.mem }

/-- TRAILER (R60 to R66). -/
def State.trailer (t : TrailerArg) (s : State) : State := s.packet (trailerPacket t)

/-- PACKET_ERROR: a request whose upper half cannot be read. -/
def State.unreadable (phys : Nat) (s : State) : State :=
  s.packet { phys := phys, port := phys, opcode := 0, cls := 0, index := 0, operand := 0, tag := 0xFFFF, trailer := false,
             poisoned := false, ingress := ingressOf phys, pkt := .upperUncorrectable, mem := .none }

/-- The first response that waits for an endpoint, and the rest. -/
def takeResponse (phys : Nat) : List Response → Option (Response × List Response)
  | [] => none
  | r :: rs => if r.endpoint = phys then some (r, rs) else (takeResponse phys rs).map (fun p => (p.1, r :: p.2))

/-- RESPONSE_DELIVERED (R36, R37): the endpoint takes its oldest response; a request's first response ends it. -/
def State.delivered (phys : Nat) (s : State) : State :=
  if s.quarantined (srnCrossing phys) then s
  else
    match takeResponse phys s.resp with
    | none => s
    | some (r, rest) =>
      let s1 := { s with resp := rest }
      if r.first then { s1 with outstanding := s1.outstanding.put 0 phys (s1.outstanding.get 0 phys - 1) } else s1

/-- The wake output of a core (R101, R145): a release holds it, or a parked wait's final response waits at the node. Bay-side
endpoints have none. -/
def State.wakeOf (s : State) (phys : Nat) : Bool :=
  isCore phys && (s.laneWakes.contains phys || s.resp.any (fun r => r.endpoint = phys && r.final && !r.first))

/-! ## Lanes -/

/-- ARRIVE_STROBE (R140, R353): it waits at the port while its channel sleeps. -/
def State.strobe (phys l : Nat) (s : State) : State :=
  if s.quarantined (0x3000 + phys) then s
  else
    match s.ownerOf phys with
    | none => s
    | some n =>
      s.atChan n .none (fun e c =>
        if c.asleep then ({ c with bw := { c.bw with strobes := c.bw.strobes ++ [(phys, l)] } }).wakeUp e.time
        else c.strobe e phys l)

/-! ## Endpoint resets (R31) -/

/-- The take acknowledgement of an endpoint-reset event is due at the third keep edge. -/
def State.ackReset (phys : Nat) (s : State) : State := { s with resetTakes := s.resetTakes ++ [(phys, 3)] }

/-- Whether the reset queue of a channel takes the event instead of the channel itself: it sleeps, or is held (R300, R353). -/
def State.queuesReset (n : Nat) (s : State) : Bool := (s.ch (s.lead n)).asleep || s.held n

/-- An endpoint-reset event that has been taken: ignored and counted, fencing, or queued; during a hold in the queue of the channel
or of a pair's leading side. -/
def State.takeReset (phys : Nat) (s : State) : State :=
  match (if phys < 0x728 then s.ownerOf phys else none) with
  | none => s.onPt (fun k => { k with resetIgnored := inc k.resetIgnored })
  | some n =>
    if (s.ch (s.lead n)).asleep then
      s.atChan n .none (fun e c => ({ c with ctl := { c.ctl with resetQ := c.ctl.resetQ ++ [phys] } }).wakeUp e.time)
    else if s.held n then
      let k := s.lead n
      s.setCh k { s.ch k with ctl := { (s.ch k).ctl with resetQ := (s.ch k).ctl.resetQ ++ [phys] } }
    else s.atChan n .none (fun e c => c.takeReset e phys)

/-- The reset queue that an event would enter is full: 32 events. -/
def State.resetFull (phys : Nat) (s : State) : Bool :=
  match (if phys < 0x728 then s.ownerOf phys else none) with
  | none => false
  | some n => s.queuesReset n && decide (32 ≤ (s.ch (s.lead n)).ctl.resetQ.length)

/-- An endpoint-reset event: taken, and its acknowledgement is due; or it waits without one, for a full queue or behind another. -/
def State.resetEvent (phys : Nat) (s : State) : State :=
  if s.resetFull phys || !s.resetWait.isEmpty then { s with resetWait := s.resetWait ++ [phys] }
  else (s.takeReset phys).ackReset phys

/-! ## Links (R255 to R259, R325) -/

/-- The channel or pair that owns a link port. -/
def State.portOwner (s : State) (p : Nat) : Option Nat :=
  if s.pt.gate = .opened then [0, 1, 2, 3].find? (fun c => bit (tblLinkPorts s.pt.table c) p && !s.isSecond c) else none

/-- A received sync message: at its link agent, or, for a trailer of a held channel, waiting there with what follows it on its port. -/
def State.message (typ : Nat) (m : MsgIn) (s : State) : State :=
  let p := m.port.toNat
  if s.quarantined (0x5000 + p) then s
  else
    match s.portOwner p with
    | none => s
    | some n =>
      let c := s.ch (s.lead n)
      if s.held n && !c.asleep && (typ = tyTrailer || c.la.rxWait.any (fun q => q.2.1.port.toNat = p)) then
        s.atChan n .none (fun e c => c.holdMessage e typ m)
      else s.atChan n .none (fun e c => c.messageIn e typ m)

/-- REMOTE_TRAILER_SEND (R260): the bay node attaches the channel captured with the write; a drop is counted there. -/
def State.sendRemote (t : TrailerArg) (p : Nat) (s : State) : State :=
  match s.packetOwner (trailerPacket t) with
  | none => s
  | some n => if s.quarantined (0x5000 + p) then s else s.atChan n .none (fun e c => c.sendTrailer e t p)

/-- CREDIT_RETURN (R258). -/
def State.credit (p : Nat) (s : State) : State :=
  match s.portOwner p with
  | none => s
  | some n => if s.quarantined (0x5000 + p) then s else s.atChan n .none (fun e c => c.creditReturn e p)

/-- Every channel's link agent sees the state of the ports. -/
def State.onPorts (f : Ch → Ch) (s : State) : State := { s with chA := f s.chA, chB := f s.chB, chC := f s.chC, chD := f s.chD }

/-- LINK_UP (R325): the shadow of the port ends. -/
def State.linkUp (p : Nat) (s : State) : State :=
  let s1 := ({ s with links := setBit s.links p }).onPorts (Ch.linkIsUp p)
  match s1.portOwner p with
  | none => s1
  | some n => s1.atChan n .none (fun e c => c.endShadow e.time 3 p)

/-- LINK_LOST (R276, R325): it wakes a channel that sleeps (R353). -/
def State.linkLost (p : Nat) (s : State) : State :=
  let s1 := match s.portOwner p with
    | none => s
    | some n => s.atChan n .none (fun e c =>
        let c1 := c.startShadow 3 p []
        (if c1.live then c1.linkDown e p else c1).wakeUp e.time)
  ({ s1 with links := clrBit s1.links p }).onPorts (fun c => { c with la := { c.la with up := clrBit c.la.up p } })

/-! ## What waits -/

/-- Nothing waits at the block's edges, and no channel runs its clocks for accesses that are over. -/
def State.settled (s : State) : Bool :=
  s.nodeWait.isEmpty && s.bayQ.isEmpty && s.resetWait.isEmpty && s.hp.queues.isEmpty && s.hp.atPort.isEmpty
    && [0, 1, 2, 3].all (fun n => (s.ch n).ctl.resetQ.isEmpty && (s.ch n).la.rxWait.isEmpty && !(s.ch n).lingers)

/-- The reset queue of side `k` is served, under the table that now stands; what it shares with the other side of a pair leaves both. -/
def State.serveResets (k : Nat) (s : State) : State :=
  let q := (s.ch k).ctl.resetQ
  if q.isEmpty then s
  else
    let clean := fun (c : Ch) => { c with ctl := { c.ctl with resetQ := c.ctl.resetQ.diff q } }
    let o := k / 2 * 2 + (1 - k % 2)
    let s1 := s.setCh k (clean (s.ch k))
    let s2 := if s1.isPaired k then s1.setCh o (clean (s1.ch o)) else s1
    q.foldl (fun s p => s.renew.takeReset p) s2

/-- A message waits that its link agent can take. -/
def Ch.hasMessage (c : Ch) : Bool := c.la.rxWait.any (fun q => !c.trailerWaits q.2.1.port.toNat)

/-- A channel that neither sleeps nor is held takes what waited for it. -/
def State.serveChan (s : State) (n : Nat) : State :=
  if (s.ch (s.windowSide n)).asleep || s.held (s.firstOf n) then s
  else
    let s1 := s.serveResets n
    if s1.isSecond n || !(s1.ch (s1.lead n)).hasMessage then s1
    else s1.renew.atChan n .none (fun e c => c.serveMessages e c.la.rxWait.length)

/-- Nothing waits any more at the windows of channel or pair `n`. -/
def State.windowsIdle (n : Nat) (s : State) : Bool :=
  s.hp.waiting (n + 1) = [] && !s.mapHeld n && (!s.isPaired n || s.hp.waiting (n + 2) = [])

/-- A channel that ran its clocks for host accesses is DOWN again when they are over (R349). -/
def State.gateIdle (s : State) (n : Nat) : State :=
  if s.windowsIdle (s.firstOf n) then s.setCh n (s.ch n).gateAgain else s

/-- What no longer has to wait is taken, in order: reset events, messages, packets at the nodes, host accesses. Then clocks that ran for
accesses stop. -/
def State.serveWaiting (s : State) : State :=
  let s1 := [0, 1, 2, 3].foldl State.serveChan s
  let s2 := s1.resetWait.foldl (fun s p => s.renew.resetEvent p) { s1 with resetWait := [] }
  let s3 := s2.bayQ.foldl (fun s p => s.renew.onward p) { s2 with bayQ := [] }
  let s4 := s3.nodeWait.foldl (fun s p => s.renew.present p) { s3 with nodeWait := [] }
  [0, 1, 2, 3].foldl State.gateIdle s4.serveHost

/-- The end of a command: what waits is served, and the PLLs follow (R348). -/
def State.afterwards (s : State) : State := (if s.settled then s else s.serveWaiting).setPll

/-! ## A table change (R296 to R300) -/

/-- SUBMIT_CHECK_DONE: 512 CORE cycles after SUBMIT. -/
def State.submitDone (s : State) : State :=
  if s.pt.checking && decide (s.pt.submitAt + 341 ≤ s.stamp) then
    let r := s.readStage
    if r.2 then r.1 else r.1.onPt (Pt.checked s.stamp)
  else s

/-- The change is applied, unless its staging buffer cannot be read. -/
def State.applyChange (s : State) : State :=
  let r := s.readStage
  if r.2 then r.1 else r.1.applyTable

/-- COMMIT_HOLD: the affected channels have reached their levels and are held; a sleeping one is woken first. -/
def State.commitHold (s : State) : State :=
  if s.pt.st ≠ .approved || s.pt.holding || s.pt.windowOver s.stamp then s
  else
    let l := s.pt.affected
    if l.isEmpty then s.applyChange
    else if l.any (fun n => (s.ch n).asleep) then s.onList (fun e c => c.wakeUp e.time) l
    else if s.levelsReached then s.onPt (fun k => { k with holding := true, holdAt := s.coreNow, heldChans := maskOf l })
    else s

/-- COMMIT: 64 CORE cycles into the hold. -/
def State.commitNow (s : State) : State :=
  if !s.pt.holding || s.pt.windowOver s.stamp || decide (s.coreNow < s.pt.holdAt + 64) then s
  else if s.levelsReached then s.applyChange
  else s.onPt (fun k => { k with holding := false, heldChans := 0 })

/-- WINDOW_EXPIRY: 100 ms after STAGED. -/
def State.windowExpires (s : State) : State :=
  if (s.pt.st = .staged || s.pt.st = .approved) && s.pt.windowOver s.stamp then s.onPt (Pt.abortChange 3 0) else s

/-! ## The shape of a command -/

/-- The meaning of a command: while SCE_POR_N is low nothing acts (R372). -/
def act (s : State) (f : State → State) : Host.Outcome State Fault Refusal :=
  if s.por then .next s else .next (f s.begin).afterwards

/-- The meaning of a command that acts on what only a running block does: a block that has halted (R306) does not. -/
def actRunning (s : State) (f : State → State) : Host.Outcome State Fault Refusal :=
  act s fun s => if s.blockHalted then s else f s

/-- A command on one channel's units: while the channel is in RUN or closing, and awake. -/
def actLive (s : State) (n : Nat) (m : MemErr) (f : Env → Ch → Ch) : Host.Outcome State Fault Refusal :=
  act s fun s => s.atChan n m (whenLive f)

end Sys2Proof.Machine
end

