-- ==== Sys2Proof/Machine/AccordCommands.lean ====
section
/-! DEFINITION. The commands of accords and link ports (R254 to R281). -/

namespace Sys2Proof.Machine

/-- HELLO (R264), received. -/
def execHello (m : MsgIn) (s : State) : Host.Outcome State Fault Refusal := act s fun s => s.message 1 m

/-- VERDICT (R264), received. -/
def execVerdict (m : MsgIn) (s : State) : Host.Outcome State Fault Refusal := act s fun s => s.message 2 m

/-- READY (R265), received. -/
def execReady (m : MsgIn) (s : State) : Host.Outcome State Fault Refusal := act s fun s => s.message 3 m

/-- FORMED (R265), received. -/
def execFormed (m : MsgIn) (s : State) : Host.Outcome State Fault Refusal := act s fun s => s.message 4 m

/-- ARRIVE (R273), received. -/
def execArrive (m : MsgIn) (s : State) : Host.Outcome State Fault Refusal := act s fun s => s.message 5 m

/-- RELEASE (R272), received. -/
def execRelease (m : MsgIn) (s : State) : Host.Outcome State Fault Refusal := act s fun s => s.message 6 m

/-- REMOTE_TRAILER (R261), received. -/
def execRemoteTrailer (m : MsgIn) (s : State) : Host.Outcome State Fault Refusal := act s fun s => s.message 7 m

/-- TIME_REQ (R268), received. -/
def execTimeReq (m : MsgIn) (s : State) : Host.Outcome State Fault Refusal := act s fun s => s.message 8 m

/-- TIME_RSP (R270), received. -/
def execTimeRsp (m : MsgIn) (s : State) : Host.Outcome State Fault Refusal := act s fun s => s.message 9 m

/-- BREAK (R277), received. -/
def execBreakMsg (m : MsgIn) (s : State) : Host.Outcome State Fault Refusal := act s fun s => s.message 10 m

/-- FORMATION_ATTEMPT_TIMEOUT (R266). -/
def execFormationAttemptTimeout (c : ChanId) (s : State) : Host.Outcome State Fault Refusal := actLive s c.val .none Ch.attemptTimeout

/-- REMOTE_TRAILER_SEND (R260). -/
def execRemoteTrailerSend (t : TrailerArg) (port : BitVec 3) (s : State) : Host.Outcome State Fault Refusal :=
  act s fun s => s.sendRemote t port.toNat

/-- TIME_EXCHANGE_DUE (R268). -/
def execTimeExchangeDue (c : ChanId) (s : State) : Host.Outcome State Fault Refusal := actLive s c.val .none Ch.timeDue

/-- ACCORD_TIMEOUT (R274). -/
def execAccordTimeout (c : ChanId) (object : BitVec 8) (s : State) : Host.Outcome State Fault Refusal :=
  actLive s c.val .none (fun e c => c.accordTimeout e object.toNat)

/-- LINK_LOST (R276). -/
def execLinkLost (port : BitVec 3) (s : State) : Host.Outcome State Fault Refusal := act s fun s => s.linkLost port.toNat

/-- CREDIT_RETURN (R258). -/
def execCreditReturn (port : BitVec 3) (s : State) : Host.Outcome State Fault Refusal := act s fun s => s.credit port.toNat

/-- LINK_UP (R325). -/
def execLinkUp (port : BitVec 3) (s : State) : Host.Outcome State Fault Refusal := act s fun s => s.linkUp port.toNat

end Sys2Proof.Machine
end

