-- ==== Sys2Proof/Machine/ClockCommands.lean ====
section
/-! DEFINITION. The commands of clocks, sleep, crossings, telemetry and time (R32, R348 to R371, R428). -/

namespace Sys2Proof.Machine

/-- A channel does not doze while it is held, or while an approved change waits for it (R300). -/
def State.keptAwake (n : Nat) (s : State) : Bool := s.held n || (s.pt.st = .approved && s.pt.affected.contains n)

/-- DOZE_ENTRY (R350): the channel has been idle for DOZE_IDLE consecutive CORE cycles. -/
def State.dozes (n : Nat) (s : State) : State :=
  if s.keptAwake n || decide (s.coreNow < s.busyAt.get 0 n + (s.ch (s.lead n)).clk.dozeIdle) then s
  else s.onOwn n (fun e c => c.enterDoze e.stamp)

/-- The end of a wake from SLUMBER (R356), at the earliest 399 keep cycles after the wake request: it finds the PLLs locked, or the CORE
clock is missing (R314). -/
def State.slumberWake (n : Nat) (s : State) : State :=
  let k := (s.ch (s.lead n)).clk
  if s.isSecond n || k.st ≠ .waking || !k.fromSlumber || decide (s.time < k.wakeAt + 7980) then s
  else
    let s1 := if s.ck.pll ≠ .locked then s.raiseShared .ck 0 {} else s
    s1.atChan n .none (fun e c => c.wakeDone e true)

/-- ALARM (R354), unless its crossing is in quarantine (R368). -/
def State.alarmRings (n : Nat) (s : State) : State :=
  if s.keepCut n then s else s.atChan n .none (fun e c => c.alarm e.time)

/-- TM_ALARM_EXPIRY (R428): at a keep tick after the write. -/
def State.tmExpires (s : State) : State :=
  if s.ck.tmArmed && decide (s.ck.tmAlarm ≤ s.time) && decide (s.ck.tmAlarmAt < s.time) then
    { s with ck := { s.ck with tmArmed := false, tmEvent := true } }
  else s

/-- DOZE_ENTRY (R350). -/
def execDozeEntry (c : ChanId) (s : State) : Host.Outcome State Fault Refusal :=
  act s fun s => s.dozes c.val

/-- SLUMBER_ENTRY (R351). -/
def execSlumberEntry (c : ChanId) (s : State) : Host.Outcome State Fault Refusal :=
  act s fun s => s.onOwn c.val (fun e c => c.enterSlumber e.time)

/-- WAKE_REQUEST (R353). -/
def execWakeRequest (c : ChanId) (s : State) : Host.Outcome State Fault Refusal := act s fun s => s.atChan c.val .none (fun e c => c.wakeUp e.time)

/-- DOZE_WAKE_DONE (R355). -/
def execDozeWakeDone (c : ChanId) (s : State) : Host.Outcome State Fault Refusal :=
  act s fun s => s.atChan c.val .none (fun e c => c.wakeDone e false)

/-- SLUMBER_WAKE_DONE (R356). -/
def execSlumberWakeDone (c : ChanId) (s : State) : Host.Outcome State Fault Refusal := act s fun s => s.slumberWake c.val

/-- ALARM (R354). -/
def execAlarm (c : ChanId) (s : State) : Host.Outcome State Fault Refusal := act s fun s => s.alarmRings c.val

/-- TM_ALARM (R428): a write of the register. -/
def execTmAlarm (who : Requester) (v : Word) (s : State) : Host.Outcome State Fault Refusal := act s fun s => s.hostWrite who 0x5008 v.toNat

/-- TM_ALARM_EXPIRY (R428). -/
def execTmAlarmExpiry (s : State) : Host.Outcome State Fault Refusal := act s State.tmExpires

/-- CK_PLL_LOCK (R314). -/
def execCkPllLock (s : State) : Host.Outcome State Fault Refusal := act s State.lockLost

/-- CK_KEEP_CLOCK (R314). -/
def execCkKeepClock (s : State) : Host.Outcome State Fault Refusal := act s fun s => s.raiseShared .ck 1 {}

/-- QUARANTINE (R368). -/
def execQuarantine (crossing : BitVec 16) (dropped : Nat) (s : State) : Host.Outcome State Fault Refusal :=
  act s fun s => s.quarantine crossing.toNat dropped

/-- RESET_DONE_EXCHANGE (R369). -/
def execResetDoneExchange (crossing : BitVec 16) (s : State) : Host.Outcome State Fault Refusal := act s fun s => s.exchangeDone crossing.toNat

/-- CK_QUARANTINE (R369). -/
def execCkQuarantine (crossing : BitVec 16) (s : State) : Host.Outcome State Fault Refusal := act s fun s => s.exchangeLate crossing.toNat

/-- BAY_TELEMETRY (R32). -/
def execBayTelemetry (bay : BitVec 3) (cls : BitVec 2) (power : BitVec 16) (fallback : Bool) (s : State) : Host.Outcome State Fault Refusal :=
  act s fun s => s.telemetry bay.toNat cls.toNat power.toNat fallback

/-- FEED_STALE (R32). -/
def execFeedStale (bay : BitVec 3) (s : State) : Host.Outcome State Fault Refusal := act s fun s => s.feedTimeout bay.toNat

/-- KEEP_TICK (R358). -/
def execKeepTick (s : State) : Host.Outcome State Fault Refusal := act s State.keepTick

/-- PLL_LOCKED (R348). -/
def execPllLocked (s : State) : Host.Outcome State Fault Refusal :=
  act s fun s => match s.ck.pll with | .locking => { s with ck := { s.ck with pll := .locked } } | _ => s

end Sys2Proof.Machine
end

