-- ==== Sys2Proof/Machine/DebugCommands.lean ====
section
/-! DEFINITION. The commands of inspection, hand setting and the blotter (R398 to R410). -/

namespace Sys2Proof.Machine

/-- The word of DB_HAND_CMD for an action. -/
def handWord (kind action : Nat) (index : BitVec 23) : Nat := at_ 63 60 kind + at_ 59 56 action + index.toNat

/-- INSPECTION_SNAPSHOT (R398): a write of DB_INSP_SEL. -/
def execInspectionSnapshot (who : Requester) (c : ChanId) (v : Word) (s : State) : Host.Outcome State Fault Refusal :=
  act s fun s => s.hostWrite who (chanOff c.val 0xB 0x000) v.toNat

/-- HAND_WRITE of a flag (R402): a write of DB_HAND_CMD. -/
def execHandWriteFlag (who : Requester) (c : ChanId) (index : BitVec 23) (s : State) : Host.Outcome State Fault Refusal :=
  act s fun s => s.hostWrite who (chanOff c.val 0xB 0x118) (handWord 0 0 index)

/-- HAND_WRITE of a semaphore (R402): a write of DB_HAND_CMD. -/
def execHandWriteSemaphore (who : Requester) (c : ChanId) (index : BitVec 23) (s : State) : Host.Outcome State Fault Refusal :=
  act s fun s => s.hostWrite who (chanOff c.val 0xB 0x118) (handWord 1 0 index)

/-- HAND_WRITE of a stream pair (R402): a write of DB_HAND_CMD. -/
def execHandWriteStream (who : Requester) (c : ChanId) (index : BitVec 23) (s : State) : Host.Outcome State Fault Refusal :=
  act s fun s => s.hostWrite who (chanOff c.val 0xB 0x118) (handWord 2 0 index)

/-- HAND_WRITE of a barrier (R402): a write of DB_HAND_CMD. -/
def execHandWriteBarrier (who : Requester) (c : ChanId) (index : BitVec 23) (s : State) : Host.Outcome State Fault Refusal :=
  act s fun s => s.hostWrite who (chanOff c.val 0xB 0x118) (handWord 3 0 index)

/-- HAND RELEASE of a barrier (R402): a write of DB_HAND_CMD. -/
def execHandRelease (who : Requester) (c : ChanId) (index : BitVec 23) (s : State) : Host.Outcome State Fault Refusal :=
  act s fun s => s.hostWrite who (chanOff c.val 0xB 0x118) (handWord 3 1 index)

/-- HAND CLEAR of a barrier (R402): a write of DB_HAND_CMD. -/
def execHandClear (who : Requester) (c : ChanId) (index : BitVec 23) (s : State) : Host.Outcome State Fault Refusal :=
  act s fun s => s.hostWrite who (chanOff c.val 0xB 0x118) (handWord 3 2 index)

/-- HAND FREE of a connection (R402): a write of DB_HAND_CMD. -/
def execHandFree (who : Requester) (c : ChanId) (index : BitVec 23) (s : State) : Host.Outcome State Fault Refusal :=
  act s fun s => s.hostWrite who (chanOff c.val 0xB 0x118) (handWord 6 1 index)

/-- BLOTTER_GO (R404): a write of DB_BLOT_CTL. -/
def execBlotterGo (who : Requester) (c : ChanId) (v : Word) (s : State) : Host.Outcome State Fault Refusal :=
  act s fun s => s.hostWrite who (chanOff c.val 0xB 0x200) v.toNat

/-- BLOTTER_COMPLETE (R410). -/
def execBlotterComplete (c : ChanId) (s : State) : Host.Outcome State Fault Refusal := act s fun s => s.atChan c.val .none Ch.blotComplete

/-- BLOTTER_RELEASE (R405): a write of DB_BLOT_CTL. -/
def execBlotterRelease (who : Requester) (c : ChanId) (v : Word) (s : State) : Host.Outcome State Fault Refusal :=
  act s fun s => s.hostWrite who (chanOff c.val 0xB 0x200) v.toNat

end Sys2Proof.Machine
end

