-- ==== Sys2Proof/Machine/FaultCommands.lean ====
section
/-! DEFINITION. The commands of fault sets, shadows, SCE_ERR_N and the compare unit (R315 to R339). -/

namespace Sys2Proof.Machine

/-- UNMATCHED_OUTPUT (R335, R339): an output that one side built has waited 256 CORE cycles for the other side's. -/
def State.unmatched (n k : Nat) (s : State) : State :=
  let p := s.pair n
  let a : Waiting := p.first.get [] k
  let b : Waiting := p.second.get [] k
  if p.st ≠ .paired || (a.lead s.coreNow ≠ 256 && b.lead s.coreNow ≠ 256) then s
  else
    (s.setPair n { p with skew := 256 }).diverge n (s.env n false .none) (s.env n true .none) (s.ch n) (s.ch (n + 1))
      (some (k, (a.head?).map (·.1), (b.head?).map (·.1))) []

/-- FLT_ACK (R317): a write of _FLT_ACK. -/
def execFltAck (who : Requester) (u : FltUnit) (v : Word) (s : State) : Host.Outcome State Fault Refusal :=
  act s fun s => s.hostWrite who (faultOff u 0x18) v.toNat

/-- FLT_FORCE (R326): a write of _FLT_FORCE. -/
def execFltForce (who : Requester) (u : FltUnit) (v : Word) (s : State) : Host.Outcome State Fault Refusal :=
  act s fun s => s.hostWrite who (faultOff u 0x10) v.toNat

/-- CE_WINDOW_WRITE (R315, R324): a write of _CE_WINDOW. -/
def execCeWindowWrite (who : Requester) (u : FltUnit) (v : Word) (s : State) : Host.Outcome State Fault Refusal :=
  act s fun s => s.hostWrite who (faultOff u 0x60) v.toNat

/-- FAULT_REACTION_COMPLETE (R321). -/
def execFaultReactionComplete (u : FltUnit) (s : State) : Host.Outcome State Fault Refusal := act s fun s => s.onUnit u reactionDone

/-- DRYDOWN_EXPIRY (R321). -/
def execDrydownExpiry (u : FltUnit) (s : State) : Host.Outcome State Fault Refusal := act s fun s => s.onUnit u (drydownOver s.time)

/-- TRACKER_CLOSE (R322). -/
def execTrackerClose (u : FltUnit) (s : State) : Host.Outcome State Fault Refusal := act s fun s => s.onUnit u (closeTrackers s.time)

/-- WEAR_WINDOW_BOUNDARY (R324). -/
def execWearWindowBoundary (u : FltUnit) (s : State) : Host.Outcome State Fault Refusal := act s fun s => s.onUnit u (rollWear s.time)

/-- SHADOW_END (R325). -/
def execShadowEnd (s : State) : Host.Outcome State Fault Refusal := act s State.endShadows

/-- HP_ERR_ACK (R329): a write of the register. -/
def execHpErrAck (who : Requester) (v : Word) (s : State) : Host.Outcome State Fault Refusal := act s fun s => s.hostWrite who 0x2408 v.toNat

/-- ERR_LOW_TIME_END (R329). -/
def execErrLowTimeEnd (s : State) : Host.Outcome State Fault Refusal := act s fun s => { s with hp := s.hp.lowTimeEnd }

/-- UNMATCHED_OUTPUT (R335): in a stream of A+B, or of C+D. -/
def execUnmatchedOutput (second : Bool) (stream : BitVec 3) (s : State) : Host.Outcome State Fault Refusal :=
  act s fun s => s.unmatched (if second then 2 else 0) stream.toNat

end Sys2Proof.Machine
end

