-- ==== Sys2Proof/Machine/HostCommands.lean ====
section
/-! DEFINITION. The commands of the host port: host operations, watches, forced releases and plain register accesses (R103 to R107, R220, R421, R430). -/

namespace Sys2Proof.Machine

/-- The word of HW_OP_CMD for an operation. -/
def hostOpWord (op : Nat) (cls : BitVec 3) (index : BitVec 23) : Nat := at_ 38 16 index.toNat + at_ 10 8 cls.toNat + op

/-- HOST_FLAG_SET (R103): a write of HW_OP_CMD. -/
def execHostFlagSet (who : Requester) (c : ChanId) (cls : BitVec 3) (index : BitVec 23) (s : State) : Host.Outcome State Fault Refusal :=
  act s fun s => s.hostWrite who (chanOff c.val 0xC 0x308) (hostOpWord opFlagSet cls index)

/-- HOST_FLAG_CLEAR (R103): a write of HW_OP_CMD. -/
def execHostFlagClear (who : Requester) (c : ChanId) (cls : BitVec 3) (index : BitVec 23) (s : State) : Host.Outcome State Fault Refusal :=
  act s fun s => s.hostWrite who (chanOff c.val 0xC 0x308) (hostOpWord opFlagClear cls index)

/-- HOST_FLAG_TEST (R103): a write of HW_OP_CMD. -/
def execHostFlagTest (who : Requester) (c : ChanId) (cls : BitVec 3) (index : BitVec 23) (s : State) : Host.Outcome State Fault Refusal :=
  act s fun s => s.hostWrite who (chanOff c.val 0xC 0x308) (hostOpWord opFlagTest cls index)

/-- HOST_FLAG_TEST_CLEAR (R103): a write of HW_OP_CMD. -/
def execHostFlagTestClear (who : Requester) (c : ChanId) (cls : BitVec 3) (index : BitVec 23) (s : State) : Host.Outcome State Fault Refusal :=
  act s fun s => s.hostWrite who (chanOff c.val 0xC 0x308) (hostOpWord opFlagTestClear cls index)

/-- HOST_SEM_ADD (R103): a write of HW_OP_CMD. -/
def execHostSemAdd (who : Requester) (c : ChanId) (cls : BitVec 3) (index : BitVec 23) (s : State) : Host.Outcome State Fault Refusal :=
  act s fun s => s.hostWrite who (chanOff c.val 0xC 0x308) (hostOpWord opSemAdd cls index)

/-- HOST_SEM_SUB (R103): a write of HW_OP_CMD. -/
def execHostSemSub (who : Requester) (c : ChanId) (cls : BitVec 3) (index : BitVec 23) (s : State) : Host.Outcome State Fault Refusal :=
  act s fun s => s.hostWrite who (chanOff c.val 0xC 0x308) (hostOpWord opSemSub cls index)

/-- HOST_SEM_TRYSUB (R103): a write of HW_OP_CMD. -/
def execHostSemTrysub (who : Requester) (c : ChanId) (cls : BitVec 3) (index : BitVec 23) (s : State) : Host.Outcome State Fault Refusal :=
  act s fun s => s.hostWrite who (chanOff c.val 0xC 0x308) (hostOpWord opSemTrysub cls index)

/-- HOST_SEM_READ (R103): a write of HW_OP_CMD. -/
def execHostSemRead (who : Requester) (c : ChanId) (cls : BitVec 3) (index : BitVec 23) (s : State) : Host.Outcome State Fault Refusal :=
  act s fun s => s.hostWrite who (chanOff c.val 0xC 0x308) (hostOpWord opSemRead cls index)

/-- HW_WATCH (R105): a write of HW_WATCH_n. -/
def execHwWatch (who : Requester) (c : ChanId) (n : BitVec 6) (v : Word) (s : State) : Host.Outcome State Fault Refusal :=
  act s fun s => s.hostWrite who (chanOff c.val 0xC (8 * n.toNat)) v.toNat

/-- HW_SLOT_CANCEL (R107): a write of the register. -/
def execHwSlotCancel (who : Requester) (c : ChanId) (v : Word) (s : State) : Host.Outcome State Fault Refusal :=
  act s fun s => s.hostWrite who (chanOff c.val 0xC 0x320) v.toNat

/-- LT_FORCE (R220): a write of the register. -/
def execLtForce (who : Requester) (c : ChanId) (v : Word) (s : State) : Host.Outcome State Fault Refusal :=
  act s fun s => s.hostWrite who (chanOff c.val 4 0x100) v.toNat

/-- REGISTER_WRITE (R430): a write of any offset, `width` bits wide. -/
def execRegisterWrite (who : Requester) (offset : BitVec 23) (width : Nat) (v : Word) (s : State) : Host.Outcome State Fault Refusal :=
  act s fun s => s.access ⟨who, offset.toNat, true, v.toNat⟩ width

/-- REGISTER_READ_CLEAR (R421): a read of any offset, `width` bits wide. -/
def execRegisterReadClear (who : Requester) (offset : BitVec 23) (width : Nat) (s : State) : Host.Outcome State Fault Refusal :=
  act s fun s => s.access ⟨who, offset.toNat, false, 0⟩ width

end Sys2Proof.Machine
end

