-- ==== Sys2Proof/Machine/LaneCommands.lean ====
section
/-! DEFINITION. The commands of lanes, barriers, reductions, locks, fences and the endpoint map (R20, R31, R138 to R165, R178 to R187, R216 to R219). -/

namespace Sys2Proof.Machine

/-- The hub finds lane `l` complete (R138, R232): once for a round, which then waits at the gate, for a translation, or for its
accord. -/
def Ch.laneComplete (l : Nat) (e : Env) (c : Ch) : Ch :=
  let v := c.lane l
  let counted := match c.accObj (.lane l) with
    | some k => (c.accState k).localDone
    | none => false
  if v.complete && !v.gated && v.stalled.isNone && !counted then c.complete e (.lane l) else c

/-- A lane timeout with its ACTION (R151). -/
def Ch.laneTimeout (l : Nat) (e : Env) (c : Ch) : Ch :=
  if !(c.lane l).expired e.time then c
  else
    let c1 := c.laneTimesOut e l
    if (c1.lane l).action then c1.putLane l { c1.lane l with st := .holding }
    else (c1.forceLane e l .timedOut).stopEnding (.lane l)

/-- A barrier timeout with its ACTION (R165). -/
def Ch.barTimeout (i : Nat) (e : Env) (c : Ch) : Ch :=
  if !(c.bar i).expired e.time then c
  else
    let c1 := c.barTimesOut e i
    if (c1.bar i).action then c1.putBar i { c1.bar i with holding := true }
    else (c1.stopEnding (.bar i)).discardBar e i stTimeout true

/-- The RU combines its oldest arrival; a bank that its queue stalled goes on (R178). -/
def Ch.ruStep (e : Env) (c : Ch) : Ch :=
  let c1 := (c.combineNext e).settle e
  c1.serveBanks e (c1.rq.bankQ.length + c1.rq.full.length)

/-- ARRIVE_STROBE (R140). -/
def execArriveStrobe (endpoint : BitVec 12) (lane : BitVec 5) (s : State) : Host.Outcome State Fault Refusal :=
  act s fun s => s.strobe endpoint.toNat lane.toNat

/-- LANE_RELEASE (R138). -/
def execLaneRelease (c : ChanId) (lane : BitVec 5) (s : State) : Host.Outcome State Fault Refusal :=
  actLive s c.val .none (Ch.laneComplete lane.toNat)

/-- LANE_TIMEOUT (R151). -/
def execLaneTimeout (c : ChanId) (lane : BitVec 5) (s : State) : Host.Outcome State Fault Refusal :=
  actLive s c.val .none (Ch.laneTimeout lane.toNat)

/-- PRELOAD (R147): a write of BW_LANE_CTL_l. -/
def execPreload (who : Requester) (c : ChanId) (lane : BitVec 5) (v : Word) (s : State) : Host.Outcome State Fault Refusal :=
  act s fun s => s.hostWrite who (chanOff c.val 3 (0x100 + 8 * lane.toNat)) v.toNat

/-- A translation completes while its channel's clocks run; in a channel that is not in RUN no release waits for it (R147). -/
def Ch.preloadEnds (l : Nat) (e : Env) (c : Ch) : Ch :=
  if c.asleep || (!c.live && (c.lane l).stalled.isSome) then c else c.preloadDone e l

/-- PRELOAD_COMPLETE (R147). -/
def execPreloadComplete (c : ChanId) (lane : BitVec 5) (s : State) : Host.Outcome State Fault Refusal :=
  act s fun s => s.atChan c.val .none (Ch.preloadEnds lane.toNat)

/-- REARM (R152): a write of BW_LANE_CTL_l. -/
def execRearm (who : Requester) (c : ChanId) (lane : BitVec 5) (v : Word) (s : State) : Host.Outcome State Fault Refusal :=
  act s fun s => s.hostWrite who (chanOff c.val 3 (0x100 + 8 * lane.toNat)) v.toNat

/-- BARRIER_TIMEOUT (R165). -/
def execBarrierTimeout (c : ChanId) (bar : BitVec 15) (s : State) : Host.Outcome State Fault Refusal :=
  actLive s c.val .none (Ch.barTimeout bar.toNat)

/-- RU_COMBINE (R178). -/
def execRuCombine (c : ChanId) (mem : MemErr) (s : State) : Host.Outcome State Fault Refusal :=
  act s fun s => (s.brings mem).atChan c.val mem (whenLive Ch.ruStep)

/-- RU_NF_INFO_CLEAR (R187): a write of RU_NF_INFO. -/
def execRuNfInfoClear (who : Requester) (c : ChanId) (v : Word) (s : State) : Host.Outcome State Fault Refusal :=
  act s fun s => s.hostWrite who (chanOff c.val 5 0x200) v.toNat

/-- ENDPOINT_RESET_EVENT (R31). -/
def execEndpointResetEvent (endpoint : BitVec 12) (s : State) : Host.Outcome State Fault Refusal :=
  act s fun s => s.resetEvent endpoint.toNat

/-- FENCE_REACTION (R131, R132). -/
def execFenceReaction (c : ChanId) (conn : BitVec 14) (s : State) : Host.Outcome State Fault Refusal :=
  actLive s c.val .none (fun e c => (c.fenceReaction e conn.toNat).settleFences e.time)

/-- LOCK_SCAN (R216). -/
def execLockScan (c : ChanId) (s : State) : Host.Outcome State Fault Refusal := actLive s c.val .none Ch.startScan

/-- LOCK_SCAN_END (R219). -/
def execLockScanEnd (c : ChanId) (s : State) : Host.Outcome State Fault Refusal := actLive s c.val .none Ch.endScan

/-- CH_MAP_DATA (R21): a write of the register. -/
def execChMapData (who : Requester) (c : ChanId) (v : Word) (s : State) : Host.Outcome State Fault Refusal :=
  act s fun s => s.hostWrite who (chanOff c.val 0 0x108) v.toNat

end Sys2Proof.Machine
end

