-- ==== Sys2Proof/Machine/PhaseCommands.lean ====
section
/-! DEFINITION. The commands of phases and the budget (R227, R237 to R249). -/

namespace Sys2Proof.Machine

/-- BUDGET_GATE_PASS (R247). -/
def execBudgetGatePass (c : ChanId) (s : State) : Host.Outcome State Fault Refusal := actLive s c.val .none Ch.gatePass

/-- LEAN_PASS (R248). -/
def execLeanPass (c : ChanId) (seq : BitVec 4) (s : State) : Host.Outcome State Fault Refusal :=
  actLive s c.val .none (fun e c => c.leanPass e seq.toNat)

/-- DEADLINE_OVERRUN (R237). -/
def execDeadlineOverrun (c : ChanId) (seq : BitVec 4) (s : State) : Host.Outcome State Fault Refusal :=
  actLive s c.val .none (fun e c => c.deadlineOverrun e seq.toNat)

/-- AUDIT_COMPLETE (R239). -/
def execAuditComplete (c : ChanId) (seq : BitVec 4) (s : State) : Host.Outcome State Fault Refusal :=
  actLive s c.val .none (fun e c => c.auditComplete e seq.toNat)

/-- PS_SEQ_SELECT (R227): a write of PS_SEQ_CTL_s. -/
def execPsSeqSelect (who : Requester) (c : ChanId) (seq : BitVec 4) (v : Word) (s : State) : Host.Outcome State Fault Refusal :=
  act s fun s => s.hostWrite who (chanOff c.val 7 (0x100 + 8 * seq.toNat)) v.toNat

/-- PS_SEQ_RESTART (R241): a write of PS_SEQ_CTL_s. -/
def execPsSeqRestart (who : Requester) (c : ChanId) (seq : BitVec 4) (v : Word) (s : State) : Host.Outcome State Fault Refusal :=
  act s fun s => s.hostWrite who (chanOff c.val 7 (0x100 + 8 * seq.toNat)) v.toNat

/-- PS_SEQ_STOP (R242): a write of PS_SEQ_CTL_s. -/
def execPsSeqStop (who : Requester) (c : ChanId) (seq : BitVec 4) (v : Word) (s : State) : Host.Outcome State Fault Refusal :=
  act s fun s => s.hostWrite who (chanOff c.val 7 (0x100 + 8 * seq.toNat)) v.toNat

/-- TRIP_ASSERT (R28, R249): SCE_TRIP_N falls; the keep edges that follow take it. -/
def execTripAssert (s : State) : Host.Outcome State Fault Refusal := act s fun s => { s with tripPin := true }

/-- TRIP_RELEASE (R28, R249): SCE_TRIP_N rises. -/
def execTripRelease (s : State) : Host.Outcome State Fault Refusal := act s fun s => { s with tripPin := false }

end Sys2Proof.Machine
end

