-- ==== Sys2Proof/Machine/SrnCommands.lean ====
section
/-! DEFINITION. The commands of the SRN: one request for every opcode, a packet that cannot be read, a trailer (R40 to R69). -/

namespace Sys2Proof.Machine

/-- FLAG_SET (R77), as an SRN request. -/
def execFlagSet (r : Req) (s : State) : Host.Outcome State Fault Refusal := act s fun s => s.request opFlagSet r

/-- FLAG_CLEAR (R77), as an SRN request. -/
def execFlagClear (r : Req) (s : State) : Host.Outcome State Fault Refusal := act s fun s => s.request opFlagClear r

/-- FLAG_TEST (R77), as an SRN request. -/
def execFlagTest (r : Req) (s : State) : Host.Outcome State Fault Refusal := act s fun s => s.request opFlagTest r

/-- FLAG_WAIT_SET (R77), as an SRN request. -/
def execFlagWaitSet (r : Req) (s : State) : Host.Outcome State Fault Refusal := act s fun s => s.request opFlagWaitSet r

/-- FLAG_WAIT_CLEAR (R77), as an SRN request. -/
def execFlagWaitClear (r : Req) (s : State) : Host.Outcome State Fault Refusal := act s fun s => s.request opFlagWaitClear r

/-- FLAG_TEST_CLEAR (R77), as an SRN request. -/
def execFlagTestClear (r : Req) (s : State) : Host.Outcome State Fault Refusal := act s fun s => s.request opFlagTestClear r

/-- SEM_ADD (R84), as an SRN request. -/
def execSemAdd (r : Req) (s : State) : Host.Outcome State Fault Refusal := act s fun s => s.request opSemAdd r

/-- SEM_SUB (R84), as an SRN request. -/
def execSemSub (r : Req) (s : State) : Host.Outcome State Fault Refusal := act s fun s => s.request opSemSub r

/-- SEM_TRYSUB (R84), as an SRN request. -/
def execSemTrysub (r : Req) (s : State) : Host.Outcome State Fault Refusal := act s fun s => s.request opSemTrysub r

/-- SEM_WAITSUB (R84), as an SRN request. -/
def execSemWaitsub (r : Req) (s : State) : Host.Outcome State Fault Refusal := act s fun s => s.request opSemWaitsub r

/-- SEM_READ (R84), as an SRN request. -/
def execSemRead (r : Req) (s : State) : Host.Outcome State Fault Refusal := act s fun s => s.request opSemRead r

/-- STR_PRODUCE (R112), as an SRN request. -/
def execStrProduce (r : Req) (s : State) : Host.Outcome State Fault Refusal := act s fun s => s.request opStrProduce r

/-- STR_CONSUME (R112), as an SRN request. -/
def execStrConsume (r : Req) (s : State) : Host.Outcome State Fault Refusal := act s fun s => s.request opStrConsume r

/-- STR_WAIT_SPACE (R112), as an SRN request. -/
def execStrWaitSpace (r : Req) (s : State) : Host.Outcome State Fault Refusal := act s fun s => s.request opStrWaitSpace r

/-- STR_WAIT_DATA (R112), as an SRN request. -/
def execStrWaitData (r : Req) (s : State) : Host.Outcome State Fault Refusal := act s fun s => s.request opStrWaitData r

/-- STR_READ (R111), as an SRN request. -/
def execStrRead (r : Req) (s : State) : Host.Outcome State Fault Refusal := act s fun s => s.request opStrRead r

/-- BAR_ARRIVE (R159), as an SRN request. -/
def execBarArrive (r : Req) (s : State) : Host.Outcome State Fault Refusal := act s fun s => s.request opBarArrive r

/-- BAR_ARRIVE_WAIT (R162), as an SRN request. -/
def execBarArriveWait (r : Req) (s : State) : Host.Outcome State Fault Refusal := act s fun s => s.request opBarArriveWait r

/-- BAR_REDUCE_ARRIVE (R175), as an SRN request. -/
def execBarReduceArrive (r : Req) (s : State) : Host.Outcome State Fault Refusal := act s fun s => s.request opBarReduceArrive r

/-- BAR_READ_RESULT (R198), as an SRN request. -/
def execBarReadResult (r : Req) (s : State) : Host.Outcome State Fault Refusal := act s fun s => s.request opBarReadResult r

/-- LOCK_CLAIM (R211), as an SRN request. -/
def execLockClaim (r : Req) (s : State) : Host.Outcome State Fault Refusal := act s fun s => s.request opLockClaim r

/-- LOCK_QUERY (R211), as an SRN request. -/
def execLockQuery (r : Req) (s : State) : Host.Outcome State Fault Refusal := act s fun s => s.request opLockQuery r

/-- LOCK_RELEASE (R212), as an SRN request. -/
def execLockRelease (r : Req) (s : State) : Host.Outcome State Fault Refusal := act s fun s => s.request opLockRelease r

/-- LOCK_WAIT (R211), as an SRN request. -/
def execLockWait (r : Req) (s : State) : Host.Outcome State Fault Refusal := act s fun s => s.request opLockWait r

/-- CONN_ACCEPT (R118), as an SRN request. -/
def execConnAccept (r : Req) (s : State) : Host.Outcome State Fault Refusal := act s fun s => s.request opConnAccept r

/-- CONN_OPEN (R119), as an SRN request. -/
def execConnOpen (r : Req) (s : State) : Host.Outcome State Fault Refusal := act s fun s => s.request opConnOpen r

/-- CONN_RESERVE (R122), as an SRN request. -/
def execConnReserve (r : Req) (s : State) : Host.Outcome State Fault Refusal := act s fun s => s.request opConnReserve r

/-- CONN_COMMIT (R125), as an SRN request. -/
def execConnCommit (r : Req) (s : State) : Host.Outcome State Fault Refusal := act s fun s => s.request opConnCommit r

/-- CONN_CONSUME (R126), as an SRN request. -/
def execConnConsume (r : Req) (s : State) : Host.Outcome State Fault Refusal := act s fun s => s.request opConnConsume r

/-- CONN_CLOSE (R129), as an SRN request. -/
def execConnClose (r : Req) (s : State) : Host.Outcome State Fault Refusal := act s fun s => s.request opConnClose r

/-- WAIT_ANY (R93), as an SRN request. -/
def execWaitAny (r : Req) (s : State) : Host.Outcome State Fault Refusal := act s fun s => s.request opWaitAny r

/-- SLOT_CANCEL (R99), as an SRN request. -/
def execSlotCancel (r : Req) (s : State) : Host.Outcome State Fault Refusal := act s fun s => s.request opSlotCancel r

/-- SEQ_SELECT (R227), as an SRN request. -/
def execSeqSelect (r : Req) (s : State) : Host.Outcome State Fault Refusal := act s fun s => s.request opSeqSelect r

/-- PACKET_ERROR (R69). -/
def execPacketError (endpoint : BitVec 12) (s : State) : Host.Outcome State Fault Refusal :=
  act s fun s => s.unreadable endpoint.toNat

/-- TRAILER (R60 to R66). -/
def execTrailer (t : TrailerArg) (s : State) : Host.Outcome State Fault Refusal := act s fun s => s.trailer t

/-- RESPONSE_DELIVERED (R37, R101). -/
def execResponseDelivered (endpoint : BitVec 12) (s : State) : Host.Outcome State Fault Refusal :=
  act s fun s => s.delivered endpoint.toNat

end Sys2Proof.Machine
end

