-- ==== Sys2Proof/Machine/StartupCommands.lean ====
section
/-! DEFINITION. The commands of power, the image, the load gate, restart and close (R372 to R394). -/

namespace Sys2Proof.Machine

/-- POR_ASSERT (R372). -/
def execPorAssert (s : State) : Host.Outcome State Fault Refusal := act s State.powerDown

/-- POR_RELEASE (R373): nothing while SCE_POR_N is high already. -/
def execPorRelease (f : FlashDev) (s : State) : Host.Outcome State Fault Refusal := 
  if s.por then .next (s.begin.powerUp f).setPll else .next s

/-- FLASH_READ_TIMEOUT (R379). -/
def execFlashReadTimeout (t : FlashTimeout) (s : State) : Host.Outcome State Fault Refusal :=
  act s fun s => s.flashTimeout t.read t.reinitOk

/-- LOAD_GATE_READY (R391). -/
def execLoadGateReady (s : State) : Host.Outcome State Fault Refusal := act s State.gateReady

/-- GATE_OPEN (R391): a write of PT_LOAD_GATE. -/
def execGateOpen (who : Requester) (v : Word) (s : State) : Host.Outcome State Fault Refusal := act s fun s => s.hostWrite who 0x3140 v.toNat

/-- GATE_REFUSE (R391): a write of PT_LOAD_GATE. -/
def execGateRefuse (who : Requester) (v : Word) (s : State) : Host.Outcome State Fault Refusal := act s fun s => s.hostWrite who 0x3140 v.toNat

/-- GATE_TIMEOUT (R391). -/
def execGateTimeout (s : State) : Host.Outcome State Fault Refusal := act s State.gateTimeout

/-- CHANNEL_RESTART (R393): a write of CH_CTL. -/
def execChannelRestart (who : Requester) (c : ChanId) (v : Word) (s : State) : Host.Outcome State Fault Refusal :=
  act s fun s => s.hostWrite who (chanOff c.val 0 0x008) v.toNat

/-- RESTART_SLOT (R393). -/
def execRestartSlot (c : ChanId) (burst : List Byte) (s : State) : Host.Outcome State Fault Refusal := act s fun s => s.restartSlot c.val burst

/-- RESTART_LOAD_DONE (R393). -/
def execRestartLoadDone (c : ChanId) (s : State) : Host.Outcome State Fault Refusal := act s fun s => s.restartDone c.val

/-- ORDERLY_CLOSE (R394): a write of CH_CTL. -/
def execOrderlyClose (who : Requester) (c : ChanId) (v : Word) (s : State) : Host.Outcome State Fault Refusal :=
  act s fun s => s.hostWrite who (chanOff c.val 0 0x008) v.toNat

/-- CLOSE_COMPLETE (R394). -/
def execCloseComplete (c : ChanId) (s : State) : Host.Outcome State Fault Refusal := act s fun s => s.atChan c.val .none Ch.closeComplete

end Sys2Proof.Machine
end

