-- ==== Sys2Proof/Machine/TableCommands.lean ====
section
/-! DEFINITION. The commands of the two-party table change (R294 to R301). -/

namespace Sys2Proof.Machine

/-- PT_OPEN (R295): a write of the register. -/
def execPtOpen (who : Requester) (v : Word) (s : State) : Host.Outcome State Fault Refusal :=
  act s fun s => s.hostWrite who 0x3010 v.toNat

/-- PT_STAGE_DATA (R295): a write of the register. -/
def execPtStageData (who : Requester) (v : Word) (s : State) : Host.Outcome State Fault Refusal :=
  act s fun s => s.hostWrite who 0x3048 v.toNat

/-- PT_SUBMIT (R296): a write of the register. -/
def execPtSubmit (who : Requester) (v : Word) (s : State) : Host.Outcome State Fault Refusal :=
  act s fun s => s.hostWrite who 0x3018 v.toNat

/-- PT_APPROVE (R297): a write of the register. -/
def execPtApprove (who : Requester) (v : Word) (s : State) : Host.Outcome State Fault Refusal :=
  act s fun s => s.hostWrite who 0x3020 v.toNat

/-- PT_ABORT (R298): a write of the register. -/
def execPtAbort (who : Requester) (v : Word) (s : State) : Host.Outcome State Fault Refusal :=
  act s fun s => s.hostWrite who 0x3028 v.toNat

/-- SUBMIT_CHECK_DONE (R296). -/
def execSubmitCheckDone (s : State) : Host.Outcome State Fault Refusal := actRunning s State.submitDone

/-- COMMIT_HOLD (R300). -/
def execCommitHold (s : State) : Host.Outcome State Fault Refusal := actRunning s State.commitHold

/-- COMMIT (R300). -/
def execCommit (s : State) : Host.Outcome State Fault Refusal := actRunning s State.commitNow

/-- WINDOW_EXPIRY (R300). -/
def execWindowExpiry (s : State) : Host.Outcome State Fault Refusal := actRunning s State.windowExpires

end Sys2Proof.Machine
end

