-- ==== Sys2Proof/Machine/Dispatch.lean ====
section
/-! DEFINITION. The dispatch: one arm for each command, each a direct call of that command's meaning. The
meanings do not touch the queue of waiting commands. -/

namespace Sys2Proof.Machine

def exec (i : Instr) (s : State) : Host.Outcome State Fault Refusal :=
  match i with
  | .flagSet r => Sys2Proof.Machine.execFlagSet r s
  | .flagClear r => Sys2Proof.Machine.execFlagClear r s
  | .flagTest r => Sys2Proof.Machine.execFlagTest r s
  | .flagWaitSet r => Sys2Proof.Machine.execFlagWaitSet r s
  | .flagWaitClear r => Sys2Proof.Machine.execFlagWaitClear r s
  | .flagTestClear r => Sys2Proof.Machine.execFlagTestClear r s
  | .semAdd r => Sys2Proof.Machine.execSemAdd r s
  | .semSub r => Sys2Proof.Machine.execSemSub r s
  | .semTrysub r => Sys2Proof.Machine.execSemTrysub r s
  | .semWaitsub r => Sys2Proof.Machine.execSemWaitsub r s
  | .semRead r => Sys2Proof.Machine.execSemRead r s
  | .strProduce r => Sys2Proof.Machine.execStrProduce r s
  | .strConsume r => Sys2Proof.Machine.execStrConsume r s
  | .strWaitSpace r => Sys2Proof.Machine.execStrWaitSpace r s
  | .strWaitData r => Sys2Proof.Machine.execStrWaitData r s
  | .strRead r => Sys2Proof.Machine.execStrRead r s
  | .barArrive r => Sys2Proof.Machine.execBarArrive r s
  | .barArriveWait r => Sys2Proof.Machine.execBarArriveWait r s
  | .barReduceArrive r => Sys2Proof.Machine.execBarReduceArrive r s
  | .barReadResult r => Sys2Proof.Machine.execBarReadResult r s
  | .lockClaim r => Sys2Proof.Machine.execLockClaim r s
  | .lockQuery r => Sys2Proof.Machine.execLockQuery r s
  | .lockRelease r => Sys2Proof.Machine.execLockRelease r s
  | .lockWait r => Sys2Proof.Machine.execLockWait r s
  | .connAccept r => Sys2Proof.Machine.execConnAccept r s
  | .connOpen r => Sys2Proof.Machine.execConnOpen r s
  | .connReserve r => Sys2Proof.Machine.execConnReserve r s
  | .connCommit r => Sys2Proof.Machine.execConnCommit r s
  | .connConsume r => Sys2Proof.Machine.execConnConsume r s
  | .connClose r => Sys2Proof.Machine.execConnClose r s
  | .waitAny r => Sys2Proof.Machine.execWaitAny r s
  | .slotCancel r => Sys2Proof.Machine.execSlotCancel r s
  | .seqSelect r => Sys2Proof.Machine.execSeqSelect r s
  | .packetError endpoint => Sys2Proof.Machine.execPacketError endpoint s
  | .trailer t => Sys2Proof.Machine.execTrailer t s
  | .arriveStrobe endpoint lane => Sys2Proof.Machine.execArriveStrobe endpoint lane s
  | .laneRelease c lane => Sys2Proof.Machine.execLaneRelease c lane s
  | .laneTimeout c lane => Sys2Proof.Machine.execLaneTimeout c lane s
  | .preload who c lane v => Sys2Proof.Machine.execPreload who c lane v s
  | .preloadComplete c lane => Sys2Proof.Machine.execPreloadComplete c lane s
  | .rearm who c lane v => Sys2Proof.Machine.execRearm who c lane v s
  | .barrierTimeout c bar => Sys2Proof.Machine.execBarrierTimeout c bar s
  | .ruCombine c mem => Sys2Proof.Machine.execRuCombine c mem s
  | .ruNfInfoClear who c v => Sys2Proof.Machine.execRuNfInfoClear who c v s
  | .endpointResetEvent endpoint => Sys2Proof.Machine.execEndpointResetEvent endpoint s
  | .fenceReaction c conn => Sys2Proof.Machine.execFenceReaction c conn s
  | .lockScan c => Sys2Proof.Machine.execLockScan c s
  | .lockScanEnd c => Sys2Proof.Machine.execLockScanEnd c s
  | .chMapData who c v => Sys2Proof.Machine.execChMapData who c v s
  | .budgetGatePass c => Sys2Proof.Machine.execBudgetGatePass c s
  | .leanPass c seq => Sys2Proof.Machine.execLeanPass c seq s
  | .deadlineOverrun c seq => Sys2Proof.Machine.execDeadlineOverrun c seq s
  | .auditComplete c seq => Sys2Proof.Machine.execAuditComplete c seq s
  | .psSeqSelect who c seq v => Sys2Proof.Machine.execPsSeqSelect who c seq v s
  | .psSeqRestart who c seq v => Sys2Proof.Machine.execPsSeqRestart who c seq v s
  | .psSeqStop who c seq v => Sys2Proof.Machine.execPsSeqStop who c seq v s
  | .tripAssert => Sys2Proof.Machine.execTripAssert s
  | .tripRelease => Sys2Proof.Machine.execTripRelease s
  | .formationAttemptTimeout c => Sys2Proof.Machine.execFormationAttemptTimeout c s
  | .hello m => Sys2Proof.Machine.execHello m s
  | .verdict m => Sys2Proof.Machine.execVerdict m s
  | .ready m => Sys2Proof.Machine.execReady m s
  | .formed m => Sys2Proof.Machine.execFormed m s
  | .arrive m => Sys2Proof.Machine.execArrive m s
  | .release m => Sys2Proof.Machine.execRelease m s
  | .remoteTrailer m => Sys2Proof.Machine.execRemoteTrailer m s
  | .remoteTrailerSend t port => Sys2Proof.Machine.execRemoteTrailerSend t port s
  | .timeExchangeDue c => Sys2Proof.Machine.execTimeExchangeDue c s
  | .timeReq m => Sys2Proof.Machine.execTimeReq m s
  | .timeRsp m => Sys2Proof.Machine.execTimeRsp m s
  | .breakMsg m => Sys2Proof.Machine.execBreakMsg m s
  | .accordTimeout c object => Sys2Proof.Machine.execAccordTimeout c object s
  | .linkLost port => Sys2Proof.Machine.execLinkLost port s
  | .creditReturn port => Sys2Proof.Machine.execCreditReturn port s
  | .ptOpen who v => Sys2Proof.Machine.execPtOpen who v s
  | .ptStageData who v => Sys2Proof.Machine.execPtStageData who v s
  | .ptSubmit who v => Sys2Proof.Machine.execPtSubmit who v s
  | .submitCheckDone => Sys2Proof.Machine.execSubmitCheckDone s
  | .ptApprove who v => Sys2Proof.Machine.execPtApprove who v s
  | .ptAbort who v => Sys2Proof.Machine.execPtAbort who v s
  | .commitHold => Sys2Proof.Machine.execCommitHold s
  | .commit => Sys2Proof.Machine.execCommit s
  | .windowExpiry => Sys2Proof.Machine.execWindowExpiry s
  | .registerWrite who offset width v => Sys2Proof.Machine.execRegisterWrite who offset width v s
  | .fltAck who u v => Sys2Proof.Machine.execFltAck who u v s
  | .fltForce who u v => Sys2Proof.Machine.execFltForce who u v s
  | .ceWindowWrite who u v => Sys2Proof.Machine.execCeWindowWrite who u v s
  | .faultReactionComplete u => Sys2Proof.Machine.execFaultReactionComplete u s
  | .drydownExpiry u => Sys2Proof.Machine.execDrydownExpiry u s
  | .trackerClose u => Sys2Proof.Machine.execTrackerClose u s
  | .wearWindowBoundary u => Sys2Proof.Machine.execWearWindowBoundary u s
  | .shadowEnd => Sys2Proof.Machine.execShadowEnd s
  | .hpErrAck who v => Sys2Proof.Machine.execHpErrAck who v s
  | .errLowTimeEnd => Sys2Proof.Machine.execErrLowTimeEnd s
  | .unmatchedOutput second stream => Sys2Proof.Machine.execUnmatchedOutput second stream s
  | .dozeEntry c => Sys2Proof.Machine.execDozeEntry c s
  | .slumberEntry c => Sys2Proof.Machine.execSlumberEntry c s
  | .wakeRequest c => Sys2Proof.Machine.execWakeRequest c s
  | .dozeWakeDone c => Sys2Proof.Machine.execDozeWakeDone c s
  | .slumberWakeDone c => Sys2Proof.Machine.execSlumberWakeDone c s
  | .alarm c => Sys2Proof.Machine.execAlarm c s
  | .tmAlarm who v => Sys2Proof.Machine.execTmAlarm who v s
  | .tmAlarmExpiry => Sys2Proof.Machine.execTmAlarmExpiry s
  | .ckPllLock => Sys2Proof.Machine.execCkPllLock s
  | .ckKeepClock => Sys2Proof.Machine.execCkKeepClock s
  | .quarantine crossing dropped => Sys2Proof.Machine.execQuarantine crossing dropped s
  | .resetDoneExchange crossing => Sys2Proof.Machine.execResetDoneExchange crossing s
  | .ckQuarantine crossing => Sys2Proof.Machine.execCkQuarantine crossing s
  | .bayTelemetry bay cls power fallback => Sys2Proof.Machine.execBayTelemetry bay cls power fallback s
  | .feedStale bay => Sys2Proof.Machine.execFeedStale bay s
  | .porAssert => Sys2Proof.Machine.execPorAssert s
  | .porRelease f => Sys2Proof.Machine.execPorRelease f s
  | .flashReadTimeout t => Sys2Proof.Machine.execFlashReadTimeout t s
  | .loadGateReady => Sys2Proof.Machine.execLoadGateReady s
  | .gateOpen who v => Sys2Proof.Machine.execGateOpen who v s
  | .gateRefuse who v => Sys2Proof.Machine.execGateRefuse who v s
  | .gateTimeout => Sys2Proof.Machine.execGateTimeout s
  | .channelRestart who c v => Sys2Proof.Machine.execChannelRestart who c v s
  | .restartSlot c burst => Sys2Proof.Machine.execRestartSlot c burst s
  | .restartLoadDone c => Sys2Proof.Machine.execRestartLoadDone c s
  | .orderlyClose who c v => Sys2Proof.Machine.execOrderlyClose who c v s
  | .closeComplete c => Sys2Proof.Machine.execCloseComplete c s
  | .inspectionSnapshot who c v => Sys2Proof.Machine.execInspectionSnapshot who c v s
  | .handWriteFlag who c index => Sys2Proof.Machine.execHandWriteFlag who c index s
  | .handWriteSemaphore who c index => Sys2Proof.Machine.execHandWriteSemaphore who c index s
  | .handWriteStream who c index => Sys2Proof.Machine.execHandWriteStream who c index s
  | .handWriteBarrier who c index => Sys2Proof.Machine.execHandWriteBarrier who c index s
  | .handRelease who c index => Sys2Proof.Machine.execHandRelease who c index s
  | .handClear who c index => Sys2Proof.Machine.execHandClear who c index s
  | .handFree who c index => Sys2Proof.Machine.execHandFree who c index s
  | .blotterGo who c v => Sys2Proof.Machine.execBlotterGo who c v s
  | .blotterComplete c => Sys2Proof.Machine.execBlotterComplete c s
  | .blotterRelease who c v => Sys2Proof.Machine.execBlotterRelease who c v s
  | .hostFlagSet who c cls index => Sys2Proof.Machine.execHostFlagSet who c cls index s
  | .hostFlagClear who c cls index => Sys2Proof.Machine.execHostFlagClear who c cls index s
  | .hostFlagTest who c cls index => Sys2Proof.Machine.execHostFlagTest who c cls index s
  | .hostFlagTestClear who c cls index => Sys2Proof.Machine.execHostFlagTestClear who c cls index s
  | .hostSemAdd who c cls index => Sys2Proof.Machine.execHostSemAdd who c cls index s
  | .hostSemSub who c cls index => Sys2Proof.Machine.execHostSemSub who c cls index s
  | .hostSemTrysub who c cls index => Sys2Proof.Machine.execHostSemTrysub who c cls index s
  | .hostSemRead who c cls index => Sys2Proof.Machine.execHostSemRead who c cls index s
  | .hwWatch who c n v => Sys2Proof.Machine.execHwWatch who c n v s
  | .hwSlotCancel who c v => Sys2Proof.Machine.execHwSlotCancel who c v s
  | .ltForce who c v => Sys2Proof.Machine.execLtForce who c v s
  | .registerReadClear who offset width => Sys2Proof.Machine.execRegisterReadClear who offset width s
  | .keepTick => Sys2Proof.Machine.execKeepTick s
  | .responseDelivered endpoint => Sys2Proof.Machine.execResponseDelivered endpoint s
  | .linkUp port => Sys2Proof.Machine.execLinkUp port s
  | .pllLocked => Sys2Proof.Machine.execPllLocked s

end Sys2Proof.Machine
end

