-- ==== Sys2Proof/Safety.lean ====
section
/-! DEFINITION. What the statements assume of a state, and what they say of a run: a block between commands, a channel that
serves at once, an endpoint whose request is taken, a register access that is performed, and the bounds every step keeps. -/

namespace Sys2Proof.Machine

/-! ## Between commands -/

/-- Between commands a channel has nothing left to do, to send or to report. -/
def Ch.Quiet (c : Ch) : Prop := c.todo = [] ∧ c.out = [] ∧ c.raised = [] ∧ c.haltReq = false ∧ c.errPulse = false

/-- Every channel is between commands. -/
def State.Quiet (s : State) : Prop := s.chA.Quiet ∧ s.chB.Quiet ∧ s.chC.Quiet ∧ s.chD.Quiet

/-- No endpoint has more than 16 requests outstanding (R36); the counts are listed in canonical form. -/
def State.Bounded (s : State) : Prop := SMap.wf 0 s.outstanding = true ∧ ∀ phys, s.outstanding.get 0 phys ≤ 16

/-- The access queues, and the host interface before a full one, hold accesses of host functions only: the steward port has no
queue (R292, R293). -/
def State.HostQueues (s : State) : Prop :=
  (∀ p ∈ s.hp.queues, ∀ a ∈ p.2, isSteward a.who = false) ∧ ∀ a ∈ s.hp.atPort, isSteward a.1.who = false

/-- SURVIVOR of a pair names one of its two sides (R340). -/
def State.PairsOk (s : State) : Prop := s.pairAB.survivor ≤ 1 ∧ s.pairCD.survivor ≤ 1

/-- What every step keeps. -/
structure State.Inv (s : State) : Prop where
  quiet   : s.Quiet
  bounded : s.Bounded
  hosts   : s.HostQueues
  pairs   : s.PairsOk

/-- The commands that may change the committed protection table: the commit of an approved change, the steward's write of
PT_LOAD_GATE, a power-on reset. -/
def mayCommit : Instr → Bool
  | .commit => true
  | .commitHold => true
  | .porAssert => true
  | .porRelease _ => true
  | .gateOpen .steward _ => true
  | .gateRefuse .steward _ => true
  | .registerWrite .steward _ _ _ => true
  | _ => false

/-! ## Calm channels -/

/-- A channel that performs a request when it arrives: in RUN and awake, with nothing in its queues, and no error or force pending in
its arrays. -/
structure Ch.Calm (c : Ch) : Prop where
  run      : c.ctl.st = .run
  awake    : c.clk.st = .active
  quiet    : c.Quiet
  banks    : c.rq.bankQ = []
  ingress  : c.rq.ingress = []
  full     : c.rq.full = []
  sound    : c.upsets = []
  noErr    : c.rq.forceErr = 0
  unforced : ∀ u, (c.fault u).pendForce = none

/-- A block that is powered, with nothing waiting at its edges, whose channel `n` stands alone and is calm. -/
structure State.Ready (s : State) (n : Nat) : Prop where
  por     : s.por = false
  chan    : n < 4
  single  : (s.pair n).st = .single
  settled : s.settled = true
  calm    : (s.ch n).Calm

/-- A powered block at whose edges nothing waits, whose channel `n` stands alone, in whatever state, between commands. -/
structure State.Rests (s : State) (n : Nat) : Prop where
  por     : s.por = false
  chan    : n < 4
  single  : (s.pair n).st = .single
  settled : s.settled = true
  quiet   : (s.ch n).Quiet

/-- A powered block at whose edges nothing waits, with no pair and every channel between commands. -/
structure State.Still (s : State) : Prop where
  por     : s.por = false
  single  : s.pairAB.st = .single ∧ s.pairCD.st = .single
  settled : s.settled = true
  quiet   : s.Quiet

/-- The node of endpoint `phys` takes its packet, for channel `n`, which knows the endpoint as logical ID `lid`, one of 0 to
0xFFD (R12). -/
structure State.Serves (s : State) (n phys lid : Nat) : Prop extends s.Ready n where
  owner    : s.ownerOf phys = some n
  openPort : s.quarantined (srnCrossing phys) = false
  room     : s.outstanding.get 0 phys < 16
  free     : s.held n = false
  maps     : (s.ch n).lidOf phys = some lid
  inRange  : lid < 0xFFE
  unfenced : phys ∉ (s.ch n).ctl.fenced

/-- A request that meets no error on its way. -/
def Clean (r : Req) : Prop := r.pkt = .none ∧ r.mem = .none

/-! ## What a request leaves behind -/

/-- The block as a request of an endpoint reaches channel `n`: the command has begun, the request is outstanding, and its port has been
told so where it uses the Scetor-1 handshake (R366). -/
def State.asked (s : State) (opcode : Nat) (r : Req) : State := (s.begin.issue (reqPacket opcode r)).acknowledge (reqPacket opcode r)

/-- What channel `n` sees while it performs that request. -/
def State.envOf (s : State) (n opcode : Nat) (r : Req) : Env := (s.asked opcode r).env n false .none

/-- The response that channel `n` gives to a request at once, with the flags a reduction sets: OPCODE and TAG are the
request's (R50). -/
def replyWith (n opcode : Nat) (r : Req) (status result : Nat) (rf : RFlags) (final : Bool) : Output :=
  .resp { endpoint := r.endpoint.toNat, chan := n, opcode := opcode, status := status, range := rf.range,
          zeroBlock := rf.zeroBlock, rescale := rf.rescale, lean := rf.lean, final := final, tag := r.tag.toNat,
          result := result, first := true }

/-- The same with every flag but FINAL 0. -/
def replyTo (n opcode : Nat) (r : Req) (status result : Nat) (final : Bool) : Output :=
  replyWith n opcode r status result {} final

/-- The final response of a wait that was parked: OPCODE and TAG of its record. -/
def endOf (n : Nat) (w : Parked) (status result : Nat) : Output :=
  .resp { endpoint := w.phys, chan := n, opcode := w.opcode, status := status, final := true, tag := w.tag,
          result := result, first := false }

/-- What leaves as a parked wait ends: its final response, and the wake output of a core that waited (R101). -/
def endsOf (n : Nat) (w : Parked) (status result : Nat) : List Output :=
  endOf n w status result :: if isCore w.phys then [.wake w.phys] else []

/-- A request performed at its bank: counted in RQ_OP_COUNT, and the bank's entry and round-robin pointer move past it (R58). -/
def Ch.counted (p : Packet) (lid : Nat) (c : Ch) : Ch :=
  let b := c.workBank (.req p lid)
  let rq1 := if b = 8 then c.rq else
    { c.rq with head := c.rq.head.put 0 b ((c.rq.head.get 0 b + 1) % 64),
                pointer := c.rq.pointer.put 0 b (((Work.req p lid).ingress + 1) % 73) }
  { c with rq := { rq1 with ops := inc rq1.ops } }

/-- Bank `b` has performed work of the host: its queue's entry and its round-robin pointer move past it (R58). -/
def Ch.hostWorked (b : Nat) (c : Ch) : Ch :=
  { c with rq := { c.rq with head := c.rq.head.put 0 b ((c.rq.head.get 0 b + 1) % 64),
                             pointer := c.rq.pointer.put 0 b ((hostIngress + 1) % 73) } }

/-- The whole block after a request that changed channel `n` to `c` and let `outs` leave: nothing else has changed, but that the channel
was busy (R350) and the PLLs run as the block needs them (R348). -/
def State.served (s : State) (n opcode : Nat) (r : Req) (c : Ch) (outs : List Output) : State :=
  ((((s.asked opcode r).setCh n c).leave outs).busyNow n).setPll

/-- The record of wait slot `k` that a request arms for a plain wait on object `index` (R88). -/
def slotRecord (e : Env) (opcode : Nat) (r : Req) (lid k index operand : Nat) (gen : BitVec 32) (found : Nat) : Parked :=
  { lid := lid, slot := k, phys := r.endpoint.toNat, armTime := e.stamp % 2 ^ 32, operand := operand, tag := r.tag.toNat,
    index := index, cls := r.cls.toNat, opcode := opcode, train := 2 ^ k, lastSeen := true, isTrain := false, gen := gen,
    found := found }

/-- One more armed slot, the latest. -/
def Ch.parkedWith (w : Parked) (c : Ch) : Ch := c.setParked (c.hw.parked ++ [w])

/-- Slot `k` is the lowest-numbered free slot of a logical ID. -/
def Ch.LowestFree (c : Ch) (lid k : Nat) : Prop :=
  k < 4 ∧ c.slotArmed lid k = false ∧ ∀ j < k, c.slotArmed lid j = true

/-- All four slots of a logical ID are armed. -/
def Ch.SlotsFull (c : Ch) (lid : Nat) : Prop := ∀ j < 4, c.slotArmed lid j = true

/-- No slot is armed and no host watch is enabled on an object. -/
def Ch.Alone (c : Ch) (cls i : Nat) : Prop :=
  c.waiters cls i = [] ∧ ∀ p ∈ c.hw.watches, p.2.enable = true → p.2.cls = cls → p.2.index ≠ i

/-- Nobody waits on a stream pair, nor, for a connection's pair, for a reservation. -/
def Ch.PairAlone (c : Ch) (i : Nat) : Prop := c.pairWaits i = []

/-- The slots of a table are distinct, and the waits of a list are plain waits, not trains. -/
def Ch.PlainWaits (c : Ch) (ws : List Parked) : Prop :=
  (c.hw.parked.map (fun w => (w.lid, w.slot))).Nodup ∧ ∀ w ∈ ws, w.isTrain = false

/-- The slots of some waits are freed. -/
def Ch.freed (ws : List Parked) (c : Ch) : Ch := c.setParked (c.hw.parked.filter (fun v => v ∉ ws))

/-! ## What an event leaves behind -/

/-- What channel `n` sees of an event that names it. -/
def State.seen (s : State) (n : Nat) (m : MemErr) : Env := s.begin.env n false m

/-- The whole block after an event that changed channel `n` to `c` and let `outs` leave: nothing else has changed, but that the channel
was busy (R350) and the PLLs run as the block needs them (R348). -/
def State.moved (s : State) (n : Nat) (c : Ch) (outs : List Output) : State :=
  (((s.begin.setCh n c).leave outs).busyNow n).setPll

/-- The same of an event that is no work of the channel. -/
def State.movedIdle (s : State) (n : Nat) (c : Ch) (outs : List Output) : State := ((s.begin.setCh n c).leave outs).setPll

/-- The same where the event raised a fault at U, which starts SCE_ERR_N (R329). -/
def State.movedWithError (s : State) (n : Nat) (c : Ch) (outs : List Output) : State :=
  ((((s.begin.setCh n c).errPulse (some n)).leave outs).busyNow n).setPll

/-- Source `src` of sub-block `u`, met with cause `k`, is raised at class `cls`: it is enabled, no shadow covers it, and the
capture of its fault set escalates it to that class (R315, R319, R325). -/
def Ch.Raises (c : Ch) (e : Env) (u : Sub) (src : Nat) (k : Cause) (cls : Nat) : Prop :=
  c.shadowed e.time u src k = none ∧ srcClass u src ≠ 0 ∧ bit (c.fault u).disabled src = false ∧
    escalate (capturedClass (c.fault u)) (srcClass u src) = cls

/-- The channel with that fault in its fault set (R317, R321). -/
def Ch.faulted (e : Env) (u : Sub) (src : Nat) (k : Cause) (c : Ch) : Ch :=
  c.setFault u (raiseOn e.time e.stamp false (srcClass u src) src k (c.fault u)).1

/-- The block has halted on source `src` of a shared sub-block, met with cause `k` (R306, R314): the fault is in the set,
SCE_ERR_N starts, CL and PT stop, no channel is left in RUN, closing or loading, and the table stands. -/
def State.Halts (s : State) (u : SharedSub) (src : Nat) (k : Cause) (t : State) : Prop :=
  t.blockHalted = true ∧ t.cl.phase = .halted ∧ t.cl.loads = [] ∧ t.pt.checking = false ∧ t.pt.holding = false ∧
    t.pt.table = s.pt.table ∧ t.hp.errNew = true ∧ t.hp.errShared = true ∧
    t.sharedFault u = (raiseOn s.time s.begin.stamp false (sharedSrcClass u src) src k (s.sharedFault u)).1 ∧
    ∀ n < 4, (t.ch n).ctl.st = match (s.ch n).ctl.st with
      | .run => .halted | .closing => .halted | .loading => .down | x => x

/-- The next entry of a sequence that moves on without resets, preloads or a LEAN_FLAG, and shares its end object with no other
sequence's phase. -/
def Ch.PlainEntry (c : Ch) (q entry : Nat) : Prop :=
  let en := c.entry entry
  fld en.w2 26 17 = 0 ∧ en.w3.testBit 45 = false ∧ en.w3.testBit 63 = false ∧ en.w3.testBit 20 = false ∧
    ∀ x < 16, x ≠ q → (c.seq x).st = .run ∨ (c.seq x).st = .held → (c.entry (c.seq x).entry).endObj ≠ en.endObj

/-! ## Accords -/

/-- Sync message `m` of a type reaches the link agent of channel `n`, which takes it: its port is open and the channel's, the message
is well formed (R259) and meets no error. -/
structure State.Hears (s : State) (n typ : Nat) (m : MsgIn) : Prop extends s.Ready n where
  openPort  : s.quarantined (0x5000 + m.port.toNat) = false
  owner     : s.portOwner m.port.toNat = some n
  free      : s.held n = false
  clean     : m.err = .none
  noForce   : (s.ch n).lalog.forceCe = false
  goodLen   : lenOk typ m.len.toNat = true
  body      : m.body.length = m.len.toNat
  accord    : typ ≠ tyHello → m.accord.toNat = (s.ch n).la.accord
  addressed : typ ≠ tyHello → typ ≠ tyTrailer → m.dst.toNat = (s.ch n).la.rank

/-- A message counted in LA_MSG_RX_COUNT. -/
def Ch.heard (c : Ch) : Ch := { c with lalog := { c.lalog with msgRx := inc c.lalog.msgRx } }

/-- A message of any type may leave on port `p` at once: nothing waits there, and credits are left (R258). -/
def Ch.MaySend (c : Ch) (p : Nat) : Prop := (∀ q ∈ c.la.txWait, q.1 ≠ p) ∧ 16 < (c.la.credit p).txAvail

/-- A message has left on port `p`: one credit is taken, and it is counted. -/
def Ch.sentOn (c : Ch) (p : Nat) : Ch :=
  { c with la := { c.la with credits := c.la.credits.put {} p { c.la.credit p with txAvail := (c.la.credit p).txAvail - 1 } },
           lalog := { c.lalog with msgTx := inc c.lalog.msgTx } }

/-- The message of an accord on a tree edge (R256). -/
def Ch.edgeMsg (c : Ch) (typ object : Nat) (body : List Nat) (d : Edge) : Output :=
  .msg d.port { typ := typ, accord := c.la.accord, src := c.la.rank, dst := d.rank, object := object, body := body }

/-- Every edge of the tree may send, and the edges have ports of their own, at most one of them to a parent; the credits are listed
in canonical form. -/
def Ch.GoodTree (c : Ch) : Prop :=
  SMap.wf {} c.la.credits = true ∧
  (c.la.edges.map (fun d => d.port)).Nodup ∧ (∀ d ∈ c.la.edges, c.MaySend d.port) ∧ (c.la.edges.filter (fun d => d.up)).length ≤ 1

/-! ## Register writes -/

/-- A 64-bit write of the register at `off` by a host function. -/
def writeOf (fn : BitVec 8) (off v : Nat) : Access := ⟨.host fn, off, true, v⟩

/-- A host function's write of the register at `off` passes the checks of R292 and is performed at once: its queue takes accesses, or
it restarts a channel (R357). -/
structure State.Admits (s : State) (fn : BitVec 8) (off v : Nat) : Prop where
  por      : s.por = false
  openPort : s.quarantined 0x7000 = false
  gate     : s.pt.gate = .opened
  allowed  : s.denial fn.toNat 64 (writeOf fn off v) = none
  running  : s.blockHalted = false
  settled  : s.settled = true
  awake    : s.blocked (queueOf off) = false ∨ s.restartsNow (writeOf fn off v) = true
  unforced : s.sflt.hp.pendForce = none
  sound    : s.sflt.upsets = []

/-- The block as the write takes effect: the command has begun, its queue has issued it and counted it, the arbiter has gone on (R293),
and the channel of its window is busy (R350). -/
def State.issued (s : State) (off : Nat) : State :=
  let b := s.begin
  let q := queueOf off
  let h := { b.hp with issued := b.hp.issued.put 0 q (inc (b.hp.issued.get 0 q)), arb := (q + 1) % 5 }
  let b1 : State := { b with hp := h }
  if q = 0 then b1 else b1.busyNow (b1.firstOf (q - 1))

/-- The block after a performed write whose effect is `f`: its completion leaves last, and the PLLs run as the block needs them. -/
def State.wrote (s : State) (fn : BitVec 8) (off v : Nat) (f : State → State) : State :=
  ((f (s.issued off)).leave [.host (.host fn) off true v false]).setPll

/-- The same in the window of channel `n`: the channel changes to `c`, and `outs` leave before the completion. -/
def State.wroteChan (s : State) (fn : BitVec 8) (off v n : Nat) (c : Ch) (outs : List Output) : State :=
  s.wrote fn off v (fun t => (t.setCh n c).leave outs)

/-- The same of a host function's 64-bit read of the register at `off`. -/
structure State.AdmitsRead (s : State) (fn : BitVec 8) (off : Nat) : Prop where
  por      : s.por = false
  openPort : s.quarantined 0x7000 = false
  gate     : s.pt.gate = .opened
  allowed  : s.denial fn.toNat 64 ⟨.host fn, off, false, 0⟩ = none
  running  : s.blockHalted = false
  settled  : s.settled = true
  awake    : s.blocked (queueOf off) = false
  unforced : s.sflt.hp.pendForce = none
  sound    : s.sflt.upsets = []

/-- The block after a performed read of `value` that clears what `f` clears. -/
def State.readOut (s : State) (fn : BitVec 8) (off value : Nat) (f : State → State) : State :=
  ((f (s.issued off)).leave [.host (.host fn) off false value false]).setPll

/-- The block after a refused or denied access: counted and recorded, with an error indication; nothing is performed (R292, R419). -/
def State.refused (s : State) (fn : BitVec 8) (off : Nat) (write : Bool) (value cause : Nat) : State :=
  let h := { s.hp with denied := inc s.hp.denied, dCause := cause, dFunction := fn.toNat, dWrite := write, dAddr := off }
  (({ s.begin with hp := h }).leave [.host (.host fn) off write value true]).setPll

/-- The steward port takes a write: it has no queue and no checks (R292, R293). -/
structure State.StewardPort (s : State) : Prop where
  por      : s.por = false
  openPort : s.quarantined 0x8000 = false
  settled  : s.settled = true

/-- The block after the steward's write of the register at `off` whose effect is `f`. -/
def State.stewardWrote (s : State) (off v : Nat) (f : State → State) : State :=
  ((f s.begin).leave [.host .steward off true v false]).setPll

end Sys2Proof.Machine
end

