-- ==== Sys2Proof/Certificates/Slice0/Obligations.lean ====
section
/-! DEFINITION. The statements for the provers. -/

open Sys2Proof Sys2Proof.Machine

/-! ## The whole machine -/

/-- A step takes the command at the front of the queue and performs it, with the rest of the queue waiting; an empty queue
leaves the block as it is (the model's own choice, log entry 1). -/
def Obligations.StepPerformsFront : Prop :=
  (∀ (c : Instr) (rest : List Instr) (s : State), step { s with pending := c :: rest } = exec c { s with pending := rest })
    ∧ ∀ s : State, s.pending = [] → step s = .next s

/-- Every command completes in every state, and no command adds to the queue or takes another from it: a step leaves exactly
the rest of the queue. While SCE_POR_N is low no command but its release has an effect. -/
def Obligations.EveryCommandCompletes : Prop :=
  (∀ (c : Instr) (rest : List Instr) (s : State), s.pending = c :: rest → ∃ t, step s = .next t ∧ t.pending = rest) ∧
  ∀ (c : Instr) (s : State), s.por = true → (∀ f, c ≠ .porRelease f) → exec c s = .next s

/-- Every step keeps the bound of 16 outstanding requests for each endpoint (R36), host accesses alone in the access queues,
and the channels' transients empty between commands (the last two are the model's own bookkeeping). -/
def Obligations.StepKeepsInv : Prop := ∀ s t : State, s.Inv → step s = .next t → t.Inv

/-- The invariant holds at reset. -/
def Obligations.ResetInv : Prop := State.reset.Inv

/-- Scetor time reads 0 as SCE_POR_N is released, advances by 20 at every keep tick (R358), and at no other command. -/
def Obligations.TimeAdvancesAtTicks : Prop :=
  (∀ (f : FlashDev) (s : State), s.por = true → ∃ t, exec (.porRelease f) s = .next t ∧ t.por = false ∧ t.time = 0) ∧
  (∀ s : State, s.por = false → ∃ t, exec .keepTick s = .next t ∧ t.time = s.time + 20) ∧
  ∀ (c : Instr) (s t : State), c ≠ .keepTick → c ≠ .porAssert → (∀ f, c ≠ .porRelease f) →
    exec c s = .next t → t.time = s.time

/-- The committed protection table changes only at a commit, at the load gate and at a power-on reset. -/
def Obligations.TableChangesAtCommits : Prop :=
  ∀ (c : Instr) (s t : State), s.HostQueues → mayCommit c = false → exec c s = .next t → t.pt.table = s.pt.table

/-! ## Flags (R73 to R87) -/

/-- FLAG_SET, FLAG_CLEAR, FLAG_TEST and FLAG_TEST_CLEAR on a flag that is not poisoned and that nobody waits for: VALUE, LAST,
the status and RESULT as R77 and R76 give them, a double set of a flag that is not STRICT counted and recorded (R108), and
nothing else of the block changed. -/
def Obligations.FlagOps : Prop :=
  ∀ (s : State) (n lid i : Nat) (r : Req) (f : Flag), s.Serves n r.endpoint.toNat lid → Clean r → r.cls = 0 →
    r.index.toNat = i → i < 2 ^ 20 → (s.ch n).flag i = f → (s.ch n).Alone clFlag i → f.poisoned = false →
    let put := fun v (c : Ch) => c.putFlag i { f with value := v, last := lid }
    let ends := fun op (g : Ch → Ch) status => Host.Outcome.next
      (s.served n op r (g ((s.ch n).counted (reqPacket op r) lid)) [replyTo n op r status f.record true])
    (f.value = false →
      exec (.flagSet r) s = ends opFlagSet (put true) stOk ∧
      exec (.flagClear r) s = ends opFlagClear id stOk ∧
      exec (.flagTest r) s = ends opFlagTest id stFalse ∧
      exec (.flagTestClear r) s = ends opFlagTestClear id stFalse) ∧
    (f.value = true →
      (f.strict = false →
        exec (.flagSet r) s = ends opFlagSet (fun c => { c with os := { c.os with
          dblCount := inc c.os.dblCount, dblStrict := false, dblLid := lid, dblIndex := i } }) stOk) ∧
      exec (.flagClear r) s = ends opFlagClear (put false) stOk ∧
      exec (.flagTest r) s = ends opFlagTest id stOk ∧
      exec (.flagTestClear r) s = ends opFlagTestClear (put false) stOk)

/-- FLAG_WAIT_SET and FLAG_WAIT_CLEAR (R77, R89, R91) on a flag that is not poisoned: answered OK at once where the condition
holds; else PENDING with the number of the sender's lowest-numbered free slot, which is armed; else SLOTS_FULL. RESULT of OK and
of SLOTS_FULL is the flag record as the op found it.

FLAG_SET and FLAG_CLEAR that change a flag which no enabled watch names end, in arming order, every plain wait whose condition
now holds (R77, R91): OK with the new record, its slot free, and a core's wake output with it (R101); the op's own response goes
first and carries the record as the op found it. -/
def Obligations.FlagWaits : Prop :=
  (∀ (s : State) (n lid i : Nat) (r : Req) (f : Flag), s.Serves n r.endpoint.toNat lid → Clean r → r.cls = 0 →
     r.index.toNat = i → i < 2 ^ 20 → (s.ch n).flag i = f → f.poisoned = false →
     let ends := fun op (g : Ch → Ch) status result final => Host.Outcome.next
       (s.served n op r (g ((s.ch n).counted (reqPacket op r) lid)) [replyTo n op r status result final])
     let parked := fun op k (c : Ch) => c.parkedWith (slotRecord (s.envOf n op r) op r lid k i (fld r.operand.toNat 31 0) 0 f.record)
     (f.value = true → exec (.flagWaitSet r) s = ends opFlagWaitSet id stOk f.record true) ∧
     (f.value = false → exec (.flagWaitClear r) s = ends opFlagWaitClear id stOk f.record true) ∧
     (∀ k, (s.ch n).LowestFree lid k →
       (f.value = false → exec (.flagWaitSet r) s = ends opFlagWaitSet (parked opFlagWaitSet k) stPending k false) ∧
       (f.value = true → exec (.flagWaitClear r) s = ends opFlagWaitClear (parked opFlagWaitClear k) stPending k false)) ∧
     ((s.ch n).SlotsFull lid →
       (f.value = false → exec (.flagWaitSet r) s = ends opFlagWaitSet id stSlotsFull f.record true) ∧
       (f.value = true → exec (.flagWaitClear r) s = ends opFlagWaitClear id stSlotsFull f.record true))) ∧
  (∀ (s : State) (n lid i : Nat) (r : Req) (f : Flag), s.Serves n r.endpoint.toNat lid → Clean r → r.cls = 0 →
     r.index.toNat = i → i < 2 ^ 20 → (s.ch n).flag i = f → f.poisoned = false →
     (∀ p ∈ (s.ch n).hw.watches, p.2.enable = true → p.2.cls = clFlag → p.2.index ≠ i) →
     (s.ch n).PlainWaits ((s.ch n).waiters clFlag i) →
     let wakes := fun op (w : Nat) (v : Bool) =>
       let f' := { f with value := v, last := lid }
       let ws := ((s.ch n).waiters clFlag i).filter (fun x => x.opcode = w)
       Host.Outcome.next (s.served n op r ((((s.ch n).counted (reqPacket op r) lid).putFlag i f').freed ws)
         (replyTo n op r stOk f.record true :: ws.flatMap (fun x => endsOf n x stOk f'.record)))
     (f.value = false → exec (.flagSet r) s = wakes opFlagSet opFlagWaitSet true) ∧
     (f.value = true → exec (.flagClear r) s = wakes opFlagClear opFlagWaitClear false))
/-! ## Semaphores (R80 to R87) -/

/-- SEM_ADD, SEM_SUB, SEM_TRYSUB and SEM_READ on a semaphore that is not poisoned and that nobody waits for (R82 to R84):
VALUE, LAST, the status, and the word after the op as RESULT.

SEM_WAITSUB on a semaphore that is not poisoned (R83 to R85, R89): an amount that fits is taken at once where nobody waits
or FIRST_FIT is set; an amount of 0 ends with OK, one above 0x7FFF_FFFF with FALSE; else the sender's lowest-numbered free slot
is armed, or the wait ends with SLOTS_FULL. -/
def Obligations.SemOps : Prop :=
  (∀ (s : State) (n lid i a : Nat) (r : Req) (v : Sem), s.Serves n r.endpoint.toNat lid → Clean r → r.cls = 1 →
     r.index.toNat = i → i < 2 ^ 18 → (s.ch n).sem i = v → (s.ch n).Alone clSem i → v.poisoned = false →
     fld r.operand.toNat 31 0 = a →
     let ends := fun op status (v' : Sem) =>
       let c := (s.ch n).counted (reqPacket op r) lid
       Host.Outcome.next (s.served n op r (if v' = v then c else c.putSem i v') [replyTo n op r status (v'.word 0) true])
     (0 < a → v.value + a ≤ 0x7FFFFFFF → exec (.semAdd r) s = ends opSemAdd stOk { v with value := v.value + a, last := lid }) ∧
     (0 < a → a ≤ v.value →
       exec (.semSub r) s = ends opSemSub stOk { v with value := v.value - a, last := lid } ∧
       exec (.semTrysub r) s = ends opSemTrysub stOk { v with value := v.value - a, last := lid }) ∧
     (v.value < a → exec (.semTrysub r) s = ends opSemTrysub stFalse v) ∧
     (a = 0 → exec (.semAdd r) s = ends opSemAdd stOk v ∧ exec (.semSub r) s = ends opSemSub stOk v ∧
       exec (.semTrysub r) s = ends opSemTrysub stOk v) ∧
     exec (.semRead r) s = ends opSemRead stOk v) ∧
  (∀ (s : State) (n lid i a : Nat) (r : Req) (v : Sem), s.Serves n r.endpoint.toNat lid → Clean r → r.cls = 1 →
     r.index.toNat = i → i < 2 ^ 18 → (s.ch n).sem i = v → v.poisoned = false → fld r.operand.toNat 31 0 = a →
     let c := (s.ch n).counted (reqPacket opSemWaitsub r) lid
     let word := v.word (c.waiting clSem i)
     let ends := fun (c : Ch) status result final =>
       exec (.semWaitsub r) s = .next (s.served n opSemWaitsub r c [replyTo n opSemWaitsub r status result final])
     let fits := a ≤ v.value ∧ (v.firstFit = true ∨ c.waiting clSem i = 0)
     (a = 0 → ends c stOk word true) ∧
     (0x7FFFFFFF < a → ends c stFalse word true) ∧
     (0 < a → a ≤ 0x7FFFFFFF → fits →
       (∀ p ∈ c.hw.watches, p.2.enable = true → p.2.cls = clSem → p.2.index ≠ i) →
       let v' := { v with value := v.value - a, last := lid }
       ends (c.putSem i v') stOk (v'.word (c.waiting clSem i)) true) ∧
     (0 < a → a ≤ 0x7FFFFFFF → ¬ fits →
       (∀ k, c.LowestFree lid k →
         ends (c.parkedWith (slotRecord (s.envOf n opSemWaitsub r) opSemWaitsub r lid k i a 0 word)) stPending k false) ∧
       (c.SlotsFull lid → ends c stSlotsFull word true)))

/-! ## Stream pairs (R109 to R114) -/

/-- STR_PRODUCE, STR_CONSUME and STR_READ on a stream pair that is not poisoned and that nobody waits for (R111, R112): P moves
up where the ring has the space, C where it has the data, with LAST_PROD or LAST_CONS; RESULT is P, C, or the word that OPERAND
names.

STR_WAIT_SPACE and STR_WAIT_DATA on a stream pair that is not poisoned (R112, R89): OK where the ring has the space or the
data, or N is 0; FALSE where N exceeds K; else the lowest-numbered free slot is armed, or SLOTS_FULL. -/
def Obligations.StreamOps : Prop :=
  (∀ (s : State) (n lid i a : Nat) (r : Req) (v : Stream), s.Serves n r.endpoint.toNat lid → Clean r → r.cls = 2 →
     r.index.toNat = i → i < 0xC000 → (s.ch n).str i = v → (s.ch n).PairAlone i → v.poisoned = false →
     fld r.operand.toNat 31 0 = a →
     let ends := fun op (g : Ch → Ch) result => Host.Outcome.next
       (s.served n op r (g ((s.ch n).counted (reqPacket op r) lid)) [replyTo n op r stOk result true])
     (0 < a → v.p - v.c + a ≤ v.k → v.p + a ≤ 2 ^ 64 - 1 →
       exec (.strProduce r) s = ends opStrProduce (fun c => c.putStr i { v with p := v.p + a, lastProd := lid }) (v.p + a)) ∧
     (0 < a → a ≤ v.p - v.c →
       exec (.strConsume r) s = ends opStrConsume (fun c => c.putStr i { v with c := v.c + a, lastCons := lid }) (v.c + a)) ∧
     (a = 0 → exec (.strProduce r) s = ends opStrProduce id v.p ∧ exec (.strConsume r) s = ends opStrConsume id v.c) ∧
     (fld r.operand.toNat 1 0 = 0 → exec (.strRead r) s = ends opStrRead id v.p) ∧
     (fld r.operand.toNat 1 0 = 1 → exec (.strRead r) s = ends opStrRead id v.c) ∧
     (fld r.operand.toNat 1 0 = 2 → exec (.strRead r) s = ends opStrRead id (v.word2 i)) ∧
     (fld r.operand.toNat 1 0 = 3 → exec (.strRead r) s = ends opStrRead id (at_ 24 0 (v.p - v.c) + at_ 56 32 v.k))) ∧
  (∀ (s : State) (n lid i a : Nat) (r : Req) (v : Stream), s.Serves n r.endpoint.toNat lid → Clean r → r.cls = 2 →
     r.index.toNat = i → i < 0xC000 → (s.ch n).str i = v → v.poisoned = false → fld r.operand.toNat 31 0 = a →
     let wait := fun (cmd : Req → Instr) op have_ result =>
       let c := (s.ch n).counted (reqPacket op r) lid
       let ends := fun (c : Ch) status result final =>
         exec (cmd r) s = .next (s.served n op r c [replyTo n op r status result final])
       (a ≤ v.k → a ≤ have_ → ends c stOk result true) ∧
       (v.k < a → ends c stFalse result true) ∧
       (a ≤ v.k → have_ < a →
         (∀ k, c.LowestFree lid k → ends (c.parkedWith (slotRecord (s.envOf n op r) op r lid k i a 0 result)) stPending k false) ∧
         (c.SlotsFull lid → ends c stSlotsFull result true))
     wait .strWaitSpace opStrWaitSpace (v.k - (v.p - v.c)) (at_ 24 0 (v.k - (v.p - v.c)) + at_ 63 32 v.c) ∧
     wait .strWaitData opStrWaitData (v.p - v.c) (at_ 24 0 (v.p - v.c) + at_ 63 32 v.p))

/-- An op with a = 0 on a semaphore that is not poisoned returns OK at once and changes nothing, LAST included: a SEM_ADD of 0 serves
no waiters, a SEM_WAITSUB of 0 never parks. On a poisoned semaphore it returns POISONED. RESULT is the word as found. -/
def Obligations.SemZeroAmount : Prop :=
  ∀ (s : State) (n lid i : Nat) (r : Req) (v : Sem), s.Serves n r.endpoint.toNat lid → Clean r → r.cls = 1 →
    r.index.toNat = i → i < 2 ^ 18 → (s.ch n).sem i = v → fld r.operand.toNat 31 0 = 0 →
    let ends := fun (cmd : Req → Instr) op =>
      exec (cmd r) s = .next (s.served n op r ((s.ch n).counted (reqPacket op r) lid)
        [replyTo n op r (if v.poisoned then stPoisoned else stOk) (v.word ((s.ch n).waiting clSem i)) true])
    ends .semAdd opSemAdd ∧ ends .semSub opSemSub ∧ ends .semTrysub opSemTrysub ∧ ends .semWaitsub opSemWaitsub

/-! ## Counted barriers (R156 to R165) -/

/-- An arrival that R159 counts, for GEN or early for GEN + 1, and that does not complete its generation: COUNT or EARLY moves up,
LAST, START and the bitmaps follow, and a reduction-capable barrier's arrival enters the RU queue (R178). BAR_ARRIVE ends with OK
and the record after it (R164); BAR_ARRIVE_WAIT parks in its sender's lowest-numbered free slot (R162), or, with none free, ends
with SLOTS_FULL and is not counted (the RESULT of that is the model's choice, log entry 40). -/
def Obligations.BarArrivals : Prop :=
  ∀ (s : State) (n lid i : Nat) (r : Req) (b : Bar), s.Serves n r.endpoint.toNat lid → Clean r → r.cls = 3 →
    r.index.toNat = i → i < 2 ^ 15 → (s.ch n).bar i = b → b.poisoned = false → b.ruPending = false → (s.ch n).accFenced i = false →
    (i < 0x400 → b.mask ∉ (s.ch n).os.badMasks ∧ lid < 2048 ∧ ((s.ch n).mask b.mask).testBit lid = true) →
    (i < 0x2000 → (s.ch n).ru.queue.length < 512) →
    let counted := fun op => (s.ch n).counted (reqPacket op r) lid
    let arrives := fun (b' : Bar) (g : BitVec 32) (c : Ch) =>
      let c1 := c.putBar i b'
      if i < 0x2000 then { c1 with ru := { c1.ru with queue := c1.ru.queue ++ [⟨i, g, [], r.endpoint.toNat, lid, false⟩] } } else c1
    let both := fun (b' : Bar) (g : BitVec 32) (early : Bool) =>
      let c := counted opBarArriveWait
      exec (.barArrive r) s =
        .next (s.served n opBarArrive r (arrives b' g (counted opBarArrive)) [replyTo n opBarArrive r stOk (b'.result early false) true]) ∧
      (∀ k, c.LowestFree lid k → exec (.barArriveWait r) s =
        .next (s.served n opBarArriveWait r
          (arrives b' g (c.parkedWith (slotRecord (s.envOf n opBarArriveWait r) opBarArriveWait r lid k i g.toNat g (b'.result early false))))
          [replyTo n opBarArriveWait r stPending k false])) ∧
      (c.SlotsFull lid → exec (.barArriveWait r) s =
        .next (s.served n opBarArriveWait r c [replyTo n opBarArriveWait r stSlotsFull (b.result false false) true]))
    (BitVec.ofNat 32 r.operand.toNat = b.gen → b.gated = false → (i < 0x400 → lid ∉ b.cur) → b.count + 1 ≠ b.target →
      both { b with count := b.count + 1, last := lid, cur := if i < 0x400 then insertId lid b.cur else b.cur,
                    start := if b.count = 0 then fld (s.envOf n opBarArrive r).stamp 39 8 else b.start } b.gen false) ∧
    (BitVec.ofNat 32 r.operand.toNat = b.gen + 1 → b.early ≠ b.target → (i < 0x400 → lid ∉ b.nxt ∧ lid ∈ b.cur) →
      both { b with early := b.early + 1, last := lid, nxt := if i < 0x400 then insertId lid b.nxt else b.nxt } (b.gen + 1) true)

/-- The arrival that completes a plain barrier, with no sequence and no accord at it, releases it (R161): GEN moves on by 1, COUNT
takes EARLY, the response shows the record after the release (R164), and every plain wait for the generation ends with OK in arming
order. -/
def Obligations.BarReleases : Prop :=
  ∀ (s : State) (n lid i : Nat) (r : Req) (b : Bar), s.Serves n r.endpoint.toNat lid → Clean r → r.cls = 3 →
    r.index.toNat = i → 0x2000 ≤ i → i < 2 ^ 15 → (s.ch n).bar i = b → b.poisoned = false → b.gated = false → b.ruPending = false →
    (s.ch n).accObj (.bar i) = none → (s.ch n).seqEnding (.bar i) = none →
    BitVec.ofNat 32 r.operand.toNat = b.gen → b.count + 1 = b.target → b.early < b.target →
    let ws := (s.ch n).genWaits i b.gen
    (s.ch n).PlainWaits ws → (∀ w ∈ ws, w.opcode = opBarArriveWait) →
    let stamp := (s.envOf n opBarArrive r).stamp
    let b' := { b with gen := b.gen + 1, count := b.early, early := 0, prevTmo := false, holding := false, last := lid,
                       cur := b.nxt, nxt := [],
                       start := if b.early ≠ 0 ∨ b.count = 0 then fld stamp 39 8 else b.start }
    let ends := fun op => Host.Outcome.next (s.served n op r ((((s.ch n).counted (reqPacket op r) lid).putBar i b').freed ws)
      (replyTo n op r stOk (b'.result false true) true ::
        ws.flatMap (fun w => endsOf n w stOk (b'.result (bit w.found 58) (bit w.found 59)))))
    exec (.barArrive r) s = ends opBarArrive ∧ exec (.barArriveWait r) s = ends opBarArriveWait

/-- BAR_REDUCE_ARRIVE (R175 to R178) at a reduction-capable barrier. A packet with LAST = 0 stages its pair and ends with OK, where
the sender has no train for another barrier or TAG. The LAST packet of a train whose G5 names GEN is counted, parks in the sender's
lowest-numbered free slot, and puts the train's words into the RU queue, with the mark of the arrival that brings COUNT to TARGET.
BAR_READ_RESULT (R198) answers with the pair, SCALES or HEADER of the last released result. -/
def Obligations.BarReduction : Prop :=
  ∀ (s : State) (n lid i : Nat) (r : Req) (b : Bar), s.Serves n r.endpoint.toNat lid → Clean r → r.cls = 3 →
    fld r.index.toNat 14 0 = i → i < 0x2000 → (s.ch n).bar i = b → b.poisoned = false →
    (i < 0x400 → b.mask ∉ (s.ch n).os.badMasks ∧ lid < 2048 ∧ ((s.ch n).mask b.mask).testBit lid = true) →
    let c := (s.ch n).counted (reqPacket opBarReduceArrive r) lid
    let pair := fld r.index.toNat 16 15
    let mine := c.ru.staged.find? (fun t => t.lid = lid && t.bar = i && t.tag = r.tag.toNat)
    let words := pairWords pair r.operand.toNat ((mine.map (·.pairs)).getD [])
    let rest := c.ru.staged.filter (fun t => t.lid ≠ lid)
    ((∀ t ∈ c.ru.staged, t.lid = lid → t.bar = i ∧ t.tag = r.tag.toNat) →
      (r.index.toNat.testBit 17 = false → exec (.barReduceArrive r) s =
        .next (s.served n opBarReduceArrive r { c with ru := { c.ru with staged := rest ++ [⟨lid, i, r.tag.toNat, words⟩] } }
          [replyTo n opBarReduceArrive r stOk 0 true])) ∧
      (r.index.toNat.testBit 17 = true → fld r.index.toNat 22 18 = b.gen.toNat % 32 → b.gated = false → b.ruPending = false →
        (s.ch n).accFenced i = false → (i < 0x400 → lid ∉ b.cur) → c.ru.queue.length < 512 → ∀ k, c.LowestFree lid k →
        let done := decide (b.count + 1 = b.target)
        let c1 := c.parkedWith (slotRecord (s.envOf n opBarReduceArrive r) opBarReduceArrive r lid k i b.gen.toNat b.gen b.gen.toNat)
        let c2 := c1.putBar i { b with count := b.count + 1, last := lid, cur := if i < 0x400 then insertId lid b.cur else b.cur,
                                       start := if b.count = 0 then fld (s.envOf n opBarReduceArrive r).stamp 39 8 else b.start,
                                       ruPending := done }
        exec (.barReduceArrive r) s =
          .next (s.served n opBarReduceArrive r
            { c2 with ru := { c2.ru with staged := rest,
                                         queue := c2.ru.queue ++ [⟨i, b.gen, words, r.endpoint.toNat, lid, done⟩] } }
            [replyTo n opBarReduceArrive r stPending k false]))) ∧
    (fld r.index.toNat 22 18 = 0 →
      let c := (s.ch n).counted (reqPacket opBarReadResult r) lid
      let reads := fun x => exec (.barReadResult r) s = .next (s.served n opBarReadResult r c [replyTo n opBarReadResult r stOk x true])
      (r.index.toNat.testBit 17 = false → reads ((c.ru.pay.get {} i).res.get 0 pair)) ∧
      (r.index.toNat.testBit 17 = true → pair = 0 → reads (c.ru.pay.get {} i).scales) ∧
      (r.index.toNat.testBit 17 = true → pair = 1 → reads (c.ru.pay.get {} i).header) ∧
      (r.index.toNat.testBit 17 = true → 2 ≤ pair → ∃ x, exec (.barReadResult r) s =
        .next (s.served n opBarReadResult r c [replyTo n opBarReadResult r stBadIndex x true])))

/-! ## Locks (R205 to R222) -/

/-- LOCK_CLAIM, LOCK_WAIT and LOCK_QUERY (R207 to R211, R214). A word with no entry takes the lowest free entry of its share, with
the next SEQ, or meets TABLE_FULL; a query finds FALSE. A word with an entry that is not poisoned: the owner in its context finds
OK, or ABANDONED where the entry is marked so; an entry that nobody holds is taken with ABANDONED; a claim of a word that another
holds finds HELD, a wait parks in the sender's lowest-numbered free slot.

LOCK_RELEASE by the owner in its context (R211, R212): with nobody parked the entry is freed, its SEQ kept, and RESULT is 0;
else the word passes to the first plain wait in arming order, whose wait ends with OK, and both responses carry the word as it then
stands. -/
def Obligations.Locks : Prop :=
  (∀ (s : State) (n lid addr cx : Nat) (r : Req), s.Serves n r.endpoint.toNat lid → Clean r → r.cls = 4 → r.index = 0 →
     fld r.operand.toNat 47 0 = addr → addr % 8 = 0 → fld r.operand.toNat 51 48 = cx →
     let c := s.ch n
     let time := fld (s.envOf n opLockClaim r).stamp 39 8
     let ends := fun op (g : Ch → Ch) status result => Host.Outcome.next
       (s.served n op r (g (c.counted (reqPacket op r) lid)) [replyTo n op r status result true])
     let both := fun (g : Ch → Ch) status result =>
       exec (.lockClaim r) s = ends opLockClaim g status result ∧ exec (.lockWait r) s = ends opLockWait g status result
     let takes := fun m (v : LockEntry) status =>
       both (fun c =>
         let c1 := c.putLock m v
         { c1 with lt := { c1.lt with claims := inc c1.lt.claims } }) status (v.result m (c.lockWaiting m))
     (c.findLock addr = none →
       (∀ j < 8192, (c.lockEntry (8 * j + lockBank addr)).valid = false →
         (∀ k < j, (c.lockEntry (8 * k + lockBank addr)).valid = true) →
         let m := 8 * j + lockBank addr
         takes m { valid := true, held := true, seq := (c.lockEntry m).seq + 1, addr := addr, time := time, owner := lid,
                   context := cx } stOk) ∧
       ((∀ j < 8192, (c.lockEntry (8 * j + lockBank addr)).valid = true) →
         both (fun c => { c with lt := { c.lt with fulls := inc c.lt.fulls } }) stTableFull 0) ∧
       exec (.lockQuery r) s = ends opLockQuery id stFalse 0) ∧
     (∀ (m : Nat) (v : LockEntry), c.findLock addr = some m → c.lockEntry m = v → v.valid = true → v.poisoned = false →
       let word := v.result m (c.lockWaiting m)
       let mine := v.owner = lid ∧ v.context = cx
       (v.held = false → takes m { v with held := true, owner := lid, context := cx, time := time } stAbandoned) ∧
       (v.held = true → mine → both id (if v.abandoned then stAbandoned else stOk) word) ∧
       (v.held = true → ¬ mine →
         exec (.lockClaim r) s = ends opLockClaim (fun c => { c with lt := { c.lt with helds := inc c.lt.helds } }) stHeld word ∧
         (∀ k, c.LowestFree lid k → exec (.lockWait r) s =
           .next (s.served n opLockWait r
             ((c.counted (reqPacket opLockWait r) lid).parkedWith
               (slotRecord (s.envOf n opLockWait r) opLockWait r lid k 0 (at_ 15 0 m + at_ 19 16 cx + at_ 31 20 v.seq.toNat) 0 word))
             [replyTo n opLockWait r stPending k false])) ∧
         (c.SlotsFull lid → exec (.lockWait r) s = ends opLockWait id stSlotsFull word)) ∧
       exec (.lockQuery r) s =
         ends opLockQuery id (if v.held = false then stFalse else if v.abandoned then stAbandoned else stOk) word)) ∧
  (∀ (s : State) (n lid addr cx m : Nat) (r : Req) (v : LockEntry), s.Serves n r.endpoint.toNat lid → Clean r → r.cls = 4 → r.index = 0 →
     fld r.operand.toNat 47 0 = addr → addr % 8 = 0 → fld r.operand.toNat 51 48 = cx → r.operand.toNat.testBit 52 = false →
     (s.ch n).findLock addr = some m → (s.ch n).lockEntry m = v → v.valid = true → v.poisoned = false → v.held = true →
     v.owner = lid → v.context = cx →
     SMap.wf {} (s.ch n).lt.entries = true →
     let c := (s.ch n).counted (reqPacket opLockRelease r) lid
     (c.lockWaiters m = [] →
       exec (.lockRelease r) s =
         .next (s.served n opLockRelease r (c.putLock m { seq := v.seq }) [replyTo n opLockRelease r stOk 0 true])) ∧
     (∀ (w : Parked) (ws : List Parked), c.lockWaiters m = w :: ws → c.PlainWaits [w] →
       let v' := { v with owner := w.lid, context := fld w.operand 19 16, abandoned := false,
                          time := fld (s.envOf n opLockRelease r).stamp 39 8 }
       let c1 := c.putLock m v'
       let word := v'.result m ws.length
       exec (.lockRelease r) s =
         .next (s.served n opLockRelease r (({ c1 with lt := { c1.lt with handoffs := inc c1.lt.handoffs } } : Ch).freed [w])
           (replyTo n opLockRelease r stOk word true :: endsOf n w stOk word))))
/-! ## Connections (R115 to R133) -/

/-- CONN_ACCEPT and CONN_OPEN (R118, R119). An accept with LOG2 from 4 to 24 takes the lowest connection that is FREE and not
poisoned: LISTENING on the port, its pair empty with K = 2^LOG2, RESULT its number; with none it ends with TABLE_FULL, with
another LOG2 with BAD_OP. An open takes the connection that has listened longest on its port, or ends with FALSE. -/
def Obligations.ConnSetup : Prop :=
  ∀ (s : State) (n lid port log2 : Nat) (r : Req), s.Serves n r.endpoint.toNat lid → Clean r → r.cls = 5 →
    r.index.toNat = port → port < 2 ^ 14 → fld r.operand.toNat 52 48 = log2 →
    let c := s.ch n
    let ends := fun op (g : Ch → Ch) status result => Host.Outcome.next
      (s.served n op r (g (c.counted (reqPacket op r) lid)) [replyTo n op r status result true])
    (4 ≤ log2 → log2 ≤ 24 →
      (∀ m < 0x4000, (c.conn m).st = .free → (c.str (0xC000 + m)).poisoned = false →
        (∀ k < m, (c.conn k).st ≠ .free ∨ (c.str (0xC000 + k)).poisoned = true) →
        exec (.connAccept r) s = ends opConnAccept (fun c =>
          let c1 := (c.putConn m { st := .listening, receiver := lid, port := port, base := fld r.operand.toNat 47 6 * 64,
                                   log2 := log2 }).putStr (0xC000 + m) { k := 2 ^ log2, lastProd := lid, lastCons := lid }
          { c1 with cu := { c1.cu with listening := c1.cu.listening ++ [m] } }) stOk m) ∧
      ((∀ k < 0x4000, (c.conn k).st ≠ .free ∨ (c.str (0xC000 + k)).poisoned = true) →
        ∃ x, exec (.connAccept r) s = ends opConnAccept id stTableFull x)) ∧
    (log2 < 4 ∨ 24 < log2 → ∃ x, exec (.connAccept r) s = ends opConnAccept id stBadOp x) ∧
    (∀ (m : Nat) (before after : List Nat) (v : Conn), c.cu.listening = before ++ m :: after → c.conn m = v → v.port = port →
      (∀ k ∈ before, (c.conn k).port ≠ port) →
      exec (.connOpen r) s = ends opConnOpen (fun c => c.putConn m { v with st := .opened, sender := lid }) stOk
        (at_ 13 0 m + at_ 18 14 v.log2 + at_ 60 19 (v.base / 64))) ∧
    ((∀ k ∈ c.cu.listening, (c.conn k).port ≠ port) → ∃ x, exec (.connOpen r) s = ends opConnOpen id stFalse x)

/-- CONN_RESERVE, CONN_COMMIT and CONN_CONSUME by the ends of an OPEN connection whose pair is not poisoned and has no parked wait
(R121 to R126): where a reservation of LEN lies and how many descriptors it skips, P and C after a commit and a consume, and the
park or RING_FULL of a reservation that does not fit. -/
def Obligations.ConnTransfers : Prop :=
  ∀ (s : State) (n lid i : Nat) (r : Req) (v : Conn) (p : Stream), s.Serves n r.endpoint.toNat lid → Clean r → r.cls = 5 →
    r.index.toNat = i → i < 2 ^ 14 → (s.ch n).conn i = v → (s.ch n).str (0xC000 + i) = p → p.poisoned = false → v.st = .opened →
    (s.ch n).PairAlone (0xC000 + i) →
    let c := s.ch n
    let ends := fun op (g : Ch → Ch) status result => Host.Outcome.next
      (s.served n op r (g (c.counted (reqPacket op r) lid)) [replyTo n op r status result true])
    let len := fld r.operand.toNat 4 0
    let tail := p.k - p.p % p.k
    let space := p.k - (p.p - p.c)
    (v.sender = lid → 0 < len → len ≤ 16 → len ≤ p.k / 2 → v.resValid = false →
      (len ≤ tail → len ≤ space → exec (.connReserve r) s =
        ends opConnReserve (fun c => c.putConn i { v with resValid := true, resPad := 0, resLen := len }) stOk
          (at_ 47 0 (v.base + 64 * (p.p % p.k)) + at_ 51 48 0 + at_ 56 52 len)) ∧
      (tail < len → tail + len ≤ space →
        exec (.connReserve r) s = ends opConnReserve (fun c =>
          let c1 := c.putConn i { v with resValid := true, resPad := tail, resLen := len }
          { c1 with cu := { c1.cu with pads := inc c1.cu.pads } }) stOk
          (at_ 47 0 v.base + at_ 51 48 tail + at_ 56 52 len)) ∧
      (space < (if len ≤ tail then len else tail + len) →
        (r.operand.toNat.testBit 8 = false → ∃ x, exec (.connReserve r) s =
          ends opConnReserve (fun c => { c with cu := { c.cu with ringFull := inc c.cu.ringFull } }) stRingFull x) ∧
        (r.operand.toNat.testBit 8 = true → ∀ k, c.LowestFree lid k → ∃ x,
          let c1 := (c.counted (reqPacket opConnReserve r) lid).parkedWith
            (slotRecord (s.envOf n opConnReserve r) opConnReserve r lid k i (fld r.operand.toNat 31 0) 0 x)
          exec (.connReserve r) s =
            .next (s.served n opConnReserve r { c1 with cu := { c1.cu with parks := inc c1.cu.parks } }
              [replyTo n opConnReserve r stPending k false])))) ∧
    (v.sender = lid → v.resValid = true → 0 < v.resPad + v.resLen →
      let p' := { p with p := p.p + v.resPad + v.resLen, lastProd := lid }
      exec (.connCommit r) s = ends opConnCommit (fun c =>
        let c1 := (c.putConn i { v with resValid := false, resPad := 0, resLen := 0 }).putStr (0xC000 + i) p'
        { c1 with cu := { c1.cu with commits := inc c1.cu.commits } }) stOk p'.p) ∧
    (v.receiver = lid → 0 < fld r.operand.toNat 24 0 → fld r.operand.toNat 24 0 ≤ p.p - p.c →
      let p' := { p with c := p.c + fld r.operand.toNat 24 0, lastCons := lid }
      exec (.connConsume r) s = ends opConnConsume (fun c => c.putStr (0xC000 + i) p') stOk p'.c)

/-- CONN_CLOSE of an OPEN connection with no parked wait (R129): by the reader it becomes READER_CLOSED, by the sender
SENDER_CLOSED with its reservation dropped, by one that is both FREE with K = 0; RESULT is the new STATE. -/
def Obligations.ConnCloses : Prop :=
  ∀ (s : State) (n lid i : Nat) (r : Req) (v : Conn) (p : Stream), s.Serves n r.endpoint.toNat lid → Clean r → r.cls = 5 →
    r.index.toNat = i → i < 2 ^ 14 → (s.ch n).conn i = v → (s.ch n).str (0xC000 + i) = p → v.st = .opened →
    (s.ch n).PairAlone (0xC000 + i) → SMap.wf {} (s.ch n).os.conns = true →
    let c := (s.ch n).counted (reqPacket opConnClose r) lid
    let ends := fun (c : Ch) result => exec (.connClose r) s = .next (s.served n opConnClose r c [replyTo n opConnClose r stOk result true])
    (v.receiver = lid → v.sender ≠ lid → ends (c.putConn i { v with st := .readerClosed }) 4) ∧
    (v.receiver ≠ lid → v.sender = lid →
      ends (c.putConn i { v with st := .senderClosed, resValid := false, resPad := 0, resLen := 0 }) 3) ∧
    (v.receiver = lid → v.sender = lid → p.k ≠ 0 →
      ends ((c.putConn i {}).putStr (0xC000 + i) { p with k := 0 }) 0)

/-! ## Trains and cancelled waits (R48, R93 to R99) -/

/-- The first packet of a WAIT_ANY train on a flag that is not poisoned, from a sender with no open or ended train of its own
(R48, R93 to R95). With LAST it ends the train at once where the condition holds, else it arms the sender's lowest-numbered free
slot and answers PENDING; without LAST it arms the slot and answers OK, and a condition that holds already is kept, as the train's
ending, for the LAST packet. RESULT carries the slot, TRAIN, and in a final response the record. -/
def Obligations.TrainStarts : Prop :=
  ∀ (s : State) (n lid i k : Nat) (r : Req) (f : Flag), s.Serves n r.endpoint.toNat lid → Clean r → r.cls = 0 →
    r.index.toNat = i → i < 2 ^ 20 → (s.ch n).flag i = f → f.poisoned = false →
    (∀ t ∈ (s.ch n).hw.ended, ¬ (t.lid = lid ∧ t.tag = r.tag.toNat)) →
    (∀ w ∈ (s.ch n).hw.parked, w.lid = lid → w.isTrain = true → w.lastSeen = true) → (s.ch n).LowestFree lid k →
    fld r.operand.toNat 5 0 = opFlagWaitSet ∨ fld r.operand.toNat 5 0 = opFlagWaitClear →
    let armed := fld r.operand.toNat 5 0
    let holds := f.value = decide (armed = opFlagWaitSet)
    let c := (s.ch n).counted (reqPacket opWaitAny r) lid
    let w := { slotRecord (s.envOf n opWaitAny r) armed r lid k i (fld r.operand.toNat 63 32) 0 f.record with isTrain := true }
    let ends := fun (c : Ch) status found final => exec (.waitAny r) s =
      .next (s.served n opWaitAny r c [replyTo n opWaitAny r status (at_ 1 0 k + at_ 5 2 (2 ^ k) + at_ 63 32 found) final])
    (r.operand.toNat.testBit 8 = true → holds → ends c stOk f.record true) ∧
    (r.operand.toNat.testBit 8 = true → ¬ holds → ends (c.parkedWith w) stPending 0 false) ∧
    (r.operand.toNat.testBit 8 = false → ¬ holds → ends (c.parkedWith { w with lastSeen := false }) stOk 0 true) ∧
    (r.operand.toNat.testBit 8 = false → holds →
      let c1 := c.parkedWith { w with lastSeen := false, won := true, found := 0 }
      ends { c1 with hw := { c1.hw with ended := c1.hw.ended ++ [⟨lid, r.tag.toNat, true, stOk, k, 2 ^ k, f.record, 0, [(0, i)]⟩] } } stOk 0 true)

/-- SLOT_CANCEL (R99): of an armed plain slot of the sender it ends the wait with CANCELLED, frees the slot and is answered OK;
of a slot that is not armed it is answered FALSE, with a RESULT that is not stated. The ended wait's RESULT is a flag's record as it
stands (R76), else, but for a lock, the word as the wait op found it (R82, R111, R164). -/
def Obligations.SlotCancels : Prop :=
  ∀ (s : State) (n lid k : Nat) (r : Req), s.Serves n r.endpoint.toNat lid → Clean r → r.cls = 6 → r.index.toNat = k → k < 4 →
    let c := (s.ch n).counted (reqPacket opSlotCancel r) lid
    (∀ w : Parked, w ∈ c.hw.parked → w.lid = lid → w.slot = k → w.won = false → c.PlainWaits [w] →
      ∃ x y, exec (.slotCancel r) s = .next (s.served n opSlotCancel r (c.freed [w])
        (replyTo n opSlotCancel r stOk x true :: endsOf n w stCancelled y)) ∧
        (w.cls = clFlag → y = (c.flag w.index).record) ∧ (w.cls ≠ clFlag → w.cls ≠ clLock → y = w.found)) ∧
    (c.slotArmed lid k = false →
      ∃ x, exec (.slotCancel r) s = .next (s.served n opSlotCancel r c [replyTo n opSlotCancel r stFalse x true]))

/-! ## SEQ_SELECT (R227, R236) -/

/-- SEQ_SELECT by a member of the selector mask. A valid score on a sequence that is IDLE or STOPPED, whose first entry resets and
preloads nothing and ends at an object no other sequence ends at, starts the sequence: RUN at that entry, its deadline started.
On a sequence in RUN, HELD or AUDIT it is answered FALSE; of a score that is not valid BAD_INDEX. RESULT is the sequence's state
and entry after the op. -/
def Obligations.SeqSelects : Prop :=
  ∀ (s : State) (n lid q score : Nat) (r : Req), s.Serves n r.endpoint.toNat lid → Clean r → r.cls = 7 → r.index.toNat = q → q < 16 →
    fld r.operand.toNat 7 0 = score → (s.ch n).img.selEn = true → (s.ch n).img.selMask ∉ (s.ch n).os.badMasks → lid < 2048 →
    ((s.ch n).mask (s.ch n).img.selMask).testBit lid = true → (s.ch n).ps.badWords = [] →
    SMap.wf {} (s.ch n).ps.seqs = true →
    let c := (s.ch n).counted (reqPacket opSeqSelect r) lid
    let word := c.img.scores.get 0 score
    let first := fld word 15 0
    let en := c.entry first
    let st := (c.seq q).st
    let ends := fun (c : Ch) status result => exec (.seqSelect r) s =
      .next (s.served n opSeqSelect r c [replyTo n opSeqSelect r status result true])
    (word.testBit 63 = false → ends c stBadIndex (at_ 2 0 st.code + at_ 31 16 (c.seq q).entry)) ∧
    (word.testBit 63 = true → st = .run ∨ st = .held ∨ st = .audit → ends c stFalse (at_ 2 0 st.code + at_ 31 16 (c.seq q).entry)) ∧
    (word.testBit 63 = true → st = .idle ∨ st = .stopped → fld en.w2 26 17 = 0 → en.w3.testBit 45 = false → en.w3.testBit 63 = false →
      (∀ t < 16, t ≠ q → (c.seq t).st = .run ∨ (c.seq t).st = .held → (c.entry (c.seq t).entry).endObj ≠ en.endObj) →
      let c1 := c.putSeq q { c.seq q with st := .run, score := score, entry := first, start := (s.envOf n opSeqSelect r).stamp,
                                          deadlineOn := true, missed := false, lean := false }
      ends { c1 with ps := { c1.ps with phases := inc c1.ps.phases } } stOk (at_ 2 0 1 + at_ 31 16 first))
/-! ## Wired lanes (R136 to R155) -/

/-- ARRIVE_STROBE of an endpoint that is not fenced (R140): the member's parity moves in the round, the first arrival of a round
starts the lane timer and the last one stops it (R151); a second arrival of the round raises BW_REARRIVAL; an arrival at a timed-out lane is late; an
endpoint that is no member is counted. Each is acknowledged with its CODE. -/
def Obligations.LaneArrivals : Prop :=
  ∀ (s : State) (n lid : Nat) (p : BitVec 12) (l : BitVec 5) (v : Lane), s.Ready n → s.ownerOf p.toNat = some n →
    s.quarantined (0x3000 + p.toNat) = false → (s.ch n).lidOf p.toNat = some lid → p.toNat ∉ (s.ch n).ctl.fenced →
    (s.ch n).lane l.toNat = v →
    let c := s.ch n
    let e := s.seen n .none
    let k : Cause := { addr := at_ 63 32 v.gen.toNat + at_ 4 0 l.toNat, master := some (lid, p.toNat), access := 1, key := l.toNat }
    let acks := fun (c : Ch) code => exec (.arriveStrobe p l) s = .next (s.moved n c [.ack p.toNat l.toNat code])
    (lid ∉ v.members → acks { c with bw := { c.bw with nonMem := inc c.bw.nonMem } } 3) ∧
    (lid ∈ v.members → v.st = .timedOut → acks { c with bw := { c.bw with late := inc c.bw.late } } 2) ∧
    (lid ∈ v.members → v.st ≠ .timedOut → v.p lid = v.rp →
      acks (c.putLane l.toNat { v with
        parity := v.parity.put false lid !v.rp,
        timer := if ∀ m ∈ v.members, m = lid ∨ v.p m ≠ v.rp then none
          else if v.timer = none ∧ v.st = .active then some e.stamp else v.timer }) 0) ∧
    (lid ∈ v.members → v.st ≠ .timedOut → v.p lid ≠ v.rp → c.Raises e .bw 0 k 2 →
      let c1 : Ch := { c with bw := { c.bw with
        rearr := inc c.bw.rearr, reGen := v.gen.toNat, reLane := l.toNat, reLid := lid, rePhys := p.toNat } }
      exec (.arriveStrobe p l) s = .next (s.movedWithError n (c1.faulted e .bw 0 k) [.ack p.toNat l.toNat 1]))

/-- LANE_RELEASE of a complete round at which no sequence ends and no accord is bound (R138, R143, R145, R146, R148): GEN advances,
TMO falls, a pending NEXT is swapped with the membership, its joiners at rest; the release leaves with the cores among the members,
whose REL rises. PRELOAD_COMPLETE (R147): NEXT is the translated mask and SWAP_PENDING is set; a disabled lane swaps at once (the
model's own choice, log entry 71). -/
def Obligations.LaneReleases : Prop :=
  ∀ (s : State) (n : ChanId) (l : BitVec 5) (v : Lane), s.Ready n.val → (s.ch n.val).lane l.toNat = v → v.stalled = none →
    let c := s.ch n.val
    let gen := v.gen + 1
    let v1 : Lane := { v with gen := gen, tmo := false, st := .active, gated := false, timer := none, roundUs := v.timeoutUs }
    let swapped : Lane := { v1 with
      members := v.next, activeMask := v.nextMask, swapPending := false, next := v.members, nextMask := v.activeMask,
      parity := setParity (gen.getLsbD 0) (v.next.filter (fun m => !v.members.contains m)) v.parity }
    (v.members ≠ [] → (∀ m ∈ v.members, v.p m ≠ v.rp) → v.gated = false → v.preloadBusy = false →
      c.accObj (.lane l.toNat) = none →
      (∀ q < 16, (c.seq q).st = .run → (c.entry (c.seq q).entry).endObj ≠ .lane l.toNat) →
      let c1 := c.putLane l.toNat (if v.swapPending then swapped else v1)
      exec (.laneRelease n l) s = .next (s.moved n.val c1 [.laneRelease n.val l.toNat gen.toNat false (c.coresOf v.members)])) ∧
    (v.preloadBusy = true → v.members ≠ [] → exec (.preloadComplete n l) s = .next (s.moved n.val
      (c.putLane l.toNat { v with preloadBusy := false, swapPending := true, next := c.translate v.nextMask }) [])) ∧
    (v.preloadBusy = true → v.members = [] →
      let ids := c.translate v.nextMask
      exec (.preloadComplete n l) s = .next (s.moved n.val
        (c.putLane l.toNat { v with
          preloadBusy := false, members := ids, next := [], activeMask := v.nextMask, nextMask := v.activeMask, swapPending := false,
          parity := setParity v.rp ids v.parity }) []))

/-- LANE_TIMEOUT of an incomplete round whose timer has run out, at a lane where no sequence ends, BW_TIMEOUT being raised at U
(R151, R153): the missing members are latched; with ACTION 1 the lane holds, with ACTION 0 it is released with TMO 1, every member
at rest. Only the lanes, their counts, the fault set and the blotter can have changed. -/
def Obligations.LaneTimeouts : Prop :=
  ∀ (s : State) (n : ChanId) (l : BitVec 5) (v : Lane) (t0 : Nat), s.Ready n.val → (s.ch n.val).lane l.toNat = v →
    v.timer = some t0 → v.st = .active → v.members ≠ [] → v.complete = false → v.roundUs ≠ 0 → t0 + 1000 * v.roundUs ≤ s.time →
    SMap.wf {} (s.ch n.val).bw.lanes = true →
    (∀ q < 16, (((s.ch n.val).seq q).st = .run ∨ ((s.ch n.val).seq q).st = .held) →
      ((s.ch n.val).entry ((s.ch n.val).seq q).entry).endObj ≠ .lane l.toNat) →
    let c := s.ch n.val
    let e := s.seen n.val .none
    let k : Cause := { addr := at_ 63 32 v.gen.toNat + at_ 4 0 l.toNat, access := 5, key := l.toNat }
    c.Raises e .bw 1 k 2 →
    let missing := v.members.filter (fun m => v.p m = v.rp)
    let phys := missing.filterMap c.physOf
    let latched : Lane := { v with
      nam := missing, namTime := e.stamp,
      namClusters := maskOf ((phys.filter isCore).map (fun p => 8 * fld p 9 7 + fld p 6 4)),
      namBays := maskOf ((phys.filter (fun p => !isCore p)).map bayOf) }
    let gen := v.gen + 1
    ∃ t : State, exec (.laneTimeout n l) s = .next t ∧
      (v.action = true → (t.ch n.val).lane l.toNat = { latched with st := .holding } ∧ t.emitted = []) ∧
      (v.action = false → (t.ch n.val).lane l.toNat =
        { latched with
          gen := gen, tmo := true, st := .timedOut, gated := false, timer := none, stalled := none, roundUs := v.timeoutUs, parity := setParity (gen.getLsbD 0) v.members v.parity } ∧
        t.emitted = [.laneRelease n.val l.toNat gen.toNat true (c.coresOf (v.members.filter (fun m => v.p m != v.rp)))]) ∧
      (t.ch n.val).bw.tmo = inc c.bw.tmo ∧ (t.ch n.val).flt = (c.faulted e .bw 1 k).flt ∧
      (∀ m < 32, m ≠ l.toNat → (t.ch n.val).lane m = c.lane m) ∧ (t.ch n.val).os = c.os ∧ (t.ch n.val).hw = c.hw ∧ (t.ch n.val).lt = c.lt ∧
      (t.ch n.val).ru = c.ru ∧ (t.ch n.val).ps = c.ps ∧ (t.ch n.val).ctl = c.ctl ∧ ∀ m < 4, m ≠ n.val → t.ch m = s.ch m

/-- PRELOAD and REARM, the writes of BW_LANE_CTL_l (R147, R152) in a calm channel: both store TIMEOUT_US, ACTION and MASK_SEL. A
preload of a mask that is not poisoned into a lane with none running starts, into a lane with one it is refused. A re-arm of a lane
with members that waits at no gate and is bound to no accord releases it with TMO 1 and puts every member at rest. -/
def Obligations.LaneControls : Prop :=
  ∀ (s : State) (n : ChanId) (l : BitVec 5) (w : Word) (fn : BitVec 8) (v : Lane), s.Ready n.val →
    s.Admits fn (chanOff n.val 3 (0x100 + 8 * l.toNat)) w.toNat → (s.ch n.val).lane l.toNat = v →
    SMap.wf {} (s.ch n.val).bw.lanes = true →
    let c := s.ch n.val
    let m := fld w.toNat 11 0
    let v1 : Lane := { v with timeoutUs := fld w.toNat 51 32, action := w.toNat.testBit 29, maskSel := m }
    let ends := fun (cmd : Requester → ChanId → BitVec 5 → Word → Instr) (c : Ch) outs =>
      exec (cmd (.host fn) n l w) s = .next (s.wroteChan fn (chanOff n.val 3 (0x100 + 8 * l.toNat)) w.toNat n.val c outs)
    (w.toNat.testBit 28 = true → w.toNat.testBit 27 = false →
      (v.preloadBusy = false → v.swapPending = false → m ∉ c.os.badMasks →
        ends .preload (c.putLane l.toNat { v1 with preloadBusy := true, nextMask := m }) []) ∧
      (v.preloadBusy = true ∨ v.swapPending = true → ends .preload (c.putLane l.toNat { v1 with refused := true }) [])) ∧
    (w.toNat.testBit 28 = false → w.toNat.testBit 27 = true →
      (v.gated = true → ends .rearm (c.putLane l.toNat { v1 with refused := true }) []) ∧
      (v.gated = false → v.members ≠ [] → c.accObj (.lane l.toNat) = none →
        let gen := v.gen + 1
        ends .rearm (c.putLane l.toNat { v1 with
          gen := gen, tmo := true, st := .active, timer := none, stalled := none, roundUs := fld w.toNat 51 32,
          parity := setParity (gen.getLsbD 0) v.members v.parity })
          [.laneRelease n.val l.toNat gen.toNat true (c.coresOf (v.members.filter (fun i => v.p i != v.rp)))]))

/-! ## Barrier timeouts and the reduction unit (R165, R178 to R187) -/

/-- BARRIER_TIMEOUT of an incomplete generation whose timer has run out, at a barrier where no sequence ends, OS_BAR_TIMEOUT being
raised at U (R165): the timeout is counted and recorded. With ACTION 1 the barrier holds; with ACTION 0 a barrier that takes no
reduction moves on to its next generation with PREV_TMO 1, and the plain waits for the old one end with TIMEOUT, in arming order,
showing the record after it. -/
def Obligations.BarrierTimeouts : Prop :=
  ∀ (s : State) (n : ChanId) (i : BitVec 15) (b : Bar) (ws : List Parked), s.Ready n.val → (s.ch n.val).bar i.toNat = b →
    b.poisoned = false → b.holding = false → b.gated = false → b.ruPending = false → b.count ≠ 0 → b.timeoutUs ≠ 0 →
    (1000 * b.timeoutUs + 255) / 256 + 1 ≤ (fld s.time 39 8 + 2 ^ 32 - b.start) % 2 ^ 32 → SMap.wf {} (s.ch n.val).os.bars = true →
    (∀ q < 16, (((s.ch n.val).seq q).st = .run ∨ ((s.ch n.val).seq q).st = .held) →
      ((s.ch n.val).entry ((s.ch n.val).seq q).entry).endObj ≠ .bar i.toNat) →
    ((s.ch n.val).waiters clBar i.toNat).filter (fun w => w.gen = b.gen) = ws → (s.ch n.val).PlainWaits ws →
    let c := s.ch n.val
    let e := s.seen n.val .none
    let k : Cause := { addr := at_ 54 52 3 + at_ 50 28 i.toNat, access := 5 }
    c.Raises e .os 12 k 2 →
    ∃ t : State, exec (.barrierTimeout n i) s = .next t ∧
      (b.action = true → (t.ch n.val).bar i.toNat = { b with holding := true } ∧ t.emitted = [] ∧ (t.ch n.val).hw = c.hw) ∧
      (b.action = false → 0x2000 ≤ i.toNat → b.early ≠ b.target →
        let b' : Bar := { b with
          gen := b.gen + 1, count := b.early, early := 0, prevTmo := true, cur := b.nxt, nxt := [],
          start := if b.early = 0 then b.start else fld e.stamp 39 8 }
        (t.ch n.val).bar i.toNat = b' ∧ t.emitted = ws.flatMap (fun w => endsOf n.val w stTimeout (barWaitResult b' w)) ∧
        (t.ch n.val).hw = (c.freed ws).hw) ∧
      (b.action = true ∨ 0x2000 ≤ i.toNat →
        (t.ch n.val).os.barTmo = inc c.os.barTmo ∧ (t.ch n.val).os.toGen = b.gen.toNat ∧ (t.ch n.val).os.toIndex = i.toNat ∧
        (t.ch n.val).os.toCount = b.count ∧ (t.ch n.val).os.toTime = e.stamp ∧ (t.ch n.val).flt = (c.faulted e .os 12 k).flt ∧
        (∀ m < 0x8000, m ≠ i.toNat → (t.ch n.val).bar m = c.bar m) ∧ (t.ch n.val).os.flags = c.os.flags ∧
        (t.ch n.val).os.sems = c.os.sems ∧ (t.ch n.val).os.strs = c.os.strs ∧ (t.ch n.val).bw = c.bw ∧ (t.ch n.val).lt = c.lt ∧
        (t.ch n.val).ps = c.ps ∧ (t.ch n.val).ctl = c.ctl) ∧ ∀ m < 4, m ≠ n.val → t.ch m = s.ch m

/-- RU_COMBINE (R178, R180, R192, R201): the oldest arrival leaves the ingress queue and is counted, and its barrier's words occupy
the combine lanes two a cycle. One word of it, of a finite value and
with an operation, is folded into the accumulator of its generation: it is stored in the accumulator's form where the word is not
yet SEEN, else combined with what is there. An arrival that does not complete its generation leaves nothing else changed. A write of
RU_NF_INFO with bit 31 frees the record of R187. -/
def Obligations.ReductionSteps : Prop :=
  ∀ (s : State) (n : ChanId) (i k w : Nat) (g : BitVec 32) (phys lid : Nat) (rest : List RuArrival) (fn : BitVec 8) (v : Word),
    s.Ready n.val →
    let c := s.ch n.val
    let op := cfgOp (c.cfg i) k
    let fmt := cfgFmt (c.cfg i) k
    let words := ((List.range 8).filter (fun x => cfgOp (c.cfg i) x ≠ opNone)).length
    (c.ru.queue = ⟨i, g, [(k, w)], phys, lid, false⟩ :: rest → op ≠ opNone → op ≠ opNfcnt → nonFinite fmt w = none →
      let p := c.pay i
      let a := p.acc g
      let form := accForm op fmt w
      let combined := accMerge op fmt (a.words.get 0 k) form
      let a' : Acc :=
        if a.seen.testBit k then { a with words := a.words.put 0 k combined.1, range := if combined.2 then setBit a.range k else a.range }
        else { a with words := a.words.put 0 k form, seen := setBit a.seen k }
      let c1 := c.putPay i (p.setAcc g a')
      exec (.ruCombine n .none) s = .next (s.moved n.val
        { c1 with ru := { c1.ru with queue := rest, head := (c.ru.head + 1) % 512, arrivals := inc c.ru.arrivals,
                                     cycles := sat64 (c.ru.cycles + (words + 1) / 2) } } [])) ∧
    (s.Admits fn (chanOff n.val 5 0x200) v.toNat →
      exec (.ruNfInfoClear (.host fn) n v) s = .next (s.wroteChan fn (chanOff n.val 5 0x200) v.toNat n.val
        (if v.toNat.testBit 31 then { c with ru := { c.ru with nfValid := false } } else c) []))

/-! ## Endpoint resets, fences and scans (R20, R31, R131, R216 to R219) -/

/-- ENDPOINT_RESET_EVENT: of an endpoint of no channel, counted by PT; of a fenced endpoint, counted by its channel; else the
endpoint is fenced (R20, R31), here one with no parked wait and no staged train: its connections and locks are due to be scanned.
The take acknowledgement is due at the third keep edge.

FENCE_REACTION (R131): the scan reaches an OPEN connection of the fenced logical ID, which no wait concerns. Of its reader it
breaks it, of its sender it closes the sender's end, and drops its reservation. A fence's shadow ends once its scans are done (R325). LOCK_SCAN (R216, R217): with one lock that a fenced ID
holds and nobody waits for, the scan starts and abandons it. LOCK_SCAN_END (R219): a scan with no connection of its IDs left to
reach and no map write waiting finishes. -/
def Obligations.Fences : Prop :=
  (∀ (s : State) (p : BitVec 12) (n lid : Nat), s.Ready n →
     let taken := s.resetTakes ++ [(p.toNat, 3)]
     (s.ownerOf p.toNat = none → exec (.endpointResetEvent p) s =
       .next { s.begin with pt := { s.pt with resetIgnored := inc s.pt.resetIgnored }, resetTakes := taken }.setPll) ∧
     (p.toNat < 0x728 → s.ownerOf p.toNat = some n → s.held n = false →
       let c := s.ch n
       (p.toNat ∈ c.ctl.fenced → exec (.endpointResetEvent p) s =
         .next { s.moved n { c with ctl := { c.ctl with resetIgnored := inc c.ctl.resetIgnored } } [] with resetTakes := taken }) ∧
       (p.toNat ∉ c.ctl.fenced → c.lidOf p.toNat = some lid → c.hw.parked = [] → c.hw.ended = [] → c.ru.staged = [] → c.ru.discards < 2 ^ 64 →
         (∀ x ∈ c.ctl.shadows, ¬ (x.row = 0 ∧ x.key = p.toNat ∧ x.ends = none)) →
         exec (.endpointResetEvent p) s = .next { s.moved n
           { c with
             ctl := { c.ctl with
               fenced := insertId p.toNat c.ctl.fenced,
               shadows := c.ctl.shadows ++ [⟨0, p.toNat, (List.range 32).filter (fun l => (c.lane l).members.contains lid), none⟩],
               connScan := c.ctl.connScan ++ (c.connsOf lid).map (fun m => (m, lid)) },
             lt := { c.lt with fencedIds := insertId lid c.lt.fencedIds } } [] with resetTakes := taken }))) ∧
  (∀ (s : State) (n : ChanId) (lid : Nat) (m : BitVec 14) (v : Conn) (i : Nat) (w : LockEntry), s.Ready n.val →
     let c := s.ch n.val
     (c.conn m.toNat = v → v.st = .opened → c.ctl.connScan = [(m.toNat, lid)] →
       c.PairAlone (0xC000 + m.toNat) →
       (v.receiver = lid → v.sender ≠ lid →
         let c1 := c.putConn m.toNat { v with st := .broken }
         exec (.fenceReaction n m) s =
           .next (s.moved n.val (({ c1 with ctl := { c1.ctl with connScan := [] } } : Ch).settleFences s.time) [])) ∧
       (v.receiver ≠ lid → v.sender = lid →
         let c1 := c.putConn m.toNat { v with st := .senderClosed, resValid := false, resPad := 0, resLen := 0 }
         exec (.fenceReaction n m) s =
           .next (s.moved n.val (({ c1 with ctl := { c1.ctl with connScan := [] } } : Ch).settleFences s.time) []))) ∧
     (c.lt.entries = [(i, w)] → w.valid = true → w.held = true → w.owner = lid → c.lockWaiters i = [] →
       c.lt.scanning = false → c.lt.fencedIds = [lid] →
       let c1 := c.putLock i { w with held := false, owner := 0, context := 0, abandoned := true }
       exec (.lockScan n) s = .next (s.moved n.val
         { c1 with lt := { c1.lt with scanning := true, scanIds := [lid], fencedIds := [], abandons := inc c.lt.abandons } } [])) ∧
     (c.lt.scanning = true → c.scanBusy = false → c.lt.heldMap = none → exec (.lockScanEnd n) s =
       .next (s.moved n.val (({ c with lt := { c.lt with scanning := false, scanIds := [] } } : Ch).settleFences s.time) [])))

/-- What fences do, whatever waits, connections, held locks and map writes there are. ENDPOINT_RESET_EVENT leaves the endpoint of a
channel fenced and its take acknowledged (R20, R31). FENCE_REACTION leaves the connection that the scan reaches in the state R131 gives
its end. LOCK_SCAN starts the scan of every fenced ID, and abandons each entry such an ID holds that nobody waits for (R216, R217);
LOCK_SCAN_END ends the scan (R219). -/
def Obligations.FenceEventsComplete : Prop :=
  (∀ (s : State) (p : BitVec 12) (n : Nat), s.Ready n → p.toNat < 0x728 → s.ownerOf p.toNat = some n → s.held n = false →
     ∃ t : State, exec (.endpointResetEvent p) s = .next t ∧ p.toNat ∈ (t.ch n).ctl.fenced ∧ (p.toNat, 3) ∈ t.resetTakes ∧
       ∀ m < 4, m ≠ n → t.ch m = s.ch m) ∧
  (∀ (s : State) (n : ChanId) (lid : Nat) (m : BitVec 14) (v : Conn), s.Ready n.val → (s.ch n.val).conn m.toNat = v →
     (s.ch n.val).ctl.connScan.filter (fun p => p.1 = m.toNat) = [(m.toNat, lid)] →
     ∃ t : State, exec (.fenceReaction n m) s = .next t ∧
       (t.ch n.val).ctl.connScan = (s.ch n.val).ctl.connScan.filter (fun p => p.1 ≠ m.toNat) ∧
       (v.receiver = lid → v.st = .listening ∨ v.st = .senderClosed → ((t.ch n.val).conn m.toNat).st = .free) ∧
       (v.receiver = lid → v.sender ≠ lid → v.st = .opened → ((t.ch n.val).conn m.toNat).st = .broken) ∧
       (v.receiver ≠ lid → v.sender = lid → v.st = .opened → ((t.ch n.val).conn m.toNat).st = .senderClosed) ∧
       (v.receiver ≠ lid → v.sender = lid → v.st = .readerClosed ∨ v.st = .broken → ((t.ch n.val).conn m.toNat).st = .free) ∧
       ∀ x < 4, x ≠ n.val → t.ch x = s.ch x) ∧
  (∀ (s : State) (n : ChanId), s.Ready n.val →
     let c := s.ch n.val
     (c.lt.scanning = false → c.lt.fencedIds ≠ [] → SMap.wf {} c.lt.entries = true →
       ∃ t : State, exec (.lockScan n) s = .next t ∧ (t.ch n.val).lt.scanning = true ∧ (t.ch n.val).lt.scanIds = c.lt.fencedIds ∧
         (t.ch n.val).lt.fencedIds = [] ∧
         (∀ i w, c.lockEntry i = w → w.valid = true → w.held = true → w.poisoned = false → w.owner ∈ c.lt.fencedIds → c.lockWaiters i = [] →
           (t.ch n.val).lockEntry i = { w with held := false, owner := 0, context := 0, abandoned := true }) ∧
         ∀ x < 4, x ≠ n.val → t.ch x = s.ch x) ∧
     (c.lt.scanning = true → c.scanBusy = false →
       ∃ t : State, exec (.lockScanEnd n) s = .next t ∧ (t.ch n.val).lt.scanning = false ∧ (t.ch n.val).lt.scanIds = [] ∧
         ∀ x < 4, x ≠ n.val → t.ch x = s.ch x))

/-- CH_MAP_DATA, a write for a logical ID with no lock scan to finish (R21, R155): the outcome code of the first rule that applies,
and with code 0 and a changed entry the new entry; a valid core counts as replaced. The lanes are stated for an ID that is a member
of none. -/
def Obligations.MapWrites : Prop :=
  ∀ (s : State) (n : ChanId) (v : Word) (fn : BitVec 8) (lid phys : Nat) (valid : Bool) (old : MapEntry), s.Ready n.val →
    s.Admits fn (chanOff n.val 0 0x108) v.toNat → (s.ch n.val).ctl.mapSel = lid → lid ∉ (s.ch n.val).lt.fencedIds →
    lid ∉ (s.ch n.val).lt.scanIds → fld v.toNat 11 0 = phys → v.toNat.testBit 16 = valid → (s.ch n.val).ctl.map.get {} lid = old →
    let c := s.ch n.val
    let ends := fun (c : Ch) => exec (.chMapData (.host fn) n v) s =
      .next (s.wroteChan fn (chanOff n.val 0 0x108) v.toNat n.val c [])
    let answers := fun code => ends { c with ctl := { c.ctl with mapResLid := lid, mapResCode := code } }
    let used := ∃ p ∈ c.ctl.map, p.2.valid = true ∧ p.2.phys = phys ∧ p.1 ≠ lid
    (0xFFE ≤ lid → answers 5) ∧
    (lid < 0xFFE → valid = old.valid → phys = old.phys → answers 0) ∧
    (lid < 0xFFE → ¬ (valid = old.valid ∧ phys = old.phys) →
      (valid = true → 0x727 < phys → answers 1) ∧
      (valid = true → phys ≤ 0x727 → tblChan s.pt.table phys ≠ n.val → answers 2) ∧
      (valid = true → phys ≤ 0x727 → tblChan s.pt.table phys = n.val → used → answers 3) ∧
      (valid = true → phys ≤ 0x727 → tblChan s.pt.table phys = n.val → ¬ used → phys ∈ c.ctl.fenced → answers 4) ∧
      ((valid = true → phys ≤ 0x727 ∧ tblChan s.pt.table phys = n.val ∧ ¬ used ∧ phys ∉ c.ctl.fenced) →
        (old.valid = true → old.phys ∉ c.ctl.fenced → answers 7) ∧
        ((old.valid = true → old.phys ∈ c.ctl.fenced) →
          (∀ l < 32, lid ∉ (c.lane l).members ∧ lid ∉ (c.lane l).next) →
          ends { c with ctl := { c.ctl with
            mapResLid := lid, mapResCode := 0, map := c.ctl.map.put {} lid ⟨valid, phys⟩,
            replaced := c.ctl.replaced + b01 (valid && decide (phys ≤ 0x3FF)) } })))

/-! ## Phases and the budget (R225 to R251) -/

/-- BUDGET_GATE_PASS and LEAN_PASS of the oldest held release, of a lane, at a lane bound to no accord (R243, R247 to R249): a pass
with the bucket covering the successor's cost, the class below THERM and no trip, or, MAX_HOLD_US later, a lean pass, recorded with what
was unmet; a release whose hold ran out under the trip passes only lean, with what was unmet then. The cost is charged, down to minus the bucket's capacity; the lane releases, and its sequence runs the successor's phase,
whose deadline starts. -/
def Obligations.GatePasses : Prop :=
  ∀ (s : State) (n : ChanId) (h : Held) (rest : List Held) (l : Nat) (v : Lane) (q : BitVec 4), s.Ready n.val →
    (s.ch n.val).bg.holdQ = h :: rest → h.obj = .lane l → h.seq = q.toNat → (s.ch n.val).lane l = v → v.preloadBusy = false →
    v.swapPending = false → (s.ch n.val).accObj (.lane l) = none → ((s.ch n.val).seq q.toNat).st = .held → s.trip = false →
    (s.ch n.val).ps.badWords = [] → (s.ch n.val).PlainEntry q.toNat h.succ →
    SMap.wf {} (s.ch n.val).bw.lanes = true → SMap.wf {} (s.ch n.val).ps.seqs = true →
    let c := s.ch n.val
    let e := s.seen n.val .none
    let cost := (c.entry h.succ).cost
    let now := c.entry (c.seq q.toNat).entry
    let covered := (1000 * cost : Int) ≤ c.bg.bucket
    let cool := e.phaseClass now < c.img.therm
    let goes := fun (cmd : Instr) (lean : Bool) (more : State → Prop) => ∃ t : State, exec cmd s = .next t ∧
      (t.ch n.val).bg.holdQ = rest ∧ (t.ch n.val).bg.bucket = max (c.bg.bucket - 1000 * cost) (-(1000 * c.img.capUj : Int)) ∧
      (t.ch n.val).bg.passes = inc c.bg.passes ∧ (t.ch n.val).bg.chargedUj = sat64 (c.bg.chargedUj + cost) ∧
      (t.ch n.val).lane l = { v with gen := v.gen + 1, tmo := false, st := .active, gated := false, timer := none, stalled := none,
                                     roundUs := v.timeoutUs } ∧
      t.emitted = [.laneRelease n.val l (v.gen + 1).toNat false (c.coresOf v.members)] ∧
      (t.ch n.val).seq q.toNat = { c.seq q.toNat with st := .run, entry := h.succ, start := e.stamp, deadlineOn := true,
                                                      missed := false, lean := lean } ∧
      (∀ m < 32, m ≠ l → (t.ch n.val).lane m = c.lane m) ∧ (∀ x < 16, x ≠ q.toNat → (t.ch n.val).seq x = c.seq x) ∧
      (t.ch n.val).os = c.os ∧ (t.ch n.val).hw = c.hw ∧ (t.ch n.val).lt = c.lt ∧ (t.ch n.val).ru = c.ru ∧ (t.ch n.val).ctl = c.ctl ∧
      (∀ m < 4, m ≠ n.val → t.ch m = s.ch m) ∧ more t
    let fresh := ∀ x ∈ h :: rest, x.cause = none
    let leans := fun cause => goes (.leanPass n q) true (fun t =>
      (t.ch n.val).bg.leans = inc c.bg.leans ∧ (t.ch n.val).bg.leanBucket = c.bg.bucket ∧ (t.ch n.val).bg.leanSeq = q.toNat ∧
      (t.ch n.val).bg.leanEntry = (c.seq q.toNat).entry ∧ (t.ch n.val).bg.leanTime = e.stamp ∧ (t.ch n.val).bg.leanCause = cause)
    (fresh → covered → cool → goes (.budgetGatePass n) false (fun t => (t.ch n.val).bg.leans = c.bg.leans)) ∧
    (¬ (fresh ∧ covered ∧ cool) → exec (.budgetGatePass n) s = .next (s.moved n.val c [])) ∧
    (fresh → ¬ (covered ∧ cool) → h.since + 1000 * c.img.maxHold ≤ s.time → leans (if covered then 1 else if cool then 0 else 2)) ∧
    (∀ x, h.cause = some x → h.since + 1000 * c.img.maxHold ≤ s.time → leans x)

/-- DEADLINE_OVERRUN of a phase whose deadline has run out, PS_DEADLINE being raised at U (R237): MISSED, the record, the count.

AUDIT_COMPLETE of a sequence in AUDIT whose score's list is readable (R239, R242): with every object of the list at rest the
sequence becomes IDLE, or STOPPED where a STOP waited, and only the audit count changes with it. With one object, a flag not at rest,
the mismatch is counted, recorded where no record stands, and PS_AUDIT_MISMATCH is raised. -/
def Obligations.PhaseChecks : Prop :=
  (∀ (s : State) (n : ChanId) (q : BitVec 4) (v : Seq), s.Ready n.val → (s.ch n.val).seq q.toNat = v →
     SMap.wf {} (s.ch n.val).ps.seqs = true →
     let c := s.ch n.val
     let e := s.seen n.val .none
     let us := (c.entry v.entry).deadlineUs
     let k : Cause := { addr := at_ 3 0 q.toNat + at_ 31 16 v.entry, access := 4 }
     (v.st = .run → v.deadlineOn = true → v.missed = false → us ≠ 0 → v.start + 1000 * us ≤ s.time → c.Raises e .ps 5 k 2 →
       ∃ t : State, exec (.deadlineOverrun n q) s = .next t ∧ (t.ch n.val).seq q.toNat = { v with missed := true } ∧
         (∀ x < 16, x ≠ q.toNat → (t.ch n.val).seq x = c.seq x) ∧ (t.ch n.val).ps.dlUs = us ∧ (t.ch n.val).ps.dlSeq = q.toNat ∧
         (t.ch n.val).ps.dlScore = v.score ∧ (t.ch n.val).ps.dlEntry = v.entry ∧ (t.ch n.val).ps.deadlines = inc c.ps.deadlines ∧
         (t.ch n.val).flt = (c.faulted e .ps 5 k).flt ∧ (t.ch n.val).os = c.os ∧ (t.ch n.val).bw = c.bw ∧ (t.ch n.val).hw = c.hw ∧
         (t.ch n.val).bg = c.bg ∧ (t.ch n.val).ctl = c.ctl ∧ t.emitted = [] ∧ ∀ m < 4, m ≠ n.val → t.ch m = s.ch m) ∧
     (v.st ≠ .run ∨ v.deadlineOn = false ∨ v.missed = true ∨ us = 0 ∨ s.time < v.start + 1000 * us →
       exec (.deadlineOverrun n q) s = .next (s.moved n.val c []))) ∧
  (∀ (s : State) (n : ChanId) (q : BitVec 4) (v : Seq) (i : Nat), s.Ready n.val → (s.ch n.val).seq q.toNat = v → v.st = .audit →
     (s.ch n.val).ps.badWords = [] →
     let c := s.ch n.val
     let e := s.seen n.val .none
     let d := c.img.scores.get 0 v.score
     let first := fld d 32 16
     let len := fld d 48 33
     let ended : Seq := { v with st := if v.stopping then .stopped else .idle, stopping := false, deadlineOn := false }
     let k : Cause := { addr := at_ 54 52 0 + at_ 50 28 i, access := 5 }
     ((∀ j < len, ∀ x ∈ runObjects (c.img.lists.get 0 (first + j)), c.atRest (runKind (c.img.lists.get 0 (first + j))) x = true) →
       let c1 := c.putSeq q.toNat ended
       exec (.auditComplete n q) s =
         .next (s.moved n.val { c1 with ps := { c1.ps with audits := inc c1.ps.audits } } [])) ∧
     (len = 1 → runKind (c.img.lists.get 0 first) = 0 → runObjects (c.img.lists.get 0 first) = [i] → c.atRest 0 i = false →
       c.ps.auValid = false → c.Raises e .ps 6 k 2 →
       let c1 := (c.faulted e .ps 6 k).putSeq q.toNat ended
       exec (.auditComplete n q) s = .next (s.movedWithError n.val
         { c1 with ps := { c1.ps with
           audits := inc c1.ps.audits, mismatches := inc c.ps.mismatches, auValid := true, auSeq := q.toNat, auScore := v.score,
           auKind := 0, auIndex := i, auData := (c.flag i).record, auTime := e.stamp } } [])))
/-- A host function's SELECT, RESTART and STOP by PS_SEQ_CTL_s (R227, R241, R242), each alone in its write. SELECT starts a valid
score on a sequence that is IDLE or STOPPED; on one that runs STATUS is FALSE. RESTART of a sequence in RUN whose phase ends at a lane
gives the round up with TMO 1 and starts the phase again; of another sequence STATUS is FALSE. STOP stops a sequence at once, one in
AUDIT after its audit. -/
def Obligations.SequenceWrites : Prop :=
  ∀ (s : State) (n : ChanId) (q : BitVec 4) (w : Word) (fn : BitVec 8) (v : Seq) (l : Nat) (b : Lane), s.Ready n.val →
    s.Admits fn (chanOff n.val 7 (0x100 + 8 * q.toNat)) w.toNat → (s.ch n.val).seq q.toNat = v → (s.ch n.val).ps.badWords = [] →
    SMap.wf {} (s.ch n.val).ps.seqs = true → SMap.wf {} (s.ch n.val).bw.lanes = true → (s.ch n.val).lane l = b →
    let c := s.ch n.val
    let e := s.seen n.val .none
    let score := fld w.toNat 15 8
    let ends := fun (cmd : Requester → ChanId → BitVec 4 → Word → Instr) (c : Ch) outs => exec (cmd (.host fn) n q w) s =
      .next (s.wroteChan fn (chanOff n.val 7 (0x100 + 8 * q.toNat)) w.toNat n.val c outs)
    let word := c.img.scores.get 0 score
    (fld w.toNat 2 0 = 1 →
      (word.testBit 63 = false → ends .psSeqSelect (c.putSeq q.toNat { v with ctlScore := score, ctlStatus := stBadIndex }) []) ∧
      (word.testBit 63 = true → v.st = .run ∨ v.st = .held ∨ v.st = .audit →
        ends .psSeqSelect (c.putSeq q.toNat { v with ctlScore := score, ctlStatus := stFalse }) []) ∧
      (word.testBit 63 = true → v.st = .idle ∨ v.st = .stopped → c.PlainEntry q.toNat (fld word 15 0) →
        let c1 := c.putSeq q.toNat { v with
          st := .run, score := score, entry := fld word 15 0, start := e.stamp, deadlineOn := true, missed := false, lean := false,
          ctlScore := score, ctlStatus := stOk }
        ends .psSeqSelect { c1 with ps := { c1.ps with phases := inc c1.ps.phases } } [])) ∧
    (fld w.toNat 2 0 = 2 →
      (v.st ≠ .run → ends .psSeqRestart (c.putSeq q.toNat { v with ctlScore := score, ctlStatus := stFalse }) []) ∧
      (v.st = .run → c.PlainEntry q.toNat v.entry → (c.entry v.entry).endObj = .lane l → b.members ≠ [] →
        c.accObj (.lane l) = none →
        let gen := b.gen + 1
        let c1 := (c.putLane l { b with
          gen := gen, tmo := true, st := .active, gated := false, timer := none, stalled := none, roundUs := b.timeoutUs,
          parity := setParity (gen.getLsbD 0) b.members b.parity }).putSeq q.toNat { v with
          start := e.stamp, deadlineOn := true, missed := false, ctlScore := score, ctlStatus := stOk }
        ends .psSeqRestart { c1 with ps := { c1.ps with phases := inc c1.ps.phases } }
          [.laneRelease n.val l gen.toNat true (c.coresOf (b.members.filter (fun i => b.p i != b.rp)))])) ∧
    (fld w.toNat 2 0 = 4 →
      (v.st = .audit → ends .psSeqStop (c.putSeq q.toNat { v with stopping := true, ctlScore := score, ctlStatus := stOk }) []) ∧
      (v.st ≠ .audit → v.st ≠ .held →
        ends .psSeqStop (c.putSeq q.toNat { v with st := .stopped, deadlineOn := false, ctlScore := score, ctlStatus := stOk }) []))

/-! ## Pins, feeds and time (R32, R249, R329, R348, R428) -/

/-- SCE_TRIP_N, PLL lock and bay telemetry: TRIP_ASSERT and TRIP_RELEASE set the pin, and a keep tick takes it through two flops
and two equal samples, the effect one edge later (R28); PLL_LOCKED ends locking (R348); a telemetry value from a feed that is not quarantined takes CLASS and POWER of its bay, is no longer stale and is stamped, a fallback
is counted (R32, R363). A feed that has given nothing for 100 µs becomes stale: class and power stay, and each channel in RUN with the bay
in its view raises BG_FEED_STALE, once.

TM_ALARM and its expiry (R428), SCE_ERR_N's acknowledgement and the end of its low time (R329): a write of TM_ALARM stores the
time and arms it, TM_ALARM_EXPIRY at or after it, at a later keep tick than the write's, sets the event and disarms. A write of
HP_ERR_ACK with bit 0 clears the causes and crosses into KEEP, or, within 4 keep cycles of the one before, is merged with a bit in
CK_XING_STATUS (R364); ERR_LOW_TIME_END after 100 keep cycles lets the pin rise where the acknowledgement has come. -/
def Obligations.PinsAndTimers : Prop :=
  (∀ (s : State) (b : BitVec 3) (cls : BitVec 2) (power : BitVec 16) (late : Bool) (v : Bay), s.Still → s.bays.get {} b.toNat = v →
     let b0 := s.begin
     let fresh := fun (c : Ch) => { c with bg := { c.bg with staleRaised := c.bg.staleRaised.filter (fun x => x ≠ b.toNat) } }
     exec .tripAssert s = .next { b0 with tripPin := true }.setPll ∧
     exec .tripRelease s = .next { b0 with tripPin := false }.setPll ∧
     (∃ t : State, exec .keepTick s = .next t ∧ t.trip1 = s.tripPin ∧ t.trip2 = s.trip1 ∧
       t.tripTaken = (if s.trip1 = s.trip2 then s.trip1 else s.tripTaken) ∧ t.trip = s.tripTaken) ∧
     (s.ck.pll = .locking → exec .pllLocked s = .next { b0 with ck := { s.ck with pll := .locked } }.setPll) ∧
     (s.ck.pll ≠ .locking → exec .pllLocked s = .next b0.setPll) ∧
     (s.quarantined (0x4000 + b.toNat) = false → exec (.bayTelemetry b cls power late) s = .next
       { b0 with
         bays := s.bays.put {} b.toNat { cls := cls.toNat, power := power.toNat, stale := false, at_ := s.time },
         ck := if late then { s.ck with lateAgree := inc s.ck.lateAgree, xFallback := 0x4000 + b.toNat } else s.ck,
         chA := fresh s.chA, chB := fresh s.chB, chC := fresh s.chC, chD := fresh s.chD }.setPll) ∧
     (v.stale = true ∨ s.time < v.at_ + 100000 → exec (.feedStale b) s = .next b0.setPll) ∧
     (v.stale = false → v.at_ + 100000 ≤ s.time → SMap.wf {} s.bays = true →
       let k : Cause := { addr := b.toNat, key := b.toNat }
       let warned := fun n => (s.ch n).ctl.st = .run ∧ (tblBayView s.pt.table n).testBit b.toNat = true ∧
         b.toNat ∉ (s.ch n).bg.staleRaised
       ∃ t : State, exec (.feedStale b) s = .next t ∧ t.bays.get {} b.toNat = { v with stale := true } ∧
         (∀ x < 8, x ≠ b.toNat → t.bays.get {} x = s.bays.get {} x) ∧ { t.ck with pll := s.ck.pll } = s.ck ∧ t.pt = s.pt ∧
         t.emitted = [] ∧
         ∀ n < 4, (¬ warned n → t.ch n = s.ch n) ∧
           (warned n → (s.ch n).Raises (s.seen n .none) .bg 0 k 1 →
             let c := (s.ch n).faulted (s.seen n .none) .bg 0 k
             t.ch n = { c with bg := { c.bg with staleRaised := c.bg.staleRaised ++ [b.toNat] } }))) ∧
  (∀ (s : State) (v : Word) (fn : BitVec 8), s.por = false → s.settled = true →
     let b0 := s.begin
     (s.Admits fn 0x5008 v.toNat → exec (.tmAlarm (.host fn) v) s = .next (s.wrote fn 0x5008 v.toNat (fun t =>
       { t with ck := { t.ck with tmAlarm := v.toNat, tmAlarmAt := s.time, tmArmed := true } }))) ∧
     (s.ck.tmArmed = true → s.ck.tmAlarm ≤ s.time → s.ck.tmAlarmAt < s.time →
       exec .tmAlarmExpiry s = .next { b0 with ck := { s.ck with tmArmed := false, tmEvent := true } }.setPll) ∧
     (s.ck.tmArmed = false ∨ s.time < s.ck.tmAlarm ∨ s.time ≤ s.ck.tmAlarmAt → exec .tmAlarmExpiry s = .next b0.setPll) ∧
     (s.Admits fn 0x2408 v.toNat → v.toNat.testBit 0 = false →
       exec (.hpErrAck (.host fn) v) s = .next (s.wrote fn 0x2408 v.toNat (fun t => t))) ∧
     (s.Admits fn 0x2408 v.toNat → v.toNat.testBit 0 = true → s.hp.ackPend = false → (∀ a, s.hp.ackAt = some a → a + 80 ≤ b0.stamp) →
       exec (.hpErrAck (.host fn) v) s = .next (s.wrote fn 0x2408 v.toNat (fun t =>
         { t with hp := { t.hp with ackNew := true, ackAt := some b0.stamp, errShared := false, errChans := 0 } }))) ∧
     (s.Admits fn 0x2408 v.toNat → v.toNat.testBit 0 = true → (∃ a, s.hp.ackAt = some a ∧ b0.stamp < a + 80) →
       exec (.hpErrAck (.host fn) v) s = .next (s.wrote fn 0x2408 v.toNat (fun t =>
         { t with hp := { t.hp with ackPend := true, errShared := false, errChans := 0 },
                  ck := { t.ck with overrun := setBit t.ck.overrun 7 } }))) ∧
     (s.hp.errLow = true → 100 < s.hp.errCount →
       (s.hp.acked = true → exec .errLowTimeEnd s =
         .next { b0 with hp := { s.hp with errDone := true, errLow := false, acked := false } }.setPll) ∧
       (s.hp.acked = false → exec .errLowTimeEnd s = .next { b0 with hp := { s.hp with errDone := true } }.setPll)) ∧
     (s.hp.errLow = false ∨ s.hp.errCount ≤ 100 → exec .errLowTimeEnd s = .next b0.setPll))
/-! ## Sleep (R349 to R357) -/

/-- A channel between commands: one that has been idle for DOZE_IDLE CORE cycles dozes where DOZE_EN allows and nothing holds it
awake (R350); from DOZE it goes on to
SLUMBER once SLUMBER_AFTER_US has passed and no alarm is near (R351); a wake request, or the alarm W keep cycles before its expiry,
starts the wake from the state it leaves (R353, R354); the end of the wake makes it ACTIVE, counted by kind (R355, R356), here with
nothing waiting for it and the PLLs locked. -/
def Obligations.SleepAndWake : Prop :=
  ∀ (s : State) (n : ChanId), s.Rests n.val →
    let c := s.ch n.val
    let clk := c.clk
    let ends := fun (cmd : Instr) (k : Clk) => exec cmd s = .next (s.moved n.val { c with clk := k } [])
    let turns := fun (cmd : Instr) (k : Clk) => exec cmd s = .next (s.movedIdle n.val { c with clk := k } [])
    let wakes := fun (cmd : Instr) fromSlumber =>
      ends cmd { clk with st := .waking, fromSlumber := fromSlumber, wakeReq := true, wakeAt := s.time }
    let still := c.bw.strobes = [] ∧ c.rq.ingress = [] ∧ c.rq.bankQ = [] ∧ c.rq.full = []
    let rested := s.busyAt.get 0 n.val + clk.dozeIdle ≤ s.begin.coreNow
    (c.ctl.st = .run → clk.st = .active → clk.dozeEn = true → clk.wakeReq = false → c.idle = true → rested → s.held n.val = false →
      s.pt.st ≠ .approved → turns (.dozeEntry n) { clk with st := .doze, since := s.begin.stamp }) ∧
    (clk.dozeEn = false ∨ c.idle = false ∨ ¬ rested ∨ s.held n.val = true → turns (.dozeEntry n) clk) ∧
    (c.ctl.st = .run → clk.st = .doze → clk.slumberEn = true → clk.since + 1000 * clk.slumberUs ≤ s.time →
      (∀ x ∈ c.expiries s.time, s.time + 8380 < x) → turns (.slumberEntry n) { clk with st := .slumber, since := s.time }) ∧
    (clk.slumberEn = false ∨ s.time < clk.since + 1000 * clk.slumberUs ∨ (∃ x ∈ c.expiries s.time, x ≤ s.time + 8380) →
      turns (.slumberEntry n) clk) ∧
    (c.ctl.st = .run → clk.st = .doze → wakes (.wakeRequest n) false) ∧
    (c.ctl.st = .run → clk.st = .slumber → wakes (.wakeRequest n) true) ∧
    (c.ctl.st = .run → s.keepCut n.val = false →
      (clk.st = .doze → (∃ x ∈ c.expiries s.time, x ≤ s.time + 20) → wakes (.alarm n) false) ∧
      (clk.st = .slumber → (∃ x ∈ c.expiries s.time, x ≤ s.time + 8020) → wakes (.alarm n) true)) ∧
    (c.ctl.st = .run → clk.st = .waking → clk.fromSlumber = false → still →
      ends (.dozeWakeDone n) { clk with st := .active, wakeReq := false, wakes := inc clk.wakes }) ∧
    (c.ctl.st = .run → clk.st = .waking → clk.fromSlumber = true → still → s.ck.pll = .locked → clk.wakeAt + 7980 ≤ s.time →
      ends (.slumberWakeDone n) { clk with st := .active, fromSlumber := false, wakeReq := false, slumberWakes := inc clk.slumberWakes })

/-! ## Clocks, power and the load gate (R306, R314, R372 to R374, R379, R391) -/

/-- CK_PLL_LOCK while a channel is clocked, and CK_KEEP_CLOCK, halt the block (R306, R314); a PLL that loses its lock relocks where
something still needs it (R348).
POR_ASSERT puts everything at its reset value (R372); on POR_RELEASE a flash that does not answer as R376 asks raises CL_FLASH. -/
def Obligations.ClocksAndPower : Prop :=
  ∀ (s : State) (f : FlashDev), s.Still → s.blockHalted = false → s.sflt.ck.disabled = 0 →
    (s.ck.pll ≠ .locked → exec .ckPllLock s = .next s.begin.setPll) ∧
    (s.ck.pll = .locked → (∀ n < 4, (s.ch n).clockNow ≠ .active ∧ (s.ch n).clockNow ≠ .doze ∧ (s.ch n).clockNow ≠ .waking) →
      exec .ckPllLock s = .next { s.begin with ck := { s.ck with pll := .locking } }.setPll) ∧
    (s.ck.pll = .locked → (∃ n < 4, (s.ch n).clockNow = .active ∨ (s.ch n).clockNow = .doze ∨ (s.ch n).clockNow = .waking) →
      ∃ t : State, exec .ckPllLock s = .next t ∧ s.Halts .ck 0 {} t ∧ t.ck.pll ≠ .locked ∧ t.time = s.time) ∧
    (∃ t : State, exec .ckKeepClock s = .next t ∧ s.Halts .ck 1 {} t ∧ { t.ck with pll := s.ck.pll } = s.ck ∧ t.time = s.time) ∧
    exec .porAssert s = .next { pending := s.pending, free := s.free + 1 } ∧
    (f.answers = false →
      let s0 : State := { pending := s.pending, free := s.free }
      ∃ t : State, exec (.porRelease f) s0 = .next t ∧ s0.Halts .cl 0 {} t ∧ t.por = false ∧ t.xspiResetN = true ∧
        t.ck.pll = .off ∧ t.pt.gate = s0.pt.gate)

/-- LOAD_GATE_READY after the image is read makes the gate READY (R391). REFUSE by the security controller, no answer for 1 s, and
a second timeout of a read or a failed re-initialisation at power-on (R379) halt the block with their load errors; at the first timeout
of a read the flash is reset and brought up, and the read is issued again.

GATE_OPEN (R391, R388, R389): the loaded PROT becomes the committed table; a loaded channel of no accord enters RUN, awake, with
its stores, map, lanes and bucket as its image gives them; a channel with no image stays as it was. -/
def Obligations.LoadGate : Prop :=
  (∀ (s : State) (v : Word) (k : Nat), s.Still → s.blockHalted = false → s.sflt.cl.disabled = 0 →
     let b := s.begin
     let off := ∀ n < 4, (s.ch n).ctl.st ≠ .run ∧ (s.ch n).ctl.st ≠ .closing
     let refuses := fun (cmd : Instr) code more => ∃ t : State, exec cmd s = .next t ∧ t.pt.gate = .refused ∧
       (t.cl.sects.get {} 0).st = 2 ∧ (t.cl.sects.get {} 0).error = code ∧ t.cl.imgs = [] ∧ t.emitted = more ∧
       s.Halts .cl 1 { addr := at_ 15 8 code } t
     (s.cl.phase = .reading → exec .loadGateReady s = .next
       { b with cl := { s.cl with phase := .gateWait, loadDone := true }, pt := { s.pt with gate := .ready, readyAt := b.stamp } }.setPll) ∧
     (s.pt.gate = .ready → s.StewardPort → v.toNat.testBit 1 = true → off →
       refuses (.gateRefuse .steward v) 9 [.host .steward 0x3140 true v.toNat false]) ∧
     (s.pt.gate = .ready → s.pt.readyAt + 1000000000 ≤ b.stamp → off → refuses .gateTimeout 10 []) ∧
     (s.pt.gate ≠ .ready ∨ b.stamp < s.pt.readyAt + 1000000000 → exec .gateTimeout s = .next b.setPll) ∧
     (s.cl.phase = .reading → s.cl.timedOut ≠ some k → ∃ t : State, exec (.flashReadTimeout ⟨k, true⟩) s = .next t ∧
       t.cl = { s.cl with timedOut := some k } ∧ t.emitted.head? = some .flashReset ∧
       t.emitted.getLast? = some (s.cl.burst (4096 * k) (min 4096 (s.cl.imageLen - 4096 * k))) ∧ t.sflt = s.sflt ∧ t.pt = s.pt ∧
       ∀ n < 4, t.ch n = s.ch n) ∧
     (s.cl.phase = .reading → ∃ t : State, exec (.flashReadTimeout ⟨k, false⟩) s = .next t ∧ s.Halts .cl 0 {} t ∧ t.cl.imgs = []) ∧
     (s.cl.phase = .reading → s.cl.timedOut = some k → ∃ t : State, exec (.flashReadTimeout ⟨k, true⟩) s = .next t ∧ s.Halts .cl 0 {} t)) ∧
  (∀ (s : State) (v : Word) (n : ChanId) (m : Img), s.Still → s.blockHalted = false → s.StewardPort → s.pt.gate = .ready →
     v.toNat.testBit 1 = false → v.toNat.testBit 0 = true → s.cl.imgs = [(n.val, m)] → tblPaired s.cl.prot 0 = false →
     tblPaired s.cl.prot 2 = false → tblAccord s.cl.prot n.val = 0 → s.cl.accord 0 = none → (∀ w ∈ m.lanes.map (·.1), w < 32) →
     (m.lanes.map (·.1)).Nodup → (s.ch n.val).ctl.st = .loading → (∀ x < 4, x ≠ n.val → (s.ch x).ctl.st ≠ .loading) →
     SMap.wf {} (s.ch n.val).bw.lanes = true →
     let c := s.ch n.val
     ∃ t : State, exec (.gateOpen .steward v) s = .next t ∧ t.pt.gate = .opened ∧ t.pt.table = s.cl.prot ∧
       t.pt.tableCrc = crcWords (tblWords s.cl.prot) ∧ t.cl.phase = .done ∧ t.ck.fabricMode = s.cl.shrd ∧
       t.emitted = [.host .steward 0x3140 true v.toNat false] ∧ (∀ x < 4, x ≠ n.val → t.ch x = s.ch x) ∧
       (t.ch n.val).ctl.st = .run ∧ (t.ch n.val).clk.st = .active ∧ (t.ch n.val).ctl.event = true ∧
       (t.ch n.val).ctl.runTime = s.begin.stamp ∧ (t.ch n.val).os.flags = m.flags ∧ (t.ch n.val).os.sems = m.sems ∧
       (t.ch n.val).os.strs = m.strs ∧ (t.ch n.val).os.bars = m.bars ∧ (t.ch n.val).img = m ∧
       (t.ch n.val).bg.bucket = 1000 * m.capUj ∧ (t.ch n.val).la.up = s.links ∧ (t.ch n.val).hw = c.hw ∧ (t.ch n.val).lt = c.lt ∧
       ∀ l < 32, (t.ch n.val).lane l = match m.lanes.find? (fun p => p.1 = l) with
         | none => c.lane l
         | some p =>
           { activeMask := if p.2.testBit 12 then fld p.2 11 0 else 0,
             members := if p.2.testBit 12 then (t.ch n.val).translate (fld p.2 11 0) else [],
             timeoutUs := fld p.2 51 32, roundUs := fld p.2 51 32, action := p.2.testBit 29 })
/-! ## Crossings (R365 to R371) -/

/-- QUARANTINE of a crossing of R365 on which nothing waits: what comes from its other side is ignored from now on, its shadow runs,
the scope's record takes it with the items it lost, which count as CK_RESET_OVERRUN under that shadow; of a telemetry feed the bay goes
stale. RESET_DONE_EXCHANGE ends it: the shadow lasts another 256 keep cycles. CK_QUARANTINE, 1,024 keep cycles after both sides have
left reset (a free time, log entry 83), raises its source at U. -/
def Obligations.Quarantines : Prop :=
  ∀ (s : State) (q : BitVec 16) (dropped : Nat), s.Still → crossingOk q.toNat = true → (∀ n < 4, (s.ch n).bw.strobes = []) →
    let feed := fld q.toNat 15 12 = 4
    (∃ t : State, exec (.quarantine q dropped) s = .next t ∧
      (∃ x y, s.time ≤ x ∧ (s.quarantined q.toNat = false → y = s.time) ∧
        t.ck.quar = s.ck.quar.filter (fun z => z.number ≠ q.toNat) ++ [⟨q.toNat, s.time, x, y, false⟩]) ∧
      (∃ x ∈ t.ck.shadows, x.row = 1 ∧ x.key = q.toNat ∧ x.ends = none) ∧
      (s.crossingChan q.toNat = none →
        t.ck.xQuarantine = q.toNat ∧ t.ck.resetOverrun = sat64 (s.ck.resetOverrun + dropped) ∧
        ∀ n < 4, (t.ch n).clk = (s.ch n).clk) ∧
      (∀ n < 4, s.crossingChan q.toNat = some n →
        (t.ch n).clk = { (s.ch n).clk with
          xQuarantine := q.toNat, resetOverrun := sat64 ((s.ch n).clk.resetOverrun + dropped) } ∧
        t.ck.xQuarantine = s.ck.xQuarantine ∧ t.ck.resetOverrun = s.ck.resetOverrun) ∧
      (dropped = 0 → t.ck.shadowCount = s.ck.shadowCount) ∧
      (dropped ≠ 0 → t.ck.shadowCount = inc s.ck.shadowCount ∧ t.ck.shadowSrc = 3 ∧ t.ck.shadowRow = 1) ∧
      (feed → SMap.wf {} s.bays = true → (t.bays.get {} (fld q.toNat 11 0)).stale = true) ∧
      (¬ feed → t.bays = s.bays ∧ t.sflt = s.sflt ∧ t.hp = s.hp ∧ ∀ n < 4, (t.ch n).flt = (s.ch n).flt) ∧
      t.pt = s.pt ∧ t.cl = s.cl ∧ t.resp = s.resp ∧ t.emitted = [] ∧
      ∀ n < 4, (t.ch n).os = (s.ch n).os ∧ (t.ch n).hw = (s.ch n).hw ∧ (t.ch n).lt = (s.ch n).lt ∧ (t.ch n).ps = (s.ch n).ps ∧
        (t.ch n).ctl.st = (s.ch n).ctl.st) ∧
    (s.quarantined q.toNat = false → exec (.resetDoneExchange q) s = .next s.begin.setPll) ∧
    (s.quarantined q.toNat = true → ∃ t : State, exec (.resetDoneExchange q) s = .next t ∧ t.quarantined q.toNat = false ∧
      t.ck.quar = s.ck.quar.filter (fun x => x.number ≠ q.toNat) ∧
      t.ck.shadows = s.ck.shadows.map (fun x =>
        if x.row = 1 ∧ x.key = q.toNat ∧ x.ends = none then { x with ends := some (s.time + 5120) } else x) ∧
      t.sflt = s.sflt ∧ t.pt = s.pt ∧ t.cl = s.cl ∧ t.hp = s.hp ∧ t.emitted = [] ∧
      ∀ n < 4, (t.ch n).os = (s.ch n).os ∧ (t.ch n).hw = (s.ch n).hw ∧ (t.ch n).clk = (s.ch n).clk ∧
        (t.ch n).ctl.st = (s.ch n).ctl.st) ∧
    ((∃ x ∈ s.ck.quar, x.number = q.toNat ∧ x.raised = false ∧ x.left + 20480 ≤ s.time) → s.crossingChan q.toNat = none →
      s.sflt.ck.disabled.testBit 2 = false → capturedClass s.sflt.ck ≠ 2 →
      let k : Cause := { addr := q.toNat, key := q.toNat }
      exec (.ckQuarantine q) s = .next
        { s.begin with
          ck := { s.ck with quar := s.ck.quar.map (fun (x : Quar) => if x.number = q.toNat then { x with raised := true } else x) },
          sflt := { s.sflt with ck := (raiseOn s.time s.begin.stamp false 2 2 k s.sflt.ck).1 },
          hp := { s.hp with errNew := true, errShared := true } }.setPll) ∧
    ((∀ x ∈ s.ck.quar, x.number = q.toNat → x.raised = true ∨ s.time < x.left + 20480) →
      exec (.ckQuarantine q) s = .next s.begin.setPll)

/-! ## Accords (R254 to R281) -/

/-- Formation at a chip that forms (R263 to R266), each message's credit returning once it is processed (R258). A HELLO is kept and
answered by a VERDICT, NONE where every check passes; at a chip whose attempt has failed, or with a child that is not READY, nothing
more follows, a leaf whose parent agreed already goes READY. A VERDICT of NONE at such a
leaf does the same; another reason is noted. The READY of the root's last child forms the accord: FORMED to each child. FORMED at a
chip that went READY starts its time exchange. An attempt over 10 ms after it started is followed by another while RETRIES allows,
else the accord is FAILED and LA's source 2 is raised. -/
def Obligations.AccordForming : Prop :=
  ∀ (s : State) (n : ChanId) (m : MsgIn) (d : Edge), s.Ready n.val → (s.ch n.val).la.st = .forming → (s.ch n.val).GoodTree →
    (s.ch n.val).img.commons = [] → (s.ch n.val).img.locals = [] → d ∈ (s.ch n.val).la.edges → d.port = m.port.toNat →
    let c := s.ch n.val
    let e := s.seen n.val .none
    let c0 := c.heard
    let p := m.port.toNat
    let waits := c.la.attemptDead = true ∨ ∃ x ∈ c.la.edges, x.up = false ∧ x.isReady = false
    let leaf := c.la.attemptDead = false ∧ c.la.edges = [d] ∧ d.up = true ∧ d.isReady = false
    let setEdge := fun (f : Edge → Edge) (c : Ch) =>
      ({ c with la := { c.la with edges := c.la.edges.map (fun x => if x.port = p then f x else x) } } : Ch)
    let ends := fun (cmd : Instr) (c : Ch) outs => exec cmd s = .next (s.moved n.val c outs)
    let hears := fun (cmd : Instr) (c : Ch) outs => ends cmd c (outs ++ [.creditBack p])
    let kept : Ch := { c0 with la := { c.la with
      peerData := [0, 1, 2, 3, 4].foldl (fun x w => x.put 0 (8 * p + w) (bodyWord m (w + 1))) c.la.peerData } }
    let agrees := m.accord.toNat = c.la.accord ∧ bodyWord m 1 = c.la.digest ∧ fld (bodyWord m 2) 47 40 = verMajor ∧
      fld (bodyWord m 2) 31 0 = laFeatures ∧ d.rank = m.src.toNat
    let verdict := fun r => Output.msg p { typ := tyVerdict, accord := c.la.accord, src := c.la.rank, dst := m.src.toNat, body := [r] }
    (s.Hears n.val tyHello m → agrees → d.isReady = false → waits ∨ leaf ∧ d.recvOk = false →
      hears (.hello m) (setEdge (fun x => { x with sentOk := true }) (kept.sentOn p)) [verdict 0]) ∧
    (s.Hears n.val tyHello m → agrees → leaf → d.recvOk = true → 17 < (c.la.credit p).txAvail →
      hears (.hello m) ((setEdge (fun x => { x with sentOk := true, isReady := true }) (kept.sentOn p)).sentOn p)
        [verdict 0, c.edgeMsg tyReady 0 [] d]) ∧
    (s.Hears n.val tyHello m → m.accord.toNat = c.la.accord → bodyWord m 1 ≠ c.la.digest → c.la.firstReason = 0 →
      let c1 := kept.sentOn p
      hears (.hello m) { c1 with la := { c1.la with
        firstReason := reDigest, reason := reDigest, reasonRank := c.la.rank, reasonPort := p } } [verdict reDigest]) ∧
    (s.Hears n.val tyVerdict m → fld (bodyWord m 1) 7 0 = 0 → waits →
      hears (.verdict m) (setEdge (fun x => { x with recvOk := true }) c0) []) ∧
    (s.Hears n.val tyVerdict m → fld (bodyWord m 1) 7 0 = 0 → leaf → d.sentOk = true →
      hears (.verdict m) ((setEdge (fun x => { x with recvOk := true, isReady := true }) c0).sentOn p) [c.edgeMsg tyReady 0 [] d]) ∧
    (s.Hears n.val tyVerdict m → fld (bodyWord m 1) 7 0 ≠ 0 → c.la.firstReason = 0 →
      let r := fld (bodyWord m 1) 7 0
      hears (.verdict m) { c0 with la := { c.la with
        firstReason := r, reason := r, reasonRank := m.src.toNat, reasonPort := p } } []) ∧
    (s.Hears n.val tyReady m → d.up = false →
      c.la.attemptDead = true ∨ (∃ x ∈ c.la.edges, x.up = false ∧ x.isReady = false ∧ x.port ≠ p) →
      hears (.ready m) (setEdge (fun x => { x with isReady := true }) c0) []) ∧
    (s.Hears n.val tyReady m → c.la.attemptDead = false → (∀ x ∈ c.la.edges, x.up = false ∧ (x.port ≠ p → x.isReady = true)) →
      let c1 := (c.la.edges.map (fun x => x.port)).foldl Ch.sentOn (setEdge (fun x => { x with isReady := true }) c0)
      hears (.ready m) { c1 with la := { c1.la with st := .formed, joining := false } } (c.la.edges.map (c.edgeMsg tyFormed 0 []))) ∧
    (s.Hears n.val tyFormed m → d.up = true → d.isReady = true → c.la.joining = false →
      let t1 := (e.linkTime p : Int) + c.la.timeOffset
      let c1 := c0.sentOn p
      hears (.formed m) { c1 with la := { c1.la with joining := true, reqT1 := some t1, reqAt := s.time } }
        [c.edgeMsg tyTimeReq 0 [word64 t1] d]) ∧
    (s.time < c.la.attemptAt + 10000000 → ends (.formationAttemptTimeout n) c []) ∧
    (c.la.attemptAt + 10000000 ≤ s.time → c.la.attempts ≤ c.la.retries →
      (∀ x ∈ c.la.edges, c.la.linkPorts.testBit x.port = true ∧ c.la.up.testBit x.port = true) →
      let c1 := (c.la.edges.map (fun x => x.port)).foldl Ch.sentOn c
      let la := c1.la
      let r := c.la.firstReason = 0
      ends (.formationAttemptTimeout n)
        { c1 with la := { la with
          attempts := la.attempts + 1, attemptAt := e.stamp, firstReason := 0, attemptDead := false, joining := false, reqT1 := none,
          reason := if r then reNoAnswer else la.reason, reasonRank := if r then la.rank else la.reasonRank,
          reasonPort := if r then 0 else la.reasonPort,
          edges := la.edges.map (fun x => { x with sentOk := false, recvOk := false, isReady := false }) } }
        (c.la.edges.map (c.edgeMsg tyHello 0 (c.helloBody e)))) ∧
    (c.la.attemptAt + 10000000 ≤ s.time → c.la.retries < c.la.attempts → c.la.firstReason ≠ 0 → c.Raises e .la 2 {} 2 →
      let c1 := c.faulted e .la 2 {}
      exec (.formationAttemptTimeout n) s = .next (s.movedWithError n.val { c1 with la := { c1.la with st := .failed } } []))

/-- The objects of a FORMED accord at a chip that binds none of them itself (R271 to R274). ARRIVE from a child for the generation it
collects is recorded with LEAN and CHOICE, and at the root starts the timer; the last child's makes the contribution go up, or, at the
root, RELEASE go to every child and the next generation begin. RELEASE from the parent goes to every child, and the next generation
is collected. ACCORD_TIMEOUT at the root holds, or releases with TMO and latches who is missing. An ARRIVE for another generation, and
BREAK, break the accord: BREAK to the other edges whose ports are the channel's, the reason recorded, LA's source 4 raised. Each message's credit returns once it is
processed (R258). -/
def Obligations.AccordObjects : Prop :=
  ∀ (s : State) (n : ChanId) (m : MsgIn) (d : Edge) (a : AccObj) (k : Nat), s.Ready n.val → (s.ch n.val).la.st = .formed →
    (s.ch n.val).GoodTree → (s.ch n.val).img.locals = [] → d ∈ (s.ch n.val).la.edges → d.port = m.port.toNat →
    ((s.ch n.val).common k).testBit 63 = true → (s.ch n.val).accReduce k = false → m.object.toNat = k →
    (s.ch n.val).accState k = a → SMap.wf {} (s.ch n.val).la.objs = true →
    let c := s.ch n.val
    let e := s.seen n.val .none
    let c0 := c.heard
    let p := m.port.toNat
    let word := bodyWord m 1
    let lean := a.lean || word.testBit 31
    let choice := max a.choice (fld word 30 29)
    let kids := c.la.edges.filter (fun x => !x.up)
    let root := kids.length = c.la.edges.length
    let sends := fun (ds : List Edge) (c : Ch) => (ds.map (fun x => x.port)).foldl Ch.sentOn c
    let back := Output.creditBack p
    let ends := fun (cmd : Instr) (c : Ch) outs => exec cmd s = .next (s.moved n.val c outs)
    let joined : AccObj := { a with
      children := a.children ++ [p], lean := lean, choice := choice,
      timer := if root ∧ a.timer = none then some e.stamp else a.timer }
    let goodArrive := s.Hears n.val tyArrive m ∧ d.up = false ∧ fld word 63 32 = a.gen.toNat ∧ p ∉ a.children
    let breaks := fun (cmd : Instr) (x : State → Prop) reason rank sent origin typ object (ds : List Edge) =>
      let k : Cause := { addr := at_ 63 32 (c.accState object).gen.toNat + at_ 7 0 object, access := 6, key := p }
      c.Raises e .la 4 k 2 → ∃ t : State, exec cmd s = .next t ∧ (t.ch n.val).la.st = .broken ∧ (t.ch n.val).la.reason = reason ∧
        (t.ch n.val).la.reasonRank = rank ∧ (t.ch n.val).la.reasonPort = p ∧ (t.ch n.val).lalog.breakType = typ ∧
        t.emitted = (ds.filter (fun d => c.la.linkPorts.testBit d.port)).map (c.edgeMsg tyBreak 0 [at_ 7 0 sent + at_ 13 8 origin]) ++ [back] ∧
        (t.ch n.val).flt = (c.faulted e .la 4 k).flt ∧
        (t.ch n.val).os = c.os ∧ (t.ch n.val).bw = c.bw ∧ (t.ch n.val).hw = c.hw ∧ (t.ch n.val).ps = c.ps ∧
        (t.ch n.val).la.objs = c.la.objs ∧ (∀ x < 4, x ≠ n.val → t.ch x = s.ch x) ∧ x t
    (goodArrive → (∃ x ∈ kids, x.port ≠ p ∧ x.port ∉ a.children) → ends (.arrive m) (c0.putAcc k joined) [back]) ∧
    (goodArrive → (∀ x ∈ kids, x.port = p ∨ x.port ∈ a.children) → a.sent = false → ∀ u ∈ c.la.edges, u.up = true →
      ends (.arrive m) ((c0.putAcc k { joined with sent := true }).sentOn u.port)
        [back, c.edgeMsg tyArrive k [accWord a.gen.toNat lean choice false] u]) ∧
    (goodArrive → (∀ x ∈ kids, x.port = p ∨ x.port ∈ a.children) → a.sent = false → root →
      ends (.arrive m) ((sends kids c0).putAcc k { gen := a.gen + 1 })
        (back :: kids.map (c.edgeMsg tyRelease k [accWord a.gen.toNat lean choice false]))) ∧
    (s.Hears n.val tyArrive m → d.up = false → fld word 63 32 ≠ a.gen.toNat →
      breaks (.arrive m) (fun t => (t.ch n.val).lalog.breakReceived = fld word 63 32 ∧
        (t.ch n.val).lalog.breakExpected = a.gen.toNat ∧ (t.ch n.val).lalog.breakObject = k)
        reGeneration c.la.rank reGeneration c.la.rank tyArrive k c.la.edges) ∧
    (s.Hears n.val tyRelease m → d.up = true → fld word 63 32 = a.gen.toNat → word.testBit 28 = false → kids ≠ [] →
      ends (.release m) ((sends kids c0).putAcc k { gen := a.gen + 1 })
        (kids.map (c.edgeMsg tyRelease k (m.body.map (fun w => w.toNat))) ++ [back])) ∧
    (root → a.expired = false → (∃ t0, a.timer = some t0 ∧ t0 + 1000 * fld (c.common k) 59 40 ≤ s.time) →
      fld (c.common k) 59 40 ≠ 0 → kids.length ≤ 4 →
      let x : Cause := { addr := at_ 63 32 a.gen.toNat + at_ 7 0 k, access := 5 }
      c.Raises e .la 3 x 2 → ∃ t : State, exec (.accordTimeout n (BitVec.ofNat 8 k)) s = .next t ∧
        (t.ch n.val).lalog.accTimeouts = inc c.lalog.accTimeouts ∧ (t.ch n.val).flt = (c.faulted e .la 3 x).flt ∧
        (t.ch n.val).os = c.os ∧ (t.ch n.val).bw = c.bw ∧ (t.ch n.val).hw = c.hw ∧ (t.ch n.val).ps = c.ps ∧
        (∀ x < 4, x ≠ n.val → t.ch x = s.ch x) ∧
        ((c.common k).testBit 60 = true → (t.ch n.val).accState k = { a with expired := true } ∧ t.emitted = []) ∧
        ((c.common k).testBit 60 = false → (t.ch n.val).accState k = { gen := a.gen + 1 } ∧
          t.emitted = kids.map (c.edgeMsg tyRelease k [accWord a.gen.toNat false 0 true]) ∧
          (t.ch n.val).lalog.tmoGen = a.gen.toNat ∧ (t.ch n.val).lalog.tmoObject = k ∧ (t.ch n.val).lalog.tmoLocal = false)) ∧
    (s.Hears n.val tyBreak m → breaks (.breakMsg m) (fun _ => True) reBreakReceived (fld word 13 8) (fld word 7 0) (fld word 13 8)
      tyBreak 0 (c.la.edges.filter (fun x => x.port ≠ p)))

/-- The messages and the timer of an accord's object take effect whatever credits its ports have and whatever LA has captured, at a chip
that binds none of the objects itself (R258, R271 to R275): an ARRIVE of the generation collected is one contribution more, or ends it;
a RELEASE of it ends it; BREAK breaks the accord; each is counted and its credit returned. ACCORD_TIMEOUT at the root is counted and
holds the object, or ends its generation. -/
def Obligations.AccordEventsComplete : Prop :=
  ∀ (s : State) (n : ChanId) (m : MsgIn) (d : Edge) (a : AccObj) (k : Nat), s.Ready n.val → (s.ch n.val).la.st = .formed →
    (s.ch n.val).img.locals = [] → (s.ch n.val).la.edges.find? (fun x => x.port = m.port.toNat) = some d →
    ((s.ch n.val).common k).testBit 63 = true → (s.ch n.val).accReduce k = false → m.object.toNat = k →
    (s.ch n.val).accState k = a → SMap.wf {} (s.ch n.val).la.objs = true →
    let c := s.ch n.val
    let word := bodyWord m 1
    let done := fun (cmd : Instr) (p : Ch → Prop) => ∃ t : State, exec cmd s = .next t ∧
      (t.ch n.val).lalog.msgRx = inc c.lalog.msgRx ∧ Output.creditBack m.port.toNat ∈ t.emitted ∧ p (t.ch n.val)
    (s.Hears n.val tyArrive m → d.up = false → fld word 63 32 = a.gen.toNat → m.port.toNat ∉ a.children → a.sent = false →
      done (.arrive m) (fun x => x.la.st = .formed ∧
        ((x.accState k).gen = a.gen ∧ (x.accState k).children = a.children ++ [m.port.toNat] ∨ x.accState k = { gen := a.gen + 1 }))) ∧
    (s.Hears n.val tyRelease m → d.up = true → fld word 63 32 = a.gen.toNat →
      done (.release m) (fun x => x.la.st = .formed ∧ (x.accState k).gen = a.gen + 1 ∧ (x.accState k).children = [] ∧
        (x.accState k).timer = none)) ∧
    (s.Hears n.val tyBreak m → done (.breakMsg m) (fun x => x.la.st = .broken ∧ x.la.reason = reBreakReceived)) ∧
    ((∀ x ∈ c.la.edges, x.up = false) → a.expired = false → fld (c.common k) 59 40 ≠ 0 →
      (∃ t0, a.timer = some t0 ∧ t0 + 1000 * fld (c.common k) 59 40 ≤ s.time) →
      ∃ t : State, exec (.accordTimeout n (BitVec.ofNat 8 k)) s = .next t ∧
        (t.ch n.val).lalog.accTimeouts = inc c.lalog.accTimeouts ∧
        (t.ch n.val).accState k = if (c.common k).testBit 60 then { a with expired := true } else { gen := a.gen + 1 })

/-- Accord time at a chip with a parent (R267 to R270), as the LINK domain of the port has the keep value (R358). Every ms it sends
TIME_REQ with its own accord time, a missed answer is counted, and the third in a row breaks the accord with LINK_LOST. TIME_REQ is answered with the receiver's accord time. A TIME_RSP
to the open request gives δ and θ: a δ outside 0 to 4,000 ns is discarded; up to 250 ns θ moves the offset; up to 5,000 ns LA's
source 1 is raised as well; above, the accord breaks with TIME. -/
def Obligations.AccordTime : Prop :=
  ∀ (s : State) (n : ChanId) (m : MsgIn) (d : Edge), s.Ready n.val → (s.ch n.val).la.st = .formed → (s.ch n.val).GoodTree →
    (s.ch n.val).img.locals = [] → d ∈ (s.ch n.val).la.edges → d.up = true → (s.ch n.val).la.accord ≠ 0 →
    let c := s.ch n.val
    let e := s.seen n.val .none
    let c0 := c.heard
    let ends := fun (cmd : Instr) (c : Ch) outs => exec cmd s = .next (s.moved n.val c outs)
    let back := Output.creditBack m.port.toNat
    let mine := (e.linkTime d.port : Int) + c.la.timeOffset
    let asks := fun (c0 : Ch) =>
      let c1 := c0.sentOn d.port
      ends (.timeExchangeDue n) { c1 with la := { c1.la with reqT1 := some mine, reqAt := s.time } }
        [c.edgeMsg tyTimeReq 0 [word64 mine] d]
    let breaks := fun (cmd : Instr) reason more =>
      let k : Cause := { addr := at_ 63 32 (c.accState 0).gen.toNat, access := 6, key := d.port }
      c.Raises e .la 4 k 2 → ∃ t : State, exec cmd s = .next t ∧ (t.ch n.val).la.st = .broken ∧ (t.ch n.val).la.reason = reason ∧
        (t.ch n.val).la.timeOffset = c.la.timeOffset ∧
        t.emitted = (c.la.edges.filter (fun d => c.la.linkPorts.testBit d.port)).map
          (c.edgeMsg tyBreak 0 [at_ 7 0 reason + at_ 13 8 c.la.rank]) ++ more ∧
        (t.ch n.val).flt = (c.faulted e .la 4 k).flt ∧ (t.ch n.val).os = c.os ∧ (t.ch n.val).bw = c.bw ∧ (t.ch n.val).hw = c.hw
    let t1 := c.la.reqT1.getD 0
    let sum := (signed64 (bodyWord m 2) - t1) + (signed64 (bodyWord m 3) - mine)
    let θ := Int.tdiv sum 2
    let δ := (mine - t1) - (signed64 (bodyWord m 3) - signed64 (bodyWord m 2))
    let answered := s.Hears n.val tyTimeRsp m ∧ c.la.reqT1 ≠ none ∧ d.port = m.port.toNat ∧ signed64 (bodyWord m 1) = t1
    let closed : Ch := { c0 with la := { c.la with reqT1 := none, missRun := 0 } }
    let moved : Ch := { closed with la := { closed.la with
      timeOffset := c.la.timeOffset + θ, lastDelay := word32 δ, lastTheta := θ } }
    (s.time < c.la.reqAt + 1000000 → ends (.timeExchangeDue n) c []) ∧
    (c.la.reqAt + 1000000 ≤ s.time → c.la.reqT1 = none → asks c) ∧
    (c.la.reqAt + 1000000 ≤ s.time → c.la.reqT1 ≠ none → c.la.missRun < 2 →
      asks { c with la := { c.la with missRun := c.la.missRun + 1 }, lalog := { c.lalog with timeMisses := inc c.lalog.timeMisses } }) ∧
    (c.la.reqAt + 1000000 ≤ s.time → c.la.reqT1 ≠ none → 2 ≤ c.la.missRun → breaks (.timeExchangeDue n) reLinkLost []) ∧
    (s.Hears n.val tyTimeReq m → c.MaySend m.port.toNat →
      let now := word64 ((e.linkTime m.port.toNat : Int) + c.la.timeOffset)
      ends (.timeReq m) (c0.sentOn m.port.toNat)
        [.msg m.port.toNat { typ := tyTimeRsp, accord := c.la.accord, src := c.la.rank, dst := m.src.toNat,
                             body := [bodyWord m 1, now, now] }, back]) ∧
    (answered → δ < 0 ∨ 4000 < δ →
      ends (.timeRsp m) { closed with lalog := { closed.lalog with timeDiscards := inc c.lalog.timeDiscards } } [back]) ∧
    (answered → 0 ≤ δ → δ ≤ 4000 → θ.natAbs ≤ 250 → ends (.timeRsp m) moved [back]) ∧
    (answered → 0 ≤ δ → δ ≤ 4000 → 250 < θ.natAbs → θ.natAbs ≤ 5000 →
      let k : Cause := { addr := at_ 18 16 m.port.toNat, access := 6, key := m.port.toNat }
      c.Raises e .la 1 k 1 → ends (.timeRsp m)
        (({ moved with la := { moved.la with timeWarn := true },
                       lalog := { moved.lalog with timeWarns := inc c.lalog.timeWarns } } : Ch).faulted e .la 1 k) [back]) ∧
    (answered → 0 ≤ δ → δ ≤ 4000 → 5000 < θ.natAbs → breaks (.timeRsp m) reTime [back])

/-- Link ports (R258, R260, R276, R325). LINK_LOST and LINK_UP set the port's state in every link agent, and start and end its
shadow in the channel that owns it; a tree edge lost breaks a FORMED accord with LINK_LOST. CREDIT_RETURN adds a credit, at most
64, and lets what waits on the port go, a TIME_REQ with its t1 taken as it goes (R268). A remote trailer to send leaves as TRAILER, or is counted as refused where the issuer's
channel has no accord or does not own the port. -/
def Obligations.LinkEvents : Prop :=
  ∀ (s : State) (n : ChanId) (p : BitVec 3) (t : TrailerArg) (w : Msg) (rest : List (Nat × Msg)), s.Still → s.Ready n.val →
    s.portOwner p.toNat = some n.val → s.quarantined (0x5000 + p.toNat) = false → SMap.wf {} (s.ch n.val).la.credits = true →
    let c := s.ch n.val
    let e := s.seen n.val .none
    let q := p.toNat
    let avail := (c.la.credit q).txAvail
    let port := fun (u : Nat → Nat) (c : Ch) => ({ c with la := { c.la with up := u c.la.up } } : Ch)
    let credit := fun (x : Nat) (c : Ch) =>
      ({ c with la := { c.la with credits := c.la.credits.put {} q { c.la.credit q with txAvail := x } } } : Ch)
    let shadow : Ch := { c with ctl := { c.ctl with shadows := c.ctl.shadows ++ [⟨3, q, [], none⟩] } }
    (c.la.edgeAt q = none → (∀ x ∈ c.ctl.shadows, ¬ (x.row = 3 ∧ x.key = q ∧ x.ends = none)) →
      ∃ t : State, exec (.linkLost p) s = .next t ∧ t.ch n.val = port (fun u => clrBit u q) shadow ∧ t.emitted = [] ∧
        ∀ x < 4, x ≠ n.val → t.ch x = port (fun u => clrBit u q) (s.ch x)) ∧
    (c.la.st = .formed → c.GoodTree → c.img.locals = [] → ∀ d, c.la.edgeAt q = some d →
      let k : Cause := { addr := at_ 63 32 (c.accState 0).gen.toNat, access := 6, key := q }
      c.Raises e .la 4 k 2 → ∃ t : State, exec (.linkLost p) s = .next t ∧ (t.ch n.val).la.st = .broken ∧
        (t.ch n.val).la.reason = reLinkLost ∧ (t.ch n.val).la.reasonPort = q ∧ (t.ch n.val).la.up = clrBit c.la.up q ∧
        t.emitted = (c.la.edges.filter (fun d => c.la.linkPorts.testBit d.port)).map
          (c.edgeMsg tyBreak 0 [at_ 7 0 reLinkLost + at_ 13 8 c.la.rank]) ∧
        (t.ch n.val).flt = (c.faulted e .la 4 k).flt ∧ (t.ch n.val).os = c.os ∧ (t.ch n.val).bw = c.bw ∧ (t.ch n.val).hw = c.hw) ∧
    (∃ t : State, exec (.linkUp p) s = .next t ∧ t.emitted = [] ∧
      t.ch n.val = { port (fun u => setBit u q) c with
        ctl := { c.ctl with shadows := c.ctl.shadows.map (fun x =>
          if x.row = 3 ∧ x.key = q ∧ x.ends = none then { x with ends := some (s.time + 5120) } else x) } } ∧
      ∀ x < 4, x ≠ n.val → t.ch x = port (fun u => setBit u q) (s.ch x)) ∧
    (64 ≤ avail → exec (.creditReturn p) s = .next (s.moved n.val c [])) ∧
    (avail < 64 → (∀ x ∈ c.la.txWait, x.1 ≠ q) → exec (.creditReturn p) s = .next (s.moved n.val (credit (avail + 1) c) [])) ∧
    (avail < 16 → c.la.txWait = (q, w) :: rest → w.typ ≠ tyTrailer → w.typ ≠ tyArrive → (∀ x ∈ rest, x.1 ≠ q) →
      let c1 := credit avail c
      let now := (e.linkTime q : Int) + c.la.timeOffset
      (w.typ ≠ tyTimeReq → w.typ ≠ tyTimeRsp → exec (.creditReturn p) s = .next (s.moved n.val { c1 with
        la := { c1.la with txWait := rest }, lalog := { c.lalog with msgTx := inc c.lalog.msgTx } } [.msg q w])) ∧
      (w.typ = tyTimeReq → exec (.creditReturn p) s = .next (s.moved n.val { c1 with
        la := { c1.la with txWait := rest, reqT1 := some now }, lalog := { c.lalog with msgTx := inc c.lalog.msgTx } }
        [.msg q { w with body := [word64 now] }]))) ∧
    (s.packetOwner (trailerPacket t) = some n.val →
      (c.la.accord = 0 ∨ c.la.linkPorts.testBit q = false → exec (.remoteTrailerSend t p) s = .next (s.moved n.val
        { c with lalog := { c.lalog with rtrRefused := inc c.lalog.rtrRefused } } [])) ∧
      (c.la.accord ≠ 0 → c.la.linkPorts.testBit q = true → c.MaySend q → ∀ d, c.la.edgeAt q = some d →
        exec (.remoteTrailerSend t p) s = .next (s.moved n.val (c.sentOn q)
          [.msg q { typ := tyTrailer, accord := c.la.accord, src := c.la.rank, dst := d.rank,
                    body := [at_ 31 26 t.opcode.toNat + at_ 25 23 t.cls.toNat + at_ 22 0 t.index.toNat, t.operand.toNat,
                             at_ 11 0 t.issuer.toNat] }])))

/-! ## Trailers, packet errors, delivery (R36, R37, R53, R60 to R69, R261) -/

/-- A trailer of an endpoint of the channel, and a remote trailer received on one of its ports while its accord is FORMED or BROKEN
(R261), perform FLAG_SET, FLAG_CLEAR or SEM_ADD on an object that is not poisoned and that nobody waits for, as the same request
would, but answer nothing: the take is acknowledged at the port it came by. Trailers are counted as such, and the remote one by the link agent as well. -/
def Obligations.TrailerOps : Prop :=
  ∀ (s : State) (n phys lid i op : Nat) (t : TrailerArg) (m : MsgIn) (f : Flag) (v : Sem), s.Ready n → t.issuer.toNat = phys →
    s.packetOwner (trailerPacket t) = some n → s.quarantined (srnCrossing t.tile.toNat) = false → s.fabricPort t.tile.toNat = false →
    s.held n = false → (s.ch n).lidOf phys = some lid →
    lid < 0xFFE → phys ∉ (s.ch n).ctl.fenced → t.pkt = .none → t.mem = .none → t.poisoned = false → t.opcode.toNat = op →
    t.index.toNat = i → (s.ch n).flag i = f → (s.ch n).sem i = v →
    let taken := fun (p : Packet) =>
      let c := (s.ch n).counted p lid
      ({ c with rq := { c.rq with trailers := inc c.rq.trailers } } : Ch)
    let ends := fun (g : Ch → Ch) => exec (.trailer t) s = .next (s.moved n (g (taken (trailerPacket t))) [.take t.tile.toNat op])
    let remote := s.Hears n tyTrailer m ∧ m.port.toNat + 0x700 = phys ∧
      bodyWord m 1 = at_ 31 26 op + at_ 25 23 t.cls.toNat + at_ 22 0 i ∧ bodyWord m 2 = t.operand.toNat ∧
      ((s.ch n).la.st = .formed ∨ (s.ch n).la.st = .broken)
    let far := fun (g : Ch → Ch) => exec (.remoteTrailer m) s = .next (s.moved n
      (let c := g (taken (remotePacket m))
       { c with lalog := { c.lalog with
        msgRx := inc c.lalog.msgRx, rtr := inc c.lalog.rtr,
        rtrLast := at_ 61 56 m.src.toNat + at_ 55 44 (fld (bodyWord m 3) 11 0) + at_ 43 38 op + at_ 37 35 t.cls.toNat + at_ 22 0 i } })
      [.take phys op, .creditBack m.port.toNat])
    let sum := v.value + fld t.operand.toNat 31 0
    let added := fun (c : Ch) => c.putSem i { v with value := sum, last := lid }
    let flagIs := fun x (c : Ch) => c.putFlag i { f with value := x, last := lid }
    (t.cls = 0 → i < 2 ^ 20 → (s.ch n).Alone clFlag i → f.poisoned = false →
      (op = opFlagSet → f.value = false →
        ends (flagIs true) ∧ (remote → far (flagIs true))) ∧
      (op = opFlagClear → f.value = true →
        ends (flagIs false) ∧ (remote → far (flagIs false)))) ∧
    (t.cls = 1 → i < 2 ^ 18 → (s.ch n).Alone clSem i → v.poisoned = false → op = opSemAdd → 0 < fld t.operand.toNat 31 0 →
      sum ≤ 0x7FFFFFFF → ends added ∧ (remote → far added))

/-- PACKET_ERROR and RESPONSE_DELIVERED at a node. A request that cannot be read is answered PACKET_ERROR with OPCODE 0 and TAG
0xFFFF; where the endpoint belongs to a channel that channel counts it and raises RQ's source 1, else PT counts it (R53, R69). An
endpoint takes its oldest response; a request's first response frees one of its 16 outstanding requests (R36, R37). -/
def Obligations.NodeEvents : Prop :=
  ∀ (s : State) (n lid : Nat) (p : BitVec 12) (r : Response) (l₁ l₂ : List Response), s.Ready n →
    s.quarantined (srnCrossing p.toNat) = false → s.fabricPort p.toNat = false →
    let c := s.ch n
    let e := s.seen n .none
    let issued : State := { s.begin with outstanding := s.outstanding.put 0 p.toNat (s.outstanding.get 0 p.toNat + 1) }
    let k : Cause := { addr := p.toNat, master := some (lid, p.toNat), access := 1, key := p.toNat }
    let reply := fun ch x => Output.resp { endpoint := p.toNat, chan := ch, opcode := 0, status := stPacketError, tag := 0xFFFF,
                                           result := x, final := true, first := true }
    (s.outstanding.get 0 p.toNat < 16 → s.ownerOf p.toNat = some n → s.held n = false → c.lidOf p.toNat = some lid → c.Raises e .rq 1 k 2 →
      ∃ x, exec (.packetError p) s = .next (((((issued.setCh n
        (({ c with rq := { c.rq with pktErr := inc c.rq.pktErr } } : Ch).faulted e .rq 1 k)).errPulse (some n)).leave [reply n x]).busyNow n)).setPll) ∧
    (s.outstanding.get 0 p.toNat < 16 → s.ownerOf p.toNat = none → ∃ x, exec (.packetError p) s = .next
      (({ issued with pt := { s.pt with noChan := inc s.pt.noChan } } : State).leave [reply 15 x]).setPll) ∧
    (s.resp = l₁ ++ r :: l₂ → (∀ x ∈ l₁, x.endpoint ≠ p.toNat) → r.endpoint = p.toNat →
      exec (.responseDelivered p) s = .next { s.begin with
        resp := l₁ ++ l₂,
        outstanding := if r.first then s.outstanding.put 0 p.toNat (s.outstanding.get 0 p.toNat - 1) else s.outstanding }.setPll) ∧
    ((∀ x ∈ s.resp, x.endpoint ≠ p.toNat) → exec (.responseDelivered p) s = .next s.begin.setPll)

/-! ## The protection table's change (R294 to R301) -/

/-- The commands of a table change, by either party. OPEN of the next SEQ begins an edit, with the committed table as its staging
buffer; the opener writes words of it and SUBMITs; APPROVE by the other party of the same SEQ and CRC makes it APPROVED, a mismatch
aborts it; ABORT by either party ends it. A command at the wrong state, of the wrong party or SEQ only leaves its code. -/
def Obligations.TableCommands : Prop :=
  ∀ (s : State) (v : Word) (fn : BitVec 8), s.blockHalted = false → s.sflt.pt.pendForce = none → s.sflt.upsets = [] →
    let p := s.pt
    let b := s.begin
    let seq := fld v.toNat 31 0
    let next := (fld (p.table.get 0 0) 63 32 + 1) % 2 ^ 32
    let code := fun (steward : Bool) cmd x (q : Pt) =>
      if steward then { q with stewCmd := cmd, stewCode := x, stewCheck := 0 } else { q with hostCmd := cmd, hostCode := x, hostCheck := 0 }
    let aborted := fun reason (q : Pt) =>
      { q with st := .idle, ownerSteward := false, seq := 0, stage := [], stageCrc := 0, checking := false, submitAt := 0,
               windowStart := 0, holding := false, holdAt := 0, heldChans := 0, abSeq := p.seq, abReason := reason, abCheck := 0,
               aborts := inc p.aborts, abortCause := true }
    let does := fun (cmd : Requester → Word → Instr) off (f : Bool → Pt) =>
      (s.StewardPort → exec (cmd .steward v) s = .next (s.stewardWrote off v.toNat (fun t => { t with pt := f true }))) ∧
      (s.Admits fn off v.toNat → exec (cmd (.host fn) v) s = .next (s.wrote fn off v.toNat (fun t => { t with pt := f false })))
    (p.st = .idle → seq = next → does .ptOpen 0x3010 (fun w => code w 1 0
      { p with st := .edit, ownerSteward := w, seq := seq, stage := p.table.put 0 0 (setFld (p.table.get 0 0) 63 32 seq) })) ∧
    (p.st = .idle → seq ≠ next → does .ptOpen 0x3010 (fun w => code w 1 2 p)) ∧
    (p.st ≠ .idle → does .ptOpen 0x3010 (fun w => code w 1 1 p)) ∧
    (does .ptStageData 0x3048 (fun w =>
      if p.st = .edit ∧ p.checking = false ∧ p.ownerSteward = w ∧ p.stageSel ≠ 0 then
        { p with stage := p.stage.put 0 p.stageSel v.toNat }
      else p)) ∧
    (p.st ≠ .edit ∨ p.checking = true → does .ptSubmit 0x3018 (fun w => code w 2 1 p)) ∧
    (p.st = .edit → p.checking = false → does .ptSubmit 0x3018 (fun w =>
      if p.ownerSteward = w then { p with checking := true, submitAt := b.stamp } else code w 2 3 p)) ∧
    (p.st ≠ .staged → does .ptApprove 0x3020 (fun w => code w 3 1 p)) ∧
    (p.st = .staged → does .ptApprove 0x3020 (fun w =>
      if p.ownerSteward = w then code w 3 3 p
      else if seq = p.seq ∧ fld v.toNat 63 32 = p.stageCrc then code w 3 0 { p with st := .approved }
      else aborted 4 (code w 3 5 p))) ∧
    (p.st = .idle → does .ptAbort 0x3028 (fun w => code w 4 1 p)) ∧
    (p.st ≠ .idle → does .ptAbort 0x3028 (fun w => aborted (if w then 2 else 1) (code w 4 0 p)))

/-- The rest of a table change. The check of a submitted buffer ends with STAGED and its CRC, or aborts the change with the check
that failed (R291, R296). An approved change that affects no channel is applied at once; where it affects some, none asleep, it waits
for their levels and holds them (R299, R300); 64 CORE cycles on the staging buffer becomes the committed table, or, with a level left
again, the hold ends. 100 ms after STAGED the change is aborted with reason WINDOW. -/
def Obligations.TableSteps : Prop :=
  ∀ (s : State), s.Still → s.blockHalted = false → s.sflt.pt.pendForce = none → s.sflt.upsets = [] →
    let p := s.pt
    let b := s.begin
    let aborted := fun reason check (q : Pt) =>
      { q with st := .idle, ownerSteward := false, seq := 0, stage := [], stageCrc := 0, checking := false, submitAt := 0,
               windowStart := 0, holding := false, holdAt := 0, heldChans := 0, abSeq := p.seq, abReason := reason, abCheck := check,
               aborts := inc p.aborts, abortCause := true }
    let code := fun cmd x check (q : Pt) =>
      if p.ownerSteward then { q with stewCmd := cmd, stewCode := x, stewCheck := check }
      else { q with hostCmd := cmd, hostCode := x, hostCheck := check }
    let becomes := fun (cmd : Instr) (q : Pt) => exec cmd s = .next { b with pt := q }.setPll
    let applied := fun (cmd : Instr) => exec cmd s = .next
      { b with
        pairAB := if tblPaired p.stage 0 then { st := .paired } else s.pairAB
        pairCD := if tblPaired p.stage 2 then { st := .paired } else s.pairCD
        pt := { aborted 0 0 p with
          abSeq := p.abSeq, abReason := p.abReason, abCheck := p.abCheck, aborts := p.aborts, abortCause := p.abortCause,
          table := p.stage, tableCrc := p.stageCrc, commitTime := b.stamp, commits := inc p.commits, commitCause := true } }.setPll
    let late := p.windowStart + 100000000 ≤ b.stamp
    let level := ∀ n ∈ p.affected, (s.ch n).ctl.st = .run → changeLevel p.table p.stage n = 1 ∧ (s.ch n).quiet = true
    let single := tblPaired p.table 0 = false ∧ tblPaired p.table 2 = false
    (p.checking = true → p.submitAt + 341 ≤ b.stamp →
      (tblCheck p.stage = 0 → becomes .submitCheckDone (code 2 0 0
        { p with st := .staged, checking := false, stageCrc := crcWords (tblWords p.stage), windowStart := b.stamp })) ∧
      (tblCheck p.stage ≠ 0 → becomes .submitCheckDone (aborted 5 (tblCheck p.stage) (code 2 4 (tblCheck p.stage) p)))) ∧
    (p.checking = false ∨ b.stamp < p.submitAt + 341 → becomes .submitCheckDone p) ∧
    (p.st = .approved → p.holding = false → ¬ late →
      (p.affected = [] → single → applied .commitHold) ∧
      (p.affected ≠ [] → (∀ n ∈ p.affected, (s.ch n).asleep = false) → level →
        becomes .commitHold { p with holding := true, holdAt := b.coreNow, heldChans := maskOf p.affected }) ∧
      (p.affected ≠ [] → (∀ n ∈ p.affected, (s.ch n).asleep = false) → ¬ level → becomes .commitHold p)) ∧
    (p.st ≠ .approved ∨ p.holding = true ∨ late → becomes .commitHold p) ∧
    (p.st = .approved → p.holding = true → ¬ late → p.holdAt + 64 ≤ b.coreNow → level → single → applied .commit) ∧
    (p.st = .approved → p.holding = true → ¬ late → p.holdAt + 64 ≤ b.coreNow → ¬ level →
      becomes .commit { p with holding := false, heldChans := 0 }) ∧
    (p.holding = false ∨ late ∨ b.coreNow < p.holdAt + 64 → becomes .commit p) ∧
    (p.st = .staged ∨ p.st = .approved → late → becomes .windowExpiry (aborted 3 0 p)) ∧
    (p.st ≠ .staged ∧ p.st ≠ .approved ∨ ¬ late → becomes .windowExpiry p)

/-! ## Fault sets (R315 to R326) -/

/-- Writes of a fault set's registers. _FLT_ACK with ACK frees the capture and clears SRC, ESC, WEAR and _FE_ALSO (R317), and of CL
and PT the other causes of their lines as well (the model's own choice, log entry 24). _CE_WINDOW in its range restarts the window,
its count and the trackers (R322, R324). _FLT_FORCE of one source, its target fields as they stand: an array source arms, and so does an error of
a packet or of a message; another of class U is raised with FORCED (R326). -/
def Obligations.FaultWrites : Prop :=
  ∀ (s : State) (u : FltUnit) (v : Word) (fn : BitVec 8) (src : Nat) (fs : FaultSet), s.unitFault u = fs →
    (∀ c k, u = .chan c k → (s.pair c.val).st = .single) →
    let ends := fun (cmd : Requester → FltUnit → Word → Instr) r (f : State → State) =>
      s.Admits fn (faultOff u r) v.toNat → exec (cmd (.host fn) u v) s = .next (s.wrote fn (faultOff u r) v.toNat f)
    let acked : FaultSet := { fs with
      captured := false, escalated := false, wear := false, src := 0, alsoCount := 0, alsoMax := 0, alsoSrc := 0 }
    let us := fld v.toNat 19 0
    let stamp := s.begin.stamp
    let raised := fun cls => (raiseOn s.time stamp false cls src { access := 7, forced := true } fs).1
    (v.toNat.testBit 0 = false → ends .fltAck 0x18 (fun t => t)) ∧
    (v.toNat.testBit 0 = true → ends .fltAck 0x18 (fun t =>
      let t1 := t.setUnit u acked
      match u with
      | .shared .cl => { t1 with cl := { t1.cl with loadDone := false } }
      | .shared .pt => { t1 with pt := { t1.pt with commitCause := false, abortCause := false } }
      | _ => t1)) ∧
    (1000 ≤ us → us ≤ 1000000 → ends .ceWindowWrite 0x60 (fun t => t.setUnit u { fs with
      windowUs := us, windowCe := 0, wearRaised := false, windowStart := s.time, trackers := [] })) ∧
    (us < 1000 ∨ 1000000 < us → ends .ceWindowWrite 0x60 (fun t => t)) ∧
    (v.toNat = 2 ^ src → src < 32 → fs.forceArray = 0 → fs.forceBank = 0 → fs.forceWord = 0 →
      (∀ c k, u = .chan c k → s.Ready c.val → srcClass k src ≠ 0 → (∀ p ∈ s.cl.loads, (s.ch (s.lead p.1)).ctl.st = .loading) →
        (∀ p ∈ s.cl.imgs, (s.ch (s.lead p.1)).ctl.st = .loading) →
        let ce := hasArrays k = true ∧ src = ceSrc k
        let ue := hasArrays k = true ∧ src = ueSrc k ∨ k = .ru ∧ src = 4
        let packet := k = .rq ∧ src ≤ 1
        let message := k = .la ∧ src = 0
        (ce → ends .fltForce 0x10 (fun t => t.setUnit u { fs with pendForce := some false })) ∧
        (ue → ends .fltForce 0x10 (fun t => t.setUnit u { fs with pendForce := some true })) ∧
        (packet → ends .fltForce 0x10 (fun t =>
          t.setCh c.val { t.ch c.val with rq := { (t.ch c.val).rq with forceErr := src + 1 } })) ∧
        (message → ends .fltForce 0x10 (fun t =>
          t.setCh c.val { t.ch c.val with lalog := { (t.ch c.val).lalog with forceCe := true } })) ∧
        (¬ ce → ¬ ue → ¬ packet → ¬ message → srcClass k src = 2 → fs.disabled.testBit src = false →
          capturedClass fs ≠ 2 → ends .fltForce 0x10 (fun t => (t.setUnit u (raised 2)).errPulse (some c.val)))) ∧
      (∀ k, u = .shared k → k ≠ .cl →
        (∀ x, sharedArms k src = some x → ends .fltForce 0x10 (fun t => t.setUnit u { fs with pendForce := some x })) ∧
        (sharedArms k src = none → sharedSrcClass k src = 2 → fs.disabled.testBit src = false → capturedClass fs ≠ 2 →
          ends .fltForce 0x10 (fun t => (t.setUnit u (raised 2)).errPulse none))))

/-- What time does to a fault set. Once its reaction is complete a faulted set is in drydown, and a drydown that has run since the last
fault recovers it, which is counted (R321); trackers close a window after they opened (R322); the wear window rolls over at its
boundaries (R324). SHADOW_END ends the shadows whose time is over (R325). Nothing else changes. -/
def Obligations.FaultTimers : Prop :=
  ∀ (s : State) (u : FltUnit) (fs : FaultSet), s.por = false → s.settled = true → s.unitFault u = fs →
    let becomes := fun (cmd : FltUnit → Instr) (f : FaultSet) => exec (cmd u) s = .next (s.begin.setUnit u f).setPll
    let left := fun (l : List Shadow) => l.filter (fun x => match x.ends with | none => true | some t => decide (s.time < t))
    let clean := fun (c : Ch) => ({ c with ctl := { c.ctl with shadows := left c.ctl.shadows } } : Ch)
    (fs.st = .faulted → becomes .faultReactionComplete { fs with st := .drydown }) ∧
    (fs.st ≠ .faulted → becomes .faultReactionComplete fs) ∧
    (fs.st = .drydown → fs.lastFault + 1000 * fs.loadedUs ≤ s.time →
      becomes .drydownExpiry { fs with st := .clear, cls := 0, recoveries := inc fs.recoveries }) ∧
    (fs.st ≠ .drydown ∨ s.time < fs.lastFault + 1000 * fs.loadedUs → becomes .drydownExpiry fs) ∧
    becomes .trackerClose { fs with trackers := fs.trackers.filter (fun t => decide (s.time < t.opened + 1000 * fs.windowUs)) } ∧
    (s.time < fs.windowStart + 1000 * fs.windowUs → becomes .wearWindowBoundary fs) ∧
    (fs.windowStart + 1000 * fs.windowUs ≤ s.time → becomes .wearWindowBoundary { fs with
      windowCe := 0, wearRaised := false, windowStart := s.time - (s.time - fs.windowStart) % (1000 * fs.windowUs) }) ∧
    exec .shadowEnd s = .next { s.begin with
      chA := clean s.chA, chB := clean s.chB, chC := clean s.chC, chD := clean s.chD,
      ck := { s.ck with shadows := left s.ck.shadows } }.setPll

/-! ## Pairs (R331 to R340) -/

/-- UNMATCHED_OUTPUT of a stream in which one side of an active pair has built an output and the other has not (R335, R339): both
sides raise RQ_PAIR_DIVERGE at F and halt, and the pair records what diverged, with a lead of 256. Of a stream whose first output has
not waited 256 CORE cycles, and of a pair that is not active, nothing follows. -/
def Obligations.UnmatchedOutputs : Prop :=
  ∀ (s : State) (second : Bool) (stream : BitVec 3) (p : Pair) (x y : Option (Output × Option Nat)), s.por = false → s.settled = true → s.Quiet →
    (if second then s.pairCD else s.pairAB) = p → (p.first.get [] stream.toNat).head? = x → (p.second.get [] stream.toNat).head? = y →
    let n := if second then 2 else 0
    let e := s.seen n .none
    let waited := ∃ o b, (x = some (o, some b) ∨ y = some (o, some b)) ∧ b + 256 ≤ s.begin.coreNow
    (p.st ≠ .paired ∨ ¬ waited → exec (.unmatchedOutput second stream) s = .next s.begin.setPll) ∧
    (p.st = .paired → waited → (s.ch n).flt.rq.disabled.testBit 9 = false →
      (s.ch (n + 1)).flt.rq.disabled.testBit 9 = false → (s.ch n).ctl.st = .run → (s.ch (n + 1)).ctl.st = .run →
      ∃ t : State, exec (.unmatchedOutput second stream) s = .next t ∧ (t.pair n).st = .halted ∧ (t.pair n).skew = 256 ∧
        (t.pair n).time = e.stamp ∧ (t.pair n).divMissing = (decide (x = none) || decide (y = none)) ∧
        (t.pair n).divStream = stream.toNat ∧ (t.pair n).divEnd = (match x, y with | some o, _ => o.1.dest | none, some o => o.1.dest | none, none => 0) ∧
        (t.ch n).ctl.st = .halted ∧ (t.ch (n + 1)).ctl.st = .halted ∧
        (t.ch n).flt.rq = ((s.ch n).faulted e .rq 9 {}).flt.rq ∧ (t.ch (n + 1)).flt.rq = ((s.ch (n + 1)).faulted e .rq 9 {}).flt.rq ∧
        (t.ch n).os.flags = (s.ch n).os.flags ∧ (t.ch (n + 1)).os.flags = (s.ch (n + 1)).os.flags ∧ t.hp.errNew = true ∧
        ∀ m < 4, m ≠ n → m ≠ n + 1 → t.ch m = s.ch m)

/-! ## Restart and close (R392 to R394) -/

/-- A channel restart (R393). RESTART clears the channel's stores and registers and starts the load; in LOADING and CLOSING it is
ignored. RESTART_SLOT reads one burst of the section, to the next 4 KiB boundary, after the flash is configured again where a restart of
the channel failed at it (R379). RESTART_LOAD_DONE, once all is read, enters RUN with
the image of a valid section of a channel with no accord; a section that fails leaves the channel FAILED with its load error, which
CL raises. -/
def Obligations.ChannelRestarts : Prop :=
  ∀ (s : State) (n : ChanId) (v : Word) (fn : BitVec 8) (burst : List Byte) (l : Loading), s.Rests n.val → s.blockHalted = false →
    let c := s.ch n.val
    let b := s.begin
    let off := chanOff n.val 0 0x008
    let sect := s.cl.sects.get {} (4 + n.val)
    let others := fun (t : State) => ∀ m < 4, m ≠ n.val → t.ch m = s.ch m
    (s.Admits fn off v.toNat → v.toNat.testBit 0 = true →
      (c.ctl.st = .loading ∨ c.ctl.st = .closing → exec (.channelRestart (.host fn) n v) s = .next (s.wrote fn off v.toNat (fun t => t))) ∧
      (c.ctl.st ≠ .loading → c.ctl.st ≠ .closing → ∃ t : State, exec (.channelRestart (.host fn) n v) s = .next t ∧
        (t.ch n.val).ctl.st = .loading ∧ (t.ch n.val).ctl.restarts = inc c.ctl.restarts ∧ (t.ch n.val).ctl.map = [] ∧
        (t.ch n.val).ctl.fenced = [] ∧ (t.ch n.val).os = { retired := c.os.retired } ∧ (t.ch n.val).hw = {} ∧ (t.ch n.val).bw = {} ∧
        (t.ch n.val).lt = {} ∧ (t.ch n.val).ru = {} ∧ (t.ch n.val).cu = {} ∧ (t.ch n.val).ps = {} ∧ (t.ch n.val).bg = {} ∧
        (t.ch n.val).db = {} ∧ (t.ch n.val).img = {} ∧ (c.la.st ≠ .formed → c.la.txWait = [] → (t.ch n.val).la = {}) ∧
        (∀ u : Sub, ((t.ch n.val).fault u).st = .clear ∧ ((t.ch n.val).fault u).captured = false ∧ ((t.ch n.val).fault u).src = 0) ∧
        t.cl.phase = .restart ∧ t.cl.loads = s.cl.loads.insert n.val { left := sect.length } ∧ others t)) ∧
    (s.cl.phase = .restart → s.cl.loads.find? (fun p => p.1 = n.val) = some (n.val, l) →
      let m := min l.left (4096 - (sect.offset + l.bytes.length) % 4096)
      m ≤ burst.length → exec (.restartSlot n burst) s = .next
        (({ b with cl := { s.cl with
          channel := n.val, bytes := l.bytes.length + m, reinit := s.cl.reinit.filter (fun x => x ≠ n.val),
          loads := s.cl.loads.insert n.val { bytes := l.bytes ++ burst.take m, left := l.left - m } } }).leave
          ((if n.val ∈ s.cl.reinit then s.cl.initCmds s.sfdpLen else []) ++
            (if m = 0 then [] else [s.cl.burst (sect.offset + l.bytes.length) m]))).setPll) ∧
    (s.cl.loads = [(n.val, l)] → s.cl.phase = .restart → l.left = 0 → c.ctl.st = .loading →
      (∀ m : Img, s.restartCheck n.val l.bytes = .inr m → tblAccord s.pt.table n.val = 0 → s.cl.accord 0 = none →
        ∃ t : State, exec (.restartLoadDone n) s = .next t ∧ (t.ch n.val).ctl.st = .run ∧ (t.ch n.val).clk.st = .active ∧
          (t.ch n.val).ctl.runTime = b.stamp ∧ (t.ch n.val).ctl.loadError = 0 ∧ (t.ch n.val).img = m ∧
          (t.ch n.val).os.flags = m.flags ∧ (t.ch n.val).os.sems = m.sems ∧ (t.ch n.val).os.strs = m.strs ∧
          (t.ch n.val).os.bars = m.bars ∧ (t.ch n.val).bg.bucket = 1000 * m.capUj ∧ t.cl.loads = [] ∧ t.cl.phase = .done ∧
          t.emitted = [] ∧ others t) ∧
      (∀ code, s.restartCheck n.val l.bytes = .inl code → s.sflt.cl.disabled.testBit 5 = false → SMap.wf {} s.cl.sects = true →
        ∃ t : State, exec (.restartLoadDone n) s = .next t ∧ (t.ch n.val).ctl.st = .failed ∧ (t.ch n.val).ctl.loadError = code ∧
          t.cl.loads = [] ∧ t.cl.phase = .done ∧ (t.cl.sects.get {} (4 + n.val)).st = 2 ∧ (t.cl.sects.get {} (4 + n.val)).error = code ∧
          t.sflt.cl.src.testBit 5 = true ∧ t.hp.errNew = true ∧ t.emitted = [] ∧ others t))

/-- An orderly close (R394). CLOSE of a calm channel with nothing at ingress or in the RU queue makes it CLOSING, its sequences to be
audited; in another state it is ignored. CLOSE_COMPLETE, with no audit left, ends the parked waits with CHANNEL_DOWN, makes every
sequence IDLE and the channel DOWN; its store stays. -/
def Obligations.OrderlyCloses : Prop :=
  ∀ (s : State) (n : ChanId) (v : Word) (fn : BitVec 8), s.Rests n.val →
    let c := s.ch n.val
    let off := chanOff n.val 0 0x008
    let shadowed := fun (c : Ch) =>
      ({ c with ctl := { c.ctl with shadows := c.ctl.shadows ++ [⟨2, 0, [], none⟩], event := true } } : Ch)
    (∀ x ∈ c.ctl.shadows, ¬ (x.row = 2 ∧ x.key = 0 ∧ x.ends = none)) →
    (s.Admits fn off v.toNat → v.toNat.testBit 0 = false → v.toNat.testBit 1 = true →
      (c.ctl.st ≠ .run → exec (.orderlyClose (.host fn) n v) s = .next (s.wrote fn off v.toNat (fun t => t))) ∧
      (s.Ready n.val → c.rq.ingress = [] → c.ru.queue = [] → SMap.wf {} c.ps.seqs = true →
        ∃ t : State, exec (.orderlyClose (.host fn) n v) s = .next t ∧ (t.ch n.val).ctl = { (shadowed c).ctl with st := .closing } ∧
          (∀ q < 16, ((t.ch n.val).seq q).st = if (c.seq q).st = .idle then .idle else .audit) ∧ (t.ch n.val).bg.holdQ = [] ∧
          (t.ch n.val).os = c.os ∧ (t.ch n.val).hw = c.hw ∧ (t.ch n.val).lt = c.lt ∧ (t.ch n.val).bw = c.bw ∧
          t.emitted = [.host (.host fn) off true v.toNat false] ∧ ∀ m < 4, m ≠ n.val → t.ch m = s.ch m)) ∧
    (c.ctl.st = .closing → (∀ p ∈ c.ps.seqs, p.2.st ≠ .audit) → c.la.st ≠ .formed → c.ru.late = [] → c.PlainWaits c.hw.parked →
      c.upsets = [] → (∀ u, (c.fault u).pendForce = none) → SMap.wf {} c.ps.seqs = true →
      ∃ t : State, exec (.closeComplete n) s = .next t ∧ (t.ch n.val).ctl = { (shadowed c).ctl with st := .down } ∧
        (t.ch n.val).clk.st = .down ∧ (t.ch n.val).hw.parked = [] ∧ (∀ q < 16, ((t.ch n.val).seq q).st = .idle) ∧
        (t.ch n.val).os = c.os ∧ (t.ch n.val).lt = c.lt ∧ (t.ch n.val).bw = c.bw ∧
        (∃ y : Parked → Nat, t.emitted = c.hw.parked.flatMap (fun w => endsOf n.val w stChannelDown (y w)) ∧
          ∀ w, (w.cls = clFlag → y w = (c.flag w.index).record) ∧ (w.cls ≠ clFlag → w.cls ≠ clLock → y w = w.found)) ∧
        ∀ m < 4, m ≠ n.val → t.ch m = s.ch m) ∧
    ((∃ p ∈ c.ps.seqs, p.2.st = .audit) ∨ c.ctl.st ≠ .closing → exec (.closeComplete n) s = .next (s.moved n.val c []))

/-- Events of the whole block and of a channel's life take effect whatever else the block does with them: what a lost
PLL lock or KEEP clock, a quarantine and its end, a link lost or up, the load gate, a restart, a close, and a missed deadline leave
(R237, R276, R306, R348, R368, R369, R391 to R394). UNMATCHED_OUTPUT of an active pair's stream in which an output has waited 256 CORE
cycles halts both sides, where RQ_PAIR_DIVERGE is enabled (R335, R339). -/
def Obligations.EventsComplete : Prop :=
  (∀ (s : State) (n : ChanId) (v : Word) (fn : BitVec 8) (q : BitVec 16) (p : BitVec 3), s.Still →
     let c := s.ch n.val
     let done := fun (cmd : Instr) (f : State → Prop) => ∃ t : State, exec cmd s = .next t ∧ f t
     let off := chanOff n.val 0 0x008
     (s.ck.pll = .locked → s.blockHalted = false → done .ckPllLock (fun t => t.ck.pll ≠ .locked)) ∧
     (s.blockHalted = false → s.sflt.ck.disabled.testBit 1 = false → done .ckKeepClock (fun t => t.blockHalted = true)) ∧
     (crossingOk q.toNat = true → done (.quarantine q 0) (fun t => t.quarantined q.toNat = true)) ∧
     (s.quarantined q.toNat = true → done (.resetDoneExchange q) (fun t => t.quarantined q.toNat = false)) ∧
     ((∃ x ∈ s.ck.quar, x.number = q.toNat ∧ x.raised = false ∧ x.left + 20480 ≤ s.time) →
       done (.ckQuarantine q) (fun t => ∀ x ∈ t.ck.quar, x.number = q.toNat → x.raised = true)) ∧
     done (.linkLost p) (fun t => ∀ m < 4, (t.ch m).la.up.testBit p.toNat = false) ∧
     done (.linkUp p) (fun t => ∀ m < 4, (t.ch m).la.up.testBit p.toNat = true) ∧
     (s.blockHalted = false → s.StewardPort → s.pt.gate = .ready →
       (v.toNat.testBit 1 = false → v.toNat.testBit 0 = true → done (.gateOpen .steward v) (fun t => t.pt.gate = .opened)) ∧
       (v.toNat.testBit 1 = true → done (.gateRefuse .steward v) (fun t => t.pt.gate = .refused))) ∧
     (s.blockHalted = false → s.Admits fn off v.toNat → v.toNat.testBit 0 = true → c.ctl.st ≠ .loading → c.ctl.st ≠ .closing →
       done (.channelRestart (.host fn) n v) (fun t => (t.ch n.val).ctl.st = .loading)) ∧
     (s.Admits fn off v.toNat → v.toNat.testBit 0 = false → v.toNat.testBit 1 = true → c.Calm → c.ru.queue = [] →
       done (.orderlyClose (.host fn) n v) (fun t => (t.ch n.val).ctl.st = .closing)) ∧
     (c.ctl.st = .closing → (∀ x ∈ c.ps.seqs, x.2.st ≠ .audit) →
       done (.closeComplete n) (fun t => (t.ch n.val).ctl.st = .down)) ∧
     (∀ i : BitVec 4, (c.seq i.toNat).st = .run → (c.seq i.toNat).deadlineOn = true → (c.seq i.toNat).missed = false →
       let us := (c.entry (c.seq i.toNat).entry).deadlineUs
       c.Calm → us ≠ 0 → (c.seq i.toNat).start + 1000 * us ≤ s.time →
       done (.deadlineOverrun n i) (fun t => ((t.ch n.val).seq i.toNat).missed = true))) ∧
  (∀ (s : State) (second : Bool) (stream : BitVec 3) (p : Pair) (o : Output) (b : Nat), s.por = false → s.settled = true →
     (if second then s.pairCD else s.pairAB) = p → p.st = .paired →
     ((p.first.get [] stream.toNat).head? = some (o, some b) ∨ (p.second.get [] stream.toNat).head? = some (o, some b)) →
     b + 256 ≤ s.begin.coreNow → (∀ m < 4, (s.ch m).flt.rq.disabled.testBit 9 = false) →
     let n := if second then 2 else 0
     ∃ t : State, exec (.unmatchedOutput second stream) s = .next t ∧ (t.pair n).st = .halted ∧ (t.pair n).skew = 256 ∧
       (t.ch n).ctl.st ≠ .run ∧ (t.ch (n + 1)).ctl.st ≠ .run)

/-- The 128 bits of a request packet (R40) hold every field of the request and the channel that the node inserts, each at its own place:
what is read from the two words is the request. -/
def Obligations.RequestLayout : Prop :=
  ∀ (chan opcode : Nat) (r : Req), Clean r → chan < 16 → opcode < 64 →
    (requestWords chan opcode r).1 < 2 ^ 64 ∧ (requestWords chan opcode r).2 < 2 ^ 64 ∧
      requestOfWords (requestWords chan opcode r) = (chan, opcode, r)

/-! ## Inspection, hand setting and the blotter (R398 to R410) -/

/-- The word of DB_INSP_SEL names KIND and INDEX: a snapshot of a defined object of a calm channel shows its words, its waiters in
order, the first 64 of them, and its bits (R398 to R400). GO to DB_BLOT_CTL starts a blotter where none stands, else sets GO_REFUSED,
and counts as missed in a channel with no region; RELEASE frees a held one (R404, R405). BLOTTER_COMPLETE writes a zeroed header line,
the body, then the header, 64 bytes a line, and holds the blotter (R410). -/
def Obligations.InspectionAndBlotter : Prop :=
  ∀ (s : State) (n : ChanId) (v : Word) (fn : BitVec 8) (kind i : Nat), s.Rests n.val →
    let c := s.ch n.val
    let e := s.seen n.val .none
    let answers := fun (cmd : Requester → ChanId → Word → Instr) off (c : Ch) =>
      s.Admits fn (chanOff n.val 0xB off) v.toNat → exec (cmd (.host fn) n v) s =
        .next (s.wroteChan fn (chanOff n.val 0xB off) v.toNat n.val c [])
    let ends := fun (cmd : Requester → ChanId → Word → Instr) off (d : Db) => answers cmd off { c with db := d }
    let ws := c.snapWaiters kind i
    let region := tblBlotSize s.pt.table n.val
    let lines := fun base (l : List (List Nat)) => l.zipIdx.map (fun p => Output.line n.val (base + 64 * p.2) (lineBytes p.1))
    let b := c.blotter e
    let base := tblBlotBase s.pt.table n.val
    (s.Ready n.val → v.toNat = at_ 63 60 kind + i → kind ≤ 9 → i < snapLimit kind → c.db.inBusy = false → answers .inspectionSnapshot 0x000
      { (if kind = 4 then c else c.hostWorked (i % 8)) with db := { c.db with
        inKind := kind, inIndex := i, inBusy := false, inValid := true, inStatus := stOk, inWaiters := ws.length,
        inData := storeOf (c.snapWords kind i), inList := storeOf ((ws.take 64).map (fun w => w.view)),
        inBits := storeOf ((List.range 64).map (c.snapBits kind i)) } }) ∧
    (fld v.toNat 1 0 = 1 →
      (region = 0 → ends .blotterGo 0x200 { c.db with bMissed := inc c.db.bMissed }) ∧
      (region ≠ 0 → c.db.bSt = .free → ends .blotterGo 0x200
        { c.db with bSt := .writing, bCause := 7, bLater := 0, bLines := 0, bTrigger := e.stamp, bDetail := 0 }) ∧
      (region ≠ 0 → c.db.bSt ≠ .free → ends .blotterGo 0x200 { c.db with bRefused := true })) ∧
    (fld v.toNat 1 0 = 2 →
      ends .blotterRelease 0x200 { c.db with bSt := if c.db.bSt = .held then .free else c.db.bSt }) ∧
    (c.db.bSt ≠ .writing → exec (.blotterComplete n) s = .next (s.moved n.val c [])) ∧
    (c.db.bSt = .writing → exec (.blotterComplete n) s = .next (s.moved n.val
      { c with db := { c.db with
        bSt := .held, bTrunc := b.truncated, bLines := b.body.length + b.header.length, bCount := inc c.db.bCount,
        bTime := e.stamp, event := true } }
      ([.line n.val base (List.replicate 64 0)] ++ lines (base + 256) b.body ++ lines base b.header)))

/-- The seven hand actions on an object that nobody waits for, by a host function, in a calm channel (R401 to R403). Each ends with OK,
LAST (or its like) 0xFFF and COUNT one higher; an INDEX at or above the object count of its KIND with BAD_INDEX. RELEASE and CLEAR of a
gated barrier, and FREE of a free connection whose pair is not poisoned, end with FALSE. -/
def Obligations.HandActions : Prop :=
  ∀ (s : State) (n : ChanId) (index : BitVec 23) (fn : BitVec 8) (i d0 : Nat), s.Ready n.val → index.toNat = i →
    (∀ w, s.Admits fn (chanOff n.val 0xB 0x118) w) → (s.ch n.val).db.hand0 = d0 → (s.ch n.val).db.hBusy = false →
    let c := (s.ch n.val).hostWorked (i % 8)
    let e := s.seen n.val .none
    let db := c.db
    let ends := fun (cmd : Requester → ChanId → BitVec 23 → Instr) word status (c : Ch) =>
      exec (cmd (.host fn) n index) s = .next (s.wroteChan fn (chanOff n.val 0xB 0x118) word n.val
        { c with db := { db with hStatus := status, hCount := (db.hCount + 1) % 65536 } } [])
    let word := fun kind action => at_ 63 60 kind + at_ 59 56 action + i
    let p := db.hand1
    let k := fld db.hand2 24 0
    let b := c.bar i
    let rest := c.img.bars.get {} i
    let pair := c.str (0xC000 + i)
    (i < 2 ^ 20 → c.Alone clFlag i → ends .handWriteFlag (word 0 0) stOk
      (if c.flag i = { value := d0.testBit 12, strict := d0.testBit 13, poisoned := false, last := 0xFFF } then c
       else c.putFlag i { value := d0.testBit 12, strict := d0.testBit 13, poisoned := false, last := 0xFFF })) ∧
    (2 ^ 20 ≤ i → ends .handWriteFlag (word 0 0) stBadIndex c) ∧
    (2 ^ 18 ≤ i → ends .handWriteSemaphore (word 1 0) stBadIndex c) ∧ (2 ^ 16 ≤ i → ends .handWriteStream (word 2 0) stBadIndex c) ∧
    (2 ^ 15 ≤ i → ends .handWriteBarrier (word 3 0) stBadIndex c ∧ ends .handRelease (word 3 1) stBadIndex c ∧
      ends .handClear (word 3 2) stBadIndex c) ∧
    (2 ^ 14 ≤ i → ends .handFree (word 6 1) stBadIndex c) ∧
    (i < 2 ^ 18 → d0.testBit 31 = true → ends .handWriteSemaphore (word 1 0) stBadOp c) ∧
    (i < 2 ^ 18 → d0.testBit 31 = false → c.Alone clSem i → ends .handWriteSemaphore (word 1 0) stOk
      (c.putSem i { value := fld d0 31 0, firstFit := d0.testBit 45, poisoned := false, last := 0xFFF })) ∧
    (i < 0xC000 → 0 < k → k ≤ 2 ^ 24 → p ≤ d0 → d0 - p ≤ k → c.PairAlone i → ends .handWriteStream (word 2 0) stOk
      (c.putStr i { p := d0, c := p, k := k, lastProd := 0xFFF, lastCons := 0xFFF, poisoned := false })) ∧
    (0xC000 ≤ i ∨ k = 0 ∨ d0 < p ∨ k < d0 - p → i < 2 ^ 16 → ends .handWriteStream (word 2 0) stBadOp c) ∧
    (0x400 ≤ i → i < 2 ^ 15 → fld d0 12 0 < b.target → fld d0 25 13 ≤ b.target → ends .handWriteBarrier (word 3 0) stOk
      (c.putBar i { b with
        count := fld d0 12 0, early := fld d0 25 13, poisoned := false, last := 0xFFF,
        start := if fld d0 12 0 ≠ 0 then fld e.stamp 39 8 else b.start })) ∧
    (i < 2 ^ 15 → i < 0x400 ∨ b.target ≤ fld d0 12 0 ∨ b.target < fld d0 25 13 → ends .handWriteBarrier (word 3 0) stBadOp c) ∧
    (i < 2 ^ 15 → b.gated = true → ends .handRelease (word 3 1) stFalse c ∧ ends .handClear (word 3 2) stFalse c) ∧
    (0x2000 ≤ i → i < 2 ^ 15 → b.gated = false → c.waiters clBar i = [] → c.accObj (.bar i) = none → b.early ≠ b.target →
      SMap.wf {} c.os.bars = true → c.ru.late = [] →
      (∀ q < 16, (c.seq q).st = .run ∨ (c.seq q).st = .held → (c.entry (c.seq q).entry).endObj ≠ .bar i) →
      ends .handRelease (word 3 1) stOk (c.putBar i { b with
        gen := b.gen + 1, count := b.early, early := 0, prevTmo := true, cur := b.nxt, nxt := [], last := 0xFFF, holding := false,
        ruPending := false, start := if b.early = 0 then b.start else fld e.stamp 39 8 }) ∧
      ends .handClear (word 3 2) stOk (c.putBar i { rest with
        last := 0xFFF, poisoned := false, cur := [], nxt := [], gated := false, holding := false, ruPending := false })) ∧
    (i < 2 ^ 14 → (c.conn i).st = .free → pair.poisoned = false → ends .handFree (word 6 1) stFalse c) ∧
    (i < 2 ^ 14 → (c.conn i).st ≠ .free ∨ pair.poisoned = true → c.PairAlone (0xC000 + i) → ends .handFree (word 6 1) stOk
      ((c.putConn i {}).putStr (0xC000 + i) { pair with p := 0, c := 0, k := 0, poisoned := false }))

/-! ## The host's operations, watches and forced releases (R103 to R107, R220) -/

/-- The eight host operations, each with its own CLASS, on an object that is not poisoned and that nobody waits for (R103, R104): the
effect of the op by logical ID 0xFFF, counted; STATUS and RESULT in HW_OP_RESULT and HW_OP_DATA, COUNT one higher. -/
def Obligations.HostOperations : Prop :=
  ∀ (s : State) (n : ChanId) (cls : BitVec 3) (index : BitVec 23) (fn : BitVec 8) (i a : Nat) (f : Flag) (v : Sem), s.Ready n.val →
    index.toNat = i → (∀ w, s.Admits fn (chanOff n.val 0xC 0x308) w) → (s.ch n.val).flag i = f → (s.ch n.val).sem i = v →
    (s.ch n.val).hw.busy = false → fld (s.ch n.val).hw.operand 31 0 = a →
    let worked := (s.ch n.val).hostWorked (i % 8)
    let c := { worked with rq := { worked.rq with ops := inc worked.rq.ops } }
    let ends := fun (cmd : Requester → ChanId → BitVec 3 → BitVec 23 → Instr) op status result (c : Ch) =>
      exec (cmd (.host fn) n cls index) s = .next (s.wroteChan fn (chanOff n.val 0xC 0x308) (at_ 38 16 i + at_ 10 8 cls.toNat + op) n.val
        { c with hw := { c.hw with count := (c.hw.count + 1) % 65536, opcode := op, status := status, data := result } } [])
    let flagIs := fun x => c.putFlag i { f with value := x, last := 0xFFF }
    let semIs := fun (x : Nat) => ({ v with value := x, last := 0xFFF } : Sem)
    let noted : Ch := { c with os := { c.os with dblCount := inc c.os.dblCount, dblStrict := false, dblLid := 0xFFF, dblIndex := i } }
    (cls = 0 → i < 2 ^ 20 → c.Alone clFlag i → f.poisoned = false →
      (f.value = false →
        ends .hostFlagSet opFlagSet stOk f.record (flagIs true) ∧ ends .hostFlagClear opFlagClear stOk f.record c ∧
        ends .hostFlagTest opFlagTest stFalse f.record c ∧ ends .hostFlagTestClear opFlagTestClear stFalse f.record c) ∧
      (f.value = true →
        (f.strict = false → ends .hostFlagSet opFlagSet stOk f.record noted) ∧
        ends .hostFlagClear opFlagClear stOk f.record (flagIs false) ∧ ends .hostFlagTest opFlagTest stOk f.record c ∧
        ends .hostFlagTestClear opFlagTestClear stOk f.record (flagIs false))) ∧
    (cls = 1 → i < 2 ^ 18 → c.Alone clSem i → v.poisoned = false →
      (0 < a → v.value + a ≤ 0x7FFFFFFF → ends .hostSemAdd opSemAdd stOk ((semIs (v.value + a)).word 0) (c.putSem i (semIs (v.value + a)))) ∧
      (0 < a → a ≤ v.value →
        ends .hostSemSub opSemSub stOk ((semIs (v.value - a)).word 0) (c.putSem i (semIs (v.value - a))) ∧
        ends .hostSemTrysub opSemTrysub stOk ((semIs (v.value - a)).word 0) (c.putSem i (semIs (v.value - a)))) ∧
      (v.value < a → ends .hostSemTrysub opSemTrysub stFalse (v.word 0) c) ∧
      (a = 0 → ends .hostSemAdd opSemAdd stOk (v.word 0) c ∧ ends .hostSemSub opSemSub stOk (v.word 0) c ∧
        ends .hostSemTrysub opSemTrysub stOk (v.word 0) c) ∧
      ends .hostSemRead opSemRead stOk (v.word 0) c)

/-- HW_WATCH stores a watch, enables it where R105 lets it arm, and evaluates it at once but for COND 4: a hit sets its bit and leaves
it disabled. HW_SLOT_CANCEL ends the armed plain wait it names with CANCELLED (R107), and does nothing for a slot that is not armed or
for logical ID 0xFFE or 0xFFF. LT_FORCE with GO frees a held word that nobody waits for, left abandoned (R220, R221); of a word in no
entry it answers FALSE; without GO it only takes the address. -/
def Obligations.HostControls : Prop :=
  ∀ (s : State) (n : ChanId) (m : BitVec 6) (v : Word) (fn : BitVec 8) (w : Parked) (i : Nat) (x : LockEntry), s.Ready n.val →
    let c := s.ch n.val
    let off := fun page o => chanOff n.val page o
    let ends := fun (cmd : Instr) off (c : Ch) outs => s.Admits fn off v.toNat → exec cmd s = .next (s.wroteChan fn off v.toNat n.val c outs)
    let cond := fld v.toNat 30 28
    let isFlag := fld v.toNat 26 24 = 0
    let obj := fld v.toNat 19 0
    let arms := v.toNat.testBit 31 = true ∧
      ((isFlag ∧ (cond = 0 ∨ cond = 1 ∨ cond = 4)) ∨ (fld v.toNat 26 24 = 1 ∧ obj < 2 ^ 18 ∧ (cond = 2 ∨ cond = 3 ∨ cond = 4)))
    let holds :=
      (isFlag ∧ (c.flag obj).poisoned = false ∧ (cond = 0 ∧ (c.flag obj).value = true ∨ cond = 1 ∧ (c.flag obj).value = false)) ∨
      (¬ isFlag ∧ (c.sem obj).poisoned = false ∧
        (cond = 2 ∧ fld v.toNat 63 32 ≤ (c.sem obj).value ∨ cond = 3 ∧ (c.sem obj).value ≤ fld v.toNat 63 32))
    let watch : Watch := { threshold := fld v.toNat 63 32, cond := cond, cls := fld v.toNat 26 24, index := obj }
    let stored := fun on => { c.hw with watches := c.hw.watches.put {} m.toNat { watch with enable := on } }
    let lid := fld v.toNat 11 0
    let addr := 8 * fld v.toNat 47 3
    let forced := fun status entry (lt : Lt) => ({ c with lt := { lt with
      forceAddr := addr, forces := inc c.lt.forces, fStatus := status, fEntry := entry } } : Ch)
    (¬ arms → ends (.hwWatch (.host fn) n m v) (off 0xC (8 * m.toNat)) { c with hw := stored false } []) ∧
    (arms → ¬ holds → ends (.hwWatch (.host fn) n m v) (off 0xC (8 * m.toNat)) { c with hw := stored true } []) ∧
    (arms → holds → ends (.hwWatch (.host fn) n m v) (off 0xC (8 * m.toNat))
      { c with hw := { stored false with hit := setBit c.hw.hit m.toNat } } []) ∧
    (lid < 0xFFE → w ∈ c.hw.parked → w.lid = lid → w.slot = fld v.toNat 17 16 → w.won = false → c.PlainWaits [w] →
      ∃ y, ends (.hwSlotCancel (.host fn) n v) (off 0xC 0x320) (c.freed [w]) (endsOf n.val w stCancelled y) ∧
        (w.cls = clFlag → y = (c.flag w.index).record) ∧ (w.cls ≠ clFlag → w.cls ≠ clLock → y = w.found)) ∧
    (0xFFE ≤ lid ∨ c.slotArmed lid (fld v.toNat 17 16) = false → ends (.hwSlotCancel (.host fn) n v) (off 0xC 0x320) c []) ∧
    (v.toNat.testBit 48 = false → ends (.ltForce (.host fn) n v) (off 4 0x100) { c with lt := { c.lt with forceAddr := addr } } []) ∧
    (v.toNat.testBit 48 = true → c.lt.busy = false →
      let worked := fun (c : Ch) => c.hostWorked (lockBank addr)
      (c.findLock addr = none → ends (.ltForce (.host fn) n v) (off 4 0x100) (worked (forced stFalse 0 c.lt)) []) ∧
      (c.findLock addr = some i → c.lockEntry i = x → x.held = true → x.poisoned = false → c.lockWaiters i = [] →
        let c1 := c.putLock i { x with held := false, owner := 0, context := 0, abandoned := true }
        ends (.ltForce (.host fn) n v) (off 4 0x100) (worked (forced stOk i c1.lt)) []))

/-! ## Register accesses (R292, R302, R419 to R421) -/

/-- Before any other check the host port refuses an access to the reserved region, one whose offset is not a multiple of 8, and one
narrower than 64 bits: a read returns zero, a write is ignored, the access completes with an error indication, is counted in
HP_DENIED_COUNT and recorded in HP_DENIED_INFO with CAUSE 3. -/
def Obligations.AccessRefusals : Prop :=
  ∀ (s : State) (fn : BitVec 8) (off : BitVec 23) (width : Nat) (v : Word), s.por = false → s.settled = true →
    s.quarantined 0x7000 = false → 0x500000 ≤ off.toNat ∨ off.toNat % 8 ≠ 0 ∨ width < 64 →
    exec (.registerReadClear (.host fn) off width) s = .next (s.refused fn off.toNat false 0 3) ∧
    exec (.registerWrite (.host fn) off width v) s = .next (s.refused fn off.toNat true v.toNat 3)

/-- Plain writes and reads of registers. A denied access has no effect but its count and record (R292). CH_EVENT and HW_HIT clear what
is written as 1; CH_EVENT_ENABLE, CH_MAP_SEL, HW_OP_OPERAND, DB_HAND_DATA_0, PT_STAGE_SEL, _FLT_ENABLE and _DRYDOWN take their fields, the
last two within R315's limits; CH_SLEEP_CTL keeps a field that is out of its range; a write to CH_STATE, which is RO, or to an offset
that names no register is ignored (R420, R421). A read of HW_OP_RESULT, of LT_FORCE_RESULT and of CK_RESET_OVERRUN clears their RC
fields and answers what they held; a read of RQ_OP_COUNT or CH_MAP_SEL clears nothing; an offset with no register reads zero. -/
def Obligations.RegisterAccesses : Prop :=
  ∀ (s : State) (n : ChanId) (off : BitVec 23) (width o : Nat) (fn : BitVec 8) (v : Word) (u : FltUnit) (fs : FaultSet) (cause : Nat),
    s.Rests n.val → off.toNat = o → s.unitFault u = fs → (∀ c k, u = .chan c k → (s.pair c.val).st = .single) →
    let c := s.ch n.val
    let w := v.toNat
    let writes := fun (x : Nat) (f : State → State) => o = x → s.Admits fn x w → width = 64 →
      exec (.registerWrite (.host fn) off width v) s = .next (s.wrote fn x w f)
    let reads := fun (x value : Nat) (f : State → State) => o = x → s.AdmitsRead fn x → width = 64 →
      exec (.registerReadClear (.host fn) off width) s = .next (s.readOut fn x value f)
    let win := fun page x => chanOff n.val page x
    let us := fld w 31 12
    let idle := fld w 11 0
    (s.por = false → s.quarantined 0x7000 = false → s.denial fn.toNat width ⟨.host fn, o, true, w⟩ = some cause →
      exec (.registerWrite (.host fn) off width v) s = .next (s.refused fn o true w cause)) ∧
    (s.por = false → s.quarantined 0x7000 = false → s.denial fn.toNat width ⟨.host fn, o, false, 0⟩ = some cause →
      exec (.registerReadClear (.host fn) off width) s = .next (s.refused fn o false 0 cause)) ∧
    writes (win 0 0x010) (fun t => t.setCh n.val (if w.testBit 0 then { c with ctl := { c.ctl with event := false } } else c)) ∧
    writes (win 0 0x018) (fun t => t.setCh n.val { c with ctl := { c.ctl with eventEn := w.testBit 0 } }) ∧
    writes (win 0 0x100) (fun t => t.setCh n.val { c with ctl := { c.ctl with mapSel := fld w 11 0 } }) ∧
    writes (win 0 0x400) (fun t => t.setCh n.val { c with clk := { c.clk with
      slumberEn := w.testBit 33, dozeEn := w.testBit 32, slumberUs := if us = 0 then c.clk.slumberUs else us,
      dozeIdle := if idle < 16 then c.clk.dozeIdle else idle } }) ∧
    writes (win 0 0x000) (fun t => t) ∧
    writes (win 0xD 0x000) (fun t => t) ∧
    writes (win 0xC 0x200) (fun t => t.setCh n.val { c with hw := { c.hw with hit := andNot c.hw.hit w } }) ∧
    writes (win 0xC 0x300) (fun t => t.setCh n.val { c with hw := { c.hw with operand := w } }) ∧
    writes (win 0xB 0x100) (fun t => t.setCh n.val { c with db := { c.db with hand0 := w } }) ∧
    writes 0x3040 (fun t => { t with pt := { t.pt with stageSel := fld w 7 0 } }) ∧
    writes (faultOff u 0x08) (fun t => t.setUnit u { fs with disabled := andNot (enWritable (unitClasses u)) (fld w 31 0) }) ∧
    writes (faultOff u 0x58) (fun t =>
      if 64 ≤ fld w 19 0 ∧ fld w 19 0 ≤ 1000000 then t.setUnit u { fs with drydownUs := fld w 19 0 } else t) ∧
    reads (win 0xC 0x310)
      (at_ 63 63 (b01 c.hw.busy) + at_ 62 62 (b01 c.hw.overrun) + at_ 31 16 c.hw.count + at_ 13 8 c.hw.opcode + at_ 5 0 c.hw.status)
      (fun t => t.setCh n.val { c with hw := { c.hw with overrun := false } }) ∧
    reads (win 4 0x108)
      (at_ 63 63 (b01 c.lt.busy) + at_ 62 62 (b01 c.lt.overrun) + at_ 31 16 c.lt.fEntry + at_ 5 0 c.lt.fStatus)
      (fun t => t.setCh n.val { c with lt := { c.lt with overrun := false } }) ∧
    reads 0x4100 (at_ 15 0 s.ck.overrun) (fun t => { t with ck := { t.ck with overrun := 0 } }) ∧
    reads (win 1 0x010) c.rq.ops (fun t => t) ∧ reads (win 0 0x100) c.ctl.mapSel (fun t => t) ∧ reads (win 0xD 0x000) 0 (fun t => t)
end

