-- ==== Sys2Proof/Laws/State.lean ====
section
/-! SUPPORT. What the updates of the block leave alone, one lemma for each field and update, and the reads after them. -/

namespace Sys2Proof.Machine

set_option Elab.async false

variable (s : State)

@[simp] theorem State.setCh_cl (n : Nat) (c : Ch) : (s.setCh n c).cl = s.cl := by unfold State.setCh; split <;> rfl
@[simp] theorem State.setCh_pt (n : Nat) (c : Ch) : (s.setCh n c).pt = s.pt := by unfold State.setCh; split <;> rfl
@[simp] theorem State.setCh_hp (n : Nat) (c : Ch) : (s.setCh n c).hp = s.hp := by unfold State.setCh; split <;> rfl
@[simp] theorem State.setCh_ck (n : Nat) (c : Ch) : (s.setCh n c).ck = s.ck := by unfold State.setCh; split <;> rfl
@[simp] theorem State.setCh_sflt (n : Nat) (c : Ch) : (s.setCh n c).sflt = s.sflt := by unfold State.setCh; split <;> rfl
@[simp] theorem State.setCh_pairAB (n : Nat) (c : Ch) : (s.setCh n c).pairAB = s.pairAB := by unfold State.setCh; split <;> rfl
@[simp] theorem State.setCh_pairCD (n : Nat) (c : Ch) : (s.setCh n c).pairCD = s.pairCD := by unfold State.setCh; split <;> rfl
@[simp] theorem State.setCh_bays (n : Nat) (c : Ch) : (s.setCh n c).bays = s.bays := by unfold State.setCh; split <;> rfl
@[simp] theorem State.setCh_tripPin (n : Nat) (c : Ch) : (s.setCh n c).tripPin = s.tripPin := by unfold State.setCh; split <;> rfl
@[simp] theorem State.setCh_trip1 (n : Nat) (c : Ch) : (s.setCh n c).trip1 = s.trip1 := by unfold State.setCh; split <;> rfl
@[simp] theorem State.setCh_trip2 (n : Nat) (c : Ch) : (s.setCh n c).trip2 = s.trip2 := by unfold State.setCh; split <;> rfl
@[simp] theorem State.setCh_tripTaken (n : Nat) (c : Ch) : (s.setCh n c).tripTaken = s.tripTaken := by unfold State.setCh; split <;> rfl
@[simp] theorem State.setCh_trip (n : Nat) (c : Ch) : (s.setCh n c).trip = s.trip := by unfold State.setCh; split <;> rfl
@[simp] theorem State.setCh_por (n : Nat) (c : Ch) : (s.setCh n c).por = s.por := by unfold State.setCh; split <;> rfl
@[simp] theorem State.setCh_xspiResetN (n : Nat) (c : Ch) : (s.setCh n c).xspiResetN = s.xspiResetN := by unfold State.setCh; split <;> rfl
@[simp] theorem State.setCh_xspiCsN (n : Nat) (c : Ch) : (s.setCh n c).xspiCsN = s.xspiCsN := by unfold State.setCh; split <;> rfl
@[simp] theorem State.setCh_xspiSck (n : Nat) (c : Ch) : (s.setCh n c).xspiSck = s.xspiSck := by unfold State.setCh; split <;> rfl
@[simp] theorem State.setCh_xspiDq (n : Nat) (c : Ch) : (s.setCh n c).xspiDq = s.xspiDq := by unfold State.setCh; split <;> rfl
@[simp] theorem State.setCh_xspiDqs (n : Nat) (c : Ch) : (s.setCh n c).xspiDqs = s.xspiDqs := by unfold State.setCh; split <;> rfl
@[simp] theorem State.setCh_links (n : Nat) (c : Ch) : (s.setCh n c).links = s.links := by unfold State.setCh; split <;> rfl
@[simp] theorem State.setCh_blockHalted (n : Nat) (c : Ch) : (s.setCh n c).blockHalted = s.blockHalted := by unfold State.setCh; split <;> rfl
@[simp] theorem State.setCh_time (n : Nat) (c : Ch) : (s.setCh n c).time = s.time := by unfold State.setCh; split <;> rfl
@[simp] theorem State.setCh_coreK (n : Nat) (c : Ch) : (s.setCh n c).coreK = s.coreK := by unfold State.setCh; split <;> rfl
@[simp] theorem State.setCh_free (n : Nat) (c : Ch) : (s.setCh n c).free = s.free := by unfold State.setCh; split <;> rfl
@[simp] theorem State.setCh_busyAt (n : Nat) (c : Ch) : (s.setCh n c).busyAt = s.busyAt := by unfold State.setCh; split <;> rfl
@[simp] theorem State.setCh_resp (n : Nat) (c : Ch) : (s.setCh n c).resp = s.resp := by unfold State.setCh; split <;> rfl
@[simp] theorem State.setCh_outstanding (n : Nat) (c : Ch) : (s.setCh n c).outstanding = s.outstanding := by unfold State.setCh; split <;> rfl
@[simp] theorem State.setCh_nodeWait (n : Nat) (c : Ch) : (s.setCh n c).nodeWait = s.nodeWait := by unfold State.setCh; split <;> rfl
@[simp] theorem State.setCh_bayQ (n : Nat) (c : Ch) : (s.setCh n c).bayQ = s.bayQ := by unfold State.setCh; split <;> rfl
@[simp] theorem State.setCh_resetWait (n : Nat) (c : Ch) : (s.setCh n c).resetWait = s.resetWait := by unfold State.setCh; split <;> rfl
@[simp] theorem State.setCh_resetTakes (n : Nat) (c : Ch) : (s.setCh n c).resetTakes = s.resetTakes := by unfold State.setCh; split <;> rfl
@[simp] theorem State.setCh_laneWakes (n : Nat) (c : Ch) : (s.setCh n c).laneWakes = s.laneWakes := by unfold State.setCh; split <;> rfl
@[simp] theorem State.setCh_emitted (n : Nat) (c : Ch) : (s.setCh n c).emitted = s.emitted := by unfold State.setCh; split <;> rfl
@[simp] theorem State.setCh_irq1 (n : Nat) (c : Ch) : (s.setCh n c).irq1 = s.irq1 := by unfold State.setCh; split <;> rfl
@[simp] theorem State.setCh_irq2 (n : Nat) (c : Ch) : (s.setCh n c).irq2 = s.irq2 := by unfold State.setCh; split <;> rfl
@[simp] theorem State.setCh_irq (n : Nat) (c : Ch) : (s.setCh n c).irq = s.irq := by unfold State.setCh; split <;> rfl
@[simp] theorem State.setCh_flt1 (n : Nat) (c : Ch) : (s.setCh n c).flt1 = s.flt1 := by unfold State.setCh; split <;> rfl
@[simp] theorem State.setCh_flt2 (n : Nat) (c : Ch) : (s.setCh n c).flt2 = s.flt2 := by unfold State.setCh; split <;> rfl
@[simp] theorem State.setCh_flt (n : Nat) (c : Ch) : (s.setCh n c).flt = s.flt := by unfold State.setCh; split <;> rfl
@[simp] theorem State.setCh_pending (n : Nat) (c : Ch) : (s.setCh n c).pending = s.pending := by unfold State.setCh; split <;> rfl

@[simp] theorem State.setPair_chA (n : Nat) (p : Pair) : (s.setPair n p).chA = s.chA := by unfold State.setPair; split <;> rfl
@[simp] theorem State.setPair_chB (n : Nat) (p : Pair) : (s.setPair n p).chB = s.chB := by unfold State.setPair; split <;> rfl
@[simp] theorem State.setPair_chC (n : Nat) (p : Pair) : (s.setPair n p).chC = s.chC := by unfold State.setPair; split <;> rfl
@[simp] theorem State.setPair_chD (n : Nat) (p : Pair) : (s.setPair n p).chD = s.chD := by unfold State.setPair; split <;> rfl
@[simp] theorem State.setPair_cl (n : Nat) (p : Pair) : (s.setPair n p).cl = s.cl := by unfold State.setPair; split <;> rfl
@[simp] theorem State.setPair_pt (n : Nat) (p : Pair) : (s.setPair n p).pt = s.pt := by unfold State.setPair; split <;> rfl
@[simp] theorem State.setPair_hp (n : Nat) (p : Pair) : (s.setPair n p).hp = s.hp := by unfold State.setPair; split <;> rfl
@[simp] theorem State.setPair_ck (n : Nat) (p : Pair) : (s.setPair n p).ck = s.ck := by unfold State.setPair; split <;> rfl
@[simp] theorem State.setPair_sflt (n : Nat) (p : Pair) : (s.setPair n p).sflt = s.sflt := by unfold State.setPair; split <;> rfl
@[simp] theorem State.setPair_bays (n : Nat) (p : Pair) : (s.setPair n p).bays = s.bays := by unfold State.setPair; split <;> rfl
@[simp] theorem State.setPair_tripPin (n : Nat) (p : Pair) : (s.setPair n p).tripPin = s.tripPin := by unfold State.setPair; split <;> rfl
@[simp] theorem State.setPair_trip1 (n : Nat) (p : Pair) : (s.setPair n p).trip1 = s.trip1 := by unfold State.setPair; split <;> rfl
@[simp] theorem State.setPair_trip2 (n : Nat) (p : Pair) : (s.setPair n p).trip2 = s.trip2 := by unfold State.setPair; split <;> rfl
@[simp] theorem State.setPair_tripTaken (n : Nat) (p : Pair) : (s.setPair n p).tripTaken = s.tripTaken := by unfold State.setPair; split <;> rfl
@[simp] theorem State.setPair_trip (n : Nat) (p : Pair) : (s.setPair n p).trip = s.trip := by unfold State.setPair; split <;> rfl
@[simp] theorem State.setPair_por (n : Nat) (p : Pair) : (s.setPair n p).por = s.por := by unfold State.setPair; split <;> rfl
@[simp] theorem State.setPair_xspiResetN (n : Nat) (p : Pair) : (s.setPair n p).xspiResetN = s.xspiResetN := by unfold State.setPair; split <;> rfl
@[simp] theorem State.setPair_xspiCsN (n : Nat) (p : Pair) : (s.setPair n p).xspiCsN = s.xspiCsN := by unfold State.setPair; split <;> rfl
@[simp] theorem State.setPair_xspiSck (n : Nat) (p : Pair) : (s.setPair n p).xspiSck = s.xspiSck := by unfold State.setPair; split <;> rfl
@[simp] theorem State.setPair_xspiDq (n : Nat) (p : Pair) : (s.setPair n p).xspiDq = s.xspiDq := by unfold State.setPair; split <;> rfl
@[simp] theorem State.setPair_xspiDqs (n : Nat) (p : Pair) : (s.setPair n p).xspiDqs = s.xspiDqs := by unfold State.setPair; split <;> rfl
@[simp] theorem State.setPair_links (n : Nat) (p : Pair) : (s.setPair n p).links = s.links := by unfold State.setPair; split <;> rfl
@[simp] theorem State.setPair_blockHalted (n : Nat) (p : Pair) : (s.setPair n p).blockHalted = s.blockHalted := by unfold State.setPair; split <;> rfl
@[simp] theorem State.setPair_time (n : Nat) (p : Pair) : (s.setPair n p).time = s.time := by unfold State.setPair; split <;> rfl
@[simp] theorem State.setPair_coreK (n : Nat) (p : Pair) : (s.setPair n p).coreK = s.coreK := by unfold State.setPair; split <;> rfl
@[simp] theorem State.setPair_free (n : Nat) (p : Pair) : (s.setPair n p).free = s.free := by unfold State.setPair; split <;> rfl
@[simp] theorem State.setPair_busyAt (n : Nat) (p : Pair) : (s.setPair n p).busyAt = s.busyAt := by unfold State.setPair; split <;> rfl
@[simp] theorem State.setPair_resp (n : Nat) (p : Pair) : (s.setPair n p).resp = s.resp := by unfold State.setPair; split <;> rfl
@[simp] theorem State.setPair_outstanding (n : Nat) (p : Pair) : (s.setPair n p).outstanding = s.outstanding := by unfold State.setPair; split <;> rfl
@[simp] theorem State.setPair_nodeWait (n : Nat) (p : Pair) : (s.setPair n p).nodeWait = s.nodeWait := by unfold State.setPair; split <;> rfl
@[simp] theorem State.setPair_bayQ (n : Nat) (p : Pair) : (s.setPair n p).bayQ = s.bayQ := by unfold State.setPair; split <;> rfl
@[simp] theorem State.setPair_resetWait (n : Nat) (p : Pair) : (s.setPair n p).resetWait = s.resetWait := by unfold State.setPair; split <;> rfl
@[simp] theorem State.setPair_resetTakes (n : Nat) (p : Pair) : (s.setPair n p).resetTakes = s.resetTakes := by unfold State.setPair; split <;> rfl
@[simp] theorem State.setPair_laneWakes (n : Nat) (p : Pair) : (s.setPair n p).laneWakes = s.laneWakes := by unfold State.setPair; split <;> rfl
@[simp] theorem State.setPair_emitted (n : Nat) (p : Pair) : (s.setPair n p).emitted = s.emitted := by unfold State.setPair; split <;> rfl
@[simp] theorem State.setPair_irq1 (n : Nat) (p : Pair) : (s.setPair n p).irq1 = s.irq1 := by unfold State.setPair; split <;> rfl
@[simp] theorem State.setPair_irq2 (n : Nat) (p : Pair) : (s.setPair n p).irq2 = s.irq2 := by unfold State.setPair; split <;> rfl
@[simp] theorem State.setPair_irq (n : Nat) (p : Pair) : (s.setPair n p).irq = s.irq := by unfold State.setPair; split <;> rfl
@[simp] theorem State.setPair_flt1 (n : Nat) (p : Pair) : (s.setPair n p).flt1 = s.flt1 := by unfold State.setPair; split <;> rfl
@[simp] theorem State.setPair_flt2 (n : Nat) (p : Pair) : (s.setPair n p).flt2 = s.flt2 := by unfold State.setPair; split <;> rfl
@[simp] theorem State.setPair_flt (n : Nat) (p : Pair) : (s.setPair n p).flt = s.flt := by unfold State.setPair; split <;> rfl
@[simp] theorem State.setPair_pending (n : Nat) (p : Pair) : (s.setPair n p).pending = s.pending := by unfold State.setPair; split <;> rfl

@[simp] theorem State.leave_chA (l : List Output) : (s.leave l).chA = s.chA := rfl
@[simp] theorem State.leave_chB (l : List Output) : (s.leave l).chB = s.chB := rfl
@[simp] theorem State.leave_chC (l : List Output) : (s.leave l).chC = s.chC := rfl
@[simp] theorem State.leave_chD (l : List Output) : (s.leave l).chD = s.chD := rfl
@[simp] theorem State.leave_cl (l : List Output) : (s.leave l).cl = s.cl := rfl
@[simp] theorem State.leave_pt (l : List Output) : (s.leave l).pt = s.pt := rfl
@[simp] theorem State.leave_hp (l : List Output) : (s.leave l).hp = s.hp := rfl
@[simp] theorem State.leave_ck (l : List Output) : (s.leave l).ck = s.ck := rfl
@[simp] theorem State.leave_sflt (l : List Output) : (s.leave l).sflt = s.sflt := rfl
@[simp] theorem State.leave_pairAB (l : List Output) : (s.leave l).pairAB = s.pairAB := rfl
@[simp] theorem State.leave_pairCD (l : List Output) : (s.leave l).pairCD = s.pairCD := rfl
@[simp] theorem State.leave_bays (l : List Output) : (s.leave l).bays = s.bays := rfl
@[simp] theorem State.leave_tripPin (l : List Output) : (s.leave l).tripPin = s.tripPin := rfl
@[simp] theorem State.leave_trip1 (l : List Output) : (s.leave l).trip1 = s.trip1 := rfl
@[simp] theorem State.leave_trip2 (l : List Output) : (s.leave l).trip2 = s.trip2 := rfl
@[simp] theorem State.leave_tripTaken (l : List Output) : (s.leave l).tripTaken = s.tripTaken := rfl
@[simp] theorem State.leave_trip (l : List Output) : (s.leave l).trip = s.trip := rfl
@[simp] theorem State.leave_por (l : List Output) : (s.leave l).por = s.por := rfl
@[simp] theorem State.leave_xspiResetN (l : List Output) : (s.leave l).xspiResetN = s.xspiResetN := rfl
@[simp] theorem State.leave_xspiCsN (l : List Output) : (s.leave l).xspiCsN = s.xspiCsN := rfl
@[simp] theorem State.leave_xspiSck (l : List Output) : (s.leave l).xspiSck = s.xspiSck := rfl
@[simp] theorem State.leave_xspiDq (l : List Output) : (s.leave l).xspiDq = s.xspiDq := rfl
@[simp] theorem State.leave_xspiDqs (l : List Output) : (s.leave l).xspiDqs = s.xspiDqs := rfl
@[simp] theorem State.leave_links (l : List Output) : (s.leave l).links = s.links := rfl
@[simp] theorem State.leave_blockHalted (l : List Output) : (s.leave l).blockHalted = s.blockHalted := rfl
@[simp] theorem State.leave_time (l : List Output) : (s.leave l).time = s.time := rfl
@[simp] theorem State.leave_coreK (l : List Output) : (s.leave l).coreK = s.coreK := rfl
@[simp] theorem State.leave_free (l : List Output) : (s.leave l).free = s.free := rfl
@[simp] theorem State.leave_busyAt (l : List Output) : (s.leave l).busyAt = s.busyAt := rfl
@[simp] theorem State.leave_outstanding (l : List Output) : (s.leave l).outstanding = s.outstanding := rfl
@[simp] theorem State.leave_nodeWait (l : List Output) : (s.leave l).nodeWait = s.nodeWait := rfl
@[simp] theorem State.leave_bayQ (l : List Output) : (s.leave l).bayQ = s.bayQ := rfl
@[simp] theorem State.leave_resetWait (l : List Output) : (s.leave l).resetWait = s.resetWait := rfl
@[simp] theorem State.leave_resetTakes (l : List Output) : (s.leave l).resetTakes = s.resetTakes := rfl
@[simp] theorem State.leave_irq1 (l : List Output) : (s.leave l).irq1 = s.irq1 := rfl
@[simp] theorem State.leave_irq2 (l : List Output) : (s.leave l).irq2 = s.irq2 := rfl
@[simp] theorem State.leave_irq (l : List Output) : (s.leave l).irq = s.irq := rfl
@[simp] theorem State.leave_flt1 (l : List Output) : (s.leave l).flt1 = s.flt1 := rfl
@[simp] theorem State.leave_flt2 (l : List Output) : (s.leave l).flt2 = s.flt2 := rfl
@[simp] theorem State.leave_flt (l : List Output) : (s.leave l).flt = s.flt := rfl
@[simp] theorem State.leave_pending (l : List Output) : (s.leave l).pending = s.pending := rfl

@[simp] theorem State.leave_emitted_eq (l : List Output) : (s.leave l).emitted = s.emitted ++ l := rfl
@[simp] theorem State.leave_resp_eq (l : List Output) : (s.leave l).resp = s.resp ++ responsesOf l := rfl
@[simp] theorem State.leave_laneWakes_eq (l : List Output) : (s.leave l).laneWakes = s.laneWakes ++ risingCores l := rfl

@[simp] theorem State.errPulse_chA (n : Option Nat) : (s.errPulse n).chA = s.chA := rfl
@[simp] theorem State.errPulse_chB (n : Option Nat) : (s.errPulse n).chB = s.chB := rfl
@[simp] theorem State.errPulse_chC (n : Option Nat) : (s.errPulse n).chC = s.chC := rfl
@[simp] theorem State.errPulse_chD (n : Option Nat) : (s.errPulse n).chD = s.chD := rfl
@[simp] theorem State.errPulse_cl (n : Option Nat) : (s.errPulse n).cl = s.cl := rfl
@[simp] theorem State.errPulse_pt (n : Option Nat) : (s.errPulse n).pt = s.pt := rfl
@[simp] theorem State.errPulse_ck (n : Option Nat) : (s.errPulse n).ck = s.ck := rfl
@[simp] theorem State.errPulse_sflt (n : Option Nat) : (s.errPulse n).sflt = s.sflt := rfl
@[simp] theorem State.errPulse_pairAB (n : Option Nat) : (s.errPulse n).pairAB = s.pairAB := rfl
@[simp] theorem State.errPulse_pairCD (n : Option Nat) : (s.errPulse n).pairCD = s.pairCD := rfl
@[simp] theorem State.errPulse_bays (n : Option Nat) : (s.errPulse n).bays = s.bays := rfl
@[simp] theorem State.errPulse_tripPin (n : Option Nat) : (s.errPulse n).tripPin = s.tripPin := rfl
@[simp] theorem State.errPulse_trip1 (n : Option Nat) : (s.errPulse n).trip1 = s.trip1 := rfl
@[simp] theorem State.errPulse_trip2 (n : Option Nat) : (s.errPulse n).trip2 = s.trip2 := rfl
@[simp] theorem State.errPulse_tripTaken (n : Option Nat) : (s.errPulse n).tripTaken = s.tripTaken := rfl
@[simp] theorem State.errPulse_trip (n : Option Nat) : (s.errPulse n).trip = s.trip := rfl
@[simp] theorem State.errPulse_por (n : Option Nat) : (s.errPulse n).por = s.por := rfl
@[simp] theorem State.errPulse_xspiResetN (n : Option Nat) : (s.errPulse n).xspiResetN = s.xspiResetN := rfl
@[simp] theorem State.errPulse_xspiCsN (n : Option Nat) : (s.errPulse n).xspiCsN = s.xspiCsN := rfl
@[simp] theorem State.errPulse_xspiSck (n : Option Nat) : (s.errPulse n).xspiSck = s.xspiSck := rfl
@[simp] theorem State.errPulse_xspiDq (n : Option Nat) : (s.errPulse n).xspiDq = s.xspiDq := rfl
@[simp] theorem State.errPulse_xspiDqs (n : Option Nat) : (s.errPulse n).xspiDqs = s.xspiDqs := rfl
@[simp] theorem State.errPulse_links (n : Option Nat) : (s.errPulse n).links = s.links := rfl
@[simp] theorem State.errPulse_blockHalted (n : Option Nat) : (s.errPulse n).blockHalted = s.blockHalted := rfl
@[simp] theorem State.errPulse_time (n : Option Nat) : (s.errPulse n).time = s.time := rfl
@[simp] theorem State.errPulse_coreK (n : Option Nat) : (s.errPulse n).coreK = s.coreK := rfl
@[simp] theorem State.errPulse_free (n : Option Nat) : (s.errPulse n).free = s.free := rfl
@[simp] theorem State.errPulse_busyAt (n : Option Nat) : (s.errPulse n).busyAt = s.busyAt := rfl
@[simp] theorem State.errPulse_resp (n : Option Nat) : (s.errPulse n).resp = s.resp := rfl
@[simp] theorem State.errPulse_outstanding (n : Option Nat) : (s.errPulse n).outstanding = s.outstanding := rfl
@[simp] theorem State.errPulse_nodeWait (n : Option Nat) : (s.errPulse n).nodeWait = s.nodeWait := rfl
@[simp] theorem State.errPulse_bayQ (n : Option Nat) : (s.errPulse n).bayQ = s.bayQ := rfl
@[simp] theorem State.errPulse_resetWait (n : Option Nat) : (s.errPulse n).resetWait = s.resetWait := rfl
@[simp] theorem State.errPulse_resetTakes (n : Option Nat) : (s.errPulse n).resetTakes = s.resetTakes := rfl
@[simp] theorem State.errPulse_laneWakes (n : Option Nat) : (s.errPulse n).laneWakes = s.laneWakes := rfl
@[simp] theorem State.errPulse_emitted (n : Option Nat) : (s.errPulse n).emitted = s.emitted := rfl
@[simp] theorem State.errPulse_irq1 (n : Option Nat) : (s.errPulse n).irq1 = s.irq1 := rfl
@[simp] theorem State.errPulse_irq2 (n : Option Nat) : (s.errPulse n).irq2 = s.irq2 := rfl
@[simp] theorem State.errPulse_irq (n : Option Nat) : (s.errPulse n).irq = s.irq := rfl
@[simp] theorem State.errPulse_flt1 (n : Option Nat) : (s.errPulse n).flt1 = s.flt1 := rfl
@[simp] theorem State.errPulse_flt2 (n : Option Nat) : (s.errPulse n).flt2 = s.flt2 := rfl
@[simp] theorem State.errPulse_flt (n : Option Nat) : (s.errPulse n).flt = s.flt := rfl
@[simp] theorem State.errPulse_pending (n : Option Nat) : (s.errPulse n).pending = s.pending := rfl

@[simp] theorem State.busyNow_chA (n : Nat) : (s.busyNow n).chA = s.chA := rfl
@[simp] theorem State.busyNow_chB (n : Nat) : (s.busyNow n).chB = s.chB := rfl
@[simp] theorem State.busyNow_chC (n : Nat) : (s.busyNow n).chC = s.chC := rfl
@[simp] theorem State.busyNow_chD (n : Nat) : (s.busyNow n).chD = s.chD := rfl
@[simp] theorem State.busyNow_cl (n : Nat) : (s.busyNow n).cl = s.cl := rfl
@[simp] theorem State.busyNow_pt (n : Nat) : (s.busyNow n).pt = s.pt := rfl
@[simp] theorem State.busyNow_hp (n : Nat) : (s.busyNow n).hp = s.hp := rfl
@[simp] theorem State.busyNow_ck (n : Nat) : (s.busyNow n).ck = s.ck := rfl
@[simp] theorem State.busyNow_sflt (n : Nat) : (s.busyNow n).sflt = s.sflt := rfl
@[simp] theorem State.busyNow_pairAB (n : Nat) : (s.busyNow n).pairAB = s.pairAB := rfl
@[simp] theorem State.busyNow_pairCD (n : Nat) : (s.busyNow n).pairCD = s.pairCD := rfl
@[simp] theorem State.busyNow_bays (n : Nat) : (s.busyNow n).bays = s.bays := rfl
@[simp] theorem State.busyNow_tripPin (n : Nat) : (s.busyNow n).tripPin = s.tripPin := rfl
@[simp] theorem State.busyNow_trip1 (n : Nat) : (s.busyNow n).trip1 = s.trip1 := rfl
@[simp] theorem State.busyNow_trip2 (n : Nat) : (s.busyNow n).trip2 = s.trip2 := rfl
@[simp] theorem State.busyNow_tripTaken (n : Nat) : (s.busyNow n).tripTaken = s.tripTaken := rfl
@[simp] theorem State.busyNow_trip (n : Nat) : (s.busyNow n).trip = s.trip := rfl
@[simp] theorem State.busyNow_por (n : Nat) : (s.busyNow n).por = s.por := rfl
@[simp] theorem State.busyNow_xspiResetN (n : Nat) : (s.busyNow n).xspiResetN = s.xspiResetN := rfl
@[simp] theorem State.busyNow_xspiCsN (n : Nat) : (s.busyNow n).xspiCsN = s.xspiCsN := rfl
@[simp] theorem State.busyNow_xspiSck (n : Nat) : (s.busyNow n).xspiSck = s.xspiSck := rfl
@[simp] theorem State.busyNow_xspiDq (n : Nat) : (s.busyNow n).xspiDq = s.xspiDq := rfl
@[simp] theorem State.busyNow_xspiDqs (n : Nat) : (s.busyNow n).xspiDqs = s.xspiDqs := rfl
@[simp] theorem State.busyNow_links (n : Nat) : (s.busyNow n).links = s.links := rfl
@[simp] theorem State.busyNow_blockHalted (n : Nat) : (s.busyNow n).blockHalted = s.blockHalted := rfl
@[simp] theorem State.busyNow_time (n : Nat) : (s.busyNow n).time = s.time := rfl
@[simp] theorem State.busyNow_coreK (n : Nat) : (s.busyNow n).coreK = s.coreK := rfl
@[simp] theorem State.busyNow_free (n : Nat) : (s.busyNow n).free = s.free := rfl
@[simp] theorem State.busyNow_resp (n : Nat) : (s.busyNow n).resp = s.resp := rfl
@[simp] theorem State.busyNow_outstanding (n : Nat) : (s.busyNow n).outstanding = s.outstanding := rfl
@[simp] theorem State.busyNow_nodeWait (n : Nat) : (s.busyNow n).nodeWait = s.nodeWait := rfl
@[simp] theorem State.busyNow_bayQ (n : Nat) : (s.busyNow n).bayQ = s.bayQ := rfl
@[simp] theorem State.busyNow_resetWait (n : Nat) : (s.busyNow n).resetWait = s.resetWait := rfl
@[simp] theorem State.busyNow_resetTakes (n : Nat) : (s.busyNow n).resetTakes = s.resetTakes := rfl
@[simp] theorem State.busyNow_laneWakes (n : Nat) : (s.busyNow n).laneWakes = s.laneWakes := rfl
@[simp] theorem State.busyNow_emitted (n : Nat) : (s.busyNow n).emitted = s.emitted := rfl
@[simp] theorem State.busyNow_irq1 (n : Nat) : (s.busyNow n).irq1 = s.irq1 := rfl
@[simp] theorem State.busyNow_irq2 (n : Nat) : (s.busyNow n).irq2 = s.irq2 := rfl
@[simp] theorem State.busyNow_irq (n : Nat) : (s.busyNow n).irq = s.irq := rfl
@[simp] theorem State.busyNow_flt1 (n : Nat) : (s.busyNow n).flt1 = s.flt1 := rfl
@[simp] theorem State.busyNow_flt2 (n : Nat) : (s.busyNow n).flt2 = s.flt2 := rfl
@[simp] theorem State.busyNow_flt (n : Nat) : (s.busyNow n).flt = s.flt := rfl
@[simp] theorem State.busyNow_pending (n : Nat) : (s.busyNow n).pending = s.pending := rfl

@[simp] theorem State.busyNow_busyAt_eq (n : Nat) : (s.busyNow n).busyAt = s.busyAt.put 0 n s.coreNow := rfl

@[simp] theorem State.setPll_chA : (s.setPll).chA = s.chA := by unfold State.setPll; split <;> rfl
@[simp] theorem State.setPll_chB : (s.setPll).chB = s.chB := by unfold State.setPll; split <;> rfl
@[simp] theorem State.setPll_chC : (s.setPll).chC = s.chC := by unfold State.setPll; split <;> rfl
@[simp] theorem State.setPll_chD : (s.setPll).chD = s.chD := by unfold State.setPll; split <;> rfl
@[simp] theorem State.setPll_cl : (s.setPll).cl = s.cl := by unfold State.setPll; split <;> rfl
@[simp] theorem State.setPll_pt : (s.setPll).pt = s.pt := by unfold State.setPll; split <;> rfl
@[simp] theorem State.setPll_hp : (s.setPll).hp = s.hp := by unfold State.setPll; split <;> rfl
@[simp] theorem State.setPll_sflt : (s.setPll).sflt = s.sflt := by unfold State.setPll; split <;> rfl
@[simp] theorem State.setPll_pairAB : (s.setPll).pairAB = s.pairAB := by unfold State.setPll; split <;> rfl
@[simp] theorem State.setPll_pairCD : (s.setPll).pairCD = s.pairCD := by unfold State.setPll; split <;> rfl
@[simp] theorem State.setPll_bays : (s.setPll).bays = s.bays := by unfold State.setPll; split <;> rfl
@[simp] theorem State.setPll_tripPin : (s.setPll).tripPin = s.tripPin := by unfold State.setPll; split <;> rfl
@[simp] theorem State.setPll_trip1 : (s.setPll).trip1 = s.trip1 := by unfold State.setPll; split <;> rfl
@[simp] theorem State.setPll_trip2 : (s.setPll).trip2 = s.trip2 := by unfold State.setPll; split <;> rfl
@[simp] theorem State.setPll_tripTaken : (s.setPll).tripTaken = s.tripTaken := by unfold State.setPll; split <;> rfl
@[simp] theorem State.setPll_trip : (s.setPll).trip = s.trip := by unfold State.setPll; split <;> rfl
@[simp] theorem State.setPll_por : (s.setPll).por = s.por := by unfold State.setPll; split <;> rfl
@[simp] theorem State.setPll_xspiResetN : (s.setPll).xspiResetN = s.xspiResetN := by unfold State.setPll; split <;> rfl
@[simp] theorem State.setPll_xspiCsN : (s.setPll).xspiCsN = s.xspiCsN := by unfold State.setPll; split <;> rfl
@[simp] theorem State.setPll_xspiSck : (s.setPll).xspiSck = s.xspiSck := by unfold State.setPll; split <;> rfl
@[simp] theorem State.setPll_xspiDq : (s.setPll).xspiDq = s.xspiDq := by unfold State.setPll; split <;> rfl
@[simp] theorem State.setPll_xspiDqs : (s.setPll).xspiDqs = s.xspiDqs := by unfold State.setPll; split <;> rfl
@[simp] theorem State.setPll_links : (s.setPll).links = s.links := by unfold State.setPll; split <;> rfl
@[simp] theorem State.setPll_blockHalted : (s.setPll).blockHalted = s.blockHalted := by unfold State.setPll; split <;> rfl
@[simp] theorem State.setPll_time : (s.setPll).time = s.time := by unfold State.setPll; split <;> rfl
@[simp] theorem State.setPll_coreK : (s.setPll).coreK = s.coreK := by unfold State.setPll; split <;> rfl
@[simp] theorem State.setPll_free : (s.setPll).free = s.free := by unfold State.setPll; split <;> rfl
@[simp] theorem State.setPll_busyAt : (s.setPll).busyAt = s.busyAt := by unfold State.setPll; split <;> rfl
@[simp] theorem State.setPll_resp : (s.setPll).resp = s.resp := by unfold State.setPll; split <;> rfl
@[simp] theorem State.setPll_outstanding : (s.setPll).outstanding = s.outstanding := by unfold State.setPll; split <;> rfl
@[simp] theorem State.setPll_nodeWait : (s.setPll).nodeWait = s.nodeWait := by unfold State.setPll; split <;> rfl
@[simp] theorem State.setPll_bayQ : (s.setPll).bayQ = s.bayQ := by unfold State.setPll; split <;> rfl
@[simp] theorem State.setPll_resetWait : (s.setPll).resetWait = s.resetWait := by unfold State.setPll; split <;> rfl
@[simp] theorem State.setPll_resetTakes : (s.setPll).resetTakes = s.resetTakes := by unfold State.setPll; split <;> rfl
@[simp] theorem State.setPll_laneWakes : (s.setPll).laneWakes = s.laneWakes := by unfold State.setPll; split <;> rfl
@[simp] theorem State.setPll_emitted : (s.setPll).emitted = s.emitted := by unfold State.setPll; split <;> rfl
@[simp] theorem State.setPll_irq1 : (s.setPll).irq1 = s.irq1 := by unfold State.setPll; split <;> rfl
@[simp] theorem State.setPll_irq2 : (s.setPll).irq2 = s.irq2 := by unfold State.setPll; split <;> rfl
@[simp] theorem State.setPll_irq : (s.setPll).irq = s.irq := by unfold State.setPll; split <;> rfl
@[simp] theorem State.setPll_flt1 : (s.setPll).flt1 = s.flt1 := by unfold State.setPll; split <;> rfl
@[simp] theorem State.setPll_flt2 : (s.setPll).flt2 = s.flt2 := by unfold State.setPll; split <;> rfl
@[simp] theorem State.setPll_flt : (s.setPll).flt = s.flt := by unfold State.setPll; split <;> rfl
@[simp] theorem State.setPll_pending : (s.setPll).pending = s.pending := by unfold State.setPll; split <;> rfl

@[simp] theorem State.setShared_chA (u : SharedSub) (f : FaultSet) : (s.setShared u f).chA = s.chA := by cases u <;> rfl
@[simp] theorem State.setShared_chB (u : SharedSub) (f : FaultSet) : (s.setShared u f).chB = s.chB := by cases u <;> rfl
@[simp] theorem State.setShared_chC (u : SharedSub) (f : FaultSet) : (s.setShared u f).chC = s.chC := by cases u <;> rfl
@[simp] theorem State.setShared_chD (u : SharedSub) (f : FaultSet) : (s.setShared u f).chD = s.chD := by cases u <;> rfl
@[simp] theorem State.setShared_cl (u : SharedSub) (f : FaultSet) : (s.setShared u f).cl = s.cl := by cases u <;> rfl
@[simp] theorem State.setShared_pt (u : SharedSub) (f : FaultSet) : (s.setShared u f).pt = s.pt := by cases u <;> rfl
@[simp] theorem State.setShared_hp (u : SharedSub) (f : FaultSet) : (s.setShared u f).hp = s.hp := by cases u <;> rfl
@[simp] theorem State.setShared_ck (u : SharedSub) (f : FaultSet) : (s.setShared u f).ck = s.ck := by cases u <;> rfl
@[simp] theorem State.setShared_pairAB (u : SharedSub) (f : FaultSet) : (s.setShared u f).pairAB = s.pairAB := by cases u <;> rfl
@[simp] theorem State.setShared_pairCD (u : SharedSub) (f : FaultSet) : (s.setShared u f).pairCD = s.pairCD := by cases u <;> rfl
@[simp] theorem State.setShared_bays (u : SharedSub) (f : FaultSet) : (s.setShared u f).bays = s.bays := by cases u <;> rfl
@[simp] theorem State.setShared_tripPin (u : SharedSub) (f : FaultSet) : (s.setShared u f).tripPin = s.tripPin := by cases u <;> rfl
@[simp] theorem State.setShared_trip1 (u : SharedSub) (f : FaultSet) : (s.setShared u f).trip1 = s.trip1 := by cases u <;> rfl
@[simp] theorem State.setShared_trip2 (u : SharedSub) (f : FaultSet) : (s.setShared u f).trip2 = s.trip2 := by cases u <;> rfl
@[simp] theorem State.setShared_tripTaken (u : SharedSub) (f : FaultSet) : (s.setShared u f).tripTaken = s.tripTaken := by cases u <;> rfl
@[simp] theorem State.setShared_trip (u : SharedSub) (f : FaultSet) : (s.setShared u f).trip = s.trip := by cases u <;> rfl
@[simp] theorem State.setShared_por (u : SharedSub) (f : FaultSet) : (s.setShared u f).por = s.por := by cases u <;> rfl
@[simp] theorem State.setShared_xspiResetN (u : SharedSub) (f : FaultSet) : (s.setShared u f).xspiResetN = s.xspiResetN := by cases u <;> rfl
@[simp] theorem State.setShared_xspiCsN (u : SharedSub) (f : FaultSet) : (s.setShared u f).xspiCsN = s.xspiCsN := by cases u <;> rfl
@[simp] theorem State.setShared_xspiSck (u : SharedSub) (f : FaultSet) : (s.setShared u f).xspiSck = s.xspiSck := by cases u <;> rfl
@[simp] theorem State.setShared_xspiDq (u : SharedSub) (f : FaultSet) : (s.setShared u f).xspiDq = s.xspiDq := by cases u <;> rfl
@[simp] theorem State.setShared_xspiDqs (u : SharedSub) (f : FaultSet) : (s.setShared u f).xspiDqs = s.xspiDqs := by cases u <;> rfl
@[simp] theorem State.setShared_links (u : SharedSub) (f : FaultSet) : (s.setShared u f).links = s.links := by cases u <;> rfl
@[simp] theorem State.setShared_blockHalted (u : SharedSub) (f : FaultSet) : (s.setShared u f).blockHalted = s.blockHalted := by cases u <;> rfl
@[simp] theorem State.setShared_time (u : SharedSub) (f : FaultSet) : (s.setShared u f).time = s.time := by cases u <;> rfl
@[simp] theorem State.setShared_coreK (u : SharedSub) (f : FaultSet) : (s.setShared u f).coreK = s.coreK := by cases u <;> rfl
@[simp] theorem State.setShared_free (u : SharedSub) (f : FaultSet) : (s.setShared u f).free = s.free := by cases u <;> rfl
@[simp] theorem State.setShared_busyAt (u : SharedSub) (f : FaultSet) : (s.setShared u f).busyAt = s.busyAt := by cases u <;> rfl
@[simp] theorem State.setShared_resp (u : SharedSub) (f : FaultSet) : (s.setShared u f).resp = s.resp := by cases u <;> rfl
@[simp] theorem State.setShared_outstanding (u : SharedSub) (f : FaultSet) : (s.setShared u f).outstanding = s.outstanding := by cases u <;> rfl
@[simp] theorem State.setShared_nodeWait (u : SharedSub) (f : FaultSet) : (s.setShared u f).nodeWait = s.nodeWait := by cases u <;> rfl
@[simp] theorem State.setShared_bayQ (u : SharedSub) (f : FaultSet) : (s.setShared u f).bayQ = s.bayQ := by cases u <;> rfl
@[simp] theorem State.setShared_resetWait (u : SharedSub) (f : FaultSet) : (s.setShared u f).resetWait = s.resetWait := by cases u <;> rfl
@[simp] theorem State.setShared_resetTakes (u : SharedSub) (f : FaultSet) : (s.setShared u f).resetTakes = s.resetTakes := by cases u <;> rfl
@[simp] theorem State.setShared_laneWakes (u : SharedSub) (f : FaultSet) : (s.setShared u f).laneWakes = s.laneWakes := by cases u <;> rfl
@[simp] theorem State.setShared_emitted (u : SharedSub) (f : FaultSet) : (s.setShared u f).emitted = s.emitted := by cases u <;> rfl
@[simp] theorem State.setShared_irq1 (u : SharedSub) (f : FaultSet) : (s.setShared u f).irq1 = s.irq1 := by cases u <;> rfl
@[simp] theorem State.setShared_irq2 (u : SharedSub) (f : FaultSet) : (s.setShared u f).irq2 = s.irq2 := by cases u <;> rfl
@[simp] theorem State.setShared_irq (u : SharedSub) (f : FaultSet) : (s.setShared u f).irq = s.irq := by cases u <;> rfl
@[simp] theorem State.setShared_flt1 (u : SharedSub) (f : FaultSet) : (s.setShared u f).flt1 = s.flt1 := by cases u <;> rfl
@[simp] theorem State.setShared_flt2 (u : SharedSub) (f : FaultSet) : (s.setShared u f).flt2 = s.flt2 := by cases u <;> rfl
@[simp] theorem State.setShared_flt (u : SharedSub) (f : FaultSet) : (s.setShared u f).flt = s.flt := by cases u <;> rfl
@[simp] theorem State.setShared_pending (u : SharedSub) (f : FaultSet) : (s.setShared u f).pending = s.pending := by cases u <;> rfl

@[simp] theorem State.onPt_chA (f : Pt → Pt) : (s.onPt f).chA = s.chA := rfl
@[simp] theorem State.onPt_chB (f : Pt → Pt) : (s.onPt f).chB = s.chB := rfl
@[simp] theorem State.onPt_chC (f : Pt → Pt) : (s.onPt f).chC = s.chC := rfl
@[simp] theorem State.onPt_chD (f : Pt → Pt) : (s.onPt f).chD = s.chD := rfl
@[simp] theorem State.onPt_cl (f : Pt → Pt) : (s.onPt f).cl = s.cl := rfl
@[simp] theorem State.onPt_hp (f : Pt → Pt) : (s.onPt f).hp = s.hp := rfl
@[simp] theorem State.onPt_ck (f : Pt → Pt) : (s.onPt f).ck = s.ck := rfl
@[simp] theorem State.onPt_sflt (f : Pt → Pt) : (s.onPt f).sflt = s.sflt := rfl
@[simp] theorem State.onPt_pairAB (f : Pt → Pt) : (s.onPt f).pairAB = s.pairAB := rfl
@[simp] theorem State.onPt_pairCD (f : Pt → Pt) : (s.onPt f).pairCD = s.pairCD := rfl
@[simp] theorem State.onPt_bays (f : Pt → Pt) : (s.onPt f).bays = s.bays := rfl
@[simp] theorem State.onPt_tripPin (f : Pt → Pt) : (s.onPt f).tripPin = s.tripPin := rfl
@[simp] theorem State.onPt_trip1 (f : Pt → Pt) : (s.onPt f).trip1 = s.trip1 := rfl
@[simp] theorem State.onPt_trip2 (f : Pt → Pt) : (s.onPt f).trip2 = s.trip2 := rfl
@[simp] theorem State.onPt_tripTaken (f : Pt → Pt) : (s.onPt f).tripTaken = s.tripTaken := rfl
@[simp] theorem State.onPt_trip (f : Pt → Pt) : (s.onPt f).trip = s.trip := rfl
@[simp] theorem State.onPt_por (f : Pt → Pt) : (s.onPt f).por = s.por := rfl
@[simp] theorem State.onPt_xspiResetN (f : Pt → Pt) : (s.onPt f).xspiResetN = s.xspiResetN := rfl
@[simp] theorem State.onPt_xspiCsN (f : Pt → Pt) : (s.onPt f).xspiCsN = s.xspiCsN := rfl
@[simp] theorem State.onPt_xspiSck (f : Pt → Pt) : (s.onPt f).xspiSck = s.xspiSck := rfl
@[simp] theorem State.onPt_xspiDq (f : Pt → Pt) : (s.onPt f).xspiDq = s.xspiDq := rfl
@[simp] theorem State.onPt_xspiDqs (f : Pt → Pt) : (s.onPt f).xspiDqs = s.xspiDqs := rfl
@[simp] theorem State.onPt_links (f : Pt → Pt) : (s.onPt f).links = s.links := rfl
@[simp] theorem State.onPt_blockHalted (f : Pt → Pt) : (s.onPt f).blockHalted = s.blockHalted := rfl
@[simp] theorem State.onPt_time (f : Pt → Pt) : (s.onPt f).time = s.time := rfl
@[simp] theorem State.onPt_coreK (f : Pt → Pt) : (s.onPt f).coreK = s.coreK := rfl
@[simp] theorem State.onPt_free (f : Pt → Pt) : (s.onPt f).free = s.free := rfl
@[simp] theorem State.onPt_busyAt (f : Pt → Pt) : (s.onPt f).busyAt = s.busyAt := rfl
@[simp] theorem State.onPt_resp (f : Pt → Pt) : (s.onPt f).resp = s.resp := rfl
@[simp] theorem State.onPt_outstanding (f : Pt → Pt) : (s.onPt f).outstanding = s.outstanding := rfl
@[simp] theorem State.onPt_nodeWait (f : Pt → Pt) : (s.onPt f).nodeWait = s.nodeWait := rfl
@[simp] theorem State.onPt_bayQ (f : Pt → Pt) : (s.onPt f).bayQ = s.bayQ := rfl
@[simp] theorem State.onPt_resetWait (f : Pt → Pt) : (s.onPt f).resetWait = s.resetWait := rfl
@[simp] theorem State.onPt_resetTakes (f : Pt → Pt) : (s.onPt f).resetTakes = s.resetTakes := rfl
@[simp] theorem State.onPt_laneWakes (f : Pt → Pt) : (s.onPt f).laneWakes = s.laneWakes := rfl
@[simp] theorem State.onPt_emitted (f : Pt → Pt) : (s.onPt f).emitted = s.emitted := rfl
@[simp] theorem State.onPt_irq1 (f : Pt → Pt) : (s.onPt f).irq1 = s.irq1 := rfl
@[simp] theorem State.onPt_irq2 (f : Pt → Pt) : (s.onPt f).irq2 = s.irq2 := rfl
@[simp] theorem State.onPt_irq (f : Pt → Pt) : (s.onPt f).irq = s.irq := rfl
@[simp] theorem State.onPt_flt1 (f : Pt → Pt) : (s.onPt f).flt1 = s.flt1 := rfl
@[simp] theorem State.onPt_flt2 (f : Pt → Pt) : (s.onPt f).flt2 = s.flt2 := rfl
@[simp] theorem State.onPt_flt (f : Pt → Pt) : (s.onPt f).flt = s.flt := rfl
@[simp] theorem State.onPt_pending (f : Pt → Pt) : (s.onPt f).pending = s.pending := rfl

@[simp] theorem State.onPt_pt (f : Pt → Pt) : (s.onPt f).pt = f s.pt := rfl

@[simp] theorem State.onCl_chA (f : Cl → Cl) : (s.onCl f).chA = s.chA := rfl
@[simp] theorem State.onCl_chB (f : Cl → Cl) : (s.onCl f).chB = s.chB := rfl
@[simp] theorem State.onCl_chC (f : Cl → Cl) : (s.onCl f).chC = s.chC := rfl
@[simp] theorem State.onCl_chD (f : Cl → Cl) : (s.onCl f).chD = s.chD := rfl
@[simp] theorem State.onCl_pt (f : Cl → Cl) : (s.onCl f).pt = s.pt := rfl
@[simp] theorem State.onCl_hp (f : Cl → Cl) : (s.onCl f).hp = s.hp := rfl
@[simp] theorem State.onCl_ck (f : Cl → Cl) : (s.onCl f).ck = s.ck := rfl
@[simp] theorem State.onCl_sflt (f : Cl → Cl) : (s.onCl f).sflt = s.sflt := rfl
@[simp] theorem State.onCl_pairAB (f : Cl → Cl) : (s.onCl f).pairAB = s.pairAB := rfl
@[simp] theorem State.onCl_pairCD (f : Cl → Cl) : (s.onCl f).pairCD = s.pairCD := rfl
@[simp] theorem State.onCl_bays (f : Cl → Cl) : (s.onCl f).bays = s.bays := rfl
@[simp] theorem State.onCl_tripPin (f : Cl → Cl) : (s.onCl f).tripPin = s.tripPin := rfl
@[simp] theorem State.onCl_trip1 (f : Cl → Cl) : (s.onCl f).trip1 = s.trip1 := rfl
@[simp] theorem State.onCl_trip2 (f : Cl → Cl) : (s.onCl f).trip2 = s.trip2 := rfl
@[simp] theorem State.onCl_tripTaken (f : Cl → Cl) : (s.onCl f).tripTaken = s.tripTaken := rfl
@[simp] theorem State.onCl_trip (f : Cl → Cl) : (s.onCl f).trip = s.trip := rfl
@[simp] theorem State.onCl_por (f : Cl → Cl) : (s.onCl f).por = s.por := rfl
@[simp] theorem State.onCl_xspiResetN (f : Cl → Cl) : (s.onCl f).xspiResetN = s.xspiResetN := rfl
@[simp] theorem State.onCl_xspiCsN (f : Cl → Cl) : (s.onCl f).xspiCsN = s.xspiCsN := rfl
@[simp] theorem State.onCl_xspiSck (f : Cl → Cl) : (s.onCl f).xspiSck = s.xspiSck := rfl
@[simp] theorem State.onCl_xspiDq (f : Cl → Cl) : (s.onCl f).xspiDq = s.xspiDq := rfl
@[simp] theorem State.onCl_xspiDqs (f : Cl → Cl) : (s.onCl f).xspiDqs = s.xspiDqs := rfl
@[simp] theorem State.onCl_links (f : Cl → Cl) : (s.onCl f).links = s.links := rfl
@[simp] theorem State.onCl_blockHalted (f : Cl → Cl) : (s.onCl f).blockHalted = s.blockHalted := rfl
@[simp] theorem State.onCl_time (f : Cl → Cl) : (s.onCl f).time = s.time := rfl
@[simp] theorem State.onCl_coreK (f : Cl → Cl) : (s.onCl f).coreK = s.coreK := rfl
@[simp] theorem State.onCl_free (f : Cl → Cl) : (s.onCl f).free = s.free := rfl
@[simp] theorem State.onCl_busyAt (f : Cl → Cl) : (s.onCl f).busyAt = s.busyAt := rfl
@[simp] theorem State.onCl_resp (f : Cl → Cl) : (s.onCl f).resp = s.resp := rfl
@[simp] theorem State.onCl_outstanding (f : Cl → Cl) : (s.onCl f).outstanding = s.outstanding := rfl
@[simp] theorem State.onCl_nodeWait (f : Cl → Cl) : (s.onCl f).nodeWait = s.nodeWait := rfl
@[simp] theorem State.onCl_bayQ (f : Cl → Cl) : (s.onCl f).bayQ = s.bayQ := rfl
@[simp] theorem State.onCl_resetWait (f : Cl → Cl) : (s.onCl f).resetWait = s.resetWait := rfl
@[simp] theorem State.onCl_resetTakes (f : Cl → Cl) : (s.onCl f).resetTakes = s.resetTakes := rfl
@[simp] theorem State.onCl_laneWakes (f : Cl → Cl) : (s.onCl f).laneWakes = s.laneWakes := rfl
@[simp] theorem State.onCl_emitted (f : Cl → Cl) : (s.onCl f).emitted = s.emitted := rfl
@[simp] theorem State.onCl_irq1 (f : Cl → Cl) : (s.onCl f).irq1 = s.irq1 := rfl
@[simp] theorem State.onCl_irq2 (f : Cl → Cl) : (s.onCl f).irq2 = s.irq2 := rfl
@[simp] theorem State.onCl_irq (f : Cl → Cl) : (s.onCl f).irq = s.irq := rfl
@[simp] theorem State.onCl_flt1 (f : Cl → Cl) : (s.onCl f).flt1 = s.flt1 := rfl
@[simp] theorem State.onCl_flt2 (f : Cl → Cl) : (s.onCl f).flt2 = s.flt2 := rfl
@[simp] theorem State.onCl_flt (f : Cl → Cl) : (s.onCl f).flt = s.flt := rfl
@[simp] theorem State.onCl_pending (f : Cl → Cl) : (s.onCl f).pending = s.pending := rfl

@[simp] theorem State.onCl_cl (f : Cl → Cl) : (s.onCl f).cl = f s.cl := rfl

@[simp] theorem State.renew_chA : (s.renew).chA = s.chA := rfl
@[simp] theorem State.renew_chB : (s.renew).chB = s.chB := rfl
@[simp] theorem State.renew_chC : (s.renew).chC = s.chC := rfl
@[simp] theorem State.renew_chD : (s.renew).chD = s.chD := rfl
@[simp] theorem State.renew_cl : (s.renew).cl = s.cl := rfl
@[simp] theorem State.renew_pt : (s.renew).pt = s.pt := rfl
@[simp] theorem State.renew_hp : (s.renew).hp = s.hp := rfl
@[simp] theorem State.renew_ck : (s.renew).ck = s.ck := rfl
@[simp] theorem State.renew_sflt : (s.renew).sflt = s.sflt := rfl
@[simp] theorem State.renew_pairAB : (s.renew).pairAB = s.pairAB := rfl
@[simp] theorem State.renew_pairCD : (s.renew).pairCD = s.pairCD := rfl
@[simp] theorem State.renew_bays : (s.renew).bays = s.bays := rfl
@[simp] theorem State.renew_tripPin : (s.renew).tripPin = s.tripPin := rfl
@[simp] theorem State.renew_trip1 : (s.renew).trip1 = s.trip1 := rfl
@[simp] theorem State.renew_trip2 : (s.renew).trip2 = s.trip2 := rfl
@[simp] theorem State.renew_tripTaken : (s.renew).tripTaken = s.tripTaken := rfl
@[simp] theorem State.renew_trip : (s.renew).trip = s.trip := rfl
@[simp] theorem State.renew_por : (s.renew).por = s.por := rfl
@[simp] theorem State.renew_xspiResetN : (s.renew).xspiResetN = s.xspiResetN := rfl
@[simp] theorem State.renew_xspiCsN : (s.renew).xspiCsN = s.xspiCsN := rfl
@[simp] theorem State.renew_xspiSck : (s.renew).xspiSck = s.xspiSck := rfl
@[simp] theorem State.renew_xspiDq : (s.renew).xspiDq = s.xspiDq := rfl
@[simp] theorem State.renew_xspiDqs : (s.renew).xspiDqs = s.xspiDqs := rfl
@[simp] theorem State.renew_links : (s.renew).links = s.links := rfl
@[simp] theorem State.renew_blockHalted : (s.renew).blockHalted = s.blockHalted := rfl
@[simp] theorem State.renew_time : (s.renew).time = s.time := rfl
@[simp] theorem State.renew_coreK : (s.renew).coreK = s.coreK := rfl
@[simp] theorem State.renew_busyAt : (s.renew).busyAt = s.busyAt := rfl
@[simp] theorem State.renew_resp : (s.renew).resp = s.resp := rfl
@[simp] theorem State.renew_outstanding : (s.renew).outstanding = s.outstanding := rfl
@[simp] theorem State.renew_nodeWait : (s.renew).nodeWait = s.nodeWait := rfl
@[simp] theorem State.renew_bayQ : (s.renew).bayQ = s.bayQ := rfl
@[simp] theorem State.renew_resetWait : (s.renew).resetWait = s.resetWait := rfl
@[simp] theorem State.renew_resetTakes : (s.renew).resetTakes = s.resetTakes := rfl
@[simp] theorem State.renew_laneWakes : (s.renew).laneWakes = s.laneWakes := rfl
@[simp] theorem State.renew_emitted : (s.renew).emitted = s.emitted := rfl
@[simp] theorem State.renew_irq1 : (s.renew).irq1 = s.irq1 := rfl
@[simp] theorem State.renew_irq2 : (s.renew).irq2 = s.irq2 := rfl
@[simp] theorem State.renew_irq : (s.renew).irq = s.irq := rfl
@[simp] theorem State.renew_flt1 : (s.renew).flt1 = s.flt1 := rfl
@[simp] theorem State.renew_flt2 : (s.renew).flt2 = s.flt2 := rfl
@[simp] theorem State.renew_flt : (s.renew).flt = s.flt := rfl
@[simp] theorem State.renew_pending : (s.renew).pending = s.pending := rfl

@[simp] theorem State.begin_chA : (s.begin).chA = s.chA := rfl
@[simp] theorem State.begin_chB : (s.begin).chB = s.chB := rfl
@[simp] theorem State.begin_chC : (s.begin).chC = s.chC := rfl
@[simp] theorem State.begin_chD : (s.begin).chD = s.chD := rfl
@[simp] theorem State.begin_cl : (s.begin).cl = s.cl := rfl
@[simp] theorem State.begin_pt : (s.begin).pt = s.pt := rfl
@[simp] theorem State.begin_hp : (s.begin).hp = s.hp := rfl
@[simp] theorem State.begin_ck : (s.begin).ck = s.ck := rfl
@[simp] theorem State.begin_sflt : (s.begin).sflt = s.sflt := rfl
@[simp] theorem State.begin_pairAB : (s.begin).pairAB = s.pairAB := rfl
@[simp] theorem State.begin_pairCD : (s.begin).pairCD = s.pairCD := rfl
@[simp] theorem State.begin_bays : (s.begin).bays = s.bays := rfl
@[simp] theorem State.begin_tripPin : (s.begin).tripPin = s.tripPin := rfl
@[simp] theorem State.begin_trip1 : (s.begin).trip1 = s.trip1 := rfl
@[simp] theorem State.begin_trip2 : (s.begin).trip2 = s.trip2 := rfl
@[simp] theorem State.begin_tripTaken : (s.begin).tripTaken = s.tripTaken := rfl
@[simp] theorem State.begin_trip : (s.begin).trip = s.trip := rfl
@[simp] theorem State.begin_por : (s.begin).por = s.por := rfl
@[simp] theorem State.begin_xspiResetN : (s.begin).xspiResetN = s.xspiResetN := rfl
@[simp] theorem State.begin_xspiCsN : (s.begin).xspiCsN = s.xspiCsN := rfl
@[simp] theorem State.begin_xspiSck : (s.begin).xspiSck = s.xspiSck := rfl
@[simp] theorem State.begin_xspiDq : (s.begin).xspiDq = s.xspiDq := rfl
@[simp] theorem State.begin_xspiDqs : (s.begin).xspiDqs = s.xspiDqs := rfl
@[simp] theorem State.begin_links : (s.begin).links = s.links := rfl
@[simp] theorem State.begin_blockHalted : (s.begin).blockHalted = s.blockHalted := rfl
@[simp] theorem State.begin_time : (s.begin).time = s.time := rfl
@[simp] theorem State.begin_busyAt : (s.begin).busyAt = s.busyAt := rfl
@[simp] theorem State.begin_resp : (s.begin).resp = s.resp := rfl
@[simp] theorem State.begin_outstanding : (s.begin).outstanding = s.outstanding := rfl
@[simp] theorem State.begin_nodeWait : (s.begin).nodeWait = s.nodeWait := rfl
@[simp] theorem State.begin_bayQ : (s.begin).bayQ = s.bayQ := rfl
@[simp] theorem State.begin_resetWait : (s.begin).resetWait = s.resetWait := rfl
@[simp] theorem State.begin_resetTakes : (s.begin).resetTakes = s.resetTakes := rfl
@[simp] theorem State.begin_laneWakes : (s.begin).laneWakes = s.laneWakes := rfl
@[simp] theorem State.begin_irq1 : (s.begin).irq1 = s.irq1 := rfl
@[simp] theorem State.begin_irq2 : (s.begin).irq2 = s.irq2 := rfl
@[simp] theorem State.begin_irq : (s.begin).irq = s.irq := rfl
@[simp] theorem State.begin_flt1 : (s.begin).flt1 = s.flt1 := rfl
@[simp] theorem State.begin_flt2 : (s.begin).flt2 = s.flt2 := rfl
@[simp] theorem State.begin_flt : (s.begin).flt = s.flt := rfl
@[simp] theorem State.begin_pending : (s.begin).pending = s.pending := rfl

@[simp] theorem State.begin_emitted : s.begin.emitted = [] := rfl

@[simp] theorem State.issue_chA (p : Packet) : (s.issue p).chA = s.chA := by unfold State.issue; split <;> rfl
@[simp] theorem State.issue_chB (p : Packet) : (s.issue p).chB = s.chB := by unfold State.issue; split <;> rfl
@[simp] theorem State.issue_chC (p : Packet) : (s.issue p).chC = s.chC := by unfold State.issue; split <;> rfl
@[simp] theorem State.issue_chD (p : Packet) : (s.issue p).chD = s.chD := by unfold State.issue; split <;> rfl
@[simp] theorem State.issue_cl (p : Packet) : (s.issue p).cl = s.cl := by unfold State.issue; split <;> rfl
@[simp] theorem State.issue_pt (p : Packet) : (s.issue p).pt = s.pt := by unfold State.issue; split <;> rfl
@[simp] theorem State.issue_hp (p : Packet) : (s.issue p).hp = s.hp := by unfold State.issue; split <;> rfl
@[simp] theorem State.issue_ck (p : Packet) : (s.issue p).ck = s.ck := by unfold State.issue; split <;> rfl
@[simp] theorem State.issue_sflt (p : Packet) : (s.issue p).sflt = s.sflt := by unfold State.issue; split <;> rfl
@[simp] theorem State.issue_pairAB (p : Packet) : (s.issue p).pairAB = s.pairAB := by unfold State.issue; split <;> rfl
@[simp] theorem State.issue_pairCD (p : Packet) : (s.issue p).pairCD = s.pairCD := by unfold State.issue; split <;> rfl
@[simp] theorem State.issue_bays (p : Packet) : (s.issue p).bays = s.bays := by unfold State.issue; split <;> rfl
@[simp] theorem State.issue_tripPin (p : Packet) : (s.issue p).tripPin = s.tripPin := by unfold State.issue; split <;> rfl
@[simp] theorem State.issue_trip1 (p : Packet) : (s.issue p).trip1 = s.trip1 := by unfold State.issue; split <;> rfl
@[simp] theorem State.issue_trip2 (p : Packet) : (s.issue p).trip2 = s.trip2 := by unfold State.issue; split <;> rfl
@[simp] theorem State.issue_tripTaken (p : Packet) : (s.issue p).tripTaken = s.tripTaken := by unfold State.issue; split <;> rfl
@[simp] theorem State.issue_trip (p : Packet) : (s.issue p).trip = s.trip := by unfold State.issue; split <;> rfl
@[simp] theorem State.issue_por (p : Packet) : (s.issue p).por = s.por := by unfold State.issue; split <;> rfl
@[simp] theorem State.issue_xspiResetN (p : Packet) : (s.issue p).xspiResetN = s.xspiResetN := by unfold State.issue; split <;> rfl
@[simp] theorem State.issue_xspiCsN (p : Packet) : (s.issue p).xspiCsN = s.xspiCsN := by unfold State.issue; split <;> rfl
@[simp] theorem State.issue_xspiSck (p : Packet) : (s.issue p).xspiSck = s.xspiSck := by unfold State.issue; split <;> rfl
@[simp] theorem State.issue_xspiDq (p : Packet) : (s.issue p).xspiDq = s.xspiDq := by unfold State.issue; split <;> rfl
@[simp] theorem State.issue_xspiDqs (p : Packet) : (s.issue p).xspiDqs = s.xspiDqs := by unfold State.issue; split <;> rfl
@[simp] theorem State.issue_links (p : Packet) : (s.issue p).links = s.links := by unfold State.issue; split <;> rfl
@[simp] theorem State.issue_blockHalted (p : Packet) : (s.issue p).blockHalted = s.blockHalted := by unfold State.issue; split <;> rfl
@[simp] theorem State.issue_time (p : Packet) : (s.issue p).time = s.time := by unfold State.issue; split <;> rfl
@[simp] theorem State.issue_coreK (p : Packet) : (s.issue p).coreK = s.coreK := by unfold State.issue; split <;> rfl
@[simp] theorem State.issue_free (p : Packet) : (s.issue p).free = s.free := by unfold State.issue; split <;> rfl
@[simp] theorem State.issue_busyAt (p : Packet) : (s.issue p).busyAt = s.busyAt := by unfold State.issue; split <;> rfl
@[simp] theorem State.issue_resp (p : Packet) : (s.issue p).resp = s.resp := by unfold State.issue; split <;> rfl
@[simp] theorem State.issue_nodeWait (p : Packet) : (s.issue p).nodeWait = s.nodeWait := by unfold State.issue; split <;> rfl
@[simp] theorem State.issue_bayQ (p : Packet) : (s.issue p).bayQ = s.bayQ := by unfold State.issue; split <;> rfl
@[simp] theorem State.issue_resetWait (p : Packet) : (s.issue p).resetWait = s.resetWait := by unfold State.issue; split <;> rfl
@[simp] theorem State.issue_resetTakes (p : Packet) : (s.issue p).resetTakes = s.resetTakes := by unfold State.issue; split <;> rfl
@[simp] theorem State.issue_laneWakes (p : Packet) : (s.issue p).laneWakes = s.laneWakes := by unfold State.issue; split <;> rfl
@[simp] theorem State.issue_emitted (p : Packet) : (s.issue p).emitted = s.emitted := by unfold State.issue; split <;> rfl
@[simp] theorem State.issue_irq1 (p : Packet) : (s.issue p).irq1 = s.irq1 := by unfold State.issue; split <;> rfl
@[simp] theorem State.issue_irq2 (p : Packet) : (s.issue p).irq2 = s.irq2 := by unfold State.issue; split <;> rfl
@[simp] theorem State.issue_irq (p : Packet) : (s.issue p).irq = s.irq := by unfold State.issue; split <;> rfl
@[simp] theorem State.issue_flt1 (p : Packet) : (s.issue p).flt1 = s.flt1 := by unfold State.issue; split <;> rfl
@[simp] theorem State.issue_flt2 (p : Packet) : (s.issue p).flt2 = s.flt2 := by unfold State.issue; split <;> rfl
@[simp] theorem State.issue_flt (p : Packet) : (s.issue p).flt = s.flt := by unfold State.issue; split <;> rfl
@[simp] theorem State.issue_pending (p : Packet) : (s.issue p).pending = s.pending := by unfold State.issue; split <;> rfl

@[simp] theorem State.acknowledge_chA (p : Packet) : (s.acknowledge p).chA = s.chA := by unfold State.acknowledge; split <;> rfl
@[simp] theorem State.acknowledge_chB (p : Packet) : (s.acknowledge p).chB = s.chB := by unfold State.acknowledge; split <;> rfl
@[simp] theorem State.acknowledge_chC (p : Packet) : (s.acknowledge p).chC = s.chC := by unfold State.acknowledge; split <;> rfl
@[simp] theorem State.acknowledge_chD (p : Packet) : (s.acknowledge p).chD = s.chD := by unfold State.acknowledge; split <;> rfl
@[simp] theorem State.acknowledge_cl (p : Packet) : (s.acknowledge p).cl = s.cl := by unfold State.acknowledge; split <;> rfl
@[simp] theorem State.acknowledge_pt (p : Packet) : (s.acknowledge p).pt = s.pt := by unfold State.acknowledge; split <;> rfl
@[simp] theorem State.acknowledge_hp (p : Packet) : (s.acknowledge p).hp = s.hp := by unfold State.acknowledge; split <;> rfl
@[simp] theorem State.acknowledge_ck (p : Packet) : (s.acknowledge p).ck = s.ck := by unfold State.acknowledge; split <;> rfl
@[simp] theorem State.acknowledge_sflt (p : Packet) : (s.acknowledge p).sflt = s.sflt := by unfold State.acknowledge; split <;> rfl
@[simp] theorem State.acknowledge_pairAB (p : Packet) : (s.acknowledge p).pairAB = s.pairAB := by unfold State.acknowledge; split <;> rfl
@[simp] theorem State.acknowledge_pairCD (p : Packet) : (s.acknowledge p).pairCD = s.pairCD := by unfold State.acknowledge; split <;> rfl
@[simp] theorem State.acknowledge_bays (p : Packet) : (s.acknowledge p).bays = s.bays := by unfold State.acknowledge; split <;> rfl
@[simp] theorem State.acknowledge_tripPin (p : Packet) : (s.acknowledge p).tripPin = s.tripPin := by unfold State.acknowledge; split <;> rfl
@[simp] theorem State.acknowledge_trip1 (p : Packet) : (s.acknowledge p).trip1 = s.trip1 := by unfold State.acknowledge; split <;> rfl
@[simp] theorem State.acknowledge_trip2 (p : Packet) : (s.acknowledge p).trip2 = s.trip2 := by unfold State.acknowledge; split <;> rfl
@[simp] theorem State.acknowledge_tripTaken (p : Packet) : (s.acknowledge p).tripTaken = s.tripTaken := by unfold State.acknowledge; split <;> rfl
@[simp] theorem State.acknowledge_trip (p : Packet) : (s.acknowledge p).trip = s.trip := by unfold State.acknowledge; split <;> rfl
@[simp] theorem State.acknowledge_por (p : Packet) : (s.acknowledge p).por = s.por := by unfold State.acknowledge; split <;> rfl
@[simp] theorem State.acknowledge_xspiResetN (p : Packet) : (s.acknowledge p).xspiResetN = s.xspiResetN := by unfold State.acknowledge; split <;> rfl
@[simp] theorem State.acknowledge_xspiCsN (p : Packet) : (s.acknowledge p).xspiCsN = s.xspiCsN := by unfold State.acknowledge; split <;> rfl
@[simp] theorem State.acknowledge_xspiSck (p : Packet) : (s.acknowledge p).xspiSck = s.xspiSck := by unfold State.acknowledge; split <;> rfl
@[simp] theorem State.acknowledge_xspiDq (p : Packet) : (s.acknowledge p).xspiDq = s.xspiDq := by unfold State.acknowledge; split <;> rfl
@[simp] theorem State.acknowledge_xspiDqs (p : Packet) : (s.acknowledge p).xspiDqs = s.xspiDqs := by unfold State.acknowledge; split <;> rfl
@[simp] theorem State.acknowledge_links (p : Packet) : (s.acknowledge p).links = s.links := by unfold State.acknowledge; split <;> rfl
@[simp] theorem State.acknowledge_blockHalted (p : Packet) : (s.acknowledge p).blockHalted = s.blockHalted := by unfold State.acknowledge; split <;> rfl
@[simp] theorem State.acknowledge_time (p : Packet) : (s.acknowledge p).time = s.time := by unfold State.acknowledge; split <;> rfl
@[simp] theorem State.acknowledge_coreK (p : Packet) : (s.acknowledge p).coreK = s.coreK := by unfold State.acknowledge; split <;> rfl
@[simp] theorem State.acknowledge_free (p : Packet) : (s.acknowledge p).free = s.free := by unfold State.acknowledge; split <;> rfl
@[simp] theorem State.acknowledge_busyAt (p : Packet) : (s.acknowledge p).busyAt = s.busyAt := by unfold State.acknowledge; split <;> rfl
@[simp] theorem State.acknowledge_outstanding (p : Packet) : (s.acknowledge p).outstanding = s.outstanding := by unfold State.acknowledge; split <;> rfl
@[simp] theorem State.acknowledge_nodeWait (p : Packet) : (s.acknowledge p).nodeWait = s.nodeWait := by unfold State.acknowledge; split <;> rfl
@[simp] theorem State.acknowledge_bayQ (p : Packet) : (s.acknowledge p).bayQ = s.bayQ := by unfold State.acknowledge; split <;> rfl
@[simp] theorem State.acknowledge_resetWait (p : Packet) : (s.acknowledge p).resetWait = s.resetWait := by unfold State.acknowledge; split <;> rfl
@[simp] theorem State.acknowledge_resetTakes (p : Packet) : (s.acknowledge p).resetTakes = s.resetTakes := by unfold State.acknowledge; split <;> rfl
@[simp] theorem State.acknowledge_irq1 (p : Packet) : (s.acknowledge p).irq1 = s.irq1 := by unfold State.acknowledge; split <;> rfl
@[simp] theorem State.acknowledge_irq2 (p : Packet) : (s.acknowledge p).irq2 = s.irq2 := by unfold State.acknowledge; split <;> rfl
@[simp] theorem State.acknowledge_irq (p : Packet) : (s.acknowledge p).irq = s.irq := by unfold State.acknowledge; split <;> rfl
@[simp] theorem State.acknowledge_flt1 (p : Packet) : (s.acknowledge p).flt1 = s.flt1 := by unfold State.acknowledge; split <;> rfl
@[simp] theorem State.acknowledge_flt2 (p : Packet) : (s.acknowledge p).flt2 = s.flt2 := by unfold State.acknowledge; split <;> rfl
@[simp] theorem State.acknowledge_flt (p : Packet) : (s.acknowledge p).flt = s.flt := by unfold State.acknowledge; split <;> rfl
@[simp] theorem State.acknowledge_pending (p : Packet) : (s.acknowledge p).pending = s.pending := by unfold State.acknowledge; split <;> rfl

@[simp] theorem State.acknowledge_resp (p : Packet) : (s.acknowledge p).resp = s.resp := by
  unfold State.acknowledge; split <;> simp [responsesOf]
@[simp] theorem State.acknowledge_laneWakes (p : Packet) : (s.acknowledge p).laneWakes = s.laneWakes := by
  unfold State.acknowledge; split <;> simp [risingCores]

@[simp] theorem State.issue_request {p : Packet} (h : p.trailer = false) :
    s.issue p = { s with outstanding := s.outstanding.put 0 p.phys (s.outstanding.get 0 p.phys + 1) } := by
  simp [State.issue, h]

theorem State.issue_trailer {p : Packet} (h : p.trailer = true) : s.issue p = s := by simp [State.issue, h]

/-! ## Channels -/

@[simp] theorem State.ch_zero : s.ch 0 = s.chA := rfl
@[simp] theorem State.ch_one : s.ch 1 = s.chB := rfl
@[simp] theorem State.ch_two : s.ch 2 = s.chC := rfl
@[simp] theorem State.ch_three : s.ch 3 = s.chD := rfl

/-- The channel just replaced is the one read. -/
theorem State.ch_setCh_self (n : Nat) (c : Ch) : (s.setCh n c).ch n = c :=
  match n with
  | 0 => rfl
  | 1 => rfl
  | 2 => rfl
  | _ + 3 => rfl

/-- Replacing one channel leaves the others alone. -/
theorem State.ch_setCh_of_ne {n m : Nat} (c : Ch) (hn : n < 4) (hm : m < 4) (h : m ≠ n) : (s.setCh n c).ch m = s.ch m := by
  have h1 : n = 0 ∨ n = 1 ∨ n = 2 ∨ n = 3 := by omega
  have h2 : m = 0 ∨ m = 1 ∨ m = 2 ∨ m = 3 := by omega
  rcases h1 with rfl | rfl | rfl | rfl <;> rcases h2 with rfl | rfl | rfl | rfl <;>
    first | rfl | exact absurd rfl h

@[simp] theorem State.ch_leave (n : Nat) (l : List Output) : (s.leave l).ch n = s.ch n := by
  unfold State.ch; split <;> simp
@[simp] theorem State.ch_errPulse (n : Nat) (k : Option Nat) : (s.errPulse k).ch n = s.ch n := by
  unfold State.ch; split <;> simp
@[simp] theorem State.ch_setPair (n : Nat) (k : Nat) (p : Pair) : (s.setPair k p).ch n = s.ch n := by
  unfold State.ch; split <;> simp
@[simp] theorem State.ch_setShared (n : Nat) (u : SharedSub) (f : FaultSet) : (s.setShared u f).ch n = s.ch n := by
  unfold State.ch; split <;> simp
@[simp] theorem State.ch_onPt (n : Nat) (f : Pt → Pt) : (s.onPt f).ch n = s.ch n := by
  unfold State.ch; split <;> simp
@[simp] theorem State.ch_onCl (n : Nat) (f : Cl → Cl) : (s.onCl f).ch n = s.ch n := by
  unfold State.ch; split <;> simp
@[simp] theorem State.ch_renew (n : Nat)  : (s.renew).ch n = s.ch n := by
  unfold State.ch; split <;> simp
@[simp] theorem State.ch_begin (n : Nat)  : (s.begin).ch n = s.ch n := by
  unfold State.ch; split <;> simp
@[simp] theorem State.ch_issue (n : Nat) (p : Packet) : (s.issue p).ch n = s.ch n := by
  unfold State.ch; split <;> simp
@[simp] theorem State.ch_busyNow (n : Nat) (k : Nat) : (s.busyNow k).ch n = s.ch n := by
  unfold State.ch; split <;> simp
@[simp] theorem State.pair_busyNow (n : Nat) (k : Nat) : (s.busyNow k).pair n = s.pair n := by
  unfold State.pair; split <;> simp
@[simp] theorem State.ch_setPll (n : Nat)  : (s.setPll).ch n = s.ch n := by
  unfold State.ch; split <;> simp
@[simp] theorem State.pair_setPll (n : Nat)  : (s.setPll).pair n = s.pair n := by
  unfold State.pair; split <;> simp
@[simp] theorem State.ch_acknowledge (n : Nat) (p : Packet) : (s.acknowledge p).ch n = s.ch n := by
  unfold State.ch; split <;> simp
@[simp] theorem State.pair_acknowledge (n : Nat) (p : Packet) : (s.acknowledge p).pair n = s.pair n := by
  unfold State.pair; split <;> simp
@[simp] theorem State.pair_leave (n : Nat) (l : List Output) : (s.leave l).pair n = s.pair n := by
  unfold State.pair; split <;> simp
@[simp] theorem State.pair_errPulse (n : Nat) (k : Option Nat) : (s.errPulse k).pair n = s.pair n := by
  unfold State.pair; split <;> simp
@[simp] theorem State.pair_setCh (n : Nat) (k : Nat) (c : Ch) : (s.setCh k c).pair n = s.pair n := by
  unfold State.pair; split <;> simp
@[simp] theorem State.pair_setShared (n : Nat) (u : SharedSub) (f : FaultSet) : (s.setShared u f).pair n = s.pair n := by
  unfold State.pair; split <;> simp
@[simp] theorem State.pair_onPt (n : Nat) (f : Pt → Pt) : (s.onPt f).pair n = s.pair n := by
  unfold State.pair; split <;> simp
@[simp] theorem State.pair_onCl (n : Nat) (f : Cl → Cl) : (s.onCl f).pair n = s.pair n := by
  unfold State.pair; split <;> simp
@[simp] theorem State.pair_renew (n : Nat)  : (s.renew).pair n = s.pair n := by
  unfold State.pair; split <;> simp
@[simp] theorem State.pair_begin (n : Nat)  : (s.begin).pair n = s.pair n := by
  unfold State.pair; split <;> simp
@[simp] theorem State.pair_issue (n : Nat) (p : Packet) : (s.issue p).pair n = s.pair n := by
  unfold State.pair; split <;> simp

theorem State.pair_setPair_self (n : Nat) (p : Pair) : (s.setPair n p).pair n = p := by
  unfold State.pair State.setPair; split <;> rfl

end Sys2Proof.Machine
end

