-- ==== Sys2Proof/Laws/Stores.lean ====
section
/-! SUPPORT. Laws of the sparse stores: a read after a write, and the canonical form that every write keeps. -/

namespace Sys2Proof.Machine

variable {α : Type} [DecidableEq α] {d : α}

omit [DecidableEq α] in
@[simp] theorem SMap.get_nil (d : α) (k : Nat) : SMap.get d [] k = d := rfl

theorem SMap.wfFrom_mono {m : SMap α} {a b : Nat} (h : a ≤ b) (hm : SMap.wfFrom d b m = true) :
    SMap.wfFrom d a m = true := by
  cases m with
  | nil => rfl
  | cons p m =>
    obtain ⟨j, v⟩ := p
    simp only [SMap.wfFrom, Bool.and_eq_true, decide_eq_true_eq] at hm ⊢
    exact ⟨⟨h.trans hm.1.1, hm.1.2⟩, hm.2⟩

/-- A key below every listed one reads as the default. -/
theorem SMap.get_of_lt {m : SMap α} {n k : Nat} (hm : SMap.wfFrom d n m = true) (h : k < n) : m.get d k = d := by
  induction m generalizing n with
  | nil => rfl
  | cons p m ih =>
    obtain ⟨j, v⟩ := p
    simp only [SMap.wfFrom, Bool.and_eq_true, decide_eq_true_eq] at hm
    have hj : ¬ j = k := by omega
    simp only [SMap.get, hj, if_false]
    exact ih hm.2 (by omega)

omit [DecidableEq α] in
theorem SMap.get_insert (m : SMap α) (k i : Nat) (v : α) :
    (m.insert k v).get d i = if i = k then v else m.get d i := by
  induction m with
  | nil => simp [SMap.insert, SMap.get, eq_comm]
  | cons p m ih =>
    obtain ⟨j, w⟩ := p
    simp only [SMap.insert]
    split
    · simp [SMap.get, eq_comm]
    · split
      · rename_i h; subst h
        by_cases hi : i = k
        · simp [SMap.get, hi]
        · have hi' : ¬ k = i := fun h => hi h.symm
          simp [SMap.get, hi, hi']
      · rename_i h1 h2
        simp only [SMap.get, ih]
        by_cases hj : j = i
        · subst hj
          have : ¬ j = k := fun h => h2 h.symm
          simp [this]
        · simp [hj]

theorem SMap.get_drop {m : SMap α} {n : Nat} (hm : SMap.wfFrom d n m = true) (k i : Nat) :
    (m.drop k).get d i = if i = k then d else m.get d i := by
  induction m generalizing n with
  | nil => simp [SMap.drop]
  | cons p m ih =>
    obtain ⟨j, w⟩ := p
    simp only [SMap.wfFrom, Bool.and_eq_true, decide_eq_true_eq] at hm
    simp only [SMap.drop]
    split
    · rename_i h; subst h
      by_cases hi : i = j
      · subst hi; simp [SMap.get_of_lt hm.2 (Nat.lt_succ_self _)]
      · have : ¬ j = i := fun h => hi h.symm
        simp [SMap.get, hi, this]
    · rename_i h
      simp only [SMap.get, ih hm.2]
      by_cases hj : j = i
      · subst hj; simp [h]
      · simp [hj]

/-- A read after a write, in a store of canonical form. -/
theorem SMap.get_put {m : SMap α} (hm : SMap.wf d m = true) (k i : Nat) (v : α) :
    (m.put d k v).get d i = if i = k then v else m.get d i := by
  unfold SMap.put
  split
  · rename_i h; subst h; exact SMap.get_drop hm k i
  · exact SMap.get_insert m k i v

theorem SMap.wfFrom_insert {m : SMap α} {n k : Nat} {v : α} (hm : SMap.wfFrom d n m = true) (hk : n ≤ k) (hv : v ≠ d) :
    SMap.wfFrom d n (m.insert k v) = true := by
  induction m generalizing n with
  | nil => simp [SMap.insert, SMap.wfFrom, hk, hv]
  | cons p m ih =>
    obtain ⟨j, w⟩ := p
    simp only [SMap.wfFrom, Bool.and_eq_true, decide_eq_true_eq, Bool.not_eq_true', decide_eq_false_iff_not] at hm
    simp only [SMap.insert]
    split
    · rename_i h
      simp [SMap.wfFrom, hk, hv, hm]
      omega
    · split
      · simp [SMap.wfFrom, hk, hv]
        rename_i h; subst h; exact hm.2
      · rename_i h1 h2
        simp [SMap.wfFrom, hm]
        exact ih hm.2 (by omega)

theorem SMap.wfFrom_drop {m : SMap α} {n : Nat} (k : Nat) (hm : SMap.wfFrom d n m = true) :
    SMap.wfFrom d n (m.drop k) = true := by
  induction m generalizing n with
  | nil => rfl
  | cons p m ih =>
    obtain ⟨j, w⟩ := p
    simp only [SMap.wfFrom, Bool.and_eq_true, decide_eq_true_eq, Bool.not_eq_true', decide_eq_false_iff_not] at hm
    simp only [SMap.drop]
    split
    · exact SMap.wfFrom_mono (by omega) hm.2
    · simp [SMap.wfFrom, hm]
      exact ih hm.2

/-- Every write keeps the canonical form. -/
theorem SMap.wf_put {m : SMap α} (hm : SMap.wf d m = true) (k : Nat) (v : α) : SMap.wf d (m.put d k v) = true := by
  unfold SMap.put
  split
  · exact SMap.wfFrom_drop k hm
  · rename_i h; exact SMap.wfFrom_insert hm (Nat.zero_le _) h

omit [DecidableEq α] in
theorem SMap.get_insert_self (m : SMap α) (k : Nat) (v : α) : (m.insert k v).get d k = v := by
  simp [SMap.get_insert]

omit [DecidableEq α] in
theorem SMap.get_drop_of_ne {m : SMap α} {k i : Nat} (h : i ≠ k) : (m.drop k).get d i = m.get d i := by
  induction m with
  | nil => rfl
  | cons p m ih =>
    obtain ⟨j, w⟩ := p
    simp only [SMap.drop]
    split
    · rename_i hj; subst hj
      have : ¬ j = i := fun h' => h h'.symm
      simp [SMap.get, this]
    · simp only [SMap.get, ih]

/-- A write leaves every other key alone, in any store. -/
theorem SMap.get_put_of_ne {m : SMap α} {k i : Nat} (v : α) (h : i ≠ k) : (m.put d k v).get d i = m.get d i := by
  unfold SMap.put
  split
  · exact SMap.get_drop_of_ne h
  · simp [SMap.get_insert, h]

/-- A write of a value other than the default is read back, in any store. -/
theorem SMap.get_put_self {m : SMap α} {k : Nat} {v : α} (h : v ≠ d) : (m.put d k v).get d k = v := by
  simp [SMap.put, h, SMap.get_insert]

omit [DecidableEq α] in
theorem SMap.mem_drop {m : SMap α} {k : Nat} {p : Nat × α} (h : p ∈ m.drop k) : p ∈ m := by
  induction m with
  | nil => exact h
  | cons q m ih =>
    obtain ⟨j, w⟩ := q
    simp only [SMap.drop] at h
    split at h
    · exact List.mem_cons_of_mem _ h
    · rcases List.mem_cons.mp h with h | h
      · exact h ▸ List.mem_cons_self
      · exact List.mem_cons_of_mem _ (ih h)

omit [DecidableEq α] in
theorem SMap.mem_insert {m : SMap α} {k : Nat} {v : α} {p : Nat × α} (h : p ∈ m.insert k v) : p ∈ m ∨ p = (k, v) := by
  induction m with
  | nil => exact .inr (List.mem_singleton.mp h)
  | cons q m ih =>
    obtain ⟨j, w⟩ := q
    simp only [SMap.insert] at h
    split at h
    · rcases List.mem_cons.mp h with h | h
      · exact .inr h
      · exact .inl h
    · split at h
      · rcases List.mem_cons.mp h with h | h
        · exact .inr h
        · exact .inl (List.mem_cons_of_mem _ h)
      · rcases List.mem_cons.mp h with h | h
        · exact .inl (h ▸ List.mem_cons_self)
        · exact (ih h).imp (List.mem_cons_of_mem _) id

/-- A write lists nothing but what was listed and what it wrote. -/
theorem SMap.mem_put {m : SMap α} {k : Nat} {v : α} {p : Nat × α} (h : p ∈ m.put d k v) : p ∈ m ∨ p = (k, v) := by
  unfold SMap.put at h
  split at h
  · exact .inl (SMap.mem_drop h)
  · exact SMap.mem_insert h

omit [DecidableEq α] in
/-- What a key reads as is listed, or the default. -/
theorem SMap.get_mem (m : SMap α) (k : Nat) : m.get d k = d ∨ (k, m.get d k) ∈ m := by
  induction m with
  | nil => exact .inl rfl
  | cons q m ih =>
    obtain ⟨j, w⟩ := q
    simp only [SMap.get]
    split
    · rename_i h; subst h; exact .inr List.mem_cons_self
    · exact ih.imp id (List.mem_cons_of_mem _)

/-- A second value at one key replaces the first. -/
theorem SMap.insert_insert (m : SMap α) (k : Nat) (v w : α) : (m.insert k v).insert k w = m.insert k w := by
  induction m with
  | nil => simp [SMap.insert]
  | cons p m ih =>
    obtain ⟨j, x⟩ := p
    by_cases h1 : k < j
    · simp [h1, SMap.insert]
    · by_cases h2 : k = j
      · subst h2; simp [SMap.insert]
      · have h3 : ∀ (m' : SMap α) (y : α), SMap.insert ((j, x) :: m') k y = (j, x) :: SMap.insert m' k y := by
          intro m' y; simp [SMap.insert, h1, h2]
        rw [h3, h3, h3, ih]

theorem SMap.put_put {m : SMap α} {k : Nat} {v w : α} (h1 : v ≠ d) (h2 : w ≠ d) : (m.put d k v).put d k w = m.put d k w := by
  unfold SMap.put
  simp only [h1, h2, if_false]
  exact SMap.insert_insert m k v w

/-- Two stores in canonical form that read alike are equal. -/
theorem SMap.ext_wfFrom {a b : SMap α} {n : Nat} (ha : SMap.wfFrom d n a = true) (hb : SMap.wfFrom d n b = true)
    (h : ∀ k, a.get d k = b.get d k) : a = b := by
  induction a generalizing b n with
  | nil =>
    cases b with
    | nil => rfl
    | cons p b =>
      obtain ⟨j, v⟩ := p
      unfold SMap.wfFrom at hb
      simp only [Bool.and_eq_true, Bool.not_eq_true', decide_eq_false_iff_not, decide_eq_true_eq] at hb
      have := h j
      simp only [SMap.get, if_true] at this
      exact absurd this.symm hb.1.2
  | cons p a ih =>
    obtain ⟨i, x⟩ := p
    unfold SMap.wfFrom at ha
    simp only [Bool.and_eq_true, Bool.not_eq_true', decide_eq_false_iff_not, decide_eq_true_eq] at ha
    cases b with
    | nil =>
      have := h i
      simp only [SMap.get, if_true] at this
      exact absurd this ha.1.2
    | cons q b =>
      obtain ⟨j, y⟩ := q
      unfold SMap.wfFrom at hb
      simp only [Bool.and_eq_true, Bool.not_eq_true', decide_eq_false_iff_not, decide_eq_true_eq] at hb
      have hij : i = j := by
        rcases Nat.lt_trichotomy i j with hl | hl | hl
        · have := h i
          have h2 : ¬ j = i := by omega
          simp only [SMap.get, if_true, h2, if_false] at this
          rw [SMap.get_of_lt hb.2 (by omega)] at this
          exact absurd this ha.1.2
        · exact hl
        · have := h j
          have h2 : ¬ i = j := by omega
          simp only [SMap.get, if_true, h2, if_false] at this
          rw [SMap.get_of_lt ha.2 (by omega)] at this
          exact absurd this.symm hb.1.2
      subst hij
      have hxy : x = y := by have := h i; simpa only [SMap.get, if_true] using this
      subst hxy
      congr 1
      refine ih ha.2 hb.2 fun k => ?_
      by_cases hk : i = k
      · subst hk
        rw [SMap.get_of_lt ha.2 (by omega), SMap.get_of_lt hb.2 (by omega)]
      · have := h k
        simpa only [SMap.get, hk, if_false] using this

/-- In a canonical store a second value at one key replaces the first. -/
theorem SMap.put_put_wf {m : SMap α} (hm : SMap.wf d m = true) (k : Nat) (v w : α) :
    (m.put d k v).put d k w = m.put d k w := by
  refine SMap.ext_wfFrom (n := 0) (SMap.wf_put (SMap.wf_put hm k v) k w) (SMap.wf_put hm k w) fun i => ?_
  rw [SMap.get_put (SMap.wf_put hm k v), SMap.get_put hm, SMap.get_put hm]
  split <;> rfl

end Sys2Proof.Machine
end

