-- ==== Sys2Proof/Laws/Requests.lean ====
section
/-! SUPPORT. How a command reaches a calm channel: the block around it settles, so what the command does is what it does there. -/

namespace Sys2Proof.Machine

variable {s : State} {n phys lid op : Nat} {r : Req} {c d : Ch} {e : Env}

/-! ## Settled blocks -/

/-- Nothing waits at the edges of a settled block, so nothing is served. -/
theorem State.afterwards_settled (h : s.settled = true) : s.afterwards = s.setPll := by
  unfold State.afterwards; rw [if_pos h]

theorem State.settled_iff : s.settled = true ↔ s.nodeWait = [] ∧ s.bayQ = [] ∧ s.resetWait = [] ∧ s.hp.queues = [] ∧ s.hp.atPort = [] ∧
    ∀ m, (s.ch m).ctl.resetQ = [] ∧ (s.ch m).la.rxWait = [] ∧ (s.ch m).lingers = false := by
  unfold State.settled
  simp only [Bool.and_eq_true, List.isEmpty_iff, List.all_cons, List.all_nil, and_true, and_assoc, Bool.not_eq_true']
  constructor
  · rintro ⟨h1, h2, h3, h4, h5, h⟩
    refine ⟨h1, h2, h3, h4, h5, fun m => ?_⟩
    match m with
    | 0 => exact ⟨h.1, h.2.1, h.2.2.1⟩
    | 1 => exact ⟨h.2.2.2.1, h.2.2.2.2.1, h.2.2.2.2.2.1⟩
    | 2 => exact ⟨h.2.2.2.2.2.2.1, h.2.2.2.2.2.2.2.1, h.2.2.2.2.2.2.2.2.1⟩
    | k + 3 => exact h.2.2.2.2.2.2.2.2.2
  · rintro ⟨h1, h2, h3, h4, h5, h⟩
    obtain ⟨a1, a2, a3⟩ := h 0; obtain ⟨b1, b2, b3⟩ := h 1; obtain ⟨c1, c2, c3⟩ := h 2
    exact ⟨h1, h2, h3, h4, h5, a1, a2, a3, b1, b2, b3, c1, c2, c3, h 3⟩

/-- What decides whether something waits at a channel's edges. -/
def Ch.edge (c : Ch) : List Nat × List (Nat × MsgIn × Nat) × Bool := (c.ctl.resetQ, c.la.rxWait, c.lingers)

theorem Ch.edge_eq {c d : Ch} (h1 : d.ctl.resetQ = c.ctl.resetQ) (h2 : d.la.rxWait = c.la.rxWait) (h3 : d.ctl.st = c.ctl.st)
    (h4 : d.clk = c.clk) : d.edge = c.edge := by
  unfold Ch.edge Ch.lingers; rw [h1, h2, h3, h4]

/-- A block stays settled while its edges and those of its channels stay as they are. -/
theorem State.settled_of {a b : State} (h : a.settled = true) (h1 : b.nodeWait = a.nodeWait) (h2 : b.bayQ = a.bayQ)
    (h3 : b.resetWait = a.resetWait) (h4 : b.hp.queues = a.hp.queues) (h5 : b.hp.atPort = a.hp.atPort)
    (h6 : ∀ m, (b.ch m).edge = (a.ch m).edge) : b.settled = true := by
  rw [State.settled_iff] at *
  obtain ⟨k1, k2, k3, k4, k5, k6⟩ := h
  refine ⟨h1.trans k1, h2.trans k2, h3.trans k3, h4.trans k4, h5.trans k5, fun m => ?_⟩
  have h0 := h6 m
  simp only [Ch.edge, Prod.mk.injEq] at h0
  exact ⟨h0.1.trans (k6 m).1, h0.2.1.trans (k6 m).2.1, h0.2.2.trans (k6 m).2.2⟩

theorem State.ch_setCh (s : State) (n m : Nat) (c : Ch) (hn : n < 4) :
    (s.setCh n c).ch m = if m = n ∨ (n = 3 ∧ 3 ≤ m) then c else s.ch m := by
  have h1 : n = 0 ∨ n = 1 ∨ n = 2 ∨ n = 3 := by omega
  match m with
  | 0 => rcases h1 with rfl | rfl | rfl | rfl <;> rfl
  | 1 => rcases h1 with rfl | rfl | rfl | rfl <;> rfl
  | 2 => rcases h1 with rfl | rfl | rfl | rfl <;> rfl
  | k + 3 =>
    rcases h1 with rfl | rfl | rfl | rfl
    · rfl
    · rfl
    · rfl
    · simp [State.ch, State.setCh]

/-- A settled block stays settled when a channel with nothing waiting replaces another. -/
theorem State.settled_setCh (h : s.settled = true) (hn : n < 4) (h1 : c.ctl.resetQ = []) (h2 : c.la.rxWait = [])
    (h3 : c.lingers = false) : (s.setCh n c).settled = true := by
  have h0 := State.settled_iff.mp h
  refine State.settled_of h (by simp) (by simp) (by simp) (by simp) (by simp) (fun m => ?_)
  rw [State.ch_setCh s n m c hn]
  split <;> simp_all [Ch.edge]

theorem State.settled_leave (l : List Output) : (s.leave l).settled = s.settled := rfl
theorem State.settled_busyNow (k : Nat) : (s.busyNow k).settled = s.settled := rfl
theorem State.settled_issue (p : Packet) : (s.issue p).settled = s.settled := by
  unfold State.issue; split <;> rfl
theorem State.settled_acknowledge (p : Packet) : (s.acknowledge p).settled = s.settled := by
  unfold State.acknowledge; split <;> rfl
theorem State.settled_begin : s.begin.settled = s.settled := rfl

/-! ## Calm channels -/

theorem Ch.drain_nil (h : c.todo = []) (k : Nat) : c.drain e k = c := by
  cases k with
  | zero => rfl
  | succ k => unfold Ch.drain; rw [h]

/-- Nothing is left to do, and no halt is asked for. -/
theorem Ch.settle_quiet (h1 : c.todo = []) (h2 : c.haltReq = false) : c.settle e = c := by
  unfold Ch.settle Ch.haltIfAsked
  rw [Ch.drain_nil h1, h2]; rfl

theorem Ch.Calm.awake' (h : c.Calm) : c.asleep = false := by
  unfold Ch.asleep; rw [h.awake]; simp

theorem Ch.Calm.live (h : c.Calm) : c.live = true := by
  unfold Ch.live; rw [h.run]; rfl

/-- A read without a pending force or an error in its way finds the word good. -/
theorem Ch.readEccAs_clean {u : Sub} {ue array bank word k : Nat} {z : Cause} (h : (c.fault u).pendForce = none)
    (hu : c.upsets = []) (he : e.inject = 0) : c.readEccAs e u ue array bank word k z = (c, false) := by
  have hf : Ch.upsetIn u array bank word k c = none := by unfold Ch.upsetIn; rw [hu]; rfl
  unfold Ch.readEccAs Ch.readArray
  simp [h, he, hf]

theorem Ch.readEcc_clean {u : Sub} {array bank word k : Nat} {z : Cause} (h : (c.fault u).pendForce = none)
    (hu : c.upsets = []) (he : e.inject = 0) : c.readEcc e u array bank word k z = (c, false) := Ch.readEccAs_clean h hu he

theorem Ch.Calm.readEcc (h : c.Calm) (he : e.inject = 0) (u : Sub) (array bank word k : Nat) (z : Cause) :
    c.readEcc e u array bank word k z = (c, false) := Ch.readEcc_clean (h.unforced u) h.sound he

theorem Ch.counted_eq (p : Packet) (lid : Nat) (c : Ch) : ∃ rq, c.counted p lid = { c with rq := rq } := ⟨_, rfl⟩

@[simp] theorem Ch.counted_ctl (p : Packet) (c : Ch) : (c.counted p lid).ctl = c.ctl := rfl
@[simp] theorem Ch.counted_clk (p : Packet) (c : Ch) : (c.counted p lid).clk = c.clk := rfl
@[simp] theorem Ch.counted_la (p : Packet) (c : Ch) : (c.counted p lid).la = c.la := rfl
@[simp] theorem Ch.counted_os (p : Packet) (c : Ch) : (c.counted p lid).os = c.os := rfl
@[simp] theorem Ch.counted_hw (p : Packet) (c : Ch) : (c.counted p lid).hw = c.hw := rfl
@[simp] theorem Ch.counted_img (p : Packet) (c : Ch) : (c.counted p lid).img = c.img := rfl
@[simp] theorem Ch.counted_out (p : Packet) (c : Ch) : (c.counted p lid).out = c.out := rfl
@[simp] theorem Ch.counted_upsets (p : Packet) (c : Ch) : (c.counted p lid).upsets = c.upsets := rfl
@[simp] theorem Ch.counted_fault (p : Packet) (c : Ch) (u : Sub) : (c.counted p lid).fault u = c.fault u := rfl

theorem Ch.counted_rq (p : Packet) (c : Ch) : (c.counted p lid).rq.bankQ = c.rq.bankQ ∧ (c.counted p lid).rq.ingress = c.rq.ingress ∧
    (c.counted p lid).rq.full = c.rq.full ∧ (c.counted p lid).rq.forceErr = c.rq.forceErr := by
  unfold Ch.counted; dsimp only; split <;> exact ⟨rfl, rfl, rfl, rfl⟩

theorem Ch.Calm.counted (h : c.Calm) (p : Packet) : (c.counted p lid).Calm := by
  obtain ⟨h1, h2, h3, h4⟩ := Ch.counted_rq (lid := lid) p c
  exact ⟨h.run, h.awake, h.quiet, h1.trans h.banks, h2.trans h.ingress, h3.trans h.full, h.sound, h4.trans h.noErr,
    fun u => h.unforced u⟩

/-! ## Checks 4 to 10 of R53 -/

theorem Ch.meetLower_calm (h : c.Calm) {p : Packet} (hp : p.pkt = .none) : c.meetLower e p = (c, none) := by
  have h0 : ({ c with rq := { c.rq with forceErr := 0 } } : Ch) = c := by
    have h1 : ({ c.rq with forceErr := 0 } : Rq) = c.rq := by rw [← h.noErr]
    rw [h1]
  unfold Ch.meetLower
  simp [hp, h.noErr, h0]

theorem Ch.checkPacket_calm (h : c.Calm) {p : Packet} (hl : c.lidOf p.phys = some lid)
    (hf : p.phys ∉ c.ctl.fenced) (hs : p.opcode ≠ opSeqSelect) :
    c.checkPacket e p none = (c, match c.checkOp p lid with | some f => .refused f | none => .passed lid) := by
  unfold Ch.checkPacket
  simp only [hl, List.contains_eq_mem, decide_eq_true_eq, hf, if_false, hs]
  rw [Ch.readEcc_clean (h.unforced .rq) h.sound rfl]
  dsimp only
  cases c.checkOp p lid <;> rfl

/-- The channel as the head of a bank queue is performed: the queue and its pointer have moved past it. -/
def Ch.passed (b ingress : Nat) (c : Ch) : Ch :=
  { c with rq := { c.rq with head := c.rq.head.put 0 b ((c.rq.head.get 0 b + 1) % 64),
                             pointer := c.rq.pointer.put 0 b ((ingress + 1) % 73) } }

/-- Work that arrives at an empty bank is performed at once, but for an arrival that the RU stalls. -/
theorem Ch.toBank_calm (h : c.Calm) (w : Work) (hb : c.workBank w ≠ 8) (ha : c.accept w = c) (hs : c.stalls w = false) :
    c.toBank e w = (c.passed (c.workBank w) w.ingress).performWork e w := by
  have hq : c.queuedAt (c.workBank w) = 0 := by unfold Ch.queuedAt; rw [h.banks]; rfl
  have hf : w.follows [] = false := by unfold Work.follows; simp
  have hh : c.performHead e (c.workBank w) w = (c.passed (c.workBank w) w.ingress).performWork e w := by
    unfold Ch.performHead
    have hr : c.queueRead e (c.workBank w) = (c, false) := Ch.readEcc_clean (h.unforced .rq) h.sound rfl
    rw [hr]; rfl
  unfold Ch.toBank Ch.enterBank
  simp [hb, ha, hs, hq, hf, h.banks, h.full, hh]

/-- A request that passes its checks is performed at once by a calm channel. -/
theorem Ch.hubPacket_calm (h : c.Calm) {p : Packet} (ht : p.trailer = false) (hp : p.pkt = .none)
    (hl : c.lidOf p.phys = some lid) (hf : p.phys ∉ c.ctl.fenced) (hs : p.opcode ≠ opSeqSelect) (hw : p.opcode ≠ opWaitAny)
    (hc : c.checkOp p lid = none) (hb : c.workBank (.req p lid) ≠ 8) (hst : c.stalls (.req p lid) = false) :
    c.hubPacket e p = (c.passed (c.workBank (.req p lid)) p.ingress).performReq e (p.op lid) := by
  unfold Ch.hubPacket
  rw [Ch.meetLower_calm h hp]
  unfold Ch.deadTrain
  simp only [ht, hw, Bool.false_or, ne_eq, not_false_eq_true, decide_true, if_true]
  rw [Ch.checkPacket_calm h hl hf hs, hc]
  dsimp only
  rw [Ch.toBank_calm h _ hb (by simp [Ch.accept, ht]) hst]
  simp [Ch.performWork, ht, Work.ingress]

/-- A request that fails a check is refused. -/
theorem Ch.hubPacket_refused (h : c.Calm) {p : Packet} (ht : p.trailer = false) (hp : p.pkt = .none)
    (hl : c.lidOf p.phys = some lid) (hf : p.phys ∉ c.ctl.fenced) (hs : p.opcode ≠ opSeqSelect) (hw : p.opcode ≠ opWaitAny)
    {f : Refused} (hc : c.checkOp p lid = some f) : c.hubPacket e p = c.refusePacket e p f := by
  unfold Ch.hubPacket
  rw [Ch.meetLower_calm h hp]
  unfold Ch.deadTrain
  simp only [ht, hw, Bool.false_or, ne_eq, not_false_eq_true, decide_true, if_true]
  rw [Ch.checkPacket_calm h hl hf hs, hc]

/-! ## From the command to the channel -/

theorem State.Ready.lead (h : s.Ready n) : s.lead n = n := by unfold State.lead; simp [h.single]
theorem State.Ready.isSecond (h : s.Ready n) : s.isSecond n = false := by unfold State.isSecond; simp [h.single]

theorem State.ownerOf_begin (phys : Nat) : s.begin.ownerOf phys = s.ownerOf phys := rfl
theorem State.quarantined_begin (q : Nat) : s.begin.quarantined q = s.quarantined q := rfl

/-- What a command of channel `n` leaves when it acts on a channel that stands alone. -/
theorem State.atChan_single (h1 : (s.pair n).st = .single) (f : Env → Ch → Ch) :
    s.atChan n .none f = (s.finish n ((f (s.env n false .none) (s.ch n)).settle (s.env n false .none))
      ((f (s.env n false .none) (s.ch n)).settle (s.env n false .none)).out).busyNow n := by
  unfold State.atChan State.onChan State.isSecond State.runAlone
  simp [h1, Ch.plant]

/-- The same of an effect that is no work of the channel. -/
theorem State.onOwn_single (h1 : (s.pair n).st = .single) (f : Env → Ch → Ch) :
    s.onOwn n f = s.finish n ((f (s.env n false .none) (s.ch n)).settle (s.env n false .none))
      ((f (s.env n false .none) (s.ch n)).settle (s.env n false .none)).out := by
  unfold State.onOwn State.onChan State.isSecond State.runAlone
  simp [h1]

theorem State.finish_quiet (s : State) (n : Nat) {c : Ch} {l : List Output} (h1 : c.todo = []) (h3 : c.raised = [])
    (h4 : c.haltReq = false) (h5 : c.errPulse = false) :
    s.finish n c l = (s.setCh n { c with out := [] }).leave l := by
  unfold State.finish
  simp only [h5, Bool.false_eq_true, if_false]
  congr 2
  cases c; simp_all

theorem State.packetOwner_req (op : Nat) (r : Req) : s.packetOwner (reqPacket op r) = s.ownerOf r.endpoint.toNat := by
  unfold State.packetOwner State.ownerOf State.nibble Packet.nibble reqPacket
  by_cases h : s.pt.gate = .opened <;> simp [h]

/-- A calm channel holds no credit of any bay. -/
theorem State.hubRoom_calm (hc : (s.ch n).Calm) (hl : s.lead n = n) (hb : s.bayQ = []) (p : Packet) : s.hubRoom n p = true := by
  unfold State.hubRoom State.hubUsed
  simp [hl, hc.ingress, hc.full, hb]

/-- A request that its node takes and a calm channel receives. -/
theorem act_request (h : s.Serves n r.endpoint.toNat lid) (hr : Clean r) :
    act s (fun s => s.request op r) =
      .next (((s.asked op r).finish n (((s.ch n).hubPacket (s.envOf n op r) (reqPacket op r)).settle (s.envOf n op r))
        (((s.ch n).hubPacket (s.envOf n op r) (reqPacket op r)).settle (s.envOf n op r)).out).busyNow n).afterwards := by
  obtain ⟨hp, hm⟩ := hr
  have hset := State.settled_iff.mp h.settled
  have ho : s.begin.packetOwner (reqPacket op r) = some n := by rw [State.packetOwner_req]; exact h.owner
  have hr : s.begin.hubRoom n (reqPacket op r) = true :=
    State.hubRoom_calm (by simpa using h.calm) h.toReady.lead (by simpa using hset.2.1) _
  have hrun : (s.begin.ch n).ctl.st = .run := by simpa using h.calm.run
  have hl : s.begin.lead n = n := h.toReady.lead
  have hw : s.begin.mustWait (reqPacket op r) = false := by
    have h2 : ¬ 16 ≤ s.begin.outstanding.get 0 (reqPacket op r).phys := by
      have := h.room; simp only [reqPacket, State.begin_outstanding]; omega
    have h3 : s.begin.held n = false := h.free
    unfold State.mustWait
    rw [ho, decide_eq_false h2]; simp [h3, hr, hset.1]
  have hq : s.begin.quarantined (srnCrossing (reqPacket op r).port) = false := h.openPort
  have hb : s.begin.brings (reqPacket op r).mem = s.begin := by
    unfold State.brings reqPacket; simp [hm]
  have ht : s.begin.take (reqPacket op r) =
      (s.asked op r).atChan n .none
        (fun e c => (c.noteCorrected e (reqPacket op r)).packetIn e (reqPacket op r)) := by
    have h4 : (reqPacket op r).unreadable = false := by simp [Packet.unreadable, reqPacket, hp]
    unfold State.take State.forward
    simp only [ho, hl, hr, hrun, h4, Bool.not_true, Bool.and_false, Bool.false_eq_true, if_false, State.asked]
    have h5 : (reqPacket op r).mem = .none := by simp [reqPacket, hm]
    have h6 : ((s.begin.issue (reqPacket op r)).acknowledge (reqPacket op r)).lead n = n := by
      unfold State.lead; simp [h.single]
    have h7 : ((((s.begin.issue (reqPacket op r)).acknowledge (reqPacket op r)).ch n).ctl.st) = .run := by simpa using hrun
    simp only [h5, h6, h7, ne_eq, not_true_eq_false, if_false]
  unfold act State.request State.packet State.present
  simp only [h.por, Bool.false_eq_true, if_false, hq, hb, hw, ht]
  rw [State.atChan_single (by simpa [State.asked] using h.single)]
  have hp : (reqPacket op r).pkt = .none := hp
  have hch : (s.asked op r).ch n = s.ch n := by simp [State.asked]
  rw [hch]
  simp only [Ch.noteCorrected, hp, Ch.packetIn, h.calm.awake', Bool.false_eq_true, if_false, reduceCtorEq]
  rfl

end Sys2Proof.Machine
end

