-- ==== Sys2Proof/Laws/Waits.lean ====
section
/-! SUPPORT. Wait slots, watches and responses: what they come to when nobody waits, and when plain waits end. -/

namespace Sys2Proof.Machine

variable {s : State} {n lid op : Nat} {r : Req} {c d : Ch} {e : Env}

/-! ## Objects that nobody waits for -/

theorem Ch.Alone.counted {cls i : Nat} (h : c.Alone cls i) (p : Packet) : (c.counted p lid).Alone cls i := h

theorem Ch.runWatches_alone {cls i : Nat} (h : ∀ p ∈ c.hw.watches, p.2.enable = true → p.2.cls = cls → p.2.index ≠ i)
    (f : Watch → Bool) : c.runWatches cls i f = c := by
  have h1 : ∀ p ∈ c.hw.watches, (p.2.enable && p.2.cls = cls && p.2.index = i && f p.2) = false := by
    intro p hp
    by_cases h2 : p.2.enable = true
    · by_cases h3 : p.2.cls = cls
      · simp [h p hp h2 h3]
      · simp [h3]
    · simp [h2]
  unfold Ch.runWatches
  have h4 : c.hw.watches.filter (fun p => p.2.enable && p.2.cls = cls && p.2.index = i && f p.2) = [] := by
    rw [List.filter_eq_nil_iff]; intro p hp; rw [h1 p hp]; decide
  have h5 : c.hw.watches.map (fun p => if p.2.enable && p.2.cls = cls && p.2.index = i && f p.2 then
      (p.1, { p.2 with enable := false }) else p) = c.hw.watches := by
    conv_rhs => rw [← List.map_id c.hw.watches]
    refine List.map_congr_left fun p hp => ?_
    rw [if_neg (by rw [h1 p hp]; decide)]; rfl
  dsimp only
  rw [h4, h5]; rfl

/-! ## Responses -/

/-- A response goes ahead of what the op let leave; a quiet channel had let nothing leave. -/
theorem Ch.answer_quiet (status result : Nat) (rf : RFlags) (final : Bool) (c : Ch) (he : e.chan = n) :
    c.answer e ((reqPacket op r).op lid) 0 status result rf final =
      { c with out := replyWith n op r status result rf final :: c.out } := by
  subst he; unfold Ch.answer putAt; simp; rfl

/-- A channel with nothing left to do, at whose edges waits what waits at another's. -/
structure Ch.Same (d c : Ch) : Prop where
  quiet : d.Quiet
  edge  : d.edge = c.edge

theorem Ch.Calm.same (h : c.Calm) (p : Packet) : (c.counted p lid).Same c := ⟨h.quiet, rfl⟩

theorem Ch.Calm.same_parked (h : c.Calm) (p : Packet) (w : Parked) : ((c.counted p lid).parkedWith w).Same c := ⟨h.quiet, rfl⟩

/-- A settled block stays settled as a channel changes but for its edge. -/
theorem State.settled_same {a : State} {n : Nat} {d c : Ch} (h : a.settled = true) (hn : n < 4) (hc : (a.ch n).edge = c.edge)
    (hd : d.edge = c.edge) : (a.setCh n d).settled = true := by
  have h0 := (State.settled_iff.mp h).2.2.2.2.2 n
  have h1 : d.edge = (a.ch n).edge := hd.trans hc.symm
  simp only [Ch.edge, Prod.mk.injEq] at h1
  exact State.settled_setCh h hn (h1.1.trans h0.1) (h1.2.1.trans h0.2.1) (h1.2.2.trans h0.2.2)

/-- A request after which the channel settles to `b` with its outputs: nothing else of the block changes. -/
theorem act_settled (h : s.Serves n r.endpoint.toNat lid) (hr : Clean r) {b : Ch} {l : List Output}
    (hp : ((s.ch n).hubPacket (s.envOf n op r) (reqPacket op r)).settle (s.envOf n op r) = { b with out := l })
    (hb : b.Same (s.ch n)) : act s (fun s => s.request op r) = .next (s.served n op r b l) := by
  have hb' : ({ ({ b with out := l } : Ch) with out := [] } : Ch) = b := by rw [← hb.quiet.2.1]
  have hf : (s.asked op r).finish n { b with out := l } l = ((s.asked op r).setCh n b).leave l := by
    rw [State.finish_quiet (s.asked op r) n (c := { b with out := l }) hb.quiet.1 hb.quiet.2.2.1 hb.quiet.2.2.2.1
      hb.quiet.2.2.2.2, hb']
  have ha : (s.asked op r).settled = true := by
    rw [State.asked, State.settled_acknowledge, State.settled_issue, State.settled_begin]; exact h.settled
  have hs : ((s.asked op r).setCh n b).settled = true :=
    State.settled_same (c := s.ch n) ha h.chan (by simp [State.asked]) hb.edge
  rw [act_request h hr, hp, hf, State.afterwards_settled (by rw [State.settled_busyNow, State.settled_leave]; exact hs)]
  rfl

/-- A request served at once: the channel's new state with its outputs, and nothing else of the block. -/
theorem act_served (h : s.Serves n r.endpoint.toNat lid) (hr : Clean r) {l : List Output}
    (hd : (s.ch n).hubPacket (s.envOf n op r) (reqPacket op r) = { d with out := l }) (hs : d.Same (s.ch n)) :
    act s (fun s => s.request op r) = .next (s.served n op r d l) :=
  act_settled h hr (by rw [hd]; exact Ch.settle_quiet hs.quiet.1 hs.quiet.2.2.2.1) hs

theorem State.envOf_inject : (s.envOf n op r).inject = 0 := rfl
@[simp] theorem State.envOf_chan : (s.envOf n op r).chan = n := rfl

/-- A three-bit field is below 8. -/
theorem fld_three (v lo : Nat) : fld v (lo + 2) lo < 8 := by
  unfold fld
  have : lo + 2 + 1 - lo = 3 := by omega
  rw [this]; exact Nat.mod_lt _ (by decide)

theorem lockBank_lt (a : Nat) : lockBank a < 8 := Nat.xor_lt_two_pow (n := 3) (fld_three a 3) (fld_three a 6)

theorem bankOf_lt (op cls index operand : Nat) : bankOf op cls index operand < 8 := by
  unfold bankOf
  split
  · split
    · exact fld_three _ 32
    · exact lockBank_lt _
  · exact Nat.mod_lt _ (by omega)

/-- A request goes to one of the eight banks. -/
theorem Ch.workBank_req (c : Ch) (p : Packet) (lid : Nat) : c.workBank (.req p lid) ≠ 8 := by
  have h : c.workBank (.req p lid) < 8 := by
    unfold Ch.workBank
    dsimp only
    split
    · split <;> exact Nat.mod_lt _ (by omega)
    · exact bankOf_lt ..
  omega

/-- A counted request: its bank's queue has moved past it. -/
theorem Ch.counted_passed (c : Ch) (p : Packet) (lid : Nat) :
    ({ c.passed (c.workBank (.req p lid)) p.ingress with
        rq := { (c.passed (c.workBank (.req p lid)) p.ingress).rq with
                  ops := inc (c.passed (c.workBank (.req p lid)) p.ingress).rq.ops } } : Ch) = c.counted p lid := by
  unfold Ch.counted Ch.passed
  simp [Ch.workBank_req, Work.ingress]

/-- Performance after the bank's queue has moved past the request. -/
theorem Ch.performReq_passed (hw : op ≠ opWaitAny) (hsc : op ≠ opSlotCancel) :
    (c.passed (c.workBank (.req (reqPacket op r) lid)) (reqPacket op r).ingress).performReq e ((reqPacket op r).op lid) =
      if parks op r.index.toNat then (c.counted (reqPacket op r) lid).waitOp e ((reqPacket op r).op lid)
      else
        let a := (c.counted (reqPacket op r) lid).plainOp e ((reqPacket op r).op lid)
        match a.2 with
        | .done status result rf => a.1.answer e ((reqPacket op r).op lid) c.out.length status result rf true
        | .later => a.1 := by
  have e1 : ((reqPacket op r).op lid).opcode = op := rfl
  have e2 : ((reqPacket op r).op lid).index = r.index.toNat := rfl
  unfold Ch.performReq
  rw [Ch.counted_passed, e1, e2, if_neg hw, if_neg hsc]
  rfl

/-! ## Requests that pass every check -/

/-- A request that its node takes, that meets no error, passes every check and is not stalled. -/
structure Taken (s : State) (n lid op : Nat) (r : Req) : Prop where
  serves : s.Serves n r.endpoint.toNat lid
  clean  : Clean r
  ne     : op ≠ opSeqSelect ∧ op ≠ opWaitAny ∧ op ≠ opSlotCancel
  check  : (s.ch n).checkOp (reqPacket op r) lid = none
  moves  : (s.ch n).stalls (.req (reqPacket op r) lid) = false

/-- What a calm channel makes of it. -/
theorem Taken.hub (h : Taken s n lid op r) :
    (s.ch n).hubPacket e (reqPacket op r) =
      if parks op r.index.toNat then ((s.ch n).counted (reqPacket op r) lid).waitOp e ((reqPacket op r).op lid)
      else
        let a := ((s.ch n).counted (reqPacket op r) lid).plainOp e ((reqPacket op r).op lid)
        match a.2 with
        | .done status result rf => a.1.answer e ((reqPacket op r).op lid) (s.ch n).out.length status result rf true
        | .later => a.1 := by
  rw [Ch.hubPacket_calm h.serves.calm rfl h.clean.1 h.serves.maps h.serves.unfenced h.ne.1 h.ne.2.1 h.check
    (Ch.workBank_req _ _ _) h.moves]
  exact Ch.performReq_passed h.ne.2.1 h.ne.2.2

/-- A plain op that leaves the channel's transients alone. -/
theorem Taken.plain (h : Taken s n lid op r) (hk : parks op r.index.toNat = false) {status result : Nat} {rf : RFlags}
    (hp : ((s.ch n).counted (reqPacket op r) lid).plainOp (s.envOf n op r) ((reqPacket op r).op lid) = (d, .done status result rf))
    (hd : d.Same (s.ch n)) :
    act s (fun s => s.request op r) = .next (s.served n op r d [replyWith n op r status result rf true]) := by
  refine act_served h.serves h.clean ?_ hd
  have h0 : (s.ch n).out.length = 0 := by rw [h.serves.calm.quiet.2.1]; rfl
  rw [h.hub, hk]
  simp only [Bool.false_eq_true, if_false, hp, h0]
  rw [Ch.answer_quiet (n := n) _ _ _ _ _ rfl, hd.quiet.2.1]

/-! ## Wait ops -/

theorem bit_two_pow {k j : Nat} : bit (2 ^ k) j = decide (k = j) := by
  unfold bit
  rw [Nat.testBit_two_pow]

/-- The lowest-numbered free slot. -/
theorem Ch.freeSlot_eq {k : Nat} (h : k < 4) (hk : c.slotArmed lid k = false) (hl : ∀ j < k, c.slotArmed lid j = true) :
    c.freeSlot lid = some k := by
  unfold Ch.freeSlot
  have h1 : k = 0 ∨ k = 1 ∨ k = 2 ∨ k = 3 := by omega
  rcases h1 with rfl | rfl | rfl | rfl <;> simp [List.find?, hk, hl]

theorem Ch.freeSlot_none (h : ∀ j < 4, c.slotArmed lid j = true) : c.freeSlot lid = none := by
  unfold Ch.freeSlot
  simp [List.find?, h]

/-- Arming a slot for a plain wait only adds its record. -/
theorem Ch.arm_plain {o : Op} {k opcode cls index operand train found : Nat} {last : Bool} {gen : BitVec 32} :
    c.arm e o k opcode cls index operand train last false gen found =
      c.parkedWith { lid := o.lid, slot := k, phys := o.phys, armTime := e.stamp % 2 ^ 32, operand := operand, tag := o.tag,
                     index := index, cls := cls, opcode := opcode, train := train, lastSeen := last, isTrain := false,
                     gen := gen, found := found } := by
  unfold Ch.arm Ch.parkedWith
  simp

/-- Arming a slot for the first packet of a train only adds its record. -/
theorem Ch.arm_first {o : Op} {k opcode cls index operand train found : Nat} {last : Bool} {gen : BitVec 32}
    (h : ∀ v ∈ c.hw.parked, v.inOpen o.lid o.tag = false) :
    c.arm e o k opcode cls index operand train last true gen found =
      c.parkedWith { lid := o.lid, slot := k, phys := o.phys, armTime := e.stamp % 2 ^ 32, operand := operand, tag := o.tag,
                     index := index, cls := cls, opcode := opcode, train := train, lastSeen := last, isTrain := true,
                     gen := gen, found := found } := by
  unfold Ch.arm Ch.parkedWith
  dsimp only
  congr 2
  conv_rhs => rw [← List.map_id c.hw.parked]
  refine List.map_congr_left fun v hv => ?_
  rw [h v hv]; rfl

/-- A wait op decided at once. -/
theorem Ch.waitOp_decided (hq : c.out = []) (hn : e.chan = n) {status result : Nat} {rf : RFlags}
    (hv : c.verdict e ((reqPacket op r).op lid) op = .decided d status result rf) :
    c.waitOp e ((reqPacket op r).op lid) = { d with out := replyWith n op r status result rf true :: d.out } := by
  unfold Ch.waitOp
  have e1 : ((reqPacket op r).op lid).opcode = op := rfl
  dsimp only
  rw [e1, hv]
  have h0 : c.out.length = 0 := by rw [hq]; rfl
  dsimp only
  rw [h0, Ch.answer_quiet _ _ _ _ _ hn]

/-- A wait op that parks in its sender's lowest free slot. -/
theorem Ch.waitOp_park (hq : c.out = []) (hn : e.chan = n) {found index operand k : Nat} {gen : BitVec 32} {next : Ch → Ch}
    (hv : c.verdict e ((reqPacket op r).op lid) op = .park d found gen index operand next) (hk : k < 4)
    (ha : d.slotArmed lid k = false) (hl : ∀ j < k, d.slotArmed lid j = true) :
    c.waitOp e ((reqPacket op r).op lid) =
      (let b := next (d.parkedWith (slotRecord e op r lid k index operand gen found))
       { b with out := replyWith n op r stPending k {} false :: b.out }) := by
  unfold Ch.waitOp
  have e1 : ((reqPacket op r).op lid).opcode = op := rfl
  have e2 : ((reqPacket op r).op lid).lid = lid := rfl
  dsimp only
  rw [e1, hv]
  have h0 : c.out.length = 0 := by rw [hq]; rfl
  dsimp only
  rw [e2, Ch.freeSlot_eq hk ha hl]
  dsimp only
  rw [h0, Ch.answer_quiet _ _ _ _ _ hn, Ch.arm_plain]
  rfl

/-- A wait op whose sender has no free slot. -/
theorem Ch.waitOp_full (hq : c.out = []) (hn : e.chan = n) {found index operand : Nat} {gen : BitVec 32} {next : Ch → Ch}
    (hv : c.verdict e ((reqPacket op r).op lid) op = .park d found gen index operand next)
    (hl : ∀ j < 4, d.slotArmed lid j = true) :
    c.waitOp e ((reqPacket op r).op lid) =
      { d with out := replyWith n op r stSlotsFull (d.slotsFullResult e ((reqPacket op r).op lid) found) {} true :: d.out } := by
  unfold Ch.waitOp
  have e1 : ((reqPacket op r).op lid).opcode = op := rfl
  have e2 : ((reqPacket op r).op lid).lid = lid := rfl
  dsimp only
  rw [e1, hv]
  have h0 : c.out.length = 0 := by rw [hq]; rfl
  dsimp only
  rw [e2, Ch.freeSlot_none hl]
  dsimp only
  rw [h0, Ch.answer_quiet _ _ _ _ _ hn]

/-! ## Waits of requests that pass every check -/

theorem Taken.wait (h : Taken s n lid op r) (hk : parks op r.index.toNat = true) {status result : Nat} {rf : RFlags}
    {final : Bool} {l : List Output}
    (hp : ((s.ch n).counted (reqPacket op r) lid).waitOp (s.envOf n op r) ((reqPacket op r).op lid) =
      { d with out := replyWith n op r status result rf final :: l }) (hd : d.Same (s.ch n)) :
    act s (fun s => s.request op r) = .next (s.served n op r d (replyWith n op r status result rf final :: l)) := by
  refine act_served h.serves h.clean ?_ hd
  rw [h.hub, hk, if_pos rfl, hp]

/-- A wait op decided at once. -/
theorem Taken.decided (h : Taken s n lid op r) (hk : parks op r.index.toNat = true) {status result : Nat} {rf : RFlags}
    (hv : ((s.ch n).counted (reqPacket op r) lid).verdict (s.envOf n op r) ((reqPacket op r).op lid) op = .decided d status result rf)
    (hd : d.Same (s.ch n)) :
    act s (fun s => s.request op r) = .next (s.served n op r d [replyWith n op r status result rf true]) := by
  refine h.wait hk ?_ hd
  rw [Ch.waitOp_decided (n := n) (e := s.envOf n op r) (c := (s.ch n).counted (reqPacket op r) lid) h.serves.calm.quiet.2.1 rfl hv, hd.quiet.2.1]

/-- A wait op that parks in its sender's lowest free slot. -/
theorem Taken.park (h : Taken s n lid op r) (hk : parks op r.index.toNat = true) {found index operand k : Nat} {gen : BitVec 32}
    {next : Ch → Ch} {b : Ch}
    (hv : ((s.ch n).counted (reqPacket op r) lid).verdict (s.envOf n op r) ((reqPacket op r).op lid) op = .park d found gen index operand next)
    (hf : d.LowestFree lid k)
    (hn : next (d.parkedWith (slotRecord (s.envOf n op r) op r lid k index operand gen found)) = b) (hb : b.Same (s.ch n)) :
    act s (fun s => s.request op r) = .next (s.served n op r b [replyTo n op r stPending k false]) := by
  refine h.wait hk ?_ hb
  rw [Ch.waitOp_park (n := n) (e := s.envOf n op r) (c := (s.ch n).counted (reqPacket op r) lid) h.serves.calm.quiet.2.1 rfl hv hf.1 hf.2.1 hf.2.2]
  dsimp only
  rw [hn, hb.quiet.2.1]

/-- A wait op whose sender has no free slot. -/
theorem Taken.full (h : Taken s n lid op r) (hk : parks op r.index.toNat = true) {found index operand : Nat} {gen : BitVec 32}
    {next : Ch → Ch}
    (hv : ((s.ch n).counted (reqPacket op r) lid).verdict (s.envOf n op r) ((reqPacket op r).op lid) op = .park d found gen index operand next)
    (hf : d.SlotsFull lid) (hd : d.Same (s.ch n)) :
    act s (fun s => s.request op r) =
      .next (s.served n op r d [replyTo n op r stSlotsFull (d.slotsFullResult (s.envOf n op r) ((reqPacket op r).op lid) found) true]) := by
  refine h.wait hk ?_ hd
  rw [Ch.waitOp_full (n := n) (e := s.envOf n op r) (c := (s.ch n).counted (reqPacket op r) lid) h.serves.calm.quiet.2.1 rfl hv hf, hd.quiet.2.1]

/-- A plain op that leaves more to do or to send: the channel settles, and its outputs leave. -/
theorem Taken.plainSettled (h : Taken s n lid op r) (hk : parks op r.index.toNat = false) {status result : Nat} {rf : RFlags} {b : Ch}
    {l : List Output}
    (hp : ((s.ch n).counted (reqPacket op r) lid).plainOp (s.envOf n op r) ((reqPacket op r).op lid) = (d, .done status result rf))
    (hs : ({ d with out := replyWith n op r status result rf true :: d.out } : Ch).settle (s.envOf n op r) = { b with out := l })
    (hb : b.Same (s.ch n)) : act s (fun s => s.request op r) = .next (s.served n op r b l) := by
  refine act_settled h.serves h.clean ?_ hb
  have h0 : (s.ch n).out.length = 0 := by rw [h.serves.calm.quiet.2.1]; rfl
  rw [h.hub, hk]
  simp only [Bool.false_eq_true, if_false, hp, h0]
  rw [Ch.answer_quiet (n := n) _ _ _ _ _ rfl, hs]

/-- A plain op that lets more leave after its response. -/
theorem Taken.plainOuts (h : Taken s n lid op r) (hk : parks op r.index.toNat = false) {status result : Nat} {rf : RFlags} {b : Ch}
    {l : List Output}
    (hp : ((s.ch n).counted (reqPacket op r) lid).plainOp (s.envOf n op r) ((reqPacket op r).op lid) =
      ({ b with out := l }, .done status result rf))
    (hb : b.Same (s.ch n)) :
    act s (fun s => s.request op r) = .next (s.served n op r b (replyWith n op r status result rf true :: l)) :=
  h.plainSettled hk hp (Ch.settle_quiet hb.quiet.1 hb.quiet.2.2.2.1) hb

/-- A wait op that leaves more to do: the channel settles, and its outputs leave. -/
theorem Taken.waitSettled (h : Taken s n lid op r) (hk : parks op r.index.toNat = true) {b : Ch} {l : List Output}
    (hp : (((s.ch n).counted (reqPacket op r) lid).waitOp (s.envOf n op r) ((reqPacket op r).op lid)).settle (s.envOf n op r) =
      { b with out := l })
    (hb : b.Same (s.ch n)) : act s (fun s => s.request op r) = .next (s.served n op r b l) := by
  refine act_settled h.serves h.clean ?_ hb
  rw [h.hub, hk, if_pos rfl, hp]

/-- A WAIT_ANY packet whose train has not ended, and that passes its checks, is performed at once. -/
theorem act_waitAny (h : s.Serves n r.endpoint.toNat lid) (hr : Clean r)
    (he : ∀ t ∈ (s.ch n).hw.ended, ¬ (t.lid = lid ∧ t.tag = r.tag.toNat))
    (hc : (s.ch n).checkOp (reqPacket opWaitAny r) lid = none) (hm : (s.ch n).stalls (.req (reqPacket opWaitAny r) lid) = false)
    {b : Ch} {l : List Output}
    (hp : ((((s.ch n).counted (reqPacket opWaitAny r) lid).waitAnyOp (s.envOf n opWaitAny r)
      ((reqPacket opWaitAny r).op lid)).settle (s.envOf n opWaitAny r)) = { b with out := l }) (hb : b.Same (s.ch n)) :
    act s (fun s => s.request opWaitAny r) = .next (s.served n opWaitAny r b l) := by
  refine act_settled h hr ?_ hb
  have hdt : (s.ch n).deadTrain (reqPacket opWaitAny r) = none := by
    unfold Ch.deadTrain
    have h1 : ((reqPacket opWaitAny r).trailer || decide ((reqPacket opWaitAny r).opcode ≠ opWaitAny)) = false := rfl
    have h2 : (s.ch n).lidOf (reqPacket opWaitAny r).phys = some lid := h.maps
    have h3 : (s.ch n).ctl.fenced.contains (reqPacket opWaitAny r).phys = false := by
      show (s.ch n).ctl.fenced.contains r.endpoint.toNat = false
      have := h.unfenced; simpa using this
    simp only [h1, h2, h3, Bool.false_eq_true, if_false]
    rw [Option.map_eq_none_iff, List.find?_eq_none]
    intro t ht hx
    simp only [Bool.and_eq_true, decide_eq_true_eq] at hx
    exact he t ht hx.1.1.1
  unfold Ch.hubPacket
  rw [Ch.meetLower_calm h.calm hr.1]
  have h1 : (reqPacket opWaitAny r).trailer = false := rfl
  simp only [hdt]
  rw [Ch.checkPacket_calm h.calm h.maps h.unfenced (show opWaitAny ≠ opSeqSelect by decide), hc]
  dsimp only
  rw [Ch.toBank_calm h.calm _ (Ch.workBank_req _ _ _) (by simp [Ch.accept, h1]) hm]
  simp only [Ch.performWork, h1, Bool.false_eq_true, if_false, Ch.performReq]
  rw [show (Work.req (reqPacket opWaitAny r) lid).ingress = (reqPacket opWaitAny r).ingress from rfl, Ch.counted_passed,
    if_pos (show ((reqPacket opWaitAny r).op lid).opcode = opWaitAny from rfl), hp]

end Sys2Proof.Machine
end

