-- ==== Sys2Proof/Laws/Objects.lean ====
section
/-! SUPPORT. Ops on flags, semaphores and stream pairs that meet no array error: what they make of their object when nobody waits. -/

namespace Sys2Proof.Machine

variable {s : State} {n lid op i : Nat} {r : Req} {c d : Ch} {e : Env}

/-! ## Checks -/

/-- A request passes checks 7 to 10 when its opcode has its class, its index fits, and the ops with rules of their own are
satisfied. -/
theorem Ch.checkOp_none (h1 : opClass op = some r.cls.toNat) (hw : op ≠ opWaitAny)
    (hk : (op = opBarReduceArrive ∨ op = opBarReadResult) → barIndex r.index.toNat < 0x2000)
    (hi : op ≠ opBarReduceArrive → if op = opBarReadResult then g5Field r.index.toNat = 0 else r.index.toNat < 2 ^ indexWidth r.cls.toNat)
    (hl : r.cls.toNat = clLock → fld r.operand.toNat 2 0 = 0)
    (hr : op = opLockRelease → lockForce r.operand.toNat = true → c.img.supValid = true ∧ c.img.supLid = lid)
    (hs : r.cls.toNat = clStr → 0xC000 ≤ r.index.toNat → connStrOk op lid (c.conn (r.index.toNat - 0xC000)) = true) :
    c.checkOp (reqPacket op r) lid = none := by
  have hb : badOp (reqPacket op r) = false := by
    unfold badOp opOk kindOk
    simp only [hw, if_false, reqPacket, h1, decide_true, Bool.not_true, Bool.false_or, Bool.false_and, Bool.or_false]
    by_cases h : op = opBarReduceArrive ∨ op = opBarReadResult
    · simp [h, hk h]
    · simp [h]
  have hx : indexOk op r.cls.toNat r.index.toNat = true := by
    unfold indexOk
    split
    · rfl
    · rename_i h
      have := hi h
      split at this <;> simp_all
  have hm : misaligned (reqPacket op r) = false := by
    unfold misaligned
    by_cases h : r.cls.toNat = clLock
    · simp [reqPacket, h, hl h]
    · simp [reqPacket, h]
  have h4 : ¬ (op = opLockRelease ∧ lockForce r.operand.toNat = true ∧ (!(c.img.supValid && decide (c.img.supLid = lid))) = true) := by
    rintro ⟨ha, hb, hc⟩
    have := hr ha hb
    simp [this] at hc
  have h5 : ¬ (r.cls.toNat = clStr ∧ 0xC000 ≤ r.index.toNat ∧ (!connStrOk op lid (c.conn (r.index.toNat - 0xC000))) = true) := by
    rintro ⟨ha, hb, hc⟩
    simp [hs ha hb] at hc
  unfold Ch.checkOp
  simp only [hb, Bool.false_eq_true, if_false]
  have e1 : (reqPacket op r).opcode = op := rfl
  have e2 : (reqPacket op r).cls = r.cls.toNat := rfl
  have e3 : (reqPacket op r).index = r.index.toNat := rfl
  have e4 : (reqPacket op r).operand = r.operand.toNat := rfl
  simp only [e1, e2, e3, e4, hx, hm, hw, if_false, Bool.not_true, Bool.false_eq_true]
  rw [if_neg (by simpa using h4), if_neg (by simpa using h5)]

/-- Only barriers stall. -/
theorem Ch.stalls_of_cls (hc : r.cls.toNat ≠ clBar) : c.stalls (.req (reqPacket op r) lid) = false := by
  unfold Ch.stalls; simp [reqPacket, hc]

/-- A request on an object of classes FLAG, SEM or a stream pair below the connections. -/
theorem taken_object (h : s.Serves n r.endpoint.toNat lid) (hr : Clean r) {k : Nat} (hk : r.cls.toNat = k) (hc : k < 3)
    (h1 : opClass op = some k) (hi : r.index.toNat < 2 ^ indexWidth k) (hs : k = clStr → r.index.toNat < 0xC000) :
    Taken s n lid op r := by
  subst hk
  have ne : ∀ o, opClass op ≠ opClass o → op ≠ o := fun o h e => h (by rw [e])
  have hcl : ∀ o, (∀ m < 3, opClass o ≠ some m) → op ≠ o := by
    intro o ho e
    exact ho r.cls.toNat hc (by rw [← e, h1])
  refine ⟨h, hr, ⟨?_, ?_, ?_⟩, Ch.checkOp_none h1 ?_ ?_ ?_ ?_ ?_ ?_, Ch.stalls_of_cls (by unfold clBar; omega)⟩
  all_goals try (refine hcl _ ?_; decide)
  · intro h2; rcases h2 with h2 | h2
    · exact absurd h2 (hcl _ (by decide))
    · exact absurd h2 (hcl _ (by decide))
  · intro _
    rw [if_neg (hcl _ (by decide))]; exact hi
  · intro h2; unfold clLock at h2; omega
  · intro h2; exact absurd h2 (hcl _ (by decide))
  · intro h2 h3; have := hs h2; omega

/-! ## Flags -/

theorem readFlag_clean {e : Env} {c : Ch} (h : (c.fault .os).pendForce = none) (hu : c.upsets = []) (he : e.inject = 0) (o : Op) (i : Nat) :
    c.readFlag e o i = c := by
  unfold Ch.readFlag; rw [Ch.readEcc_clean h hu he]; rfl

theorem changeFlag_alone {e : Env} {c : Ch} {i : Nat} (h : c.Alone clFlag i) (f : Flag) :
    c.changeFlag e i f = if f = c.flag i then c else c.putFlag i f := by
  unfold Ch.changeFlag
  dsimp only
  split
  · rfl
  · have h1 : (c.putFlag i f).settleFlag e i f = c.putFlag i f := by
      have hw : (c.putFlag i f).waiters clFlag i = [] := h.1
      unfold Ch.settleFlag
      simp [hw, Ch.endWaits]
    rw [h1]
    exact Ch.runWatches_alone (c := c.putFlag i f) h.2 _

theorem flag_plain {s : State} {n lid i op : Nat} {r : Req} {f : Flag} (h : s.Serves n r.endpoint.toNat lid) (hc : r.cls = 0) (hi : r.index.toNat = i)
   (hf : (s.ch n).flag i = f) (ha : (s.ch n).Alone clFlag i) (hp : f.poisoned = false) (hd : op = opFlagSet → f.value = true → f.strict = false) :
   ((s.ch n).counted (reqPacket op r) lid).plainOp (s.envOf n op r) ((reqPacket op r).op lid) =
     (if op = opFlagSet ∧ f.value = true then { (s.ch n).counted (reqPacket op r) lid with os := { ((s.ch n).counted (reqPacket op r) lid).os with
          dblCount := inc ((s.ch n).counted (reqPacket op r) lid).os.dblCount, dblStrict := f.strict, dblLid := lid, dblIndex := i } }
      else if (flagStep op lid f).1 = f then ((s.ch n).counted (reqPacket op r) lid) else ((s.ch n).counted (reqPacket op r) lid).putFlag i (flagStep op lid f).1,
     .done (flagStep op lid f).2 f.record {}) := by
  subst hi
  have hcls : ((reqPacket op r).op lid).cls = clFlag := by simp [Packet.op, reqPacket, hc]
  have hr : ((s.ch n).counted (reqPacket op r) lid).readFlag (s.envOf n op r) ((reqPacket op r).op lid) r.index.toNat = ((s.ch n).counted (reqPacket op r) lid) :=
    readFlag_clean ((h.calm.counted (reqPacket op r)).unforced .os) (h.calm.counted (reqPacket op r)).sound rfl _ _
  have hf1 : ((s.ch n).counted (reqPacket op r) lid).flag r.index.toNat = f := hf
  have hf2 : ((s.ch n).counted (reqPacket op r) lid).flag ((reqPacket op r).op lid).index = f := hf
  have hstep : (flagStep op lid f).1.poisoned = false := by
    unfold flagStep; simp only [hp]; (repeat' split) <;> simp_all
  have e1 : ((reqPacket op r).op lid).opcode = op := rfl
  have e2 : ((reqPacket op r).op lid).lid = lid := rfl
  have e3 : ((reqPacket op r).op lid).poisoned = false := rfl
  have e4 : ((reqPacket op r).op lid).index = r.index.toNat := rfl
  unfold Ch.plainOp
  rw [if_pos hcls]
  unfold Ch.flagOp
  simp only [e1, e2, e3, e4, hr, hf1, Bool.or_false]
  have hq : ({ (flagStep op lid f).1 with poisoned := (flagStep op lid f).1.poisoned } : Flag) = (flagStep op lid f).1 := rfl
  by_cases hs : op = opFlagSet ∧ f.value = true
  · obtain ⟨rfl, hv⟩ := hs
    have hst := hd rfl hv
    have hfs : (flagStep opFlagSet lid f).1 = f := by unfold flagStep; simp [hp, hv]
    simp only [hv, hp, decide_true, Bool.true_and, Bool.not_false, if_true, and_self, hfs]
    unfold Ch.doubleSet
    simp only [hst, Bool.false_eq_true, if_false, e2, e4]
    obtain ⟨fv, fs, fp, fl⟩ := f
    simp only at hv hp hst
    subst hv; subst hp; subst hst
    congr 1
    refine (changeFlag_alone ?_ _).trans (if_pos ?_)
    · exact ha
    · exact hf1.symm
  · have : (decide (op = opFlagSet) && f.value && !f.poisoned) = false := by
      by_cases h1 : op = opFlagSet <;> simp_all
    simp only [this, Bool.false_eq_true, if_false, hs]
    rw [changeFlag_alone (ha.counted (reqPacket op r)), hf1]

/-! ## Semaphores -/

theorem readSem_clean (h : (c.fault .os).pendForce = none) (hu : c.upsets = []) (he : e.inject = 0) (o : Op) (i : Nat) : c.readSem e o i = c := by
  unfold Ch.readSem; rw [Ch.readEcc_clean h hu he]; rfl

theorem changeSem_alone (h : c.Alone clSem i) (v : Sem) : c.changeSem e i v = if v = c.sem i then c else c.putSem i v := by
  unfold Ch.changeSem
  dsimp only
  split
  · rfl
  · have h1 : ∀ old, (c.putSem i v).watchSem i old = c.putSem i v := fun old => Ch.runWatches_alone (c := c.putSem i v) h.2 _
    have h2 : (c.putSem i v).waiters clSem i = [] := h.1
    rw [h1, h2]
    simp [Ch.endUnmet, Ch.serveSem]

/-! ## Stream pairs -/

theorem readStr_clean (h : (c.fault .os).pendForce = none) (hu : c.upsets = []) (he : e.inject = 0) (o : Op) (i : Nat) : c.readStr e o i = c := by
  unfold Ch.readStr; rw [Ch.readEcc_clean h hu he]; rfl

theorem Ch.PairAlone.str (h : c.PairAlone i) : c.waiters clStr i = [] := (List.append_eq_nil_iff.mp h).1

theorem changeStr_alone (h : c.PairAlone i) (v : Stream) : c.changeStr e i v = if v = c.str i then c else c.putStr i v := by
  unfold Ch.changeStr
  dsimp only
  split
  · rfl
  · have h1 : (c.putStr i v).pairWaits i = [] := h
    have h2 : (c.putStr i v).waiters clStr i = [] := h.str
    unfold Ch.settleStr
    rw [h1, h2]
    simp [Ch.endUnmet, Ch.endWaits]

end Sys2Proof.Machine
end

