-- ==== Sys2Proof/Laws/Endings.lean ====
section
/-! SUPPORT. How several plain waits end: each has its final response, in the order given, and its slot is free. -/

namespace Sys2Proof.Machine

variable {s : State} {n lid op i : Nat} {r : Req} {c d : Ch} {e : Env} {ws : List Parked}

/-- The common shape of the operations that end waits: those of a list that are still armed end, each with a status and a
RESULT of its own. -/
def Ch.endEach (e : Env) (f : Parked → Nat × Nat) (rf : RFlags) : List Parked → Ch → Ch
  | [], c => c
  | w :: ws, c => Ch.endEach e f rf ws (if c.hw.parked.contains w then c.endWait e (f w).1 (f w).2 rf w else c)

/-- What leaves as a plain wait ends. -/
def endWith (n : Nat) (f : Parked → Nat × Nat) (rf : RFlags) (w : Parked) : List Output :=
  .resp { endpoint := w.phys, chan := n, opcode := w.opcode, status := (f w).1, range := rf.range, zeroBlock := rf.zeroBlock,
          rescale := rf.rescale, lean := rf.lean, final := true, tag := w.tag, result := (f w).2, first := false } ::
    if isCore w.phys then [.wake w.phys] else []

theorem endWith_plain (n : Nat) (f : Parked → Nat × Nat) (w : Parked) : endWith n f {} w = endsOf n w (f w).1 (f w).2 := rfl

theorem Ch.endWaits_eq (e : Env) (st res : Nat) (rf : RFlags) (ws : List Parked) (c : Ch) :
    c.endWaits e st res rf ws = c.endEach e (fun _ => (st, res)) rf ws := by
  induction ws generalizing c with
  | nil => rfl
  | cons w ws ih => unfold Ch.endWaits Ch.endEach; exact ih _

/-- A channel whose objects' arrays are sound reads every slot record well (R309). -/
def Ch.Sound (c : Ch) : Prop := (c.fault .os).pendForce = none ∧ c.upsets = []

theorem Ch.Calm.os (h : c.Calm) : c.Sound := ⟨h.unforced .os, h.sound⟩

theorem Ch.readSlot_clean (h : c.Sound) (w : Parked) : c.readSlot e w = (c, false) := by
  unfold Ch.readSlot; exact Ch.readEcc_clean h.1 h.2 rfl

theorem Ch.endWait_os (h : c.Sound) (st res : Nat) (rf : RFlags) (w : Parked) :
    (c.endWait e st res rf w).os = c.os ∧ (c.endWait e st res rf w).Sound := by
  unfold Ch.endWait
  rw [Ch.readSlot_clean h]
  dsimp only
  unfold Ch.respondEnd
  (repeat' split) <;> exact ⟨rfl, h⟩

theorem lowestOf_plain {w : Parked} (hw : w.isTrain = false) (ws : List Parked) : lowestOf ws w = w := by
  have h : ∀ s : Nat, ws.find? (fun v => w.mate v && decide (v.slot = s) && !v.won) = none := by
    intro s
    rw [List.find?_eq_none]
    intro v _
    unfold Parked.mate; simp [hw]
  unfold lowestOf
  simp [List.filterMap, h]

/-- RESULT of a wait that is no lock's does not depend on the slots that end with it. -/
theorem Ch.unmetWord_of {w : Parked} (hw : w.cls ≠ clLock) {a b : Ch} (h : a.os = b.os) (l m : List Parked) :
    a.unmetWord l w = b.unmetWord m w := by
  unfold Ch.unmetWord; rw [h]; simp [hw]

theorem Ch.endUnmet_eq (e : Env) (st : Nat) {ws : List Parked} {c : Ch} (h : c.Sound)
    (hp : ∀ w ∈ ws, w.isTrain = false ∧ w.cls ≠ clLock) :
    c.endUnmet e st ws = c.endEach e (fun w => (st, c.unmetWord [] w)) {} ws := by
  suffices ∀ (ws : List Parked) (d : Ch), d.Sound → d.os = c.os → (∀ w ∈ ws, w.isTrain = false ∧ w.cls ≠ clLock) →
      d.endUnmet e st ws = d.endEach e (fun w => (st, c.unmetWord [] w)) {} ws from this ws c h rfl hp
  intro ws
  induction ws with
  | nil => intros; rfl
  | cons w ws ih =>
    intro d hd ho hw
    have h1 := hw w (by simp)
    unfold Ch.endUnmet Ch.endEach
    dsimp only
    rw [lowestOf_plain h1.1, Ch.unmetWord_of h1.2 ho ws []]
    split
    · have := Ch.endWait_os (e := e) hd st (c.unmetWord [] w) {} w
      exact ih _ this.2 (this.1.trans ho) (fun v hv => hw v (by simp [hv]))
    · exact ih _ hd ho (fun v hv => hw v (by simp [hv]))

theorem Ch.endWait_bar (h : c.Sound) (st res : Nat) (rf : RFlags) (w : Parked) (i : Nat) :
    (c.endWait e st res rf w).bar i = c.bar i := by
  unfold Ch.bar; rw [(Ch.endWait_os h st res rf w).1]

theorem Ch.releaseWaits_eq (e : Env) (i st item : Nat) (rf : RFlags) (ws : List Parked) {c : Ch} (h : c.Sound) :
    c.releaseWaits e i st item rf ws =
      c.endEach e (fun w => (st, if w.opcode = opBarReduceArrive then item else barWaitResult (c.bar i) w)) rf ws := by
  induction ws generalizing c with
  | nil => rfl
  | cons w ws ih =>
    unfold Ch.releaseWaits Ch.endEach
    by_cases hw : c.hw.parked.contains w = true
    · simp only [hw, if_true]
      rw [ih (Ch.endWait_os h _ _ _ _).2, Ch.endWait_bar h]
    · simp only [hw, Bool.false_eq_true, if_false]; exact ih h

theorem Ch.endBarWaits_eq (e : Env) (i st : Nat) (ws : List Parked) {c : Ch} (h : c.Sound) :
    c.endBarWaits e i st ws =
      c.endEach e (fun w => (st, if st = stTimeout then barWaitResult (c.bar i) w else w.found)) {} ws := by
  induction ws generalizing c with
  | nil => rfl
  | cons w ws ih =>
    unfold Ch.endBarWaits Ch.endEach
    by_cases hw : c.hw.parked.contains w = true
    · simp only [hw, if_true]
      rw [ih (Ch.endWait_os h _ _ _ _).2, Ch.endWait_bar h]
    · simp only [hw, Bool.false_eq_true, if_false]; exact ih h

/-- A plain wait ends: only its slot and its response. -/
theorem Ch.endWait_plain {w : Parked} (hs : c.Sound) (st res : Nat) (hp : c.PlainWaits [w]) (hw : w ∈ c.hw.parked) (he : e.chan = n) (rf : RFlags) :
    c.endWait e st res rf w = { c.freed [w] with out := c.out ++ endWith n (fun _ => (st, res)) rf w } := by
  have h1 : w.isTrain = false := hp.2 w (by simp)
  have h2 : c.hw.parked.filter (fun v => !(decide (v.lid = w.lid) && decide (v.slot = w.slot))) =
      c.hw.parked.filter (fun v => decide (v ∉ [w])) := by
    refine List.filter_congr fun v hv => ?_
    have : (v.lid = w.lid ∧ v.slot = w.slot) ↔ v = w := by
      refine ⟨fun h => List.inj_on_of_nodup_map hp.1 hv hw ?_, fun h => by rw [h]; exact ⟨rfl, rfl⟩⟩
      simp [h]
    by_cases hx : v = w
    · simp [hx]
    · have h3 := mt this.mp hx
      rw [not_and_or] at h3
      rcases h3 with h3 | h3 <;> simp [hx, h3]
  unfold Ch.endWait
  rw [Ch.readSlot_clean hs]
  simp only [h1, Bool.not_false, if_true, Bool.false_eq_true, if_false]
  unfold Ch.respondEnd Ch.respond Ch.emit Ch.freed
  rw [h2]
  subst he
  unfold endWith
  split <;> simp [Ch.setParked]

/-- Several plain waits end. -/
theorem Ch.endEach_plain (hc : c.Sound) (f : Parked → Nat × Nat) (rf : RFlags) (hp : c.PlainWaits ws) (hs : ∀ w ∈ ws, w ∈ c.hw.parked)
    (hn : ws.Nodup) (he : e.chan = n) :
    c.endEach e f rf ws = { c.freed ws with out := c.out ++ ws.flatMap (endWith n f rf) } := by
  induction ws generalizing c with
  | nil =>
    unfold Ch.endEach Ch.freed Ch.setParked
    have : c.hw.parked.filter (fun v => decide (v ∉ ([] : List Parked))) = c.hw.parked := by
      rw [List.filter_eq_self]; intro a _; simp
    rw [this]; simp
  | cons w ws ih =>
    have hw : w ∈ c.hw.parked := hs w (by simp)
    have h1 := Ch.endWait_plain (e := e) (n := n) hc (f w).1 (f w).2 (c := c) (w := w)
      ⟨hp.1, fun v hv => hp.2 v (by simp at hv; simp [hv])⟩ hw he rf
    unfold Ch.endEach
    rw [if_pos (by simpa using hw), h1]
    rw [ih]
    · unfold Ch.freed Ch.setParked
      simp only [List.filter_filter, List.append_assoc, List.flatMap_cons]
      congr 2
      congr 1
      funext v
      by_cases h1 : v = w <;> by_cases h2 : v ∈ ws <;> simp [h1, h2]
    · exact hc
    · refine ⟨?_, fun v hv => hp.2 v (by simp [hv])⟩
      exact hp.1.sublist (List.Sublist.map _ List.filter_sublist)
    · intro v hv
      have h2 : v ≠ w := fun h => (List.nodup_cons.mp hn).1 (h ▸ hv)
      show v ∈ List.filter _ _
      rw [List.mem_filter]
      exact ⟨hs v (by simp [hv]), by simp [h2]⟩
    · exact (List.nodup_cons.mp hn).2

end Sys2Proof.Machine
end

