-- ==== Sys2Proof/Laws/Arrivals.lean ====
section
/-! SUPPORT. Barrier arrivals that meet no array error: what R159 decides of them, what they leave in the record, and the release
of a plain barrier. -/

namespace Sys2Proof.Machine

variable {s : State} {n lid op i : Nat} {r : Req} {c d : Ch} {e : Env} {b : Bar}

theorem Ch.readMask_clean {m : Nat} (h : c.Sound) (hm : m ∉ c.os.badMasks) : c.readMask e m = (c, false) := by
  unfold Ch.readMask
  rw [if_neg (by simpa using hm), Ch.readEcc_clean h.1 h.2 rfl]
  rfl

theorem Ch.readBar_clean (h : c.Sound) (he : e.inject = 0) (o : Op)
    (hm : barStrict i = true → (c.bar i).mask ∉ c.os.badMasks) : c.readBar e o i = c := by
  unfold Ch.readBar
  rw [Ch.readEcc_clean h.1 h.2 he]
  dsimp only
  by_cases hs : barStrict i = true
  · simp only [hs, Bool.false_eq_true, if_false, if_true]
    rw [Ch.readEcc_clean h.1 h.2 rfl]
    dsimp only
    rw [Ch.readEcc_clean h.1 h.2 rfl, Ch.readMask_clean h (hm hs)]
    rfl
  · simp [hs]

/-- A barrier arrival on a request passes its checks. -/
theorem taken_bar (h : s.Serves n r.endpoint.toNat lid) (hr : Clean r) (hc : r.cls = 3)
    (hop : op = opBarArrive ∨ op = opBarArriveWait) (hi : r.index.toNat < 2 ^ 15)
    (hq : r.index.toNat < 0x2000 → (s.ch n).ru.queue.length < 512) : Taken s n lid op r := by
  have hb : barIndex r.index.toNat = r.index.toNat := by unfold barIndex fld; simp; omega
  refine ⟨h, hr, by rcases hop with rfl | rfl <;> decide, Ch.checkOp_none ?_ ?_ ?_ ?_ ?_ ?_ ?_, ?_⟩
  · rw [hc]; rcases hop with rfl | rfl <;> decide
  · rcases hop with rfl | rfl <;> decide
  · intro h2; exfalso; rcases hop with rfl | rfl <;> revert h2 <;> decide
  · intro _; rw [if_neg (by rcases hop with rfl | rfl <;> decide), hc]; exact hi
  · intro h2; rw [hc] at h2; exact absurd h2 (by decide)
  · intro h2; exfalso; rcases hop with rfl | rfl <;> revert h2 <;> decide
  · intro h2; rw [hc] at h2; exact absurd h2 (by decide)
  · unfold Ch.stalls
    by_cases hx : barReduce r.index.toNat = true
    · have : r.index.toNat < 0x2000 := by unfold barReduce at hx; simpa using hx
      have hl : ¬ 512 ≤ (s.ch n).ru.queue.length := by have := hq this; omega
      simp [hl]
    · have e1 : barReduce (barIndex (reqPacket op r).index) = false := by
        show barReduce (barIndex r.index.toNat) = false
        rw [hb]; simpa using hx
      simp only [e1, Bool.and_false, Bool.false_and]

/-- What an accepted arrival leaves that neither completes its generation nor comes by a poisoned trailer. -/
theorem Ch.acceptBar_open {o : Op} {early : Bool} {words : SMap Nat} (hb : c.bar i = b) (hp : o.poisoned = false)
    (hr : b.ruPending = false) (hd : early = false → b.count + 1 ≠ b.target) :
    c.acceptBar e o i early words =
      (let c1 := c.putBar i (b.take (barStrict i) o.lid e.stamp early)
       if barReduce i then
         { c1 with ru := { c1.ru with queue := c1.ru.queue ++ [⟨i, if early then b.gen + 1 else b.gen, words, o.phys, o.lid, false⟩] } }
       else c1) := by
  have hdone : (!early && c.wouldComplete i) = false := by
    cases early
    · unfold Ch.wouldComplete; simp [hb, hd rfl]
    · rfl
  have ht : (b.take (barStrict i) o.lid e.stamp early).ruPending = false := by unfold Bar.take; split <;> exact hr
  unfold Ch.acceptBar
  simp only [hb, hdone, hr, Bool.false_or, Bool.false_and, Bool.false_eq_true, if_false, hp]
  generalize b.take (barStrict i) o.lid e.stamp early = t at ht
  cases t; simp only at ht; subst ht; rfl

end Sys2Proof.Machine
end

