-- ==== Sys2Proof/Laws/Keeps.lean ====
section
/-! SUPPORT. What the steps of a command leave alone at block level: the queue of waiting commands, Scetor time, SCE_POR_N,
the channels' transients, and, as far as a step is marked, the outstanding counts, the committed table and the access queues' form. -/

namespace Sys2Proof.Machine

/-- From `a` to `b` the queue, the time and SCE_POR_N stay, channels between commands stay so, and, where `o` and `t`
say so, the outstanding counts and the committed table stay; where `z` says so, queues of host accesses stay such. -/
structure Keep (o t z : Bool) (a b : State) : Prop where
  pending : b.pending = a.pending
  time    : b.time = a.time
  por     : b.por = a.por
  out     : o = true → b.outstanding = a.outstanding
  tab     : t = true → b.pt.table = a.pt.table
  quiet   : a.Quiet → b.Quiet
  hosts   : z = true → a.HostQueues → b.HostQueues
  pairs   : a.PairsOk → b.PairsOk

variable {o t z : Bool} {a b c s : State}

theorem Keep.refl (s : State) : Keep o t z s s := ⟨rfl, rfl, rfl, fun _ => rfl, fun _ => rfl, id, fun _ => id, id⟩

theorem Keep.trans (h : Keep o t z a b) (k : Keep o t z b c) : Keep o t z a c :=
  ⟨k.pending.trans h.pending, k.time.trans h.time, k.por.trans h.por, fun x => (k.out x).trans (h.out x),
   fun x => (k.tab x).trans (h.tab x), fun x => k.quiet (h.quiet x), fun y x => k.hosts y (h.hosts y x), fun x => k.pairs (h.pairs x)⟩

/-- `Keep.trans` with the later step first. -/
theorem Keep.after (k : Keep o t z b c) (h : Keep o t z a b) : Keep o t z a c := h.trans k

theorem Keep.weaken (h : Keep true true true a b) : Keep o t z a b :=
  ⟨h.pending, h.time, h.por, fun _ => h.out rfl, fun _ => h.tab rfl, h.quiet, fun _ => h.hosts rfl, h.pairs⟩

/-- A step that touches none of the kept parts. -/
theorem Keep.of (h1 : b.pending = a.pending) (h2 : b.time = a.time) (h3 : b.por = a.por)
    (h4 : b.outstanding = a.outstanding) (h5 : b.pt.table = a.pt.table)
    (h6 : b.chA = a.chA) (h7 : b.chB = a.chB) (h8 : b.chC = a.chC) (h9 : b.chD = a.chD)
    (h10 : b.hp.queues = a.hp.queues) (h11 : b.pairAB = a.pairAB) (h12 : b.pairCD = a.pairCD) (h13 : b.hp.atPort = a.hp.atPort) :
    Keep o t z a b :=
  ⟨h1, h2, h3, fun _ => h4, fun _ => h5, fun q => by unfold State.Quiet at *; rw [h6, h7, h8, h9]; exact q,
   fun _ q => by unfold State.HostQueues at *; rw [h10, h13]; exact q,
   fun q => by unfold State.PairsOk at *; rw [h11, h12]; exact q⟩

theorem Keep.foldl {β : Type} {f : State → β → State} (h : ∀ s x, Keep o t z s (f s x)) (l : List β) (s : State) :
    Keep o t z s (l.foldl f s) := by
  induction l generalizing s with
  | nil => exact Keep.refl s
  | cons x l ih => exact (h s x).trans (ih _)

theorem Keep.ite {p : Prop} [Decidable p] (h : Keep o t z s a) (k : Keep o t z s b) : Keep o t z s (if p then a else b) := by
  split
  · exact h
  · exact k

/-! ## Plain updates -/

theorem Keep.setPair (n : Nat) (p : Pair) (h : s.PairsOk → p.survivor ≤ 1) : Keep o t z s (s.setPair n p) := by
  refine ⟨by simp, by simp, by simp, fun _ => by simp, fun _ => by simp, fun q => ?_, fun _ q => ?_, fun q => ?_⟩
  · unfold State.Quiet at *; simpa using q
  · unfold State.HostQueues at *; simpa using q
  · unfold State.setPair
    split
    · exact ⟨h q, q.2⟩
    · exact ⟨q.1, h q⟩

theorem State.PairsOk.pair (h : s.PairsOk) (n : Nat) : (s.pair n).survivor ≤ 1 := by
  unfold State.pair; split
  · exact h.1
  · exact h.2
theorem Keep.leave (l : List Output) : Keep o t z s (s.leave l) := by apply Keep.of <;> simp
theorem Keep.errPulse (n : Option Nat) : Keep o t z s (s.errPulse n) := Keep.of rfl rfl rfl rfl rfl rfl rfl rfl rfl rfl rfl rfl rfl
theorem Keep.setShared (u : SharedSub) (f : FaultSet) : Keep o t z s (s.setShared u f) := by apply Keep.of <;> simp
theorem Keep.busyNow (n : Nat) : Keep o t z s (s.busyNow n) := Keep.of rfl rfl rfl rfl rfl rfl rfl rfl rfl rfl rfl rfl rfl
theorem Keep.renew : Keep o t z s s.renew := by apply Keep.of <;> simp
theorem Keep.begin : Keep o t z s s.begin := by apply Keep.of <;> simp
theorem Keep.onCl (f : Cl → Cl) : Keep o t z s (s.onCl f) := by apply Keep.of <;> simp

theorem Keep.onPt {f : Pt → Pt} (h : ∀ p, (f p).table = p.table) : Keep o t z s (s.onPt f) := by
  apply Keep.of <;> simp [h]

theorem Ch.Quiet.ofEq {c d : Ch} (h : c.Quiet) (h1 : d.todo = c.todo) (h2 : d.out = c.out) (h3 : d.raised = c.raised)
    (h4 : d.haltReq = c.haltReq) (h5 : d.errPulse = c.errPulse) : d.Quiet := by
  unfold Ch.Quiet at *; rw [h1, h2, h3, h4, h5]; exact h

theorem State.Quiet.ch (h : s.Quiet) (n : Nat) : (s.ch n).Quiet :=
  match n with
  | 0 => h.1
  | 1 => h.2.1
  | 2 => h.2.2.1
  | _ + 3 => h.2.2.2

theorem State.Quiet.setCh (h : s.Quiet) {c : Ch} (hc : c.Quiet) (n : Nat) : (s.setCh n c).Quiet :=
  match n with
  | 0 => ⟨hc, h.2.1, h.2.2.1, h.2.2.2⟩
  | 1 => ⟨h.1, hc, h.2.2.1, h.2.2.2⟩
  | 2 => ⟨h.1, h.2.1, hc, h.2.2.2⟩
  | _ + 3 => ⟨h.1, h.2.1, h.2.2.1, hc⟩

/-- A channel is replaced by one that is between commands where it was so itself. -/
theorem Keep.setCh {n : Nat} {c : Ch} (h : (s.ch n).Quiet → c.Quiet) : Keep o t z s (s.setCh n c) :=
  ⟨by simp, by simp, by simp, fun _ => by simp, fun _ => by simp, fun q => q.setCh (h (q.ch n)) n,
   fun _ q => by unfold State.HostQueues at *; simpa using q, fun q => by unfold State.PairsOk at *; simpa using q⟩

theorem Keep.finish (n : Nat) (c : Ch) (l : List Output) : Keep o t z s (s.finish n c l) := by
  unfold State.finish
  have h : Keep o t z s (s.setCh n { c with todo := [], out := [], raised := [], haltReq := false, errPulse := false }) :=
    Keep.setCh fun _ => ⟨rfl, rfl, rfl, rfl, rfl⟩
  dsimp only
  split
  · exact (h.trans (Keep.errPulse _)).trans (Keep.leave l)
  · exact h.trans (Keep.leave l)

/-! ## Channels and pairs -/

theorem Keep.runAlone (n k : Nat) (m : MemErr) (f : Env → Ch → Ch) : Keep o t z s (s.runAlone n k m f) := Keep.finish ..

theorem Keep.runHalted (n : Nat) (m : MemErr) (f : Env → Ch → Ch) : Keep o t z s (s.runHalted n m f) :=
  (Keep.runAlone ..).trans (Keep.finish ..)

theorem Keep.diverge (n : Nat) (ea eb : Env) (x y : Ch) (d : Option (Nat × Option Output × Option Output))
    (pass : List Output) : Keep o t z s (s.diverge n ea eb x y d pass) := by
  unfold State.diverge
  refine Keep.after (Keep.finish ..) (Keep.after (Keep.finish ..) (Keep.setPair _ _ fun q => ?_))
  cases d <;> exact q.pair n

theorem Keep.dropSide (n : Nat) (second : Bool) (r : RaisedNow) (e : Env) (x y : Ch) :
    Keep o t z s (s.dropSide n second r e x y) := by
  unfold State.dropSide
  exact Keep.after (Keep.finish ..) (Keep.after (Keep.finish ..) (Keep.setPair _ _ fun _ => by cases second <;> first | exact Nat.le_refl 1 | exact Nat.zero_le 1))

theorem Keep.compare (n : Nat) (ea eb : Env) (x y : Ch) : Keep o t z s (s.compare n ea eb x y) := by
  unfold State.compare
  dsimp only
  split
  · exact Keep.diverge ..
  · exact Keep.after (Keep.finish ..) (Keep.after (Keep.finish ..) (Keep.setPair _ _ fun q => q.pair n))

theorem Keep.runPair (n : Nat) (m : MemErr) (f : Env → Ch → Ch) : Keep o t z s (s.runPair n m f) := by
  unfold State.runPair
  dsimp only
  split
  · exact Keep.compare ..
  · exact Keep.dropSide ..
  · exact Keep.dropSide ..
  · exact Keep.diverge ..

theorem Keep.onChan (n : Nat) (m : MemErr) (f : Env → Ch → Ch) : Keep o t z s (s.onChan n m f) := by
  unfold State.onChan
  split
  · exact Keep.runAlone ..
  · exact Keep.runPair ..
  · exact Keep.runAlone ..
  · exact Keep.runHalted ..

theorem Keep.atChan (n : Nat) (m : MemErr) (f : Env → Ch → Ch) : Keep o t z s (s.atChan n m f) := by
  unfold State.atChan
  split
  · exact Keep.refl s
  · exact (Keep.onChan ..).trans (Keep.busyNow _)

theorem Keep.onOwn (n : Nat) (f : Env → Ch → Ch) : Keep o t z s (s.onOwn n f) := Keep.ite (Keep.refl s) (Keep.onChan ..)

theorem Keep.onSide (k : Nat) (f : Env → Ch → Ch) : Keep o t z s (s.onSide k f) := Keep.runAlone ..

theorem Keep.onAll (f : Env → Ch → Ch) : Keep o t z s (s.onAll f) := Keep.foldl (fun _ n => Keep.onOwn n f) _ s

theorem Keep.onList (f : Env → Ch → Ch) (l : List Nat) : Keep o t z s (s.onList f l) :=
  Keep.foldl (fun _ n => Keep.onOwn n f) l s

/-! ## Shared faults -/

theorem Keep.haltOne (d n : Nat) : Keep o t z s (State.haltOne d s n) := Keep.finish ..

theorem Keep.blockHalt (u : SharedSub) (src : Nat) : Keep o t z s (s.blockHalt u src) := by
  unfold State.blockHalt
  refine (Keep.foldl (fun _ _ => Keep.haltOne ..) _ s).trans (Keep.of rfl rfl rfl rfl rfl rfl rfl rfl rfl rfl rfl rfl rfl)

theorem Keep.raiseSharedAs (fresh : Bool) (u : SharedSub) (src : Nat) (k : Cause) :
    Keep o t z s (s.raiseSharedAs fresh u src k) := by
  unfold State.raiseSharedAs
  dsimp only
  split
  · exact Keep.of rfl rfl rfl rfl rfl rfl rfl rfl rfl rfl rfl rfl rfl
  · exact Keep.ite (Keep.refl s)
      (((Keep.setShared ..).trans (Keep.ite (Keep.errPulse _) (Keep.refl _))).trans
        (Keep.ite (Keep.blockHalt ..) (Keep.refl _)))

theorem Keep.raiseShared (u : SharedSub) (src : Nat) (k : Cause) : Keep o t z s (s.raiseShared u src k) :=
  Keep.raiseSharedAs ..

theorem Keep.correctedShared (u : SharedSub) (lasting wear array bank word : Nat) (forced : Bool) :
    Keep o t z s (s.correctedShared u lasting wear array bank word forced) := by
  unfold State.correctedShared
  dsimp only
  split
  · exact ((Keep.setShared ..).trans (Keep.raiseShared ..)).trans (Keep.raiseSharedAs ..)
  · exact (Keep.setShared ..).trans (Keep.raiseShared ..)

theorem Keep.sharedForce (u : SharedSub) (array bank word n : Nat) : Keep o t z s (s.sharedForce u array bank word n).1 := by
  unfold State.sharedForce
  dsimp only
  split
  · exact Keep.setShared ..
  · split
    · exact Keep.of rfl rfl rfl rfl rfl rfl rfl rfl rfl rfl rfl rfl rfl
    · exact Keep.refl s

end Sys2Proof.Machine
end

