-- ==== Sys2Proof/Laws/KeepsMore.lean ====
section
/-! SUPPORT. The same for clocks, start-up, fault sets, registers, the host port, the nodes and the table change. -/

namespace Sys2Proof.Machine

variable {o t z : Bool} {s : State}

/-! ## Clocks -/

theorem Keep.feedGoesStale (b : Nat) : Keep o t z s (s.feedGoesStale b) :=
  Keep.after (Keep.onAll _) (Keep.of rfl rfl rfl rfl rfl rfl rfl rfl rfl rfl rfl rfl rfl)

theorem Keep.setClk (n : Nat) (f : Clk → Clk) : Keep o t z s (s.setCh n { s.ch n with clk := f (s.ch n).clk }) :=
  Keep.setCh fun q => q.ofEq rfl rfl rfl rfl rfl

theorem Keep.onClks (q n : Nat) (f : Clk → Clk) : Keep o t z s (s.onClks q n f) := Keep.foldl (fun _ _ => Keep.setClk ..) _ s

theorem Keep.noteFallback (q : Nat) : Keep o t z s (s.noteFallback q) := by
  unfold State.noteFallback
  refine Keep.ite (Keep.refl s) ?_
  split
  · exact Keep.of rfl rfl rfl rfl rfl rfl rfl rfl rfl rfl rfl rfl rfl
  · exact Keep.onClks ..

theorem Keep.brings (m : MemErr) : Keep o t z s (s.brings m) := by
  unfold State.brings
  split
  · exact Keep.of rfl rfl rfl rfl rfl rfl rfl rfl rfl rfl rfl rfl rfl
  · exact Keep.noteFallback _
  · exact Keep.refl s

theorem Keep.telemetry (b cls power : Nat) (fallback : Bool) : Keep o t z s (s.telemetry b cls power fallback) := by
  unfold State.telemetry
  refine Keep.ite (Keep.refl s) (Keep.after (Keep.onAll _) ?_)
  exact Keep.after (Keep.ite (Keep.noteFallback _) (Keep.refl _)) (Keep.of rfl rfl rfl rfl rfl rfl rfl rfl rfl rfl rfl rfl rfl)

theorem Keep.feedTimeout (b : Nat) : Keep o t z s (s.feedTimeout b) := Keep.ite (Keep.feedGoesStale b) (Keep.refl s)

theorem Keep.noteQuarantine (q dropped : Nat) : Keep o t z s (s.noteQuarantine q dropped) := by
  unfold State.noteQuarantine
  split
  · exact Keep.of rfl rfl rfl rfl rfl rfl rfl rfl rfl rfl rfl rfl rfl
  · exact Keep.onClks ..

theorem Keep.dropTransfers (q : Nat) : Keep o t z s (s.dropTransfers q).1 := by
  unfold State.dropTransfers
  dsimp only
  split
  · exact Keep.of rfl rfl rfl rfl rfl rfl rfl rfl rfl rfl rfl rfl rfl
  · split
    · exact Keep.onAll _
    · refine ⟨rfl, rfl, rfl, fun _ => rfl, fun _ => rfl, id, fun _ h => ⟨h.1, fun a ha => h.2 a ?_⟩, id⟩
      exact (List.mem_filter.mp ha).1

theorem Keep.quarantine (q dropped : Nat) : Keep o t z s (s.quarantine q dropped) := by
  unfold State.quarantine
  refine Keep.ite (Keep.refl s) ?_
  have h1 : ∀ k : Ck, Keep o t z s { s with ck := k } := fun k => Keep.of rfl rfl rfl rfl rfl rfl rfl rfl rfl rfl rfl rfl rfl
  have h3 := fun (k : Ck) (f : Env → Ch → Ch) (l : List Nat) (lost : Nat) =>
    Keep.after (o := o) (t := t) (z := z) (Keep.noteQuarantine q lost) (Keep.after (Keep.dropTransfers q) (Keep.after (Keep.onList f l) (h1 k)))
  have h4 := fun (k : Ck) (f : Env → Ch → Ch) (l : List Nat) (lost : Nat) (c : Cause) =>
    Keep.ite (p := lost = 0) (h3 k f l lost) (Keep.after (Keep.raiseShared .ck 3 c) (h3 k f l lost))
  exact Keep.ite (Keep.after (Keep.feedGoesStale _) (h4 ..)) (h4 ..)

theorem Keep.exchangeDone (q : Nat) : Keep o t z s (s.exchangeDone q) := by
  unfold State.exchangeDone
  exact Keep.ite (Keep.refl s) (Keep.after (Keep.onList ..) (Keep.of rfl rfl rfl rfl rfl rfl rfl rfl rfl rfl rfl rfl rfl))

theorem Keep.exchangeLate (q : Nat) : Keep o t z s (s.exchangeLate q) := by
  unfold State.exchangeLate
  split
  · exact Keep.refl s
  · exact Keep.after (Keep.raiseShared ..) (Keep.of rfl rfl rfl rfl rfl rfl rfl rfl rfl rfl rfl rfl rfl)

theorem Keep.setPll : Keep o t z s s.setPll := by
  unfold State.setPll
  exact Keep.ite (Keep.refl s) (Keep.of rfl rfl rfl rfl rfl rfl rfl rfl rfl rfl rfl rfl rfl)

theorem Keep.lockLost : Keep o t z s s.lockLost := by
  unfold State.lockLost
  have h1 : ∀ k : Ck, Keep o t z s { s with ck := k } := fun k => Keep.of rfl rfl rfl rfl rfl rfl rfl rfl rfl rfl rfl rfl rfl
  exact Keep.ite (Keep.refl s) (Keep.ite (Keep.after (Keep.raiseShared ..) (h1 _)) (h1 _))

theorem Keep.unmatched (n k : Nat) : Keep o t z s (s.unmatched n k) := by
  unfold State.unmatched
  exact Keep.ite (Keep.refl s) (Keep.after (Keep.diverge ..) (Keep.setPair _ _ fun q => q.pair n))

theorem Keep.slumberWake (n : Nat) : Keep o t z s (s.slumberWake n) := by
  unfold State.slumberWake
  exact Keep.ite (Keep.refl s) (Keep.after (Keep.atChan ..) (Keep.ite (Keep.raiseShared ..) (Keep.refl s)))

theorem Keep.tmExpires : Keep o t z s s.tmExpires := by
  unfold State.tmExpires
  exact Keep.ite (Keep.of rfl rfl rfl rfl rfl rfl rfl rfl rfl rfl rfl rfl rfl) (Keep.refl s)

/-! ## Start-up and restart -/

theorem Keep.sectionFails (src n code : Nat) : Keep o t z s (s.sectionFails src n code) :=
  Keep.after (Keep.raiseShared ..) (Keep.onCl _)

theorem Keep.sectionLoads (n : Nat) : Keep o t z s (s.sectionLoads n) := Keep.onCl _

theorem Keep.runImage (n : Nat) (m : Img) : Keep o t z s (s.runImage n m) := (Keep.onChan ..).trans (Keep.busyNow _)

theorem Keep.refuseGate (code : Nat) : Keep o t z s (s.refuseGate code) := by
  unfold State.refuseGate
  exact Keep.after (Keep.sectionFails ..) (Keep.of rfl rfl rfl rfl rfl rfl rfl rfl rfl rfl rfl rfl rfl)

theorem Keep.gateReady : Keep o t z s s.gateReady := by
  unfold State.gateReady
  exact Keep.ite (Keep.refl s) (Keep.of rfl rfl rfl rfl rfl rfl rfl rfl rfl rfl rfl rfl rfl)

theorem Keep.gateTimeout : Keep o t z s s.gateTimeout := Keep.ite (Keep.refuseGate _) (Keep.refl s)

theorem Keep.restartFails (n code : Nat) : Keep o t z s (s.restartFails n code) :=
  Keep.after (Keep.sectionFails ..) (Keep.after (Keep.onCl _) (Keep.onChan ..))

theorem Keep.restart (n : Nat) : Keep o t z s (s.restart n) := by
  unfold State.restart
  refine Keep.ite (Keep.refl s) ?_
  refine Keep.after (Keep.onCl _) (Keep.after (Keep.ite (Keep.refl _) (Keep.setPair _ _ fun _ => Nat.zero_le _)) (Keep.after (Keep.ite ?_ (Keep.refl _)) (Keep.onChan n .none Ch.restart)))
  exact Keep.setCh fun _ => ⟨rfl, rfl, rfl, rfl, rfl⟩

theorem Keep.reinitFor (n : Nat) : Keep o t z s (s.reinitFor n) := Keep.ite (Keep.after (Keep.onCl _) (Keep.leave _)) (Keep.refl s)

theorem Keep.retryRead (a m : Nat) (ok : Bool) : Keep o t z s (s.retryRead a m ok) := by
  unfold State.retryRead
  exact Keep.leave _

theorem Keep.restartSlot (n : Nat) (burst : List Byte) : Keep o t z s (s.restartSlot n burst) := by
  unfold State.restartSlot
  refine Keep.ite (Keep.refl s) ?_
  dsimp only
  split
  · exact Keep.onCl _
  · exact Keep.after (Keep.onCl _) (Keep.ite (Keep.after (Keep.reinitFor _) (Keep.onCl _))
      (Keep.after (Keep.leave _) (Keep.after (Keep.reinitFor _) (Keep.onCl _))))

theorem Keep.restartDone (n : Nat) : Keep o t z s (s.restartDone n) := by
  unfold State.restartDone
  split
  · exact Keep.refl s
  · refine Keep.ite (Keep.refl s) ?_
    split
    · exact Keep.restartFails ..
    · exact Keep.after (Keep.runImage ..) (Keep.after (Keep.sectionLoads _) (Keep.onCl _))

theorem Keep.flashTimeout (read : Nat) (ok : Bool) : Keep o t z s (s.flashTimeout read ok) := by
  unfold State.flashTimeout
  split
  · unfold State.loadTimeout
    exact Keep.ite (Keep.after (Keep.raiseShared ..) (Keep.onCl _)) (Keep.ite (Keep.after (Keep.onCl _) (Keep.retryRead ..))
      (Keep.after (Keep.raiseShared ..) (Keep.after (Keep.onCl _) (Keep.retryRead ..))))
  · unfold State.restartTimeout
    dsimp only
    split
    · exact Keep.refl s
    · have h1 : ∀ (s : State) (n : Nat) (f : Cl → Cl), Keep o t z s ((s.onCl f).restartFails n leFlash) :=
        fun _ _ _ => Keep.after (Keep.restartFails ..) (Keep.onCl _)
      exact Keep.ite (h1 ..) (Keep.ite (Keep.after (Keep.onCl _) (Keep.retryRead ..)) (Keep.after (h1 ..) (Keep.retryRead ..)))
  · exact Keep.refl s

/-- Every channel takes a new state that is between commands where the old one was. -/
theorem Keep.allCh {f : Ch → Ch} (h : ∀ c : Ch, c.Quiet → (f c).Quiet) :
    Keep o t z s { s with chA := f s.chA, chB := f s.chB, chC := f s.chC, chD := f s.chD } :=
  ⟨rfl, rfl, rfl, fun _ => rfl, fun _ => rfl, fun q => ⟨h _ q.1, h _ q.2.1, h _ q.2.2.1, h _ q.2.2.2⟩, fun _ => id, id⟩

theorem Ch.Quiet.loadsNothing {c : Ch} (h : c.Quiet) : c.loadsNothing.Quiet := by
  unfold Ch.loadsNothing Ch.setSt; (repeat' split) <;> exact h

theorem Keep.openGate : Keep o false z s s.openGate := by
  unfold State.openGate
  refine Keep.after (Keep.allCh fun c q => q.loadsNothing) (Keep.trans (b := _) ?_ (Keep.foldl (fun _ _ => Keep.runImage ..) _ _))
  refine ⟨rfl, rfl, rfl, fun _ => rfl, fun h => (Bool.false_ne_true h).elim, id, fun _ => id, fun _ => ⟨?_, ?_⟩⟩ <;>
    · dsimp only; unfold pairOf; split <;> exact Nat.zero_le 1

theorem Keep.gateWrite (v : Nat) : Keep o false z s (s.gateWrite v) :=
  Keep.ite (Keep.refl s) (Keep.ite (Keep.refuseGate _) (Keep.ite Keep.openGate (Keep.refl s)))

/-! ## Power-on -/

theorem Ch.Quiet.loadFails {c : Ch} (h : c.Quiet) (code : Nat) : (c.loadFails code).Quiet := by
  unfold Ch.loadFails Ch.setSt; split <;> exact h

theorem Keep.loadProt (bs : List Byte) : Keep o t z s (s.loadProt bs) := by
  unfold State.loadProt
  split
  · exact Keep.sectionFails ..
  · exact Keep.ite (Keep.sectionFails ..) (Keep.after (Keep.onCl _) (Keep.sectionLoads _))

theorem Keep.loadShrd (bs : List Byte) : Keep o t z s (s.loadShrd bs) := by
  unfold State.loadShrd
  refine Keep.ite (Keep.refl s) ?_
  split
  · exact Keep.sectionFails ..
  · exact Keep.ite (Keep.sectionFails ..) (Keep.after (Keep.onCl _) (Keep.sectionLoads _))

theorem Keep.loadLink (bs : List Byte) : Keep o t z s (s.loadLink bs) := by
  unfold State.loadLink
  refine Keep.ite (Keep.refl s) ?_
  split
  · exact Keep.ite (Keep.sectionFails ..) (Keep.refl s)
  · exact Keep.ite (Keep.after (Keep.sectionFails ..) (Keep.onCl _))
      (Keep.after (Keep.onCl _) (Keep.after (Keep.sectionLoads _) (Keep.onCl _)))

theorem Keep.onSides {f : Ch → Ch} (h : ∀ c : Ch, c.Quiet → (f c).Quiet) (n : Nat) : Keep o t z s (s.onSides n f) :=
  Keep.foldl (fun _ _ => Keep.setCh (h _)) _ s

theorem Ch.Quiet.setSt {c : Ch} (h : c.Quiet) (x : ChSt) : (c.setSt x).Quiet := by
  unfold Ch.setSt; split <;> exact h

theorem Keep.loadChan (bs : List Byte) (n : Nat) : Keep o t z s (s.loadChan bs n) := by
  have h1 : Keep o t z s (s.onSides n (Ch.setSt .loading)) := Keep.onSides (fun _ q => q.setSt _) n
  unfold State.loadChan
  refine Keep.ite (Keep.refl s) ?_
  split
  · exact Keep.refl s
  · dsimp only
    split
    · exact Keep.after (Keep.sectionFails ..) (Keep.after (Keep.onSides (fun _ q => q.loadFails _) n) h1)
    · exact Keep.ite (Keep.after (Keep.sectionLoads _) h1) (Keep.after (Keep.onCl _) (Keep.after (Keep.sectionLoads _) h1))

theorem Keep.checkDigest (bs : List Byte) : Keep o t z s (s.checkDigest bs) := by
  unfold State.checkDigest
  exact Keep.ite (Keep.refl s) (Keep.ite (Keep.onCl _) (Keep.after (Keep.sectionFails ..) (Keep.onCl _)))

theorem Keep.noteStop (bs : List Byte) : Keep o t z s (s.noteStop bs) := by
  unfold State.noteStop
  exact Keep.ite (Keep.refl s) (Keep.onCl _)

theorem Keep.readImage (f : FlashDev) : Keep o t z s (s.readImage f) := by
  unfold State.readImage
  refine Keep.ite (Keep.after (Keep.sectionFails ..) (Keep.after (Keep.onCl _) (Keep.onCl _))) ?_
  exact Keep.after (Keep.noteStop _) (Keep.after (Keep.checkDigest _)
    (Keep.after (Keep.foldl (fun _ _ => Keep.loadChan ..) _ _)
      (Keep.after (Keep.loadLink _) (Keep.after (Keep.loadShrd _) (Keep.after (Keep.loadProt _)
        (Keep.after (Keep.sectionLoads _) (Keep.after (Keep.onCl _) (Keep.onCl _))))))))

/-- The block as SCE_POR_N is released: time starts, and the PLLs lock. -/
abbrev State.powered (s : State) : State :=
  { s with por := false, time := 0, coreK := 0, xspiResetN := true, ck := { s.ck with pll := .locking } }

theorem Keep.powerUp (f : FlashDev) : Keep o t z s.powered (s.powerUp f) := by
  unfold State.powerUp
  refine Keep.ite (Keep.after (Keep.raiseShared ..) (Keep.after (Keep.leave _) (Keep.onCl _))) ?_
  dsimp only
  split
  · exact Keep.after (Keep.raiseShared ..) (Keep.after (Keep.leave _) (Keep.after (Keep.onCl _) (Keep.onCl _)))
  · exact Keep.ite (Keep.after (Keep.raiseShared ..) (Keep.after (Keep.leave _) (Keep.after (Keep.onCl _) (Keep.onCl _))))
      (Keep.after (Keep.leave _) (Keep.after (Keep.readImage _) (Keep.after (Keep.leave _) (Keep.after (Keep.onCl _) (Keep.onCl _)))))

/-! ## Fault sets -/

theorem Ch.Quiet.setFault {c : Ch} (h : c.Quiet) (u : Sub) (f : FaultSet) : (c.setFault u f).Quiet := by
  cases u <;> exact h

theorem Keep.setUnit (u : FltUnit) (f : FaultSet) : Keep o t z s (s.setUnit u f) := by
  cases u with
  | chan c u => exact Keep.setCh fun q => q.setFault u f
  | shared u => exact Keep.setShared ..

theorem Keep.onUnit (u : FltUnit) (f : FaultSet → FaultSet) : Keep o t z s (s.onUnit u f) := Keep.setUnit ..

theorem Keep.ackUnit (u : FltUnit) (v : Nat) : Keep o t z s (s.ackUnit u v) := by
  unfold State.ackUnit
  refine Keep.ite ?_ (Keep.refl s)
  cases u with
  | chan c k => exact Keep.onUnit ..
  | shared k =>
    refine (Keep.onUnit (.shared k) ackSet).trans ?_
    cases k <;> first | exact Keep.refl _ | exact Keep.of rfl rfl rfl rfl rfl rfl rfl rfl rfl rfl rfl rfl rfl

theorem Keep.onSideFault (k : Nat) (f : Env → Ch → Ch) : Keep o t z s (s.onSideFault k f) := by
  unfold State.onSideFault
  generalize (if s.isSecond k then k - 1 else k) = n
  dsimp only
  split
  · split
    · exact Keep.dropSide ..
    · exact Keep.finish ..
  · exact Keep.onSide ..

theorem Keep.forceShared (u : SharedSub) (v : Nat) : Keep o t z s (s.forceShared u v) :=
  Keep.after (Keep.foldl (fun _ _ => Keep.raiseSharedAs ..) _ _) (Keep.setShared ..)

theorem Keep.armBoth (k : Nat) (u : Sub) (v : Nat) : Keep o t z s (s.armBoth k u v) :=
  Keep.ite (Keep.setCh fun q => q.ofEq rfl rfl rfl rfl rfl) (Keep.refl s)

theorem Keep.stopLoads : Keep o t z s s.stopLoads := by unfold State.stopLoads; exact Keep.onCl _

theorem Keep.forceUnit (u : FltUnit) (v : Nat) : Keep o t z s (s.forceUnit u v) := by
  cases u with
  | chan c k => exact Keep.after Keep.stopLoads (Keep.after (Keep.onSideFault ..) (Keep.armBoth ..))
  | shared k => exact Keep.forceShared ..

theorem Keep.writeFault (u : FltUnit) (off v : Nat) : Keep o t z s (s.writeFault u off v) := by
  unfold State.writeFault
  generalize s.unitWritten u = u
  unfold State.writeFaultOf
  split
  · exact Keep.onUnit ..
  · exact Keep.forceUnit ..
  · exact Keep.ackUnit ..
  · exact Keep.onUnit ..
  · exact Keep.onUnit ..
  · exact Keep.refl s

theorem Keep.endShadows : Keep o t z s s.endShadows := ⟨rfl, rfl, rfl, fun _ => rfl, fun _ => rfl, id, fun _ => id, id⟩

/-! ## The table change -/

theorem Pt.abortChange_table (p : Pt) (r c : Nat) : (p.abortChange r c).table = p.table := rfl

theorem Pt.result_table (p : Pt) (st : Bool) (a b c : Nat) : (p.result st a b c).table = p.table := by
  cases st <;> rfl

theorem Pt.opens_table (p : Pt) (st : Bool) (v : Nat) : (p.opens st v).table = p.table := by
  unfold Pt.opens; (repeat' split) <;> first | rfl | simp only [Pt.result_table]

theorem Pt.stageWord_table (p : Pt) (st : Bool) (v : Nat) : (p.stageWord st v).table = p.table := by
  unfold Pt.stageWord; (repeat' split) <;> rfl

theorem Pt.submit_table (p : Pt) (st : Bool) (v : Nat) : (p.submit st v).table = p.table := by
  unfold Pt.submit; (repeat' split) <;> first | rfl | simp only [Pt.result_table, Pt.abortChange_table]

theorem Pt.checked_table (p : Pt) (v : Nat) : (p.checked v).table = p.table := by
  unfold Pt.checked; dsimp only; (repeat' split) <;> first | rfl | simp only [Pt.result_table, Pt.abortChange_table]

theorem Pt.approve_table (p : Pt) (st : Bool) (v : Nat) : (p.approve st v).table = p.table := by
  unfold Pt.approve; (repeat' split) <;> first | rfl | simp only [Pt.result_table, Pt.abortChange_table]

theorem Pt.abort_table (p : Pt) (st : Bool) : (p.abort st).table = p.table := by
  unfold Pt.abort; (repeat' split) <;> first | rfl | simp only [Pt.result_table, Pt.abortChange_table]

theorem Keep.readTable (staging : Bool) : Keep o t z s (s.readTable staging).1 := by
  have h : Keep o t z s (s.sharedForce .pt (if staging then 9 else 8) 0 0 256).1 := Keep.sharedForce ..
  unfold State.readTable
  dsimp only
  generalize s.sharedForce .pt (if staging then 9 else 8) 0 0 256 = r at h
  split
  · exact Keep.after (Keep.correctedShared ..) h
  · split
    · dsimp only
      exact Keep.after (Keep.raiseShared ..) h
    · exact h

theorem Keep.readStage : Keep o t z s s.readStage.1 := by
  unfold State.readStage
  dsimp only
  split
  · refine (Keep.readTable true).trans ?_
    refine Keep.of rfl rfl rfl rfl ?_ rfl rfl rfl rfl rfl rfl rfl rfl
    show (Pt.abortChange _ _ _).table = _
    rw [Pt.abortChange_table]
    split <;> simp only [Pt.result_table]
  · exact Keep.readTable true

theorem Keep.submitDone : Keep o t z s s.submitDone := by
  unfold State.submitDone
  refine Keep.ite ?_ (Keep.refl s)
  exact Keep.ite Keep.readStage (Keep.after (Keep.onPt fun p => Pt.checked_table p _) Keep.readStage)

theorem Keep.applyTable : Keep o false z s s.applyTable := by
  have h : ∀ (a b : Bool) (p : Pair), p.survivor ≤ 1 → (p.commit a b).survivor ≤ 1 := by
    intro a b p hp; unfold Pair.commit; (repeat' split) <;> first | exact hp | exact Nat.zero_le 1
  exact ⟨rfl, rfl, rfl, fun _ => rfl, fun h => (Bool.false_ne_true h).elim, id, fun _ => id, fun q => ⟨h _ _ _ q.1, h _ _ _ q.2⟩⟩

theorem Keep.applyChange : Keep o false z s s.applyChange := by
  unfold State.applyChange
  exact Keep.ite Keep.readStage (Keep.after Keep.applyTable Keep.readStage)

theorem Keep.commitHold : Keep o false z s s.commitHold := by
  unfold State.commitHold
  exact Keep.ite (Keep.refl s) (Keep.ite Keep.applyChange (Keep.ite (Keep.onList ..)
    (Keep.ite (Keep.onPt fun _ => rfl) (Keep.refl s))))

theorem Keep.commitNow : Keep o false z s s.commitNow :=
  Keep.ite (Keep.refl s) (Keep.ite Keep.applyChange (Keep.onPt fun _ => rfl))

theorem Keep.windowExpires : Keep o t z s s.windowExpires := Keep.ite (Keep.onPt fun _ => rfl) (Keep.refl s)

/-! ## Registers -/

theorem Keep.writeCtl (n v : Nat) : Keep o t z s (s.writeCtl n v) :=
  Keep.ite (Keep.restart n) (Keep.ite (Keep.onChan ..) (Keep.refl s))

theorem Keep.writeMap (who : Requester) (n v : Nat) : Keep o t z s (s.writeMap who n v) := Keep.onChan ..

theorem Keep.writeSecond (k page off v : Nat) : Keep o t z s (s.writeSecond k page off v) :=
  Keep.ite (Keep.setCh fun q => q.ofEq rfl rfl rfl rfl rfl) (Keep.onSideFault ..)

theorem Keep.writeWindow (who : Requester) (off v : Nat) : Keep o t z s (s.writeWindow who off v) := by
  unfold State.writeWindow
  exact Keep.ite (Keep.writeSecond ..) (Keep.ite (Keep.writeCtl ..) (Keep.ite (Keep.writeMap ..) (Keep.onChan ..)))

theorem Keep.ptCommand (who : Requester) (cmd : Nat) {f : Pt → Pt} (h : ∀ p, (f p).table = p.table) :
    Keep o t z s (s.ptCommand who cmd f) :=
  Keep.ite (Keep.onPt fun p => Pt.result_table p _ _ _ _) (Keep.onPt h)

theorem Keep.ptOpen (who : Requester) (v : Nat) : Keep o t z s (s.ptOpen who v) :=
  Keep.after (Keep.ptCommand _ _ fun p => Pt.opens_table p _ _) (Keep.ite (Keep.readTable false) (Keep.refl s))

/-- A write of a PT register leaves the committed table alone, but for the steward's write of PT_LOAD_GATE. -/
theorem Keep.writePt (who : Requester) (off v : Nat) (h : t = true → isSteward who = false ∨ off ≠ 0x140) :
    Keep o t z s (s.writePt who off v) := by
  unfold State.writePt
  dsimp only
  split
  · exact Keep.ptOpen ..
  · exact Keep.ptCommand _ _ fun p => Pt.submit_table p _ _
  · exact Keep.ptCommand _ _ fun p => Pt.approve_table p _ _
  · exact Keep.ptCommand _ _ fun p => Pt.abort_table p _
  · exact Keep.onPt fun _ => rfl
  · exact Keep.ite (Keep.refl s) (Keep.onPt fun p => Pt.stageWord_table p _ _)
  · exact Keep.onPt fun _ => rfl
  · cases t with
    | false => exact Keep.ite (Keep.gateWrite v) (Keep.refl s)
    | true =>
      rcases h rfl with h | h
      · simp only [h, Bool.false_eq_true, if_false]; exact Keep.refl s
      · exact absurd rfl h
  · exact Keep.refl s

theorem Keep.writeTm (off v : Nat) : Keep o t z s (s.writeTm off v) := by
  unfold State.writeTm
  split
  · exact Keep.of rfl rfl rfl rfl rfl rfl rfl rfl rfl rfl rfl rfl rfl
  · exact Keep.ite (Keep.of rfl rfl rfl rfl rfl rfl rfl rfl rfl rfl rfl rfl rfl) (Keep.refl s)
  · exact Keep.of rfl rfl rfl rfl rfl rfl rfl rfl rfl rfl rfl rfl rfl
  · exact Keep.refl s

theorem Hp.sendAck_eq (h : Hp) (x : Nat) : (h.sendAck x).queues = h.queues ∧ (h.sendAck x).atPort = h.atPort := by
  unfold Hp.sendAck Hp.ackFlow
  dsimp only
  (repeat' split) <;> exact ⟨rfl, rfl⟩

theorem Keep.errAck (v : Nat) : Keep o t z s (s.errAck v) := by
  unfold State.errAck
  refine Keep.ite ?_ (Keep.refl s)
  exact Keep.of rfl rfl rfl rfl rfl rfl rfl rfl rfl (Hp.sendAck_eq ..).1 rfl rfl (Hp.sendAck_eq ..).2

theorem Keep.writeReg (who : Requester) (off v : Nat) (h : t = true → isSteward who = false ∨ off ≠ 0x3140) :
    Keep o t z s (s.writeReg who off v) := by
  unfold State.writeReg
  split
  · exact Keep.writeFault ..
  · refine Keep.ite (Keep.writeWindow ..) ?_
    split
    · exact Keep.ite (Keep.errAck _) (Keep.refl s)
    · rename_i hp
      exact Keep.writePt _ _ _ fun ht => (h ht).imp id (fun hne he => hne (by omega))
    · exact Keep.writeTm ..
    · exact Keep.refl s

theorem Ch.Quiet.clearRead {c : Ch} (h : c.Quiet) (page off : Nat) : (c.clearRead page off).Quiet := by
  unfold Ch.clearRead
  split <;> first | exact h | skip
  split <;> exact h

theorem Keep.clearRead (off : Nat) : Keep o t z s (s.clearRead off) := by
  unfold State.clearRead
  dsimp only
  split
  · exact Keep.ite (Keep.refl s) (Keep.setCh fun q => q.clearRead _ _)
  · exact Keep.ite (Keep.of rfl rfl rfl rfl rfl rfl rfl rfl rfl rfl rfl rfl rfl) (Keep.refl s)

/-! ## The host port -/

theorem Keep.answer (a : Access) (v : Nat) (e : Bool) : Keep o t z s (s.answer a v e) := Keep.leave _

theorem Keep.deny (a : Access) (fn cause : Nat) : Keep o t z s (s.deny a fn cause) := by
  unfold State.deny
  exact Keep.after (Keep.answer ..) (Keep.of rfl rfl rfl rfl rfl rfl rfl rfl rfl rfl rfl rfl rfl)

theorem Keep.effect (a : Access) (h : t = true → isSteward a.who = false ∨ a.offset ≠ 0x3140 ∨ a.write = false) :
    Keep o t z s (s.effect a) := by
  unfold State.effect
  dsimp only
  generalize hs : (if queueOf a.offset = 0 then s else s.busyNow (s.firstOf (queueOf a.offset - 1))) = s0
  have h0 : Keep o t z s s0 := by rw [← hs]; exact Keep.ite (Keep.refl s) (Keep.busyNow _)
  by_cases hw : a.write = true
  · rw [if_pos hw]
    have h1 : Keep o t z s (s0.writeReg a.who a.offset a.value) :=
      Keep.after (Keep.writeReg _ _ _ fun ht => (h ht).imp id fun x => x.resolve_right (by rw [hw]; decide)) h0
    exact Keep.ite h1 (Keep.after (Keep.answer ..) h1)
  · rw [if_neg hw]
    exact Keep.after (Keep.answer ..) (Keep.after (Keep.clearRead _) h0)

theorem Keep.perform (a : Access) (h : t = true → isSteward a.who = false ∨ a.offset ≠ 0x3140 ∨ a.write = false) :
    Keep o t z s (s.perform a) := by
  unfold State.perform
  have h1 : ∀ x y, Keep o t z s { s with hp := { s.hp with issued := x, arb := y } } :=
    fun _ _ => Keep.of rfl rfl rfl rfl rfl rfl rfl rfl rfl rfl rfl rfl rfl
  dsimp only
  refine Keep.ite ?_ (Keep.ite ?_ ?_)
  · exact Keep.after (Keep.answer ..) (Keep.after (Keep.raiseShared ..) (Keep.after (Keep.sharedForce ..) (h1 _ _)))
  · exact Keep.after (Keep.effect a h) (Keep.after (Keep.correctedShared ..) (Keep.after (Keep.sharedForce ..) (h1 _ _)))
  · exact Keep.after (Keep.effect a h) (Keep.after (Keep.sharedForce ..) (h1 _ _))

/-- The accesses that wait in a queue come from where they were listed. -/
theorem State.HostQueues.waiting (h : s.HostQueues) (q : Nat) : ∀ a ∈ s.hp.waiting q, isSteward a.who = false := by
  unfold Hp.waiting
  rcases SMap.get_mem (d := ([] : List Access)) s.hp.queues q with he | he
  · rw [he]; intro a ha; cases ha
  · exact h.1 _ he

/-- The access queues and what waits for them hold other host accesses. -/
theorem Keep.setWaiting (k : Hp) (h : z = true → s.HostQueues → ({ s with hp := k } : State).HostQueues) : Keep o t z s { s with hp := k } :=
  ⟨rfl, rfl, rfl, fun _ => rfl, fun _ => rfl, id, h, id⟩

/-- A queue takes another list of host accesses. -/
theorem State.HostQueues.put {q : Nat} {l : List Access} {k : Hp} (h : s.HostQueues) (hk : k.queues = s.hp.queues.put [] q l)
    (ha : k.atPort = s.hp.atPort) (hl : ∀ a ∈ l, isSteward a.who = false) : ({ s with hp := k } : State).HostQueues := by
  refine ⟨fun p hp a hx => ?_, fun a hx => h.2 a (ha ▸ hx)⟩
  rw [show ({ s with hp := k } : State).hp.queues = s.hp.queues.put [] q l from hk] at hp
  rcases SMap.mem_put hp with hp | hp
  · exact h.1 p hp a hx
  · subst hp; exact hl a hx

theorem Keep.wakeFor (q : Nat) : Keep o t z s (s.wakeFor q) := Keep.ite (Keep.onOwn ..) (Keep.refl s)

/-- An access of a host function waits for a full queue. -/
theorem Keep.atPort (a : Access) (w : Nat) (h : z = true → isSteward a.who = false) :
    Keep o t z s { s with hp := { s.hp with atPort := s.hp.atPort ++ [(a, w)] } } := by
  refine Keep.setWaiting _ fun hz hq => ⟨hq.1, fun b hb => ?_⟩
  rcases List.mem_append.mp hb with hb | hb
  · exact hq.2 b hb
  · rw [List.mem_singleton.mp hb]; exact h hz

theorem Keep.enqueue (a : Access) (w : Nat) (h : z = true → isSteward a.who = false) : Keep o t z s (s.enqueue a w) := by
  unfold State.enqueue
  refine Keep.ite (Keep.atPort a w h) (Keep.after (Keep.wakeFor _) (Keep.setWaiting _ fun hz hq => hq.put rfl rfl fun b hb => ?_))
  rcases List.mem_append.mp hb with hb | hb
  · exact hq.waiting _ b hb
  · rw [List.mem_singleton.mp hb]; exact h hz

theorem Keep.haltAnswer (a : Access) : Keep o t z s (s.haltAnswer a) := by
  unfold State.haltAnswer
  refine Keep.after (Keep.answer ..) ?_
  split
  · exact Keep.ptCommand _ _ fun _ => rfl
  · exact Keep.refl s

theorem Keep.letIn (a : Access) (w : Nat) (hz : t = true → z = true) (h : z = true → isSteward a.who = false) :
    Keep o t z s (s.letIn a w) :=
  Keep.ite (Keep.haltAnswer a) (Keep.ite (Keep.perform a fun ht => .inl (h (hz ht)))
    (Keep.ite (Keep.enqueue a w h) (Keep.perform a fun ht => .inl (h (hz ht)))))

theorem Keep.seat (fn : Nat) (a : Access) (w : Nat) (hz : t = true → z = true) (h : z = true → isSteward a.who = false) :
    Keep o t z s (s.seat fn a w) := by
  unfold State.seat
  split
  · exact Keep.deny ..
  · exact Keep.letIn a w hz h

theorem Keep.access (a : Access) (w : Nat) (h : t = true → isSteward a.who = false ∨ a.offset ≠ 0x3140 ∨ a.write = false) :
    Keep o t z s (s.access a w) := by
  unfold State.access
  refine Keep.ite (Keep.refl s) ?_
  split
  · exact Keep.ite (Keep.effect a h) (Keep.answer ..)
  · rename_i hw
    have hs : isSteward a.who = false := by rw [hw]; rfl
    exact Keep.ite (Keep.weaken (Keep.seat _ a w id fun _ => hs)) (Keep.atPort a w fun _ => hs)

theorem Keep.hostWrite (who : Requester) (off v : Nat) (h : t = true → isSteward who = false ∨ off ≠ 0x3140) :
    Keep o t z s (s.hostWrite who off v) := Keep.access _ _ fun ht => (h ht).imp id .inl

/-! ### The arbiter: with host accesses only, the committed table stays -/

theorem Keep.admitWaiting (n : Nat) (s : State) (hz : t = true → z = true) (h : z = true → s.HostQueues) : Keep o t z s (s.admitWaiting n) := by
  induction n generalizing s with
  | zero => exact Keep.refl s
  | succ n ih =>
    unfold State.admitWaiting
    split
    · exact Keep.refl s
    · rename_i a w rest he
      refine Keep.ite (Keep.refl s) ?_
      have ha : z = true → isSteward a.who = false := fun x => (h x).2 (a, w) (by rw [he]; exact List.mem_cons_self)
      have h1 : Keep o t z s { s with hp := { s.hp with atPort := rest } } :=
        Keep.setWaiting _ fun _ hq => ⟨hq.1, fun b hb => hq.2 b (by rw [he]; exact List.mem_cons_of_mem _ hb)⟩
      have h2 := fun fn => Keep.after (Keep.seat (o := o) (t := t) (z := z) fn a w hz ha) (Keep.after Keep.renew h1)
      exact (h2 _).trans (ih _ fun x => (h2 _).hosts x (h x))

theorem Keep.issueFrom (q : Nat) (hz : t = true → z = true) (h : z = true → s.HostQueues) : Keep o t z s (s.issueFrom q) := by
  unfold State.issueFrom
  split
  · exact Keep.refl s
  · rename_i a rest he
    have ha : z = true → isSteward a.who = false := fun x => (h x).waiting q a (by rw [he]; exact List.mem_cons_self)
    have h1 : ∀ x, Keep o t z s { s with hp := { s.hp with queues := s.hp.queues.put [] q rest, waits := x } } := fun x =>
      Keep.setWaiting _ fun _ hq => hq.put rfl rfl fun b hb => hq.waiting q b (by rw [he]; exact List.mem_cons_of_mem _ hb)
    dsimp only
    generalize hs1 : State.renew _ = s1
    have h2 : Keep o t z s s1 := by rw [← hs1]; exact Keep.after Keep.renew (h1 _)
    generalize hs2 : (if s1.refusedByHalt a = true then s1.haltAnswer a else s1.perform a) = s2
    have h3 : Keep o t z s s2 := by
      rw [← hs2]
      exact h2.trans (Keep.ite (Keep.haltAnswer a) (Keep.perform a fun ht => .inl (ha (hz ht))))
    exact h3.trans (Keep.admitWaiting _ _ hz fun x => h3.hosts x (h x))

theorem Keep.visit (q n : Nat) (s : State) (hz : t = true → z = true) (h : z = true → s.HostQueues) : Keep o t z s (s.visit q n) := by
  induction n generalizing s with
  | zero => exact Keep.refl s
  | succ n ih =>
    unfold State.visit
    have h1 := Keep.issueFrom (o := o) (t := t) (z := z) q hz h
    exact Keep.ite (h1.trans (ih _ fun x => h1.hosts x (h x))) (Keep.refl s)

theorem Keep.arbitrate (n : Nat) (s : State) (hz : t = true → z = true) (h : z = true → s.HostQueues) : Keep o t z s (s.arbitrate n) := by
  induction n generalizing s with
  | zero => exact Keep.refl s
  | succ n ih =>
    unfold State.arbitrate
    split
    · exact Keep.refl s
    · rename_i q _
      have h1 := Keep.visit (o := o) (t := t) (z := z) q (s.quotaOf q) s hz h
      have h2 : ∀ (s : State) (x : Nat), Keep o t z s { s with hp := { s.hp with arb := x } } :=
        fun _ _ => Keep.of rfl rfl rfl rfl rfl rfl rfl rfl rfl rfl rfl rfl rfl
      have h3 := h1.trans (h2 _ ((q + 1) % 5))
      exact h3.trans (ih _ fun x => h3.hosts x (h x))

theorem Keep.serveHost (hz : t = true → z = true) (h : z = true → s.HostQueues) : Keep o t z s s.serveHost := by
  unfold State.serveHost
  exact (Keep.arbitrate _ s hz h).trans (Keep.foldl (fun _ _ => Keep.ite (Keep.wakeFor _) (Keep.refl _)) _ _)

/-! ## The nodes -/

theorem Keep.issue (p : Packet) : Keep false t z s (s.issue p) := by
  refine ⟨by simp, by simp, by simp, fun h => (Bool.false_ne_true h).elim, fun _ => by simp, fun q => ?_, fun _ q => ?_, fun q => ?_⟩
  · unfold State.Quiet at *; simpa using q
  · unfold State.HostQueues at *; simpa using q
  · unfold State.PairsOk at *; simpa using q

theorem Keep.acknowledge (p : Packet) : Keep o t z s (s.acknowledge p) := Keep.ite (Keep.leave _) (Keep.refl s)

theorem Keep.noChannel (p : Packet) (op status tag : Nat) : Keep o t z s (s.noChannel p op status tag) := by
  unfold State.noChannel
  have h : Keep o t z s (s.onPt (fun k => { k with noChan := inc k.noChan })) := Keep.onPt fun _ => rfl
  exact Keep.after (Keep.ite (Keep.leave _) (Keep.leave _)) (Keep.after (Keep.ite (Keep.setShared ..) (Keep.refl _)) h)

theorem Keep.bayQ (l : List Packet) : Keep o t z s { s with bayQ := l } := Keep.of rfl rfl rfl rfl rfl rfl rfl rfl rfl rfl rfl rfl rfl

theorem Keep.forward (n : Nat) (p : Packet) : Keep o t z s (s.forward n p) := Keep.ite (Keep.atChan ..) (Keep.atChan ..)

theorem Keep.taken (p : Packet) : Keep o t z (s.issue p) (s.take p) := by
  have h : Keep o t z (s.issue p) ((s.issue p).acknowledge p) := Keep.acknowledge p
  unfold State.take
  dsimp only
  split
  · split
    · exact Keep.after (Keep.noChannel ..) h
    · exact Keep.after (Keep.atChan ..) h
  · split
    · exact Keep.after (Keep.noChannel ..) h
    · exact Keep.ite (Keep.after (Keep.bayQ _) h) (Keep.after (Keep.forward ..) h)

theorem Keep.onward (p : Packet) : Keep o t z s (s.onward p) := by
  unfold State.onward
  split
  · exact Keep.noChannel ..
  · exact Keep.ite (Keep.bayQ _) (Keep.forward ..)

theorem Keep.strobe (phys l : Nat) : Keep o t z s (s.strobe phys l) := by
  unfold State.strobe
  refine Keep.ite (Keep.refl s) ?_
  split
  · exact Keep.refl s
  · exact Keep.atChan ..

theorem Keep.takeReset (phys : Nat) : Keep o t z s (s.takeReset phys) := by
  unfold State.takeReset
  split
  · exact Keep.onPt fun _ => rfl
  · exact Keep.ite (Keep.atChan ..) (Keep.ite (Keep.setCh fun q => q.ofEq rfl rfl rfl rfl rfl) (Keep.atChan ..))

theorem Keep.resetEvent (phys : Nat) : Keep o t z s (s.resetEvent phys) := by
  unfold State.resetEvent
  have h : ∀ s : State, Keep o t z s (s.ackReset phys) := fun _ => Keep.of rfl rfl rfl rfl rfl rfl rfl rfl rfl rfl rfl rfl rfl
  exact Keep.ite (Keep.of rfl rfl rfl rfl rfl rfl rfl rfl rfl rfl rfl rfl rfl) (Keep.after (h _) (Keep.takeReset _))

theorem Keep.message (typ : Nat) (m : MsgIn) : Keep o t z s (s.message typ m) := by
  unfold State.message
  refine Keep.ite (Keep.refl s) ?_
  split
  · exact Keep.refl s
  · exact Keep.ite (Keep.atChan ..) (Keep.atChan ..)

theorem Keep.sendRemote (x : TrailerArg) (p : Nat) : Keep o t z s (s.sendRemote x p) := by
  unfold State.sendRemote
  split
  · exact Keep.refl s
  · exact Keep.ite (Keep.refl s) (Keep.atChan ..)

theorem Keep.credit (p : Nat) : Keep o t z s (s.credit p) := by
  unfold State.credit
  split
  · exact Keep.refl s
  · exact Keep.ite (Keep.refl s) (Keep.atChan ..)

theorem Keep.onPorts {f : Ch → Ch} (h : ∀ c : Ch, c.Quiet → (f c).Quiet) : Keep o t z s (s.onPorts f) :=
  ⟨rfl, rfl, rfl, fun _ => rfl, fun _ => rfl, fun q => ⟨h _ q.1, h _ q.2.1, h _ q.2.2.1, h _ q.2.2.2⟩, fun _ => id, id⟩

theorem Ch.Quiet.linkIsUp {c : Ch} (h : c.Quiet) (p : Nat) : (c.linkIsUp p).Quiet := by
  unfold Ch.linkIsUp; exact h

theorem Keep.links (l : Nat) : Keep o t z s { s with links := l } := Keep.of rfl rfl rfl rfl rfl rfl rfl rfl rfl rfl rfl rfl rfl

theorem Keep.linkUp (p : Nat) : Keep o t z s (s.linkUp p) := by
  have h : Keep o t z s (({ s with links := setBit s.links p }).onPorts (Ch.linkIsUp p)) :=
    Keep.after (Keep.onPorts fun c q => q.linkIsUp p) (Keep.links _)
  unfold State.linkUp
  dsimp only
  split
  · exact h
  · exact Keep.after (Keep.atChan ..) h

theorem Keep.linkLost (p : Nat) : Keep o t z s (s.linkLost p) := by
  unfold State.linkLost
  refine Keep.after (Keep.onPorts fun c q => q.ofEq rfl rfl rfl rfl rfl) (Keep.after (Keep.links _) ?_)
  split
  · exact Keep.refl s
  · exact Keep.atChan ..

/-! ## What waits -/

theorem Keep.serveResets (k : Nat) : Keep o t z s (s.serveResets k) := by
  unfold State.serveResets
  dsimp only
  refine Keep.ite (Keep.refl s) (Keep.after (Keep.foldl (fun _ _ => Keep.after (Keep.takeReset _) Keep.renew) _ _) ?_)
  have h : ∀ (s : State) (j : Nat) (l : List Nat), Keep o t z s (s.setCh j { s.ch j with ctl := { (s.ch j).ctl with resetQ := l } }) :=
    fun _ _ _ => Keep.setCh fun q => q.ofEq rfl rfl rfl rfl rfl
  exact Keep.ite (Keep.after (h ..) (h ..)) (h ..)

theorem Keep.serveChan (n : Nat) : Keep o t z s (s.serveChan n) := by
  have h := Keep.serveResets (o := o) (t := t) (z := z) (s := s) n
  exact Keep.ite (Keep.refl s) (Keep.ite h (Keep.after (Keep.atChan ..) (Keep.after Keep.renew h)))

theorem Keep.gateIdle (n : Nat) : Keep o t z s (s.gateIdle n) :=
  Keep.ite (Keep.setCh fun q => by unfold Ch.gateAgain; split <;> exact q) (Keep.refl s)

theorem Keep.nodeWait (l : List Packet) : Keep o t z s { s with nodeWait := l } :=
  Keep.of rfl rfl rfl rfl rfl rfl rfl rfl rfl rfl rfl rfl rfl

theorem Keep.resetWait (l : List Nat) : Keep o t z s { s with resetWait := l } :=
  Keep.of rfl rfl rfl rfl rfl rfl rfl rfl rfl rfl rfl rfl rfl

theorem Keep.take (p : Packet) : Keep false t z s (s.take p) := (Keep.issue p).trans (Keep.taken p)

theorem Keep.present (p : Packet) : Keep false t z s (s.present p) := Keep.ite (Keep.nodeWait _) (Keep.take p)

theorem Keep.packet (p : Packet) : Keep false t z s (s.packet p) := Keep.ite (Keep.refl s) (Keep.after (Keep.present p) (Keep.brings _))

theorem Keep.delivered (phys : Nat) : Keep false t z s (s.delivered phys) := by
  unfold State.delivered
  refine Keep.ite (Keep.refl s) ?_
  split
  · exact Keep.refl s
  · refine Keep.ite ?_ ?_ <;>
      exact ⟨rfl, rfl, rfl, fun h => (Bool.false_ne_true h).elim, fun _ => rfl, id, fun _ => id, id⟩

/-- The reset events that waited are taken, as far as they can be. -/
theorem Keep.resetsTaken (l : List Nat) : Keep o t z s (l.foldl (fun s p => s.renew.resetEvent p) { s with resetWait := [] }) :=
  Keep.after (Keep.foldl (fun _ _ => Keep.after (Keep.resetEvent _) Keep.renew) _ _) (Keep.resetWait _)

/-- The packets that waited at their bay nodes go on, as far as they can. -/
theorem Keep.baysServed (l : List Packet) : Keep o t z s (l.foldl (fun s p => s.renew.onward p) { s with bayQ := [] }) :=
  Keep.after (Keep.foldl (fun _ _ => Keep.after (Keep.onward _) Keep.renew) _ _) (Keep.bayQ _)

theorem Keep.serveWaiting (hz : t = true → z = true) (h : z = true → s.HostQueues) : Keep false t z s s.serveWaiting := by
  unfold State.serveWaiting
  dsimp only
  generalize hs1 : [0, 1, 2, 3].foldl State.serveChan s = s1
  have h1 : Keep false t z s s1 := by rw [← hs1]; exact Keep.foldl (fun _ _ => Keep.serveChan _) _ s
  generalize hs2 : s1.resetWait.foldl (fun s p => s.renew.resetEvent p) { s1 with resetWait := [] } = s2
  have h2 : Keep false t z s s2 := by rw [← hs2]; exact h1.trans (Keep.resetsTaken _)
  generalize hs3 : s2.bayQ.foldl (fun s p => s.renew.onward p) { s2 with bayQ := [] } = s3
  have h3 : Keep false t z s s3 := by rw [← hs3]; exact h2.trans (Keep.baysServed _)
  generalize hs4 : s3.nodeWait.foldl (fun s p => s.renew.present p) { s3 with nodeWait := [] } = s4
  have h4 : Keep false t z s s4 := by
    rw [← hs4]
    exact h3.trans (Keep.after (Keep.foldl (fun _ _ => Keep.after (Keep.present _) Keep.renew) _ _) (Keep.nodeWait _))
  exact h4.trans ((Keep.serveHost hz fun x => h4.hosts x (h x)).trans (Keep.foldl (fun _ _ => Keep.gateIdle _) _ _))

theorem Keep.afterwards (hz : t = true → z = true) (h : z = true → s.HostQueues) : Keep false t z s s.afterwards :=
  Keep.after Keep.setPll (Keep.ite (Keep.refl s) (Keep.serveWaiting hz h))

/-! ## The bound of R36 -/

theorem State.Bounded.keep {a b : State} (h : a.Bounded) (k : Keep true false false a b) : b.Bounded := by
  unfold State.Bounded at *; rw [k.out rfl]; exact h

/-- A node takes no 17th request, so taking what it may take keeps the bound. -/
theorem State.Bounded.present (h : s.Bounded) (p : Packet) : (s.present p).Bounded := by
  unfold State.present
  split
  · exact h
  · rename_i hw
    refine State.Bounded.keep ?_ (Keep.taken p)
    unfold State.issue
    split
    · exact h
    · rename_i ht
      have hroom : s.outstanding.get 0 p.phys < 16 := by
        simp only [State.mustWait, Bool.or_eq_true, not_or] at hw
        simpa [ht] using hw.1.1
      refine ⟨by dsimp only; exact SMap.wf_put h.1 _ _, fun phys => ?_⟩
      dsimp only
      rw [SMap.get_put h.1]
      split
      · omega
      · exact h.2 phys

theorem State.Bounded.packet (h : s.Bounded) (p : Packet) : (s.packet p).Bounded := by
  unfold State.packet
  split
  · exact h
  · exact State.Bounded.present (h.keep (Keep.brings _)) p

theorem State.Bounded.delivered (h : s.Bounded) (phys : Nat) : (s.delivered phys).Bounded := by
  unfold State.delivered
  split
  · exact h
  · split
    · exact h
    · dsimp only
      split
      · refine ⟨by dsimp only; exact SMap.wf_put h.1 _ _, fun x => ?_⟩
        dsimp only
        rw [SMap.get_put h.1]
        split
        · have := h.2 phys; omega
        · exact h.2 x
      · exact h

theorem State.Bounded.foldl {β : Type} {f : State → β → State} (h : ∀ s x, State.Bounded s → State.Bounded (f s x))
    (l : List β) {s : State} (hs : s.Bounded) : State.Bounded (l.foldl f s) := by
  induction l generalizing s with
  | nil => exact hs
  | cons x l ih => exact ih (h _ _ hs)

theorem State.Bounded.serveWaiting (h : s.Bounded) : s.serveWaiting.Bounded := by
  have hf : ∀ {p : Prop}, (false = true) → p := fun x => (Bool.false_ne_true x).elim
  unfold State.serveWaiting
  dsimp only
  refine State.Bounded.keep ?_ ((Keep.serveHost hf hf).trans (Keep.foldl (fun _ _ => Keep.gateIdle _) _ _))
  refine State.Bounded.foldl (fun _ _ hx => State.Bounded.present (hx.keep Keep.renew) _) _ (State.Bounded.keep ?_ (Keep.nodeWait []))
  refine State.Bounded.keep ?_ (Keep.baysServed _)
  refine State.Bounded.keep ?_ (Keep.resetsTaken _)
  exact h.keep (Keep.foldl (fun _ _ => Keep.serveChan _) _ s)

theorem State.Bounded.afterwards (h : s.Bounded) : s.afterwards.Bounded := by
  unfold State.afterwards
  refine State.Bounded.keep ?_ Keep.setPll
  split
  · exact h
  · exact h.serveWaiting

end Sys2Proof.Machine
end

