-- ==== Sys2Proof/Laws/Commands.lean ====
section
/-! SUPPORT. What a command leaves alone, whichever it is. -/

namespace Sys2Proof.Machine

variable {t z : Bool}

/-- What every command's effect keeps: the queue and Scetor time, the bound of R36, the access queues' form where `z` says so, and, where
`t` says so, the committed table. -/
def Effect (t z : Bool) (f : State → State) : Prop := ∀ s : State, Keep false t z s (f s) ∧ (s.Bounded → (f s).Bounded)

theorem Effect.of {f : State → State} (h : ∀ s : State, Keep true t z s (f s)) : Effect t z f :=
  fun s => ⟨⟨(h s).pending, (h s).time, (h s).por, fun x => (Bool.false_ne_true x).elim, (h s).tab, (h s).quiet, (h s).hosts, (h s).pairs⟩,
    fun b => b.keep ⟨(h s).pending, (h s).time, (h s).por, fun _ => (h s).out rfl, fun x => (Bool.false_ne_true x).elim, (h s).quiet,
      fun x => (Bool.false_ne_true x).elim, (h s).pairs⟩⟩

/-- A command of the common shape completes, and keeps what its effect keeps. -/
theorem act_effect {s : State} {f : State → State} (h : Effect t z f) (hz : t = true → z = true) (hq : z = true → s.HostQueues) :
    ∃ u, act s f = .next u ∧ Keep false t z s u ∧ (s.Bounded → u.Bounded) := by
  unfold act
  split
  · exact ⟨s, rfl, Keep.refl s, id⟩
  · have h1 : Keep false t z s s.begin := Keep.begin
    have h2 := h1.trans (h s.begin).1
    exact ⟨_, rfl, h2.trans (Keep.afterwards hz fun x => h2.hosts x (hq x)),
      fun b => ((h s.begin).2 (b.keep Keep.begin)).afterwards⟩

theorem packet_effect {g : State → Host.Outcome State Fault Refusal} {p : Packet}
    (hg : ∀ s, g s = act s fun s => s.packet p) : ∃ f, (∀ s, g s = act s f) ∧ Effect t z f :=
  ⟨_, hg, fun _ => ⟨Keep.packet .., fun h => h.packet ..⟩⟩

theorem access_effect {g : State → Host.Outcome State Fault Refusal} {a : Access} {w : Nat}
    (hg : ∀ s, g s = act s fun s => s.access a w) (h : t = true → isSteward a.who = false ∨ a.offset ≠ 0x3140 ∨ a.write = false) :
    ∃ f, (∀ s, g s = act s f) ∧ Effect t z f :=
  ⟨_, hg, Effect.of fun _ => Keep.access _ _ h⟩

theorem write_effect {g : State → Host.Outcome State Fault Refusal} {who : Requester} {off v : Nat}
    (hg : ∀ s, g s = act s fun s => s.hostWrite who off v) (h : t = true → isSteward who = false ∨ off ≠ 0x3140) :
    ∃ f, (∀ s, g s = act s f) ∧ Effect t z f :=
  ⟨_, hg, Effect.of fun _ => Keep.hostWrite _ _ _ h⟩

theorem running_effect {g : State → Host.Outcome State Fault Refusal} {k : State → State}
    (hg : ∀ s, g s = actRunning s k) (h : ∀ s : State, Keep true t z s (k s)) : ∃ f, (∀ s, g s = act s f) ∧ Effect t z f :=
  ⟨fun s => if s.blockHalted then s else k s, hg, Effect.of fun s => Keep.ite (Keep.refl s) (h s)⟩

theorem chanOff_ne {c page off : Nat} : chanOff c page off ≠ 0x3140 := by unfold chanOff; omega

theorem faultOff_ne {u : FltUnit} {r : Nat} (h : r < 0x100) : faultOff u r ≠ 0x3140 := by
  cases u with
  | chan c k => exact chanOff_ne
  | shared k => cases k <;> simp only [faultOff] <;> omega

theorem Keep.doze {o t z : Bool} (s : State) (n : Nat) :
    Keep o t z s (s.dozes n) := Keep.ite (Keep.refl s) (Keep.onOwn ..)

theorem Keep.alarmRings {o t z : Bool} (s : State) (n : Nat) : Keep o t z s (s.alarmRings n) := Keep.ite (Keep.refl s) (Keep.atChan ..)

theorem Hp.lowTimeEnd_eq (h : Hp) : h.lowTimeEnd.queues = h.queues ∧ h.lowTimeEnd.atPort = h.atPort := by
  unfold Hp.lowTimeEnd; (repeat' split) <;> exact ⟨rfl, rfl⟩

theorem Hp.tick_eq (h : Hp) (x : Nat) : (h.ackFlow x).tick.queues = h.queues ∧ (h.ackFlow x).tick.atPort = h.atPort := by
  unfold Hp.tick Hp.ackFlow; dsimp only; (repeat' split) <;> exact ⟨rfl, rfl⟩

theorem pll_keep {o t z : Bool} {s : State} :
    Keep o t z s (match s.ck.pll with | .locking => { s with ck := { s.ck with pll := .locked } } | _ => s) := by
  split
  · exact Keep.of rfl rfl rfl rfl rfl rfl rfl rfl rfl rfl rfl rfl rfl
  · exact Keep.refl s

theorem trip_keep {o t z : Bool} {s : State} (b : Bool) : Keep o t z s { s with tripPin := b } :=
  Keep.of rfl rfl rfl rfl rfl rfl rfl rfl rfl rfl rfl rfl rfl

theorem lowTimeEnd_keep {o t z : Bool} {s : State} : Keep o t z s { s with hp := s.hp.lowTimeEnd } :=
  Keep.of rfl rfl rfl rfl rfl rfl rfl rfl rfl (Hp.lowTimeEnd_eq s.hp).1 rfl rfl (Hp.lowTimeEnd_eq s.hp).2

/-- The block as a keep tick is taken: the time, the interrupt lines, SCE_FLT_x and SCE_ERR_N move on. -/
abbrev State.ticked (s : State) : State :=
  { s with time := s.time + 20, coreK := 0, irq1 := s.irqCauses, irq2 := s.irq1, irq := s.irq2,
           flt1 := s.fltCauses, flt2 := s.flt1, flt := s.flt2, hp := (s.hp.ackFlow (s.time + 20)).tick, laneWakes := [] }

theorem Keep.keepTick {o t z : Bool} {s : State} : Keep o t z s.ticked s.keepTick := by
  have h1 : ∀ s : State, Keep o t z s s.tickTrip.tickTakes := fun _ => Keep.of rfl rfl rfl rfl rfl rfl rfl rfl rfl rfl rfl rfl rfl
  have h2 : ∀ (s : State) (n : Nat), Keep o t z s (s.markBusy n) := fun _ _ =>
    Keep.ite (Keep.refl _) (Keep.ite (Keep.busyNow _) (Keep.refl _))
  exact (h1 _).trans ((Keep.onList ..).trans (Keep.foldl h2 _ _))

theorem State.HostQueues.ticked {s : State} (h : s.HostQueues) : s.ticked.HostQueues := by
  unfold State.HostQueues at *; dsimp only; rw [(Hp.tick_eq ..).1, (Hp.tick_eq ..).2]; exact h

/-- Every command but the keep tick and those of SCE_POR_N is of the common shape, with an effect that leaves the queue and
Scetor time alone; the committed table too, unless the command may commit. -/
theorem exec_effect : ∀ c : Instr, c ≠ .keepTick → c ≠ .porAssert → (∀ f, c ≠ .porRelease f) →
    (t = true → mayCommit c = false) → ∃ f, (∀ s, exec c s = act s f) ∧ Effect t z f
  | .flagSet _, _, _, _, _ => packet_effect fun _ => rfl
  | .flagClear _, _, _, _, _ => packet_effect fun _ => rfl
  | .flagTest _, _, _, _, _ => packet_effect fun _ => rfl
  | .flagWaitSet _, _, _, _, _ => packet_effect fun _ => rfl
  | .flagWaitClear _, _, _, _, _ => packet_effect fun _ => rfl
  | .flagTestClear _, _, _, _, _ => packet_effect fun _ => rfl
  | .semAdd _, _, _, _, _ => packet_effect fun _ => rfl
  | .semSub _, _, _, _, _ => packet_effect fun _ => rfl
  | .semTrysub _, _, _, _, _ => packet_effect fun _ => rfl
  | .semWaitsub _, _, _, _, _ => packet_effect fun _ => rfl
  | .semRead _, _, _, _, _ => packet_effect fun _ => rfl
  | .strProduce _, _, _, _, _ => packet_effect fun _ => rfl
  | .strConsume _, _, _, _, _ => packet_effect fun _ => rfl
  | .strWaitSpace _, _, _, _, _ => packet_effect fun _ => rfl
  | .strWaitData _, _, _, _, _ => packet_effect fun _ => rfl
  | .strRead _, _, _, _, _ => packet_effect fun _ => rfl
  | .barArrive _, _, _, _, _ => packet_effect fun _ => rfl
  | .barArriveWait _, _, _, _, _ => packet_effect fun _ => rfl
  | .barReduceArrive _, _, _, _, _ => packet_effect fun _ => rfl
  | .barReadResult _, _, _, _, _ => packet_effect fun _ => rfl
  | .lockClaim _, _, _, _, _ => packet_effect fun _ => rfl
  | .lockQuery _, _, _, _, _ => packet_effect fun _ => rfl
  | .lockRelease _, _, _, _, _ => packet_effect fun _ => rfl
  | .lockWait _, _, _, _, _ => packet_effect fun _ => rfl
  | .connAccept _, _, _, _, _ => packet_effect fun _ => rfl
  | .connOpen _, _, _, _, _ => packet_effect fun _ => rfl
  | .connReserve _, _, _, _, _ => packet_effect fun _ => rfl
  | .connCommit _, _, _, _, _ => packet_effect fun _ => rfl
  | .connConsume _, _, _, _, _ => packet_effect fun _ => rfl
  | .connClose _, _, _, _, _ => packet_effect fun _ => rfl
  | .waitAny _, _, _, _, _ => packet_effect fun _ => rfl
  | .slotCancel _, _, _, _, _ => packet_effect fun _ => rfl
  | .seqSelect _, _, _, _, _ => packet_effect fun _ => rfl
  | .packetError _, _, _, _, _ => packet_effect fun _ => rfl
  | .trailer _, _, _, _, _ => packet_effect fun _ => rfl
  | .arriveStrobe _ _, _, _, _, _ => ⟨_, fun _ => rfl, Effect.of fun _ => Keep.strobe ..⟩
  | .laneRelease _ _, _, _, _, _ => ⟨_, fun _ => rfl, Effect.of fun _ => Keep.atChan ..⟩
  | .laneTimeout _ _, _, _, _, _ => ⟨_, fun _ => rfl, Effect.of fun _ => Keep.atChan ..⟩
  | .preload _ _ _ _, _, _, _, _ => write_effect (fun _ => rfl) fun _ => .inr chanOff_ne
  | .preloadComplete _ _, _, _, _, _ => ⟨_, fun _ => rfl, Effect.of fun _ => Keep.atChan ..⟩
  | .rearm _ _ _ _, _, _, _, _ => write_effect (fun _ => rfl) fun _ => .inr chanOff_ne
  | .barrierTimeout _ _, _, _, _, _ => ⟨_, fun _ => rfl, Effect.of fun _ => Keep.atChan ..⟩
  | .ruCombine c m, _, _, _, _ =>
    ⟨fun s => (s.brings m).atChan c.val m (whenLive Ch.ruStep), fun _ => rfl, Effect.of fun _ => Keep.after (Keep.atChan ..) (Keep.brings _)⟩
  | .ruNfInfoClear _ _ _, _, _, _, _ => write_effect (fun _ => rfl) fun _ => .inr chanOff_ne
  | .endpointResetEvent _, _, _, _, _ => ⟨_, fun _ => rfl, Effect.of fun _ => Keep.resetEvent ..⟩
  | .fenceReaction _ _, _, _, _, _ => ⟨_, fun _ => rfl, Effect.of fun _ => Keep.atChan ..⟩
  | .lockScan _, _, _, _, _ => ⟨_, fun _ => rfl, Effect.of fun _ => Keep.atChan ..⟩
  | .lockScanEnd _, _, _, _, _ => ⟨_, fun _ => rfl, Effect.of fun _ => Keep.atChan ..⟩
  | .chMapData _ _ _, _, _, _, _ => write_effect (fun _ => rfl) fun _ => .inr chanOff_ne
  | .budgetGatePass _, _, _, _, _ => ⟨_, fun _ => rfl, Effect.of fun _ => Keep.atChan ..⟩
  | .leanPass _ _, _, _, _, _ => ⟨_, fun _ => rfl, Effect.of fun _ => Keep.atChan ..⟩
  | .deadlineOverrun _ _, _, _, _, _ => ⟨_, fun _ => rfl, Effect.of fun _ => Keep.atChan ..⟩
  | .auditComplete _ _, _, _, _, _ => ⟨_, fun _ => rfl, Effect.of fun _ => Keep.atChan ..⟩
  | .psSeqSelect _ _ _ _, _, _, _, _ => write_effect (fun _ => rfl) fun _ => .inr chanOff_ne
  | .psSeqRestart _ _ _ _, _, _, _, _ => write_effect (fun _ => rfl) fun _ => .inr chanOff_ne
  | .psSeqStop _ _ _ _, _, _, _, _ => write_effect (fun _ => rfl) fun _ => .inr chanOff_ne
  | .tripAssert, _, _, _, _ => ⟨fun s => { s with tripPin := true }, fun _ => rfl, Effect.of fun _ => trip_keep _⟩
  | .tripRelease, _, _, _, _ => ⟨fun s => { s with tripPin := false }, fun _ => rfl, Effect.of fun _ => trip_keep _⟩
  | .formationAttemptTimeout _, _, _, _, _ => ⟨_, fun _ => rfl, Effect.of fun _ => Keep.atChan ..⟩
  | .hello _, _, _, _, _ => ⟨_, fun _ => rfl, Effect.of fun _ => Keep.message ..⟩
  | .verdict _, _, _, _, _ => ⟨_, fun _ => rfl, Effect.of fun _ => Keep.message ..⟩
  | .ready _, _, _, _, _ => ⟨_, fun _ => rfl, Effect.of fun _ => Keep.message ..⟩
  | .formed _, _, _, _, _ => ⟨_, fun _ => rfl, Effect.of fun _ => Keep.message ..⟩
  | .arrive _, _, _, _, _ => ⟨_, fun _ => rfl, Effect.of fun _ => Keep.message ..⟩
  | .release _, _, _, _, _ => ⟨_, fun _ => rfl, Effect.of fun _ => Keep.message ..⟩
  | .remoteTrailer _, _, _, _, _ => ⟨_, fun _ => rfl, Effect.of fun _ => Keep.message ..⟩
  | .remoteTrailerSend _ _, _, _, _, _ => ⟨_, fun _ => rfl, Effect.of fun _ => Keep.sendRemote ..⟩
  | .timeExchangeDue _, _, _, _, _ => ⟨_, fun _ => rfl, Effect.of fun _ => Keep.atChan ..⟩
  | .timeReq _, _, _, _, _ => ⟨_, fun _ => rfl, Effect.of fun _ => Keep.message ..⟩
  | .timeRsp _, _, _, _, _ => ⟨_, fun _ => rfl, Effect.of fun _ => Keep.message ..⟩
  | .breakMsg _, _, _, _, _ => ⟨_, fun _ => rfl, Effect.of fun _ => Keep.message ..⟩
  | .accordTimeout _ _, _, _, _, _ => ⟨_, fun _ => rfl, Effect.of fun _ => Keep.atChan ..⟩
  | .linkLost _, _, _, _, _ => ⟨_, fun _ => rfl, Effect.of fun _ => Keep.linkLost ..⟩
  | .creditReturn _, _, _, _, _ => ⟨_, fun _ => rfl, Effect.of fun _ => Keep.credit ..⟩
  | .ptOpen _ _, _, _, _, _ => write_effect (fun _ => rfl) fun _ => .inr (by decide)
  | .ptStageData _ _, _, _, _, _ => write_effect (fun _ => rfl) fun _ => .inr (by decide)
  | .ptSubmit _ _, _, _, _, _ => write_effect (fun _ => rfl) fun _ => .inr (by decide)
  | .submitCheckDone, _, _, _, _ => running_effect (fun _ => rfl) fun _ => Keep.submitDone
  | .ptApprove _ _, _, _, _, _ => write_effect (fun _ => rfl) fun _ => .inr (by decide)
  | .ptAbort _ _, _, _, _, _ => write_effect (fun _ => rfl) fun _ => .inr (by decide)
  | .commitHold, _, _, _, h => running_effect (fun _ => rfl) fun _ => by
      cases t with
      | false => exact Keep.commitHold
      | true => exact absurd (h rfl) (by decide)
  | .commit, _, _, _, h => running_effect (fun _ => rfl) fun _ => by
      cases t with
      | false => exact Keep.commitNow
      | true => exact absurd (h rfl) (by decide)
  | .windowExpiry, _, _, _, _ => running_effect (fun _ => rfl) fun _ => Keep.windowExpires
  | .registerWrite who off _ _, _, _, _, h => access_effect (fun _ => rfl) fun ht => .inl (by cases who <;> simp_all [mayCommit, isSteward])
  | .fltAck _ _ _, _, _, _, _ => write_effect (fun _ => rfl) fun _ => .inr (faultOff_ne (by decide))
  | .fltForce _ _ _, _, _, _, _ => write_effect (fun _ => rfl) fun _ => .inr (faultOff_ne (by decide))
  | .ceWindowWrite _ _ _, _, _, _, _ => write_effect (fun _ => rfl) fun _ => .inr (faultOff_ne (by decide))
  | .faultReactionComplete u, _, _, _, _ => ⟨fun s => s.onUnit u reactionDone, fun _ => rfl, Effect.of fun _ => Keep.onUnit ..⟩
  | .drydownExpiry u, _, _, _, _ => ⟨fun s => s.onUnit u (drydownOver s.time), fun _ => rfl, Effect.of fun _ => Keep.onUnit ..⟩
  | .trackerClose u, _, _, _, _ => ⟨fun s => s.onUnit u (closeTrackers s.time), fun _ => rfl, Effect.of fun _ => Keep.onUnit ..⟩
  | .wearWindowBoundary u, _, _, _, _ => ⟨fun s => s.onUnit u (rollWear s.time), fun _ => rfl, Effect.of fun _ => Keep.onUnit ..⟩
  | .shadowEnd, _, _, _, _ => ⟨_, fun _ => rfl, Effect.of fun _ => Keep.endShadows⟩
  | .hpErrAck _ _, _, _, _, _ => write_effect (fun _ => rfl) fun _ => .inr (by decide)
  | .errLowTimeEnd, _, _, _, _ => ⟨fun s => { s with hp := s.hp.lowTimeEnd }, fun _ => rfl, Effect.of fun _ => lowTimeEnd_keep⟩
  | .unmatchedOutput _ _, _, _, _, _ => ⟨_, fun _ => rfl, Effect.of fun _ => Keep.unmatched ..⟩
  | .dozeEntry c, _, _, _, _ => ⟨_, fun _ => rfl, Effect.of fun s => Keep.doze s _⟩
  | .slumberEntry _, _, _, _, _ => ⟨_, fun _ => rfl, Effect.of fun _ => Keep.onOwn ..⟩
  | .wakeRequest _, _, _, _, _ => ⟨_, fun _ => rfl, Effect.of fun _ => Keep.atChan ..⟩
  | .dozeWakeDone _, _, _, _, _ => ⟨_, fun _ => rfl, Effect.of fun _ => Keep.atChan ..⟩
  | .slumberWakeDone _, _, _, _, _ => ⟨_, fun _ => rfl, Effect.of fun _ => Keep.slumberWake ..⟩
  | .alarm _, _, _, _, _ => ⟨_, fun _ => rfl, Effect.of fun s => Keep.alarmRings s _⟩
  | .tmAlarm _ _, _, _, _, _ => write_effect (fun _ => rfl) fun _ => .inr (by decide)
  | .tmAlarmExpiry, _, _, _, _ => ⟨_, fun _ => rfl, Effect.of fun _ => Keep.tmExpires⟩
  | .ckPllLock, _, _, _, _ => ⟨_, fun _ => rfl, Effect.of fun _ => Keep.lockLost⟩
  | .ckKeepClock, _, _, _, _ => ⟨_, fun _ => rfl, Effect.of fun _ => Keep.raiseShared ..⟩
  | .quarantine _ _, _, _, _, _ => ⟨_, fun _ => rfl, Effect.of fun _ => Keep.quarantine ..⟩
  | .resetDoneExchange _, _, _, _, _ => ⟨_, fun _ => rfl, Effect.of fun _ => Keep.exchangeDone ..⟩
  | .ckQuarantine _, _, _, _, _ => ⟨_, fun _ => rfl, Effect.of fun _ => Keep.exchangeLate ..⟩
  | .bayTelemetry _ _ _ _, _, _, _, _ => ⟨_, fun _ => rfl, Effect.of fun _ => Keep.telemetry ..⟩
  | .feedStale _, _, _, _, _ => ⟨_, fun _ => rfl, Effect.of fun _ => Keep.feedTimeout ..⟩
  | .porAssert, _, h, _, _ => absurd rfl h
  | .porRelease _, _, _, h, _ => absurd rfl (h _)
  | .flashReadTimeout _, _, _, _, _ => ⟨_, fun _ => rfl, Effect.of fun _ => Keep.flashTimeout ..⟩
  | .loadGateReady, _, _, _, _ => ⟨_, fun _ => rfl, Effect.of fun _ => Keep.gateReady⟩
  | .gateOpen who _, _, _, _, h => write_effect (fun _ => rfl) (by cases who <;> simp_all [mayCommit, isSteward])
  | .gateRefuse who _, _, _, _, h => write_effect (fun _ => rfl) (by cases who <;> simp_all [mayCommit, isSteward])
  | .gateTimeout, _, _, _, _ => ⟨_, fun _ => rfl, Effect.of fun _ => Keep.gateTimeout⟩
  | .channelRestart _ _ _, _, _, _, _ => write_effect (fun _ => rfl) fun _ => .inr chanOff_ne
  | .restartSlot _ _, _, _, _, _ => ⟨_, fun _ => rfl, Effect.of fun _ => Keep.restartSlot ..⟩
  | .restartLoadDone _, _, _, _, _ => ⟨_, fun _ => rfl, Effect.of fun _ => Keep.restartDone ..⟩
  | .orderlyClose _ _ _, _, _, _, _ => write_effect (fun _ => rfl) fun _ => .inr chanOff_ne
  | .closeComplete _, _, _, _, _ => ⟨_, fun _ => rfl, Effect.of fun _ => Keep.atChan ..⟩
  | .inspectionSnapshot _ _ _, _, _, _, _ => write_effect (fun _ => rfl) fun _ => .inr chanOff_ne
  | .handWriteFlag _ _ _, _, _, _, _ => write_effect (fun _ => rfl) fun _ => .inr chanOff_ne
  | .handWriteSemaphore _ _ _, _, _, _, _ => write_effect (fun _ => rfl) fun _ => .inr chanOff_ne
  | .handWriteStream _ _ _, _, _, _, _ => write_effect (fun _ => rfl) fun _ => .inr chanOff_ne
  | .handWriteBarrier _ _ _, _, _, _, _ => write_effect (fun _ => rfl) fun _ => .inr chanOff_ne
  | .handRelease _ _ _, _, _, _, _ => write_effect (fun _ => rfl) fun _ => .inr chanOff_ne
  | .handClear _ _ _, _, _, _, _ => write_effect (fun _ => rfl) fun _ => .inr chanOff_ne
  | .handFree _ _ _, _, _, _, _ => write_effect (fun _ => rfl) fun _ => .inr chanOff_ne
  | .blotterGo _ _ _, _, _, _, _ => write_effect (fun _ => rfl) fun _ => .inr chanOff_ne
  | .blotterComplete _, _, _, _, _ => ⟨_, fun _ => rfl, Effect.of fun _ => Keep.atChan ..⟩
  | .blotterRelease _ _ _, _, _, _, _ => write_effect (fun _ => rfl) fun _ => .inr chanOff_ne
  | .hostFlagSet _ _ _ _, _, _, _, _ => write_effect (fun _ => rfl) fun _ => .inr chanOff_ne
  | .hostFlagClear _ _ _ _, _, _, _, _ => write_effect (fun _ => rfl) fun _ => .inr chanOff_ne
  | .hostFlagTest _ _ _ _, _, _, _, _ => write_effect (fun _ => rfl) fun _ => .inr chanOff_ne
  | .hostFlagTestClear _ _ _ _, _, _, _, _ => write_effect (fun _ => rfl) fun _ => .inr chanOff_ne
  | .hostSemAdd _ _ _ _, _, _, _, _ => write_effect (fun _ => rfl) fun _ => .inr chanOff_ne
  | .hostSemSub _ _ _ _, _, _, _, _ => write_effect (fun _ => rfl) fun _ => .inr chanOff_ne
  | .hostSemTrysub _ _ _ _, _, _, _, _ => write_effect (fun _ => rfl) fun _ => .inr chanOff_ne
  | .hostSemRead _ _ _ _, _, _, _, _ => write_effect (fun _ => rfl) fun _ => .inr chanOff_ne
  | .hwWatch _ _ _ _, _, _, _, _ => write_effect (fun _ => rfl) fun _ => .inr chanOff_ne
  | .hwSlotCancel _ _ _, _, _, _, _ => write_effect (fun _ => rfl) fun _ => .inr chanOff_ne
  | .ltForce _ _ _, _, _, _, _ => write_effect (fun _ => rfl) fun _ => .inr chanOff_ne
  | .registerReadClear _ _ _, _, _, _, _ => access_effect (fun _ => rfl) fun _ => .inr (.inr rfl)
  | .keepTick, h, _, _, _ => absurd rfl h
  | .responseDelivered _, _, _, _, _ => ⟨_, fun _ => rfl, fun _ => ⟨Keep.delivered _, fun h => h.delivered _⟩⟩
  | .linkUp _, _, _, _, _ => ⟨_, fun _ => rfl, Effect.of fun _ => Keep.linkUp ..⟩
  | .pllLocked, _, _, _, _ => ⟨fun s => match s.ck.pll with | .locking => { s with ck := { s.ck with pll := .locked } } | _ => s, fun _ => rfl, Effect.of fun _ => pll_keep⟩

end Sys2Proof.Machine
end

