-- ==== Sys2Proof/Laws/Events.lean ====
section
/-! SUPPORT. What an event of one channel, a host function's register write and the steward's leave behind. -/

namespace Sys2Proof.Machine

variable {s : State} {n page o : Nat} {c d : Ch} {e : Env}

@[simp] theorem State.seen_chan (s : State) (n : Nat) (m : MemErr) : (s.seen n m).chan = n := rfl
@[simp] theorem State.seen_time (s : State) (n : Nat) (m : MemErr) : (s.seen n m).time = s.time := rfl
@[simp] theorem State.seen_pt (s : State) (n : Nat) (m : MemErr) : (s.seen n m).pt = s.pt := rfl
@[simp] theorem State.seen_cl (s : State) (n : Nat) (m : MemErr) : (s.seen n m).cl = s.cl := rfl
@[simp] theorem State.seen_trip (s : State) (n : Nat) (m : MemErr) : (s.seen n m).trip = s.trip := rfl
@[simp] theorem State.seen_inject (s : State) (n : Nat) : (s.seen n .none).inject = 0 := rfl

/-! ## Events -/

/-- A command of a powered block that leaves it settled. -/
theorem act_powered (h : s.por = false) (f : State → State) {t : State} (ht : f s.begin = t) (h1 : t.settled = true) :
    act s f = .next t.setPll := by
  unfold act
  rw [if_neg (by simp [h]), ht, State.afterwards_settled h1]

/-- What a command leaves of a settled block is settled, while the channel's edge stands. -/
theorem State.settled_finish {a : State} (h : a.settled = true) (hn : n < 4) (hd : d.edge = (a.ch n).edge) (l : List Output) :
    (a.finish n d l).settled = true := by
  unfold State.finish
  rw [State.settled_leave]
  split
  · exact State.settled_same (c := a.ch n) h hn rfl hd
  · exact State.settled_same (c := a.ch n) h hn rfl hd

/-- An event of a channel that stands alone. -/
theorem act_event_finish (h : s.Ready n) (f : Env → Ch → Ch) (hf : (f (s.seen n .none) (s.ch n)).settle (s.seen n .none) = d)
    (h1 : d.edge = (s.ch n).edge) : act s (fun s => s.atChan n .none f) = .next ((s.begin.finish n d d.out).busyNow n).setPll := by
  have h3 : s.begin.atChan n .none f = (s.begin.finish n d d.out).busyNow n := by
    rw [State.atChan_single (by simpa using h.single)]
    have h4 : (f (s.begin.env n false .none) (s.begin.ch n)).settle (s.begin.env n false .none) = d := by
      simpa [State.seen] using hf
    rw [h4]
  have h5 : ((s.begin.finish n d d.out).busyNow n).settled = true := by
    rw [State.settled_busyNow]
    exact State.settled_finish (a := s.begin) h.settled h.chan h1 _
  exact act_powered h.por _ h3 h5

/-- The same where the channel has nothing left to do. -/
theorem act_event (h : s.Ready n) (f : Env → Ch → Ch) {l : List Output}
    (hf : (f (s.seen n .none) (s.ch n)).settle (s.seen n .none) = { c with out := l }) (hd : c.Same (s.ch n)) :
    act s (fun s => s.atChan n .none f) = .next (s.moved n c l) := by
  rw [act_event_finish h f hf hd.edge]
  rw [State.finish_quiet s.begin n (c := { c with out := l }) hd.quiet.1 hd.quiet.2.2.1 hd.quiet.2.2.2.1 hd.quiet.2.2.2.2]
  have : ({ c with out := [] } : Ch) = c := by have := hd.quiet.2.1; cases c; simp_all
  simp only [this]; rfl

/-- An effect that is no work of the channel, after which the channel has nothing left to do. -/
theorem act_own (h : s.Ready n) (f : Env → Ch → Ch) {l : List Output}
    (hf : (f (s.seen n .none) (s.ch n)).settle (s.seen n .none) = { c with out := l }) (hd : c.Same (s.ch n)) :
    act s (fun s => s.onOwn n f) = .next (s.movedIdle n c l) := by
  have h3 : s.begin.onOwn n f = (s.begin.setCh n c).leave l := by
    rw [State.onOwn_single (by simpa using h.single)]
    have h4 : (f (s.begin.env n false .none) (s.begin.ch n)).settle (s.begin.env n false .none) = { c with out := l } := by
      simpa [State.seen] using hf
    rw [h4, State.finish_quiet s.begin n (c := { c with out := l }) hd.quiet.1 hd.quiet.2.2.1 hd.quiet.2.2.2.1 hd.quiet.2.2.2.2]
    have : ({ c with out := [] } : Ch) = c := by have := hd.quiet.2.1; cases c; simp_all
    simp only [this]
  have h5 : ((s.begin.setCh n c).leave l).settled = true := by
    rw [State.settled_leave]
    exact State.settled_same (c := s.ch n) h.settled h.chan rfl hd.edge
  rw [act_powered h.por _ h3 h5]; rfl

theorem whenLive_calm (h : c.Calm) (f : Env → Ch → Ch) : whenLive f e c = f e c := by
  unfold whenLive
  rw [h.live, h.awake']
  rfl

/-- An event of a unit of a calm channel. -/
theorem actLive_event (h : s.Ready n) (f : Env → Ch → Ch) {l : List Output}
    (hf : (f (s.seen n .none) (s.ch n)).settle (s.seen n .none) = { c with out := l }) (hd : c.Same (s.ch n)) :
    actLive s n .none f = .next (s.moved n c l) := by
  unfold actLive
  exact act_event h (whenLive f) (by rw [whenLive_calm h.calm]; exact hf) hd

theorem actLive_event_finish (h : s.Ready n) (f : Env → Ch → Ch)
    (hf : (f (s.seen n .none) (s.ch n)).settle (s.seen n .none) = d) (h1 : d.edge = (s.ch n).edge) :
    actLive s n .none f = .next ((s.begin.finish n d d.out).busyNow n).setPll := by
  unfold actLive
  exact act_event_finish h (whenLive f) (by rw [whenLive_calm h.calm]; exact hf) h1

theorem Ch.Calm.refl (h : c.Calm) : c.Same c := ⟨h.quiet, rfl⟩

theorem act_congr {f g : State → State} (h : f s.begin = g s.begin) : act s f = act s g := by
  unfold act
  rw [h]

/-- A raised fault, as the channel's fault set shows it. -/
theorem Ch.raise_faulted {u : Sub} {src cls : Nat} {k : Cause} (h : c.Raises e u src k cls) (hw : isWear u src = false)
    (hr : c.raised = []) :
    c.raise e u src k = { c.faulted e u src k with
      raised := [⟨u, src, cls, !(c.fault u).captured⟩], haltReq := c.haltReq || decide (cls = 3),
      errPulse := c.errPulse || decide (2 ≤ cls) } := by
  obtain ⟨h1, h2, h3, h4⟩ := h
  unfold Ch.raise
  rw [h1]
  dsimp only
  rw [if_neg (by simp [h2, h3])]
  have h5 : (raiseOn e.time e.stamp false (srcClass u src) src k (c.fault u)).2 = cls := by
    unfold raiseOn; simpa using h4
  simp only [hr, List.any_nil, hw, Bool.false_eq_true, if_false, Bool.false_or, h5]
  have h6 : (c.setFault u (raiseOn e.time e.stamp false (srcClass u src) src k (c.fault u)).1).raised = [] := by
    cases u <;> exact hr
  have h7 : (c.setFault u (raiseOn e.time e.stamp false (srcClass u src) src k (c.fault u)).1).haltReq = c.haltReq := by
    cases u <;> rfl
  have h8 : (c.setFault u (raiseOn e.time e.stamp false (srcClass u src) src k (c.fault u)).1).errPulse = c.errPulse := by
    cases u <;> rfl
  simp only [h6, h7, h8, List.nil_append, Ch.faulted]

@[simp] theorem Ch.faulted_ctl (u : Sub) (src : Nat) (k : Cause) : (c.faulted e u src k).ctl = c.ctl := by cases u <;> rfl
@[simp] theorem Ch.faulted_bw (u : Sub) (src : Nat) (k : Cause) : (c.faulted e u src k).bw = c.bw := by cases u <;> rfl
@[simp] theorem Ch.faulted_os (u : Sub) (src : Nat) (k : Cause) : (c.faulted e u src k).os = c.os := by cases u <;> rfl
@[simp] theorem Ch.faulted_hw (u : Sub) (src : Nat) (k : Cause) : (c.faulted e u src k).hw = c.hw := by cases u <;> rfl
@[simp] theorem Ch.faulted_lt (u : Sub) (src : Nat) (k : Cause) : (c.faulted e u src k).lt = c.lt := by cases u <;> rfl
@[simp] theorem Ch.faulted_ru (u : Sub) (src : Nat) (k : Cause) : (c.faulted e u src k).ru = c.ru := by cases u <;> rfl
@[simp] theorem Ch.faulted_ps (u : Sub) (src : Nat) (k : Cause) : (c.faulted e u src k).ps = c.ps := by cases u <;> rfl
@[simp] theorem Ch.faulted_la (u : Sub) (src : Nat) (k : Cause) : (c.faulted e u src k).la = c.la := by cases u <;> rfl
@[simp] theorem Ch.faulted_db (u : Sub) (src : Nat) (k : Cause) : (c.faulted e u src k).db = c.db := by cases u <;> rfl
@[simp] theorem Ch.faulted_img (u : Sub) (src : Nat) (k : Cause) : (c.faulted e u src k).img = c.img := by cases u <;> rfl
@[simp] theorem Ch.faulted_todo (u : Sub) (src : Nat) (k : Cause) : (c.faulted e u src k).todo = c.todo := by cases u <;> rfl
@[simp] theorem Ch.faulted_out (u : Sub) (src : Nat) (k : Cause) : (c.faulted e u src k).out = c.out := by cases u <;> rfl

/-- What an event with a fault at U leaves: SCE_ERR_N starts. -/
theorem State.finish_error (s : State) (n : Nat) {c d : Ch} {l : List Output} (hq : c.todo = [])
    (hd : d = { c with raised := d.raised, haltReq := d.haltReq, errPulse := true, out := d.out }) (hr : c.raised = [])
    (hh : c.haltReq = false) (he : c.errPulse = false) (ho : c.out = []) :
    s.finish n d l = ((s.setCh n c).errPulse (some n)).leave l := by
  unfold State.finish
  have h1 : d.errPulse = true := by rw [hd]
  have h2 : ({ d with todo := [], out := [], raised := [], haltReq := false, errPulse := false } : Ch) = c := by
    rw [hd]
    show ({ c with todo := [], out := [], raised := [], haltReq := false, errPulse := false } : Ch) = c
    have key : ∀ x1 x2 x3 x4 x5, c.todo = x1 → c.out = x2 → c.raised = x3 → c.haltReq = x4 → c.errPulse = x5 →
        ({ c with todo := x1, out := x2, raised := x3, haltReq := x4, errPulse := x5 } : Ch) = c := by
      intro _ _ _ _ _ h1 h2 h3 h4 h5
      subst h1 h2 h3 h4 h5
      rfl
    exact key _ _ _ _ _ hq ho hr hh he
  simp only [h1, if_true, h2]

/-! ## Settling -/

theorem Ch.settle_of_drain (h : c.drain e drainFuel = d) (h2 : d.haltReq = false) : c.settle e = d := by
  unfold Ch.settle Ch.haltIfAsked
  rw [h, h2]; rfl

theorem Ch.drain_step {k : Nat} {t : Todo} {ts : List Todo} (h : c.todo = t :: ts) :
    c.drain e (k + 1) = (({ c with todo := ts }).doTodo e t).drain e k := by
  conv_lhs => unfold Ch.drain
  rw [h]

/-- A command that leaves one thing to do, after which nothing is left. -/
theorem Ch.settle_one {t : Todo} (h : c.todo = [t]) (h1 : ({ c with todo := [] } : Ch).doTodo e t = { d with todo := [] })
    (h2 : d.todo = []) (h3 : d.haltReq = false) : c.settle e = d := by
  refine Ch.settle_of_drain ?_ h3
  rw [show ({ d with todo := [] } : Ch) = d by rw [← h2]] at h1
  rw [show drainFuel = 4095 + 1 from rfl, Ch.drain_step h, h1, Ch.drain_nil h2]

/-- A command that leaves two things to do. -/
theorem Ch.settle_two {t u : Todo} {b : Ch} (h : c.todo = [t]) (h1 : ({ c with todo := [] } : Ch).doTodo e t = b) (hb : b.todo = [u])
    (hd : ({ b with todo := [] } : Ch).doTodo e u = d) (h2 : d.todo = []) (h3 : d.haltReq = false) : c.settle e = d := by
  refine Ch.settle_of_drain ?_ h3
  rw [show drainFuel = 4094 + 1 + 1 from rfl, Ch.drain_step h, h1, Ch.drain_step hb, hd, Ch.drain_nil h2]

theorem Ch.emit_quiet (h : c.out = []) (o : Output) : c.emit o = { c with out := [o] } := by
  unfold Ch.emit; rw [h]; rfl

/-! ## Register writes -/

theorem State.issued_eq (s : State) (off : Nat) : ∃ h b, s.issued off = { s.begin with hp := h, busyAt := b } ∧
    h.queues = s.hp.queues ∧ h.atPort = s.hp.atPort := by
  unfold State.issued
  dsimp only
  split
  · exact ⟨_, s.busyAt, rfl, rfl, rfl⟩
  · exact ⟨_, _, rfl, rfl, rfl⟩

@[simp] theorem State.issued_ch (s : State) (off n : Nat) : (s.issued off).ch n = s.ch n := by
  obtain ⟨h, b, e, _⟩ := s.issued_eq off; rw [e]; rfl
@[simp] theorem State.issued_pair (s : State) (off n : Nat) : (s.issued off).pair n = s.pair n := by
  obtain ⟨h, b, e, _⟩ := s.issued_eq off; rw [e]; rfl
@[simp] theorem State.issued_sflt (s : State) (off : Nat) : (s.issued off).sflt = s.sflt := by
  obtain ⟨h, b, e, _⟩ := s.issued_eq off; rw [e]; rfl
@[simp] theorem State.issued_pt (s : State) (off : Nat) : (s.issued off).pt = s.pt := by
  obtain ⟨h, b, e, _⟩ := s.issued_eq off; rw [e]; rfl
theorem State.issued_seen (s : State) (off n : Nat) : (s.issued off).env n false .none = s.seen n .none := by
  obtain ⟨h, b, e, _⟩ := s.issued_eq off; rw [e]; rfl
theorem State.settled_issued (off : Nat) : (s.issued off).settled = s.settled := by
  obtain ⟨h, b, e, h1, h2⟩ := s.issued_eq off
  rw [e]; unfold State.settled
  dsimp only
  rw [h1, h2]; rfl

/-- A word that no pending force and no error concerns is read well. -/
theorem State.sharedForce_clean {u : SharedSub} {a b w k : Nat} (h : (s.sharedFault u).pendForce = none) (hu : s.sflt.upsets = []) :
    s.sharedForce u a b w k = (s, 0, w, false) := by
  unfold State.sharedForce
  simp [h, hu]

/-- A host function's write that is admitted takes effect, and its completion leaves. -/
theorem act_write {fn : BitVec 8} {off v : Nat} (h : s.Admits fn off v) {t : State}
    (ht : (s.issued off).writeReg (.host fn) off v = t)
    (hb : (decide (0x100000 ≤ off) && decide (off % 0x100000 = 0x108) && t.mapHeld (queueOf off - 1) && !s.mapHeld (queueOf off - 1)) = false)
    (h4 : t.settled = true) :
    act s (fun s => s.hostWrite (.host fn) off v) = .next (t.leave [.host (.host fn) off true v false]).setPll := by
  have hset := State.settled_iff.1 h.settled
  have h1 : s.begin.hostWrite (.host fn) off v = t.leave [.host (.host fn) off true v false] := by
    unfold State.hostWrite State.access
    have hq : s.begin.quarantined (portCrossing (.host fn)) = false := h.openPort
    have hd : s.begin.denial fn.toNat 64 (writeOf fn off v) = none := h.allowed
    have hr : s.begin.refusedByHalt (writeOf fn off v) = false := by
      unfold State.refusedByHalt
      have : s.begin.blockHalted = false := h.running
      rw [this]; rfl
    have hk : s.begin.blocked (queueOf (writeOf fn off v).offset) = false ∨ s.begin.restartsNow (writeOf fn off v) = true := h.awake
    have hw : s.begin.hp.waiting (queueOf (writeOf fn off v).offset) = [] := by
      have : s.begin.hp.queues = [] := hset.2.2.2.1
      unfold Hp.waiting
      rw [this]; rfl
    have hat : s.begin.hp.atPort = [] := hset.2.2.2.2.1
    have hp : s.begin.perform (writeOf fn off v) = t.leave [.host (.host fn) off true v false] := by
      unfold State.perform
      dsimp only
      rw [State.sharedForce_clean (by exact h.unforced) (by exact h.sound)]
      dsimp only
      rw [if_neg (by simp), if_neg (by simp)]
      unfold State.effect State.answer
      have e1 : (writeOf fn off v).write = true := rfl
      have e2 : (writeOf fn off v).offset = off := rfl
      have e3 : (writeOf fn off v).value = v := rfl
      have e4 : (writeOf fn off v).who = .host fn := rfl
      simp only [e1, e2, e3, e4, if_true]
      have hi : (let b := s.begin
                 let q := queueOf off
                 let h := { b.hp with issued := b.hp.issued.put 0 q (inc (b.hp.issued.get 0 q)), arb := (q + 1) % 5 }
                 let b1 : State := { b with hp := h }
                 if q = 0 then b1 else b1.busyNow (b1.firstOf (q - 1))) = s.issued off := rfl
      dsimp only at hi
      rw [hi, ht, if_neg]
      intro hx
      rw [show ∀ x : Hp, ({ s.begin with hp := x } : State).mapHeld (queueOf off - 1) = s.mapHeld (queueOf off - 1) from fun _ => rfl] at hx
      rw [hb] at hx; exact absurd hx (by decide)
    simp only [hq, Bool.false_eq_true, if_false]
    rw [if_pos hat]
    unfold State.seat
    change (match s.begin.denial fn.toNat 64 (writeOf fn off v) with | some k => _ | none => s.begin.letIn (writeOf fn off v) 64) = _
    rw [hd]
    unfold State.letIn
    rcases hk with hk | hk
    · simp only [hr, Bool.false_eq_true, if_false, hk, hw, ne_eq, not_true_eq_false, decide_false, Bool.or_false]
      rw [hp, ite_self]
    · simp only [hr, hk, Bool.false_eq_true, if_false, if_true]
      rw [hp]
  exact act_powered h.por _ h1 (by rw [State.settled_leave]; exact h4)

/-- A write in the shared region. -/
theorem act_write_shared {fn : BitVec 8} {off v : Nat} (h : s.Admits fn off v) (ho : off < 0x100000) {f : State → State}
    (ht : (s.issued off).writeReg (.host fn) off v = f (s.issued off)) (h4 : (f (s.issued off)).settled = true) :
    act s (fun s => s.hostWrite (.host fn) off v) = .next (s.wrote fn off v f) :=
  act_write h ht (by simp [Nat.not_le.2 ho]) h4

/-- The offset of a register in the window of channel `n`. -/
structure InWindow (n page o : Nat) : Prop where
  chan   : n < 4
  pageOk : page < 0x100
  offOk  : o < 0xF00

theorem InWindow.split (h : InWindow n page o) : chanOff n page o / 0x100000 = n + 1 ∧ chanOff n page o / 0x1000 % 0x100 = page ∧
    chanOff n page o % 0x1000 = o ∧ 0x100000 ≤ chanOff n page o ∧ chanOff n page o % 0x100000 = 0x1000 * page + o := by
  have h1 := h.pageOk
  have h2 := h.offOk
  unfold chanOff
  omega

theorem InWindow.faultAt (h : InWindow n page o) : faultAt (chanOff n page o) = none := by
  unfold Machine.faultAt
  rw [h.split.2.2.1, if_pos h.offOk]

theorem State.Ready.windowOf (h : s.Ready n) (hw : InWindow n page o) : s.windowOf (chanOff n page o) = (n, n) := by
  unfold State.windowOf State.firstOf
  rw [hw.split.1]
  simp [h.isSecond]

theorem State.writeReg_window {who : Requester} {off v : Nat} (hf : Machine.faultAt off = none) (h : 0x100000 ≤ off) :
    s.writeReg who off v = s.writeWindow who off v := by
  unfold State.writeReg
  rw [hf]
  show (if _ then _ else _) = _
  rw [if_pos h]

theorem State.writeWindow_page {who : Requester} {off v page o : Nat} (h : s.windowOf off = (n, n))
    (hp : off / 0x1000 % 0x100 = page) (ho : off % 0x1000 = o) (h1 : ¬ (page = 0 ∧ o = 0x008)) (h2 : ¬ (page = 0 ∧ o = 0x108)) :
    s.writeWindow who off v = s.onChan n .none (fun e c => c.writePage e page o v) := by
  unfold State.writeWindow
  simp only [h, hp, ho, ne_eq, not_true_eq_false, if_false, h1, h2]

/-- A write of a register in the window of a calm channel, after which the channel has nothing left to do. -/
theorem act_write_page {fn : BitVec 8} {page o v : Nat} (h : s.Ready n) (ha : s.Admits fn (chanOff n page o) v)
    (hp : page < 0x100) (hof : o < 0xF00) (hne : ¬ (page = 0 ∧ o = 0x008)) (hne2 : ¬ (page = 0 ∧ o = 0x108)) {l : List Output}
    (hf : ((s.ch n).writePage (s.seen n .none) page o v).settle (s.seen n .none) = { c with out := l }) (hd : c.Same (s.ch n)) :
    act s (fun s => s.hostWrite (.host fn) (chanOff n page o) v) = .next (s.wroteChan fn (chanOff n page o) v n c l) := by
  have hw : InWindow n page o := ⟨h.chan, hp, hof⟩
  have hn := hw.split
  have h1 : (s.issued (chanOff n page o)).writeReg (.host fn) (chanOff n page o) v =
      ((s.issued (chanOff n page o)).setCh n c).leave l := by
    rw [State.writeReg_window hw.faultAt hn.2.2.2.1]
    have h2 : (s.issued (chanOff n page o)).windowOf (chanOff n page o) = (n, n) := by
      rw [← h.windowOf hw]
      unfold State.windowOf State.firstOf State.isSecond
      simp
    rw [State.writeWindow_page h2 hn.2.1 hn.2.2.1 hne hne2]
    unfold State.onChan
    rw [State.issued_pair, h.single]
    show State.runAlone n n _ _ _ = _
    unfold State.runAlone
    have h3 : (s.issued (chanOff n page o)).env n (decide (n ≠ n)) .none = s.seen n .none := by
      rw [show decide (n ≠ n) = false by simp, State.issued_seen]
    simp only [h3, State.issued_ch, hf]
    rw [State.finish_quiet _ n (c := { c with out := l }) hd.quiet.1 hd.quiet.2.2.1 hd.quiet.2.2.2.1 hd.quiet.2.2.2.2]
    have : ({ c with out := [] } : Ch) = c := by have := hd.quiet.2.1; cases c; simp_all
    simp only [this]
  refine act_write ha h1 ?_ ?_
  · rw [hn.2.2.2.2]
    have : ¬ (0x1000 * page + o = 0x108) := by have := hof; omega
    simp [this]
  · rw [State.settled_leave]
    exact State.settled_same (c := s.ch n) (by rw [State.settled_issued]; exact h.settled) h.chan (by simp) hd.edge

/-- A write by the steward. -/
theorem act_steward {off v : Nat} (h : s.StewardPort) (ho : off / 0x1000 = 3) (h8 : off % 8 = 0) {f : State → State}
    (ht : s.begin.writeReg .steward off v = f s.begin) (h4 : (f s.begin).settled = true) :
    act s (fun s => s.hostWrite .steward off v) = .next (s.stewardWrote off v f) := by
  have h1 : s.begin.hostWrite .steward off v = (f s.begin).leave [.host .steward off true v false] := by
    unfold State.hostWrite State.access
    have hq : s.begin.quarantined (portCrossing .steward) = false := h.openPort
    simp only [hq, Bool.false_eq_true, if_false]
    unfold State.stewardAccess
    rw [if_pos ⟨ho, h8, by decide⟩]
    unfold State.effect State.answer
    have h5 : ¬ 0x100000 ≤ off := by omega
    have h6 : queueOf off = 0 := by unfold queueOf; omega
    simp only [if_true, h6, ht, h5, decide_false, Bool.false_and, Bool.false_eq_true, if_false]
  rw [act_powered h.por _ h1 (by rw [State.settled_leave]; exact h4)]; rfl

end Sys2Proof.Machine
end

