-- ==== Sys2Proof/Laws/Local.lean ====
section
/-! SUPPORT. A command of one channel's party stays in that channel (R11), and touches no shared sub-block (R286). -/

namespace Sys2Proof.Machine

/-- From `a` to `b` only channel or pair `n` changes, with what leaves it and what waits at its nodes. -/
structure Local (n : Nat) (a b : State) : Prop where
  others : ∀ m, m < 4 → m ≠ n → ((a.pair n).st = .single ∨ m ≠ n + 1) → b.ch m = a.ch m
  single : (b.pair n).st = .single ↔ (a.pair n).st = .single
  apart  : ∀ m, m < 4 → (m < 2 ↔ ¬ n < 2) → b.pair m = a.pair m
  pt     : b.pt = a.pt
  cl     : b.cl = a.cl
  ck     : b.ck = a.ck
  sflt   : b.sflt = a.sflt
  halted : b.blockHalted = a.blockHalted
  bays   : b.bays = a.bays
  trip   : b.trip = a.trip
  queues : b.hp.queues = a.hp.queues

variable {n : Nat} {a b c s : State}

theorem Local.refl (s : State) : Local n s s :=
  ⟨fun _ _ _ _ => rfl, Iff.rfl, fun _ _ _ => rfl, rfl, rfl, rfl, rfl, rfl, rfl, rfl, rfl⟩

theorem Local.trans (h : Local n a b) (k : Local n b c) : Local n a c :=
  ⟨fun m h1 h2 h3 => (k.others m h1 h2 (h3.imp h.single.mpr id)).trans (h.others m h1 h2 h3), k.single.trans h.single,
   fun m h1 h2 => (k.apart m h1 h2).trans (h.apart m h1 h2), k.pt.trans h.pt, k.cl.trans h.cl, k.ck.trans h.ck,
   k.sflt.trans h.sflt, k.halted.trans h.halted, k.bays.trans h.bays, k.trip.trans h.trip, k.queues.trans h.queues⟩

theorem Local.ite {p : Prop} [Decidable p] (h : Local n s a) (k : Local n s b) : Local n s (if p then a else b) := by
  split
  · exact h
  · exact k

theorem Local.foldl {β : Type} {f : State → β → State} {q : State → Prop} (hq : ∀ s t, q s → Local n s t → q t)
    (h : ∀ s x, q s → Local n s (f s x)) (l : List β) {s : State} (hs : q s) : Local n s (l.foldl f s) := by
  induction l generalizing s with
  | nil => exact Local.refl s
  | cons x l ih => exact (h s x hs).trans (ih (hq _ _ hs (h s x hs)))

/-- A step that leaves every channel, every pair and the shared sub-blocks alone. -/
theorem Local.of (h0 : ∀ m, b.ch m = a.ch m) (h1 : b.pairAB = a.pairAB) (h2 : b.pairCD = a.pairCD) (h3 : b.pt = a.pt)
    (h4 : b.cl = a.cl) (h5 : b.ck = a.ck) (h6 : b.sflt = a.sflt) (h7 : b.blockHalted = a.blockHalted) (h8 : b.bays = a.bays)
    (h9 : b.trip = a.trip) (h10 : b.hp.queues = a.hp.queues) : Local n a b :=
  ⟨fun m _ _ _ => h0 m, by unfold State.pair; rw [h1, h2], fun m _ _ => by unfold State.pair; rw [h1, h2],
   h3, h4, h5, h6, h7, h8, h9, h10⟩

theorem Local.issue (p : Packet) : Local n s (s.issue p) := by apply Local.of <;> simp
theorem Local.renew : Local n s s.renew := by apply Local.of <;> simp
theorem Local.begin : Local n s s.begin := by apply Local.of <;> simp
theorem Local.nodeWait (l : List Packet) : Local n s { s with nodeWait := l } :=
  Local.of (fun _ => rfl) rfl rfl rfl rfl rfl rfl rfl rfl rfl rfl
theorem Local.resetWait (l : List Nat) : Local n s { s with resetWait := l } :=
  Local.of (fun _ => rfl) rfl rfl rfl rfl rfl rfl rfl rfl rfl rfl
theorem Local.leave (l : List Output) : Local n s (s.leave l) := by apply Local.of <;> simp

/-- A side of channel or pair `n` takes a new state. -/
theorem Local.setCh {k : Nat} (x : Ch) (hn : n < 4) (hk : k = n ∨ ((s.pair n).st ≠ .single ∧ k = n + 1 ∧ k < 4)) :
    Local n s (s.setCh k x) := by
  have h4 : k < 4 := by rcases hk with h | h <;> omega
  refine ⟨fun m h1 h2 h3 => State.ch_setCh_of_ne s x h4 h1 ?_, by simp, fun m h1 h2 => by simp, by simp, by simp, by simp,
    by simp, by simp, by simp, by simp, by simp⟩
  rcases hk with rfl | ⟨hs, rfl, _⟩
  · exact h2
  · exact h3.resolve_left hs

theorem Local.errPulse (k : Option Nat) : Local n s (s.errPulse k) := by
  refine Local.of (fun m => by simp) ?_ ?_ ?_ ?_ ?_ ?_ ?_ ?_ ?_ rfl <;> simp

theorem Local.setPair {p : Pair} (hn : n < 4) (h : p.st ≠ .single) (hs : (s.pair n).st ≠ .single) : Local n s (s.setPair n p) := by
  refine ⟨fun m h1 h2 h3 => by simp, ?_, fun m h1 h2 => ?_, by simp, by simp, by simp, by simp, by simp, by simp, by simp, by simp⟩
  · rw [State.pair_setPair_self]; exact ⟨fun x => absurd x h, fun x => absurd x hs⟩
  · have : m < 2 ∨ ¬ m < 2 := Decidable.em _
    unfold State.pair State.setPair
    by_cases hm : m < 2 <;> by_cases hk : n < 2 <;> simp only [hm, hk, if_true, if_false] <;> simp_all

theorem Local.finish {k : Nat} (x : Ch) (l : List Output) (hn : n < 4)
    (hk : k = n ∨ ((s.pair n).st ≠ .single ∧ k = n + 1 ∧ k < 4)) : Local n s (s.finish k x l) := by
  unfold State.finish
  dsimp only
  exact Local.trans (Local.trans (Local.setCh _ hn hk) (Local.ite (Local.errPulse _) (Local.refl _))) (Local.leave l)

theorem Local.runAlone {k : Nat} (m : MemErr) (f : Env → Ch → Ch) (hn : n < 4)
    (hk : k = n ∨ ((s.pair n).st ≠ .single ∧ k = n + 1 ∧ k < 4)) : Local n s (s.runAlone n k m f) := Local.finish _ _ hn hk

/-- The other side of a pair in which `n` is the first. -/
theorem second_lt {n : Nat} (hn : n < 4) (he : n % 2 ≠ 1) : n + 1 < 4 := by omega

theorem Local.both {p : Pair} {x y : Ch} {l m : List Output} (hn : n < 4) (he : n % 2 ≠ 1) (h : p.st ≠ .single)
    (hs : (s.pair n).st ≠ .single) (i j : Nat) (hi : i = n ∨ i = n + 1) (hj : j = n ∨ j = n + 1) :
    Local n s (((s.setPair n p).finish i x l).finish j y m) := by
  have h1 : Local n s (s.setPair n p) := Local.setPair hn h hs
  have hp : ((s.setPair n p).pair n).st ≠ .single := fun z => hs (h1.single.mp z)
  have h2 : Local n (s.setPair n p) ((s.setPair n p).finish i x l) :=
    Local.finish _ _ hn (hi.imp id fun z => ⟨hp, z, by omega⟩)
  exact (h1.trans h2).trans (Local.finish _ _ hn (hj.imp id fun z => ⟨fun w => hp (h2.single.mp w), z, by omega⟩))

theorem Local.diverge (ea eb : Env) (x y : Ch) (d : Option (Nat × Option Output × Option Output)) (pass : List Output)
    (hn : n < 4) (he : n % 2 ≠ 1) (hs : (s.pair n).st ≠ .single) : Local n s (s.diverge n ea eb x y d pass) := by
  unfold State.diverge
  refine Local.both hn he ?_ hs _ _ (.inl rfl) (.inr rfl)
  rcases d with _ | ⟨k, x, y⟩ <;> (intro h; cases h)

theorem Local.dropSide (second : Bool) (r : RaisedNow) (e : Env) (x y : Ch) (hn : n < 4) (he : n % 2 ≠ 1)
    (hs : (s.pair n).st ≠ .single) : Local n s (s.dropSide n second r e x y) := by
  unfold State.dropSide
  refine Local.both hn he (by intro h; cases h) hs _ _ ?_ ?_ <;> cases second <;> simp [b01]

theorem Local.compare (ea eb : Env) (x y : Ch) (hn : n < 4) (he : n % 2 ≠ 1) (hs : (s.pair n).st ≠ .single) :
    Local n s (s.compare n ea eb x y) := by
  unfold State.compare
  dsimp only
  split
  · exact Local.diverge _ _ _ _ _ _ hn he hs
  · refine Local.both hn he ?_ hs _ _ (.inl rfl) (.inr rfl)
    exact hs

theorem Local.onChan (m : MemErr) (f : Env → Ch → Ch) (hn : n < 4) (he : (s.pair n).st ≠ .single → n % 2 ≠ 1)
    (hp : s.PairsOk) : Local n s (s.onChan n m f) := by
  unfold State.onChan
  split
  · exact Local.runAlone m f hn (.inl rfl)
  · rename_i h
    have hs : (s.pair n).st ≠ .single := by rw [h]; decide
    unfold State.runPair
    dsimp only
    split
    · exact Local.compare _ _ _ _ hn (he hs) hs
    · exact Local.dropSide _ _ _ _ _ hn (he hs) hs
    · exact Local.dropSide _ _ _ _ _ hn (he hs) hs
    · exact Local.diverge _ _ _ _ _ _ hn (he hs) hs
  · rename_i h
    have hs : (s.pair n).st ≠ .single := by rw [h]; decide
    have hv : (s.pair n).survivor ≤ 1 := by
      unfold State.pair
      split
      · exact hp.1
      · exact hp.2
    refine Local.runAlone m f hn ?_
    by_cases h0 : (s.pair n).survivor = 0
    · exact .inl (by omega)
    · exact .inr ⟨hs, by omega, by have := he hs; omega⟩
  · rename_i h
    have hs : (s.pair n).st ≠ .single := by rw [h]; decide
    have h1 : Local n s (s.runAlone n n m f) := Local.runAlone m f hn (.inl rfl)
    exact h1.trans (Local.finish _ _ hn (.inr ⟨fun z => hs (h1.single.mp z), rfl, second_lt hn (he hs)⟩))

theorem Local.busyNow (k : Nat) : Local n s (s.busyNow k) := by apply Local.of <;> simp

theorem Local.atChan (m : MemErr) (f : Env → Ch → Ch) (hn : n < 4) (hp : s.PairsOk) : Local n s (s.atChan n m f) := by
  unfold State.atChan
  split
  · exact Local.refl s
  · rename_i h
    refine (Local.onChan m _ hn (fun hs he => h ?_) hp).trans (Local.busyNow n)
    simp [State.isSecond, he, hs]

/-! ## What follows a command of the party of channel `n` -/

theorem ownerOf_lt {phys : Nat} (h : s.ownerOf phys = some n) : n < 4 := by
  unfold State.ownerOf at h
  split at h
  · cases h; assumption
  · cases h

theorem Local.acknowledge (p : Packet) : Local n s (s.acknowledge p) := by
  unfold State.acknowledge
  exact Local.ite (Local.leave _) (Local.refl s)

theorem Local.bayQ (l : List Packet) : Local n s { s with bayQ := l } :=
  Local.of (fun _ => rfl) rfl rfl rfl rfl rfl rfl rfl rfl rfl rfl

theorem Local.forward (p : Packet) (hn : n < 4) (hp : s.PairsOk) : Local n s (s.forward n p) :=
  Local.ite (Local.atChan _ _ hn hp) (Local.atChan _ _ hn hp)

/-- A packet that its node reads, of the party of channel `n`. -/
theorem Local.take {p : Packet} (hr : p.unreadable = false) (h : s.packetOwner p = some n) (hn : n < 4) (hp : s.PairsOk) :
    Local n s (s.take p) := by
  have h1 : Local n s ((s.issue p).acknowledge p) := (Local.issue p).trans (Local.acknowledge p)
  have hp1 : ((s.issue p).acknowledge p).PairsOk := by
    have a : ((s.issue p).acknowledge p).pairAB = s.pairAB := by unfold State.acknowledge; split <;> simp
    have b : ((s.issue p).acknowledge p).pairCD = s.pairCD := by unfold State.acknowledge; split <;> simp
    unfold State.PairsOk at *
    rw [a, b]; exact hp
  unfold State.take
  dsimp only
  rw [hr, h]
  simp only [Bool.false_eq_true, if_false]
  split
  · exact h1.trans (Local.bayQ _)
  · exact h1.trans (Local.forward p hn hp1)

theorem Local.present {p : Packet} (hr : p.unreadable = false) (h : s.packetOwner p = some n) (hn : n < 4) (hp : s.PairsOk) :
    Local n s (s.present p) :=
  Local.ite (Local.nodeWait _) (Local.take hr h hn hp)

theorem Local.strobe {phys l : Nat} (h : s.ownerOf phys = some n) (hp : s.PairsOk) : Local n s (s.strobe phys l) := by
  unfold State.strobe
  refine Local.ite (Local.refl s) ?_
  simp only [h]
  exact Local.atChan _ _ (ownerOf_lt h) hp

end Sys2Proof.Machine
end

