-- ==== Sys2Proof/WellFormed.lean ====
section
/-! DEFINITION. Which commands an agent outside the block can send: the ports that exist (R15, R31), the widths and numbers
that the rules bound. The meanings are total and do not rely on it. -/

namespace Sys2Proof

/-- A port of the SRN: 0x000 to 0x727 (R15). -/
def portOk (phys : BitVec 12) : Bool := decide (phys.toNat < 0x728)

/-- A crossing number of the coding of R365. -/
def crossingWf (q : BitVec 16) : Bool :=
  let i := q.toNat % 4096
  match q.toNat / 4096 with
  | 1 => decide (i < 0x400)
  | 2 => decide (0x400 ≤ i ∧ i < 0x728)
  | 3 => decide (i < 0x728)
  | 4 => decide (i < 8)
  | 5 => decide (i < 8)
  | 6 => decide (i < 4)
  | 7 => decide (i = 0)
  | 8 => decide (i = 0)
  | 9 => decide (i ≤ 4)
  | _ => false

/-- An array error, or a fallback on a crossing that there is. -/
def MemErr.wf : MemErr → Bool
  | .late q => crossingWf q
  | _ => true

/-- A request enters by a port of the SRN. -/
def Req.wf (r : Req) : Bool := portOk r.endpoint && r.mem.wf

/-- A trailer comes by a tile or link agent that has a port, for an issuer that has one (R61); the captured channel is one of the four,
or 0xF where there is none. -/
def TrailerArg.wf (t : TrailerArg) : Bool :=
  portOk t.issuer && portOk t.tile && (decide (t.chan.toNat < 4) || decide (t.chan.toNat = 15)) && t.mem.wf

/-- A message has as many body words as its header says (R256). -/
def MsgIn.wf (m : MsgIn) : Bool := decide (m.body.length = m.len.toNat)

/-- A host or steward access is of a whole number of bytes. -/
def widthOk (w : Nat) : Bool := [8, 16, 32, 64].contains w

/-- The bytes a flash answers with do not exceed its density, in MiB. -/
def FlashDev.wf (f : FlashDev) : Bool := decide (f.bytes.length ≤ f.density * 1048576)

/-- A command that an agent outside the block can send. -/
def Instr.wf : Instr → Bool
  | .flagSet r => r.wf
  | .flagClear r => r.wf
  | .flagTest r => r.wf
  | .flagWaitSet r => r.wf
  | .flagWaitClear r => r.wf
  | .flagTestClear r => r.wf
  | .semAdd r => r.wf
  | .semSub r => r.wf
  | .semTrysub r => r.wf
  | .semWaitsub r => r.wf
  | .semRead r => r.wf
  | .strProduce r => r.wf
  | .strConsume r => r.wf
  | .strWaitSpace r => r.wf
  | .strWaitData r => r.wf
  | .strRead r => r.wf
  | .barArrive r => r.wf
  | .barArriveWait r => r.wf
  | .barReduceArrive r => r.wf
  | .barReadResult r => r.wf
  | .lockClaim r => r.wf
  | .lockQuery r => r.wf
  | .lockRelease r => r.wf
  | .lockWait r => r.wf
  | .connAccept r => r.wf
  | .connOpen r => r.wf
  | .connReserve r => r.wf
  | .connCommit r => r.wf
  | .connConsume r => r.wf
  | .connClose r => r.wf
  | .waitAny r => r.wf
  | .slotCancel r => r.wf
  | .seqSelect r => r.wf
  | .packetError e => portOk e
  | .trailer t => t.wf
  | .arriveStrobe e _ => portOk e
  | .barrierTimeout _ _ => true
  | .hello m => m.wf
  | .verdict m => m.wf
  | .ready m => m.wf
  | .formed m => m.wf
  | .arrive m => m.wf
  | .release m => m.wf
  | .remoteTrailer m => m.wf
  | .remoteTrailerSend t _ => t.wf
  | .timeReq m => m.wf
  | .timeRsp m => m.wf
  | .breakMsg m => m.wf
  | .registerWrite _ _ w _ => widthOk w
  | .registerReadClear _ _ w => widthOk w
  | .unmatchedOutput _ k => decide (k.toNat < 5)
  | .quarantine q _ => crossingWf q
  | .resetDoneExchange q => crossingWf q
  | .ckQuarantine q => crossingWf q
  | .porRelease f => f.wf
  | .restartSlot _ b => decide (b.length ≤ 4096)
  | .responseDelivered e => portOk e
  | .laneRelease _ _ => true
  | .laneTimeout _ _ => true
  | .preload _ _ _ _ => true
  | .preloadComplete _ _ => true
  | .rearm _ _ _ _ => true
  | .ruCombine _ m => m.wf
  | .ruNfInfoClear _ _ _ => true
  | .endpointResetEvent _ => true
  | .fenceReaction _ _ => true
  | .lockScan _ => true
  | .lockScanEnd _ => true
  | .chMapData _ _ _ => true
  | .budgetGatePass _ => true
  | .leanPass _ _ => true
  | .deadlineOverrun _ _ => true
  | .auditComplete _ _ => true
  | .psSeqSelect _ _ _ _ => true
  | .psSeqRestart _ _ _ _ => true
  | .psSeqStop _ _ _ _ => true
  | .tripAssert => true
  | .tripRelease => true
  | .formationAttemptTimeout _ => true
  | .timeExchangeDue _ => true
  | .accordTimeout _ _ => true
  | .linkLost _ => true
  | .creditReturn _ => true
  | .ptOpen _ _ => true
  | .ptStageData _ _ => true
  | .ptSubmit _ _ => true
  | .submitCheckDone => true
  | .ptApprove _ _ => true
  | .ptAbort _ _ => true
  | .commitHold => true
  | .commit => true
  | .windowExpiry => true
  | .fltAck _ _ _ => true
  | .fltForce _ _ _ => true
  | .ceWindowWrite _ _ _ => true
  | .faultReactionComplete _ => true
  | .drydownExpiry _ => true
  | .trackerClose _ => true
  | .wearWindowBoundary _ => true
  | .shadowEnd => true
  | .hpErrAck _ _ => true
  | .errLowTimeEnd => true
  | .dozeEntry _ => true
  | .slumberEntry _ => true
  | .wakeRequest _ => true
  | .dozeWakeDone _ => true
  | .slumberWakeDone _ => true
  | .alarm _ => true
  | .tmAlarm _ _ => true
  | .tmAlarmExpiry => true
  | .ckPllLock => true
  | .ckKeepClock => true
  | .bayTelemetry _ _ _ _ => true
  | .feedStale _ => true
  | .porAssert => true
  | .flashReadTimeout _ => true
  | .loadGateReady => true
  | .gateOpen _ _ => true
  | .gateRefuse _ _ => true
  | .gateTimeout => true
  | .channelRestart _ _ _ => true
  | .restartLoadDone _ => true
  | .orderlyClose _ _ _ => true
  | .closeComplete _ => true
  | .inspectionSnapshot _ _ _ => true
  | .handWriteFlag _ _ _ => true
  | .handWriteSemaphore _ _ _ => true
  | .handWriteStream _ _ _ => true
  | .handWriteBarrier _ _ _ => true
  | .handRelease _ _ _ => true
  | .handClear _ _ _ => true
  | .handFree _ _ _ => true
  | .blotterGo _ _ _ => true
  | .blotterComplete _ => true
  | .blotterRelease _ _ _ => true
  | .hostFlagSet _ _ _ _ => true
  | .hostFlagClear _ _ _ _ => true
  | .hostFlagTest _ _ _ _ => true
  | .hostFlagTestClear _ _ _ _ => true
  | .hostSemAdd _ _ _ _ => true
  | .hostSemSub _ _ _ _ => true
  | .hostSemTrysub _ _ _ _ => true
  | .hostSemRead _ _ _ _ => true
  | .hwWatch _ _ _ _ => true
  | .hwSlotCancel _ _ _ => true
  | .ltForce _ _ _ => true
  | .keepTick => true
  | .linkUp _ => true
  | .pllLocked => true

end Sys2Proof
end

