-- ==== Sys2Proof/Tests/Slice0.lean ====
section
/-! SUPPORT. Tests: the ill-formed commands that the check refuses; for every statement of the obligations a state and operands that meet its
hypotheses, clause by clause; and single commands on small states, with the results the spec gives. -/

namespace Sys2Proof.Tests
open Sys2Proof.Machine

set_option linter.unusedVariables false
set_option Elab.async false

/-! ## Checks that decide the hypotheses -/

theorem ok {p : Prop} [Decidable p] (h : decide p = true := by decide +kernel) : p := by have k := of_decide_eq_true h; exact k

theorem quiet_of {c : Ch}
    (h : decide (c.todo = [] ∧ c.out = [] ∧ c.raised = [] ∧ c.haltReq = false ∧ c.errPulse = false) = true := by decide +kernel) :
    c.Quiet := by have k := of_decide_eq_true h; exact k

theorem calm_of {c : Ch} (q : c.Quiet := by exact quiet_of)
    (h : decide (c.ctl.st = .run ∧ c.clk.st = .active ∧ c.rq.bankQ = [] ∧ c.rq.ingress = [] ∧ c.rq.full = [] ∧ c.upsets = [] ∧
      c.rq.forceErr = 0) = true := by decide +kernel)
    (f : decide (∀ u ∈ allSubs, (c.fault u).pendForce = none) = true := by decide +kernel) : c.Calm :=
  have k := of_decide_eq_true h
  ⟨k.1, k.2.1, q, k.2.2.1, k.2.2.2.1, k.2.2.2.2.1, k.2.2.2.2.2.1, k.2.2.2.2.2.2,
    fun u => of_decide_eq_true f u (by cases u <;> decide)⟩

theorem ready_of {s : State} {n : Nat} (c : (s.ch n).Calm := by exact calm_of)
    (h : decide (s.por = false ∧ n < 4 ∧ (s.pair n).st = .single ∧ s.settled = true) = true := by decide +kernel) : s.Ready n :=
  ⟨(of_decide_eq_true h).1, (of_decide_eq_true h).2.1, (of_decide_eq_true h).2.2.1, (of_decide_eq_true h).2.2.2, c⟩

theorem rests_of {s : State} {n : Nat} (q : (s.ch n).Quiet := by exact quiet_of)
    (h : decide (s.por = false ∧ n < 4 ∧ (s.pair n).st = .single ∧ s.settled = true) = true := by decide +kernel) : s.Rests n :=
  ⟨(of_decide_eq_true h).1, (of_decide_eq_true h).2.1, (of_decide_eq_true h).2.2.1, (of_decide_eq_true h).2.2.2, q⟩

theorem still_of {s : State}
    (h : decide (s.por = false ∧ (s.pairAB.st = .single ∧ s.pairCD.st = .single) ∧ s.settled = true) = true := by decide +kernel)
    (a : s.chA.Quiet := by exact quiet_of) (b : s.chB.Quiet := by exact quiet_of) (c : s.chC.Quiet := by exact quiet_of)
    (d : s.chD.Quiet := by exact quiet_of) : s.Still :=
  ⟨(of_decide_eq_true h).1, (of_decide_eq_true h).2.1, (of_decide_eq_true h).2.2, a, b, c, d⟩

theorem serves_of {s : State} {n phys lid : Nat} (r : s.Ready n := by exact ready_of)
    (h : decide (s.ownerOf phys = some n ∧ s.quarantined (srnCrossing phys) = false ∧ s.outstanding.get 0 phys < 16 ∧
      s.held n = false ∧ (s.ch n).lidOf phys = some lid ∧ lid < 0xFFE ∧ phys ∉ (s.ch n).ctl.fenced) = true := by decide +kernel) :
    s.Serves n phys lid :=
  have k := of_decide_eq_true h
  { r with owner := k.1, openPort := k.2.1, room := k.2.2.1, free := k.2.2.2.1, maps := k.2.2.2.2.1, inRange := k.2.2.2.2.2.1,
           unfenced := k.2.2.2.2.2.2 }

theorem clean_of {r : Req} (h : decide (r.pkt = .none ∧ r.mem = .none) = true := by decide +kernel) : Clean r := by have k := of_decide_eq_true h; exact k

theorem alone_of {c : Ch} {cls i : Nat}
    (h : decide (c.waiters cls i = [] ∧ ∀ p ∈ c.hw.watches, p.2.enable = true → p.2.cls = cls → p.2.index ≠ i) = true := by decide +kernel) :
    c.Alone cls i := by have k := of_decide_eq_true h; exact k

theorem pairAlone_of {c : Ch} {i : Nat} (h : decide (c.pairWaits i = []) = true := by decide +kernel) : c.PairAlone i :=
  by have k := of_decide_eq_true h; exact k

theorem plainWaits_of {c : Ch} {ws : List Parked}
    (h : decide ((c.hw.parked.map (fun w => (w.lid, w.slot))).Nodup ∧ ∀ w ∈ ws, w.isTrain = false) = true := by decide +kernel) :
    c.PlainWaits ws := by have k := of_decide_eq_true h; exact k

theorem lowestFree_of {c : Ch} {lid k : Nat}
    (h : decide (k < 4 ∧ c.slotArmed lid k = false ∧ ∀ j < k, c.slotArmed lid j = true) = true := by decide +kernel) :
    c.LowestFree lid k := by have k := of_decide_eq_true h; exact k

theorem slotsFull_of {c : Ch} {lid : Nat} (h : decide (∀ j : Nat, j < 4 → c.slotArmed lid j = true) = true := by decide +kernel) :
    c.SlotsFull lid := by have k := of_decide_eq_true h; exact k

theorem raises_of {c : Ch} {e : Env} {u : Sub} {src : Nat} {k : Cause} {cls : Nat}
    (h : decide (c.shadowed e.time u src k = none ∧ srcClass u src ≠ 0 ∧ bit (c.fault u).disabled src = false ∧
      escalate (capturedClass (c.fault u)) (srcClass u src) = cls) = true := by decide +kernel) : c.Raises e u src k cls :=
  by have k := of_decide_eq_true h; exact k

theorem plainEntry_of {c : Ch} {q entry : Nat}
    (h : decide (fld (c.entry entry).w2 26 17 = 0 ∧ (c.entry entry).w3.testBit 45 = false ∧ (c.entry entry).w3.testBit 63 = false ∧
      (c.entry entry).w3.testBit 20 = false ∧
      ∀ x : Nat, x < 16 → x ≠ q → (c.seq x).st = .run ∨ (c.seq x).st = .held → (c.entry (c.seq x).entry).endObj ≠ (c.entry entry).endObj) = true := by
        decide +kernel) :
    c.PlainEntry q entry := by have k := of_decide_eq_true h; exact k

theorem maySend_of {c : Ch} {p : Nat}
    (h : decide ((∀ q ∈ c.la.txWait, q.1 ≠ p) ∧ 16 < (c.la.credit p).txAvail) = true := by decide +kernel) : c.MaySend p :=
  by have k := of_decide_eq_true h; exact k

theorem goodTree_of {c : Ch}
    (h : decide (SMap.wf {} c.la.credits = true ∧ (c.la.edges.map (fun d => d.port)).Nodup ∧
      (∀ d ∈ c.la.edges, (∀ q ∈ c.la.txWait, q.1 ≠ d.port) ∧ 16 < (c.la.credit d.port).txAvail) ∧
      (c.la.edges.filter (fun d => d.up)).length ≤ 1) = true := by decide +kernel) : c.GoodTree := by have k := of_decide_eq_true h; exact k

theorem hears_of {s : State} {n typ : Nat} {m : MsgIn} (r : s.Ready n := by exact ready_of)
    (h : decide (s.quarantined (0x5000 + m.port.toNat) = false ∧ s.portOwner m.port.toNat = some n ∧ s.held n = false ∧ m.err = .none ∧
      (s.ch n).lalog.forceCe = false ∧ lenOk typ m.len.toNat = true ∧ m.body.length = m.len.toNat ∧
      (typ ≠ tyHello → m.accord.toNat = (s.ch n).la.accord) ∧
      (typ ≠ tyHello → typ ≠ tyTrailer → m.dst.toNat = (s.ch n).la.rank)) = true := by decide +kernel) : s.Hears n typ m :=
  have k := of_decide_eq_true h
  { r with openPort := k.1, owner := k.2.1, free := k.2.2.1, clean := k.2.2.2.1, noForce := k.2.2.2.2.1, goodLen := k.2.2.2.2.2.1,
           body := k.2.2.2.2.2.2.1, accord := k.2.2.2.2.2.2.2.1, addressed := k.2.2.2.2.2.2.2.2 }

theorem admits_of {s : State} {fn : BitVec 8} {off v : Nat}
    (h : decide (s.por = false ∧ s.quarantined 0x7000 = false ∧ s.pt.gate = .opened ∧ s.blockHalted = false ∧ s.settled = true ∧
      (s.blocked (queueOf off) = false ∨ s.restartsNow (writeOf fn off v) = true) ∧ s.sflt.hp.pendForce = none ∧ s.sflt.upsets = []) = true := by decide +kernel)
    (d : decide (s.denial fn.toNat 64 (writeOf fn off v) = none) = true := by decide +kernel) : s.Admits fn off v :=
  have k := of_decide_eq_true h
  { por := k.1, openPort := k.2.1, gate := k.2.2.1, allowed := of_decide_eq_true d, running := k.2.2.2.1, settled := k.2.2.2.2.1,
    awake := k.2.2.2.2.2.1, unforced := k.2.2.2.2.2.2.1, sound := k.2.2.2.2.2.2.2 }

theorem single_of {s : State} {u : FltUnit} (h : decide (∀ n : ChanId, (s.pair n.val).st = .single) = true := by decide +kernel) :
    ∀ c k, u = .chan c k → (s.pair c.val).st = .single :=
  fun c _ _ => of_decide_eq_true h c

/-- Only the value written to a _FLT_FORCE register matters to the checks. -/
theorem admitsAll_of {s : State} {fn : BitVec 8} {off : Nat}
    (h : decide (s.por = false ∧ s.quarantined 0x7000 = false ∧ s.pt.gate = .opened ∧ s.blockHalted = false ∧ s.settled = true ∧
      s.blocked (queueOf off) = false ∧ s.sflt.hp.pendForce = none ∧ s.sflt.upsets = []) = true := by decide +kernel)
    (f : decide (faultAt off = none) = true := by decide +kernel)
    (d : decide (s.denial fn.toNat 64 (writeOf fn off 0) = none) = true := by decide +kernel) (w : Nat) : s.Admits fn off w :=
  have k := of_decide_eq_true h
  have e : faultAt off = none := of_decide_eq_true f
  have d : s.denial fn.toNat 64 (writeOf fn off w) = none := by
    have d := of_decide_eq_true d
    simp only [State.denial, debugMissing, writeOf, e] at d ⊢
    exact d
  { por := k.1, openPort := k.2.1, gate := k.2.2.1, allowed := d, running := k.2.2.2.1, settled := k.2.2.2.2.1,
    awake := .inl k.2.2.2.2.2.1, unforced := k.2.2.2.2.2.2.1, sound := k.2.2.2.2.2.2.2 }

theorem admitsRead_of {s : State} {fn : BitVec 8} {off : Nat}
    (h : decide (s.por = false ∧ s.quarantined 0x7000 = false ∧ s.pt.gate = .opened ∧ s.blockHalted = false ∧ s.settled = true ∧
      s.blocked (queueOf off) = false ∧ s.sflt.hp.pendForce = none ∧ s.sflt.upsets = [] ∧
      s.denial fn.toNat 64 ⟨.host fn, off, false, 0⟩ = none) = true := by decide +kernel) : s.AdmitsRead fn off :=
  have k := of_decide_eq_true h
  { por := k.1, openPort := k.2.1, gate := k.2.2.1, running := k.2.2.2.1, settled := k.2.2.2.2.1,
    awake := k.2.2.2.2.2.1, unforced := k.2.2.2.2.2.2.1, sound := k.2.2.2.2.2.2.2.1, allowed := k.2.2.2.2.2.2.2.2 }

theorem stewardPort_of {s : State}
    (h : decide (s.por = false ∧ s.quarantined 0x8000 = false ∧ s.settled = true) = true := by decide +kernel) : s.StewardPort :=
  ⟨(of_decide_eq_true h).1, (of_decide_eq_true h).2.1, (of_decide_eq_true h).2.2⟩

/-! ## Ill-formed commands -/

/-- An untroubled message of no body. -/
def bareMsg (body : List Word) (len : BitVec 4) : MsgIn :=
  { port := 1, len := len, accord := 0, src := 0, dst := 0, object := 0, body := body, err := .none }

/-- A flash that answers with those bytes. -/
def flashOf (density : Nat) (bytes : List Byte) : FlashDev :=
  { answers := true, sfdp := true, tables := true, density := density, fourByte := true, readCmd := 0xEE11, maxMHz := 50,
    dummies := [], changes := [], verifies := true, bytes := bytes }

/-- A request from a port that is not there. -/
def badReq : Req := { endpoint := 0x728, cls := 0, index := 0, tag := 0, operand := 0, pkt := .none, mem := .none }

theorem test_wf_request : Instr.wf (.flagSet badReq) = false := by decide
theorem test_wf_port : Instr.wf (.packetError 0x728) = false := by decide
theorem test_wf_last_port : Instr.wf (.packetError 0x727) = true := by decide
/-- A trailer by a port that is not there. -/
def badTrailer : TrailerArg :=
  { issuer := 5, chan := 0, opcode := 8, cls := 1, index := 7, operand := 2, tile := 0x800, poisoned := false, pkt := .none, mem := .none }

theorem test_wf_trailer : Instr.wf (.trailer badTrailer) = false := by decide
theorem test_wf_message : Instr.wf (.hello (bareMsg [0] 2)) = false := by decide
theorem test_wf_width : Instr.wf (.registerWrite (.host 0) 0 24 0) = false := by decide
theorem test_wf_crossing : Instr.wf (.quarantine 0x1400 0) = false := by decide
theorem test_wf_flash : Instr.wf (.porRelease (flashOf 0 [0])) = false := by decide
theorem test_wf_output : Instr.wf (.unmatchedOutput false 5) = false := by decide
theorem test_wf_burst : Instr.wf (.restartSlot 0 (List.replicate 4097 0)) = false := by decide +kernel


/-! ## Small states -/

/-- Channel A in RUN, awake, with endpoints 5 and 6 as logical IDs 3 and 4. -/
def demoCh : Ch := { ctl := { st := .run, map := [(3, ⟨true, 5⟩), (4, ⟨true, 6⟩)] }, clk := { st := .active } }

/-- A committed table: every endpoint of channel A but 0 to 4 and 7 to 15, which belong to none; bay 3 and the link ports in its view, a
blotter region, every debug enable, every window and array open to function 0 and nothing to function 4. -/
def demoTable : SMap Nat :=
  [(2, 1), (8, 2 ^ 27 + 2 ^ 32 * 255 + 2 ^ 40 * 3 + 2 ^ 48 * 7), (9, 2 ^ 20), (10, 8), (11, 7), (0x28, 0x7F), (0x68, 0xFFFFFFFFF00FFFFF)]

/-- The block with that table committed, 10 ms after reset, with that channel A. -/
def demo (c : Ch) : State := { por := false, time := 10000000, pt := { gate := .opened, table := demoTable }, chA := c }

/-- A request of endpoint 5. -/
def req (cls index operand : Nat) : Req :=
  { endpoint := 5, cls := BitVec.ofNat 3 cls, index := BitVec.ofNat 23 index, tag := 9, operand := BitVec.ofNat 64 operand,
    pkt := .none, mem := .none }

/-- An armed slot. -/
def wait (lid slot cls i op : Nat) (gen : BitVec 32 := 0) (operand : Nat := 1) : Parked :=
  { lid := lid, slot := slot, phys := lid + 2, armTime := 9, operand := operand, tag := 3, index := i, cls := cls, opcode := op,
    train := 2 ^ slot, lastSeen := true, isTrain := false, found := 77, gen := gen }

/-- The channel with those slots armed. -/
def withWaits (ws : List Parked) (c : Ch) : Ch := { c with hw := { c.hw with parked := ws } }

/-- All four slots of logical ID 3. -/
def fourWaits : List Parked := [0, 1, 2, 3].map (fun k => wait 3 k clFlag 1 opFlagWaitSet)

/-- A store in which every listed value has a property and the number is listed reads a value that has it. -/
theorem get_all {α : Type} {d : α} (P : α → Prop) {m : SMap α} {k : Nat} (h : ∃ p ∈ m, p.1 = k) (hv : ∀ p ∈ m, P p.2) : P (m.get d k) := by
  induction m with
  | nil => obtain ⟨p, hp, _⟩ := h; cases hp
  | cons q m ih =>
    obtain ⟨j, v⟩ := q
    simp only [SMap.get]
    split
    · exact hv _ List.mem_cons_self
    · next hne =>
      obtain ⟨p, hp, hk⟩ := h
      rcases List.mem_cons.1 hp with rfl | hm
      · exact absurd hk hne
      · exact ih ⟨p, hm, hk⟩ (fun p hp => hv p (List.mem_cons_of_mem _ hp))

/-- Every entry of the share of address 0, taken by other words of that share. -/
@[irreducible] def fullLocks : SMap LockEntry :=
  (List.range 8192).map (fun j => (8 * j, { valid := true, held := true, owner := 4, addr := 512 * (j + 1) }))

theorem fullLocks_valid {j : Nat} (h : j < 8192) : (fullLocks.get {} (8 * j)).valid = true := by
  unfold fullLocks
  exact get_all (fun v : LockEntry => v.valid = true) ⟨_, List.mem_map_of_mem (List.mem_range.2 h), rfl⟩
    (fun p hp => by obtain ⟨_, _, rfl⟩ := List.mem_map.1 hp; rfl)

theorem fullLocks_taken {j : Nat} (h : j < 8192) : (fullLocks.get {} (8 * j + lockBank 0)).valid = true := by
  have e : lockBank 0 = 0 := by decide
  rw [e]
  exact fullLocks_valid h

theorem fullLocks_other : fullLocks.find? (fun p => p.2.valid && p.2.addr = 0) = none := by
  unfold fullLocks
  refine List.find?_eq_none.2 fun p hp => ?_
  obtain ⟨j, _, rfl⟩ := List.mem_map.1 hp
  simp

theorem fullLocks_none {c : Ch} (h : c.lt.entries = fullLocks) : c.findLock 0 = none := by
  unfold Ch.findLock
  rw [h, fullLocks_other]
  rfl

/-- Every connection, open. -/
@[irreducible] def fullConns : SMap Conn := (List.range 0x4000).map (fun m => (m, { st := .opened, sender := 3, receiver := 4 }))

theorem fullConns_taken {k : Nat} (h : k < 0x4000) : (fullConns.get {} k).st ≠ .free := by
  unfold fullConns
  exact get_all (fun v : Conn => v.st ≠ .free) ⟨_, List.mem_map_of_mem (List.mem_range.2 h), rfl⟩
    (fun p hp => by obtain ⟨_, _, rfl⟩ := List.mem_map.1 hp; intro h; cases h)

/-- A sequence of one phase that ends at lane 6, in the image of a channel whose list names flag 12. -/
def demoImg : Img :=
  { capUj := 100, maxHold := 5, therm := 2, selEn := true, selMask := 2, masks := [(2, 2 ^ 3), (9, 2 ^ 4 + 2 ^ 3)],
    scores := [(9, 2 ^ 63 + 40 + 2 ^ 33 + 7 * 2 ^ 16)], lists := [(7, 12)],
    entries := [(40, { w0 := 2 ^ 63 + 2 ^ 61 + 2 ^ 40 * 6 + 2 ^ 58, w1 := 41, w2 := 5 * 2 ^ 32 }),
                (41, { w0 := 2 ^ 63 + 2 ^ 61 + 2 ^ 40 * 8 + 2 ^ 58 + 30, w1 := 41 })] }

/-- A lane of logical IDs 3 and 4, both arrived, waiting at the budget gate. -/
def gatedLane : Lane := { members := [3, 4], parity := [(3, true), (4, true)], gen := 4, gated := true, timeoutUs := 9 }

/-- A lane of logical IDs 3 and 4, of which 3 has arrived. -/
def openLane : Lane := { members := [3, 4], parity := [(3, true)], timeoutUs := 5, roundUs := 5, timer := some 100 }

/-- A sync message of accord 7 for rank 3. -/
def msgTo (port src object : Nat) (body : List Nat) : MsgIn :=
  { port := BitVec.ofNat 3 port, len := BitVec.ofNat 4 body.length, accord := 7, src := BitVec.ofNat 6 src, dst := 3,
    object := BitVec.ofNat 8 object, body := body.map (BitVec.ofNat 64), err := .none }

/-- Channel A at rank 3 of accord 7, on every port, in a state and with those edges. -/
def inAccord (st : AccSt) (edges : List Edge) (c : Ch) : Ch :=
  { c with la := { c.la with st := st, accord := 7, rank := 3, linkPorts := 0xFF, up := 0xFF, digest := 99, edges := edges } }

/-- An edge to a parent, rank 8 on port 1. -/
def parent (sent recv ready : Bool) : Edge := ⟨1, 8, true, sent, recv, ready⟩

/-- An edge to a child, rank 9 on port 3. -/
def child (sent recv ready : Bool) : Edge := ⟨3, 9, false, sent, recv, ready⟩

/-- The body of a HELLO of this version with a digest. -/
def helloOf (digest : Nat) : List Nat := [digest, 2 ^ 40 * verMajor + laFeatures, 0, 0, 0]

/-- The time stamp of a command lies in the keep tick that the block is in: the CORE cycle within it is free. -/
theorem seen_stamp {s : State} {n : Nat} (h : decide (s.coreK = 0 ∧ ((s.begin.ch n).asleep = false)) = true := by decide +kernel) :
    ∃ x : Nat, x ≤ 19 ∧ (s.seen n .none).stamp = s.time + x := by
  have k := of_decide_eq_true h
  refine ⟨2 * s.begin.coreK / 3, ?_, ?_⟩
  · have : s.begin.coreK = s.coreK + s.freeVal 99 % (30 - s.coreK) := rfl
    rw [this, k.1]
    have := Nat.mod_lt (s.freeVal 99) (show 0 < 30 - 0 by omega)
    omega
  · show (if (s.begin.ch n).asleep then s.begin.time else s.begin.stamp) = _
    rw [k.2]
    rfl

theorem natAbs_half (a : Int) : (Int.tdiv a 2).natAbs = a.natAbs / 2 := by
  rw [Int.natAbs_tdiv]
  rfl

/-- A table that passes the checks, of a sequence number and with a delta to channel A's first word. -/
def goodTable (seq more : Nat) : SMap Nat :=
  [(0, seq * 2 ^ 32 + 256), (8, 2 ^ 16 + more), (16, 2 ^ 16), (24, 2 ^ 16), (32, 2 ^ 16), (0x28, 0x7F), (0xD8, 0xFFFFFFFF), (0xDA, 0xFFFFFFFF00000000)]

/-- The block with that change state. -/
def inChange (p : Pt) : State := { demo demoCh with time := 200000000, pt := { p with gate := .opened } }

theorem stamp_lt {s : State} {w : Nat} (h : decide (s.coreK = 0 ∧ s.time + 20 ≤ w) = true := by decide +kernel) : s.begin.stamp < w := by
  have k := of_decide_eq_true h
  have e : s.begin.stamp = s.time + 2 * (s.coreK + s.freeVal 99 % (30 - s.coreK)) / 3 := rfl
  rw [e, k.1]
  have := Nat.mod_lt (s.freeVal 99) (show 0 < 30 - 0 by omega)
  omega

theorem not_late {s : State} {w : Nat} (h : decide (s.coreK = 0 ∧ s.time + 20 ≤ w + 100000000) = true := by decide +kernel) :
    ¬ w + 100000000 ≤ s.begin.stamp :=
  Nat.not_le.2 (stamp_lt h)

/-- The bytes of some words, the low byte of each first. -/
def bytesOf (ws : List Nat) : List Byte := ws.flatMap (fun w => (List.range 8).map (fun k => BitVec.ofNat 8 (w / 2 ^ (8 * k))))

/-- A channel section that holds a configuration block alone. -/
def demoSection : List Byte := bytesOf [2 ^ 56 * 0x0F + 1, 0, 0, 2 ^ 48 * 2 + 2 ^ 32 * 2000 + 100, 0]

/-- The block while channel A restarts from that section, with so many bytes left. -/
def restarting (left crc : Nat) : State :=
  { demo { demoCh with ctl := { demoCh.ctl with st := .loading }, clk := {} } with
      pt := { gate := .opened, table := [(0x28, 0x7F)] },
      cl := { phase := .restart, loads := [(0, { bytes := demoSection, left := left })],
              sects := [(4, { offset := 4096 - 41, length := 40, crc := crc })] } }

/-! ## Single commands -/

/-- The state after a command; every command answers a next state. -/
def run (c : Instr) (s : State) : State := match exec c s with | .next t => t | _ => s

/-- STATUS, RESULT and FINAL of the responses that a command lets leave, in order. -/
def answers (c : Instr) (s : State) : List (Nat × Nat × Bool) :=
  (run c s).emitted.filterMap (fun o => match o with | .resp r => some (r.status, r.result, r.final) | _ => none)

/-- FLAG_CLEAR of a set flag last written by 4 (R73, R76, R77): RESULT is the record before, VALUE 1 at bit 12 and LAST 4. -/
def setFlag : State := demo { demoCh with os := { flags := [(7, { value := true, last := 4 })] } }
theorem test_flag_clear : answers (.flagClear (req 0 7 0)) setFlag = [(stOk, 0x1004, true)] := by decide +kernel
theorem test_flag_clear_last : ((run (.flagClear (req 0 7 0)) setFlag).ch 0).flag 7 = { value := false, last := 3 } := by decide +kernel
theorem test_flag_set_double : ((run (.flagSet (req 0 7 0)) setFlag).ch 0).os.dblCount = 1 := by decide +kernel
theorem test_flag_test : answers (.flagTest (req 0 8 0)) setFlag = [(stFalse, 0xFFE, true)] := by decide +kernel
theorem test_flag_test_clear : ((run (.flagTestClear (req 0 7 0)) setFlag).ch 0).flag 7 = { value := false, last := 3 } := by
  decide +kernel
theorem test_flag_wait_set : answers (.flagWaitSet (req 0 7 0)) setFlag = [(stOk, 0x1004, true)] := by decide +kernel
theorem test_flag_wait_clear : answers (.flagWaitClear (req 0 7 0)) setFlag = [(stPending, 0, false)] := by decide +kernel
theorem test_flag_class : (answers (.flagSet (req 1 7 0)) setFlag).map (·.1) = [stBadOp] := by decide +kernel

/-- SEM_ADD of 2 to 5 (R80, R82): the word after the op, VALUE 7 and LAST 3. -/
def fiveSem : State := demo { demoCh with os := { sems := [(7, { value := 5, last := 4 })] } }
theorem test_sem_add : answers (.semAdd (req 1 7 2)) fiveSem = [(stOk, 3 * 2 ^ 32 + 7, true)] := by decide +kernel
theorem test_sem_sub : answers (.semSub (req 1 7 5)) fiveSem = [(stOk, 3 * 2 ^ 32, true)] := by decide +kernel
theorem test_sem_trysub : answers (.semTrysub (req 1 7 6)) fiveSem = [(stFalse, 4 * 2 ^ 32 + 5, true)] := by decide +kernel
theorem test_sem_waitsub : ((run (.semWaitsub (req 1 7 6)) fiveSem).ch 0).waiting clSem 7 = 1 := by decide +kernel
theorem test_sem_read : answers (.semRead (req 1 7 0)) fiveSem = [(stOk, 4 * 2 ^ 32 + 5, true)] := by decide +kernel

/-- The example "a block behind its count" (chapter 2): P and C at 40; the produce moves P to 41 and ends the parked wait. -/
def blockWait : State :=
  demo (withWaits [wait 4 0 clStr 0x01A2 opStrWaitData] { demoCh with os := { strs := [(0x01A2, { p := 40, c := 40, k := 64 })] } })
theorem test_str_produce : answers (.strProduce (req 2 0x01A2 1)) blockWait =
    [(stOk, 41, true), (stOk, 41 * 2 ^ 32 + 1, true)] := by decide +kernel
theorem test_str_consume : answers (.strConsume (req 2 0x01A2 1)) (run (.strProduce (req 2 0x01A2 1)) blockWait) = [(stOk, 41, true)] := by
  decide +kernel
theorem test_str_wait_space : answers (.strWaitSpace (req 2 0x01A2 65)) blockWait = [(stFalse, 40 * 2 ^ 32 + 64, true)] := by decide +kernel
theorem test_str_wait_data : answers (.strWaitData (req 2 0x01A2 1)) blockWait = [(stPending, 0, false)] := by decide +kernel
theorem test_str_read : answers (.strRead (req 2 0x01A2 3)) blockWait = [(stOk, 64 * 2 ^ 32, true)] := by decide +kernel

/-- The arrival that completes generation 5 of four, with one early (R161, R164): GEN 6, COUNT 1, RELEASED. -/
def lastArrival : State := demo { demoCh with os := { bars := [(0x3000, { gen := 5, count := 3, early := 1, target := 4 })] } }
theorem test_bar_arrive : answers (.barArrive (req 3 0x3000 5)) lastArrival = [(stOk, 2 ^ 59 + 2 ^ 32 + 6, true)] := by decide +kernel
theorem test_bar_arrive_wait : answers (.barArriveWait (req 3 0x3000 6)) lastArrival = [(stPending, 0, false)] := by decide +kernel
theorem test_bar_read_result : (answers (.barReadResult (req 3 0x3000 0)) lastArrival).map (·.1) = [stBadOp] := by decide +kernel

/-- The example "a message that wraps" (chapter 4): connection 0x0153 with K = 16, sender 3, receiver 4. -/
def wrapRing (p c : Nat) (more : Conn → Conn) : State :=
  demo { demoCh with os := {
    conns := [(0x153, more { st := .opened, sender := 3, receiver := 4, base := 0x004020000000, log2 := 4 })],
    strs := [(0xC153, { p := p, c := c, k := 16 })] } }
theorem test_conn_reserve_full : (answers (.connReserve (req 5 0x153 4)) (wrapRing 29 19 id)).map (·.1) = [stRingFull] := by decide +kernel
theorem test_conn_reserve_wraps : answers (.connReserve (req 5 0x153 4)) (wrapRing 29 20 id) =
    [(stOk, 0x004020000000 + 3 * 2 ^ 48 + 4 * 2 ^ 52, true)] := by decide +kernel
theorem test_conn_commit : answers (.connCommit (req 5 0x153 0))
    (wrapRing 29 20 (fun v => { v with resValid := true, resPad := 3, resLen := 4 })) = [(stOk, 36, true)] := by decide +kernel
theorem test_conn_consume : answers (.connConsume { req 5 0x153 7 with endpoint := 6 }) (wrapRing 36 29 id) = [(stOk, 36, true)] := by
  decide +kernel
theorem test_conn_close : answers (.connClose (req 5 0x153 0)) (wrapRing 29 20 id) = [(stOk, 3, true)] := by decide +kernel
theorem test_conn_open : answers (.connOpen (req 5 0x0042 0))
    (demo { demoCh with
      os := { conns := [(0x153, { st := .listening, receiver := 4, port := 0x42, base := 0x004020000000, log2 := 4 })],
              strs := [(0xC153, { k := 16 })] },
      cu := { listening := [0x153] } }) = [(stOk, 0x153 + 4 * 2 ^ 14 + 0x100800000 * 2 ^ 19, true)] := by decide +kernel
theorem test_conn_accept : answers (.connAccept (req 5 0x0042 (4 * 2 ^ 48 + 0x004020000000))) (demo demoCh) = [(stOk, 0, true)] := by
  decide +kernel

/-- The example "a page wait with a shutdown escape" (chapter 3): slot 0 is armed already, semaphore 0x04C3 holds 1, flag 7 is clear. -/
def pageWait : State :=
  demo (withWaits [wait 3 0 clFlag 9 opFlagWaitSet] { demoCh with os := { sems := [(0x04C3, { value := 1 })] } })
def pageWait1 : State := run (.waitAny { req 1 0x04C3 (2 * 2 ^ 32 + 0x0B) with tag := 0x31 }) pageWait
def pageTrain (w : Parked) : Parked := { w with train := 0b0110, isTrain := true, tag := 0x31 }
def pageWait2 : State :=
  demo (withWaits [wait 3 0 clFlag 9 opFlagWaitSet, pageTrain (wait 3 1 clSem 0x04C3 opSemWaitsub 0 2),
      pageTrain (wait 3 2 clFlag 7 opFlagWaitSet)] { demoCh with os := { sems := [(0x04C3, { value := 1 })] } })
theorem test_wait_any_first : answers (.waitAny { req 1 0x04C3 (2 * 2 ^ 32 + 0x0B) with tag := 0x31 }) pageWait =
    [(stOk, 2 ^ 2 * 0b0010 + 1, true)] := by decide +kernel
theorem test_wait_any_last : answers (.waitAny { req 0 7 (2 ^ 8 + 0x04) with tag := 0x31 }) pageWait1 =
    [(stPending, 2 ^ 2 * 0b0110 + 2, false)] := by decide +kernel
theorem test_train_wins : answers (.semAdd { req 1 0x04C3 3 with endpoint := 6 }) pageWait2 =
    [(stOk, 2 ^ 48 + 4 * 2 ^ 32 + 4, true), (stOk, 2 ^ 32 * 2 + 2 ^ 2 * 0b0110 + 1, true)] := by decide +kernel
theorem test_slot_cancel : (answers (.slotCancel (req 6 0 0)) pageWait).map (·.1) = [stOk, stCancelled] := by decide +kernel

/-- The example "a holder lost between two waiters" (chapter 7), with logical IDs 3, 4 and 5 for 0x033, 0x140 and 0x2B1. -/
def pageTable : State :=
  demo (withWaits [wait 0x140 0 clLock 0 opLockWait 0 0x10AC, wait 0x2B1 0 clLock 0 opLockWait 0 0x110AC]
    { demoCh with lt := { entries := [(0x10AC, { valid := true, held := true, owner := 0x033, context := 2, seq := 0x3D,
                                                 addr := 0x006000001A68 })], fencedIds := [0x033] } })
theorem test_lock_bank : lockBank 0x006000001A68 = 4 := by decide +kernel
theorem test_lock_scan : answers (.lockScan 0) pageTable = [(stAbandoned, 0x3800103D10AC1400, true)] := by decide +kernel
theorem test_lock_claim : answers (.lockClaim (req 4 0 (0x006000001A68 + 2 * 2 ^ 48))) (demo demoCh) =
    [(stOk, 2 ^ 61 + 2 ^ 59 + 2 ^ 32 + 4 * 2 ^ 16 + 3 * 2 ^ 4 + 2, true)] := by decide +kernel
theorem test_lock_query : answers (.lockQuery (req 4 0 0x006000001A68)) (demo demoCh) = [(stFalse, 0, true)] := by decide +kernel
theorem test_lock_wait : answers (.lockWait (req 4 0 0x006000001A68)) pageTable = [(stPending, 0, false)] := by decide +kernel
theorem test_lock_release : (answers (.lockRelease (req 4 0 0x006000001A68)) pageTable).map (·.1) = [stNotOwner] := by decide +kernel

/-- The example "a slow member and an early re-arrival" (chapter 5): members F, M, S as logical IDs 3, 4, 5, GEN 8. -/
def lane5 (gen : BitVec 32) (parity : SMap Bool) : State :=
  demo { demoCh with
    ctl := { demoCh.ctl with map := [(3, ⟨true, 0x040⟩), (4, ⟨true, 0x041⟩), (5, ⟨true, 0x1C0⟩)] },
    bw := { lanes := [(5, { members := [3, 4, 5], parity := parity, gen := gen, timeoutUs := 50, roundUs := 50 })] } }
theorem test_strobe_accepted : (run (.arriveStrobe 0x040 5) (lane5 8 [])).emitted = [.ack 0x040 5 0] := by decide +kernel
theorem test_strobe_again : (run (.arriveStrobe 0x040 5) (lane5 9 [(4, true), (5, true)])).emitted = [.ack 0x040 5 1] := by decide +kernel
theorem test_lane_release : (run (.laneRelease 0 5) (lane5 8 [(3, true), (4, true), (5, true)])).emitted = [.laneRelease 0 5 9 false [0x40, 0x41, 0x1C0]] := by
  decide +kernel
theorem test_lane_release_odd : (run (.laneRelease 0 5) (lane5 9 [])).emitted = [.laneRelease 0 5 10 false [0x40, 0x41, 0x1C0]] := by decide +kernel

/-- The example "one scale for a tensor spread over 1,024 cores" (chapter 6): the last arrival of barrier 0x0412 is combined. The other
1,023 have given 2.25, 144.0 and all but 4,000 of the count. -/
def tensorBar : State :=
  demo { demoCh with
    os := { bars := [(0x412, { gen := 676, count := 1024, target := 1024, ruPending := true })] },
    img := { cfgs := [(0x412, 0x0C11000000023304)], rules0 := [(0x11, 0x0000000A00000041)], rules1 := [(0x11, 0x100000)] },
    ru := { queue := [⟨0x412, 676, [(0, 0x41940000), (1, 0x3E80), (2, 4000)], 5, 3, true⟩],
            pay := [(0x412, { acc0 := { words := [(0, 0x40100000), (1, 0x43100000), (2, 3977250)], seen := 7 },
                              scales := 0x81 })] } }
theorem test_reduce_gen : ((run (.ruCombine 0 .none) tensorBar).ch 0).bar 0x412 = { gen := 677, target := 1024 } := by decide +kernel
theorem test_reduce_scales : (((run (.ruCombine 0 .none) tensorBar).ch 0).ru.pay.get {} 0x412).scales = 0x7E81 := by decide +kernel
theorem test_reduce_header : (((run (.ruCombine 0 .none) tensorBar).ch 0).ru.pay.get {} 0x412).header = 0x0AF80000000002A4 := by
  decide +kernel
/-- PAIR 1 of that train, with LAST (INDEX 0x12_8412 of the example): BARRIER 0x0412, G5 4. -/
theorem test_reduce_arrive : answers (.barReduceArrive (req 3 0x128412 4000))
    (demo { demoCh with os := { bars := [(0x412, { gen := 676, count := 1, target := 1024 })] } }) = [(stPending, 0, false)] := by
  decide +kernel

/-- The example "a weak word retired" (chapter 11): OS_CE of flag 0x0_D103 records its address, here by a force that is pending on
that word (R326), so that the error and its word are fixed. -/
theorem test_ce_address : ((run (.flagTest (req 0 0xD103 0))
    (demo { demoCh with flt := { os := { pendForce := some false, forceBank := 3, forceWord := 0x688 } } })).ch 0).flt.os.feAddr =
    0x0600068800000000 := by decide +kernel
theorem test_flt_offset : faultOff (.chan 1 .os) 0x18 = 0x202F18 := by decide +kernel
theorem test_flt_ack : ((run (.fltAck (.host 0) (.chan 0 .os) 1) (demo { demoCh with flt := { os := { captured := true, src := 1 } } })).ch 0).flt.os =
    {} := by decide +kernel

/-- The example "six accesses on a chip with A+B paired" (chapter 17): function 5 with its grant. -/
def sixAccesses : State := { demo demoCh with chC := demoCh, pt := { gate := .opened, table := [(1, 1), (0x29, 0x37 * 2 ^ 16)] } }
def accessOf (cmd : Instr) : List Output := (run cmd sixAccesses).emitted
theorem test_access_performed : accessOf (.registerWrite (.host 5) 0x302F18 64 1) = [.host (.host 5) 0x302F18 true 1 false] := by decide +kernel
theorem test_access_no_register : accessOf (.registerReadClear (.host 5) 0x30A008 64) = [.host (.host 5) 0x30A008 false 0 false] := by
  decide +kernel
theorem test_access_middle : (run (.registerReadClear (.host 5) 0x20C30C 64) sixAccesses).hp.dCause = 3 := by decide +kernel
theorem test_access_party : (run (.registerWrite (.host 5) 0x3140 64 1) sixAccesses).hp.dCause = 1 := by decide +kernel

/-- The example "replacing a core" (chapter 1), on channel A: the entry of fenced core 0x153 takes core 0x3F7. -/
def lostCore : State :=
  demo { demoCh with ctl := { demoCh.ctl with map := [(0xA3, ⟨true, 0x153⟩)], fenced := [0x153], mapSel := 0xA3 }, img := { spares := 32 } }
theorem test_map_done : ((run (.chMapData (.host 0) 0 0x103F7) lostCore).ch 0).ctl.mapResCode = 0 := by decide +kernel
theorem test_map_entry : ((run (.chMapData (.host 0) 0 0x103F7) lostCore).ch 0).ctl.map.get {} 0xA3 = ⟨true, 0x3F7⟩ := by decide +kernel

/-- The example "raising an allotment between scores" (chapter 10): the OPEN of SEQ 0x12 and the APPROVE of what was staged. -/
def allotTable : SMap Nat := [(0, 0x11 * 2 ^ 32 + 256), (0x28, 0x7F * 2 ^ 32)]
theorem test_pt_open : (run (.ptOpen (.host 2) 0x12) { demo demoCh with pt := { gate := .opened, table := allotTable } }).pt.st = .edit := by
  decide +kernel
theorem test_pt_approve : (run (.ptApprove .steward 0x5A1C93E700000012)
    { demo demoCh with pt := { gate := .opened, table := allotTable, st := .staged, seq := 0x12, stageCrc := 0x5A1C93E7 } }).pt.st =
    .approved := by decide +kernel

/-- The example "a weak word on one side" (chapter 12), on A+B: the second side meets an uncorrectable word, the first answers. -/
def pairTry : State :=
  { demo { demoCh with os := { sems := [(0x2A15, { value := 9 })] } } with
      chB := { demoCh with os := { sems := [(0x2A15, { value := 9 })] } }, pairAB := { st := .paired } }
theorem test_pair_answer : (answers (.semTrysub { req 1 0x2A15 1 with mem := .ueSecond }) pairTry).map (·.1) = [stOk] := by
  decide +kernel
theorem test_pair_survivor : (run (.semTrysub { req 1 0x2A15 1 with mem := .ueSecond }) pairTry).pairAB.st = .unpaired := by decide +kernel

/-- The example "a decode step held into lean mode" (chapter 8): choice field 9 of its table names successor 0, and the third bay is hot. -/
def decodeImg : Img :=
  { capUj := 40000, maxHold := 2000, therm := 3, choices := [(0x1C, 0x5050505050505555)],
    entries := [(0xA40, { w0 := 2 ^ 63 + 2 ^ 62 + 2 ^ 61 + 2 * 2 ^ 58 + 0x2105 * 2 ^ 40 + 0x30 * 2 ^ 32, w1 := 0x0A42 * 2 ^ 16 + 0x0A41,
                          w2 := 0x1C * 2 ^ 52 }),
                (0xA41, { w0 := 2 ^ 63 + 2 ^ 62 + 0x2106 * 2 ^ 40 + 32000, w3 := 2 ^ 20 + 0x3F10 }),
                (0xA42, { w0 := 2 ^ 63 + 2 ^ 62 + 0x2106 * 2 ^ 40 + 14000 })] }
def decodeHeld (since : Nat) (cls : Nat) : State :=
  { demo { demoCh with
      img := decodeImg,
      os := { bars := [(0x2105, { gen := 8, count := 1, target := 1, gated := true })] },
      bg := { bucket := 36000000, holdQ := [{ seq := 6, obj := .bar 0x2105, succ := 0xA41, chosen := 0, since := since }] },
      ps := { seqs := [(6, { st := .held, entry := 0xA40, deadlineOn := true })] } } with
    pt := { gate := .opened, table := [(8, 0x38 * 2 ^ 24)] },
    bays := [(3, { stale := false }), (4, { stale := false }), (5, { stale := false, cls := cls })] }
theorem test_lean_pass : ((run (.leanPass 0 6) (decodeHeld 8000000 3)).ch 0).bg.bucket = 4000000 := by decide +kernel
theorem test_lean_cause : ((run (.leanPass 0 6) (decodeHeld 8000000 3)).ch 0).bg.leanCause = 1 := by decide +kernel
theorem test_budget_gate : ((run (.budgetGatePass 0) (decodeHeld 8000000 3)).ch 0).bg.bucket = 36000000 := by decide +kernel

/-- The example "a slumbering channel woken by its own timer" (chapter 13), on channel A, its one timer a lane's: it expires at 900.00 µs. -/
def timerCh (k : Clk) : Ch := { demoCh with clk := k, bw := { lanes := [(3, { members := [3], timer := some 0, roundUs := 900 })] } }
def sleeping (k : Clk) (time : Nat) : State := { demo (timerCh { k with slumberEn := true, slumberUs := 200 }) with time := time }
theorem test_slumber_entry : ((run (.slumberEntry 0) (sleeping { st := .doze } 200060)).ch 0).clk.st = .slumber := by decide +kernel
theorem test_alarm : ((run (.alarm 0) (sleeping { st := .slumber } 891980)).ch 0).clk.st = .waking := by decide +kernel
theorem test_alarm_early : ((run (.alarm 0) (sleeping { st := .slumber } 891960)).ch 0).clk.st = .slumber := by decide +kernel
theorem test_wake_request : ((run (.wakeRequest 0) (sleeping { st := .doze } 200060)).ch 0).clk.st = .waking := by decide +kernel

/-- The example "reading a blotter after a hang" (chapter 15): the hand-written semaphore serves its waiter at once, LAST is the waiter's. -/
def starved : State := demo (withWaits [wait 3 0 clSem 0x391 opSemWaitsub 0 4] { demoCh with db := { hand0 := 4 } })
theorem test_hand_write : ((run (.handWriteSemaphore (.host 0) 0 0x391) starved).ch 0).sem 0x391 = { value := 0, last := 3 } := by decide +kernel
theorem test_hand_write_flag : ((run (.handWriteFlag (.host 0) 0 7) (demo { demoCh with db := { hand0 := 2 ^ 12 } })).ch 0).flag 7 =
    { value := true, last := 0xFFF } := by decide +kernel
theorem test_hand_release : (((run (.handRelease (.host 0) 0 0x3000) lastArrival).ch 0).bar 0x3000).gen = 6 := by decide +kernel
theorem test_hand_free : ((run (.handFree (.host 0) 0 0x153) (wrapRing 29 19 id)).ch 0).conn 0x153 = {} := by decide +kernel
theorem test_host_flag_set : ((run (.hostFlagSet (.host 0) 0 0 7) (demo demoCh)).ch 0).flag 7 = { value := true, last := 0xFFF } := by
  decide +kernel
theorem test_host_sem_sub : ((run (.hostSemSub (.host 0) 0 1 7) fiveSem).ch 0).sem 7 = { value := 5, last := 4 } := by decide +kernel
theorem test_watch_hit : ((run (.hwWatch (.host 0) 0 3 (2 ^ 31 + 7)) setFlag).ch 0).hw.hit = 8 := by decide +kernel
theorem test_lt_force : ((run (.ltForce (.host 0) 0 (2 ^ 48 + 0x006000001A68))
    (demo { demoCh with lt := { entries := [(4, { valid := true, held := true, owner := 4, addr := 0x006000001A68 })] } })).ch 0).lockEntry 4 =
    { valid := true, abandoned := true, addr := 0x006000001A68 } := by decide +kernel

/-- Whole-block commands. -/
theorem test_keep_tick : (run .keepTick (demo demoCh)).time = 10000020 := by decide +kernel
theorem test_trip : (run .tripAssert (demo demoCh)).tripPin = true := by decide +kernel
theorem test_por_assert : (run .porAssert (demo demoCh)).por = true := by decide +kernel
theorem test_tm_alarm : (run (.tmAlarm (.host 0) 77) (demo demoCh)).ck.tmAlarm = 77 := by decide +kernel
theorem test_tm_expiry : (run .tmAlarmExpiry (run .keepTick (run (.tmAlarm (.host 0) 77) (demo demoCh)))).ck.tmEvent = true := by decide +kernel
theorem test_telemetry : (run (.bayTelemetry 3 2 500 false) (demo demoCh)).bays.get {} 3 =
    { cls := 2, power := 500, stale := false, at_ := 10000000 } := by decide +kernel
theorem test_quarantine : (run (.quarantine 0x4003 0) (demo demoCh)).quarantined 0x4003 = true := by decide +kernel
theorem test_reset_done : (run (.resetDoneExchange 0x4003) (run (.quarantine 0x4003 0) (demo demoCh))).quarantined 0x4003 = false := by
  decide +kernel
theorem test_fence : ((run (.endpointResetEvent 5) (demo demoCh)).ch 0).ctl.fenced = [5] := by decide +kernel
theorem test_fenced_request : (answers (.flagSet (req 0 7 0)) (run (.endpointResetEvent 5) (demo demoCh))).map (·.1) = [stFenced] := by
  decide +kernel
theorem test_restart : ((run (.channelRestart (.host 0) 0 1) (demo demoCh)).ch 0).ctl.st = .loading := by decide +kernel
theorem test_close : ((run (.orderlyClose (.host 0) 0 2) (demo demoCh)).ch 0).ctl.st = .closing := by decide +kernel
theorem test_blotter_go : ((run (.blotterGo (.host 0) 0 1) (demo demoCh)).ch 0).db.bSt = .writing := by decide +kernel
theorem test_seq_select : answers (.seqSelect (req 7 2 9)) (demo { demoCh with img := demoImg }) = [(stOk, 40 * 2 ^ 16 + 1, true)] := by
  decide +kernel
def addTwo : TrailerArg :=
  { issuer := 5, chan := 0, opcode := 8, cls := 1, index := 7, operand := 2, tile := 0x440, poisoned := false, pkt := .none, mem := .none }
theorem test_trailer : ((run (.trailer addTwo) fiveSem).ch 0).sem 7 = { value := 7, last := 3 } := by decide +kernel
theorem test_packet_error : (answers (.packetError 5) (demo demoCh)).map (·.1) = [stPacketError] := by decide +kernel
theorem test_link_lost : ((run (.linkLost 7) (demo (inAccord .formed [] demoCh))).ch 0).la.up = 0x7F := by decide +kernel
theorem test_hello : (run (.hello (msgTo 1 8 0 (helloOf 99))) (demo (inAccord .forming [parent false false false] demoCh))).emitted =
    [.msg 1 { typ := tyVerdict, accord := 7, src := 3, dst := 8, body := [0] }, .creditBack 1] := by decide +kernel
theorem test_response_taken : (run (.responseDelivered 5) (run (.flagSet (req 0 7 0)) (demo demoCh))).resp = [] := by decide +kernel
theorem test_no_words : decodeTableWord 8 0 = none := by decide
theorem test_step_front : ∃ t, step { demo demoCh with pending := [.tripAssert, .keepTick] } = .next t ∧ t.pending = [.keepTick] ∧ t.tripPin = true :=
  ⟨run .tripAssert { demo demoCh with pending := [.keepTick] }, rfl, rfl, rfl⟩

/-! ## Witnesses -/

theorem witness_StepPerformsFront : ∃ s : State, s.pending = [] := ⟨demo demoCh, rfl⟩
theorem witness_EveryCommandCompletes : ∃ (c : Instr) (rest : List Instr) (s : State), s.pending = c :: rest :=
  ⟨.keepTick, [.pllLocked], { demo demoCh with pending := [.keepTick, .pllLocked] }, rfl⟩

/-- The demonstration block meets what every step keeps, with a command waiting. -/
theorem demo_inv : ({ demo demoCh with pending := [.keepTick] } : State).Inv :=
  ⟨⟨quiet_of, quiet_of, quiet_of, quiet_of⟩, ⟨by decide +kernel, fun _ => Nat.zero_le _⟩, ⟨(fun p h => by cases h), (fun p h => by cases h)⟩, ⟨by decide, by decide⟩⟩

theorem witness_StepKeepsInv : ∃ s t : State, s.Inv ∧ step s = .next t := ⟨_, _, demo_inv, rfl⟩
theorem witness_TimeAdvancesAtTicks_release : ∃ s : State, s.por = true := ⟨State.reset, rfl⟩
theorem witness_TimeAdvancesAtTicks_tick : ∃ s : State, s.por = false := ⟨demo demoCh, rfl⟩
theorem witness_TimeAdvancesAtTicks_other : ∃ (c : Instr) (s t : State), c ≠ .keepTick ∧ c ≠ .porAssert ∧ (∀ f, c ≠ .porRelease f) ∧
    exec c s = .next t := ⟨.pllLocked, demo demoCh, _, by decide, by decide, (fun _ h => nomatch h), rfl⟩
theorem witness_TableChangesAtCommits : ∃ (c : Instr) (s t : State), s.HostQueues ∧ mayCommit c = false ∧ exec c s = .next t :=
  ⟨.flagSet (req 0 7 0), demo demoCh, _, ⟨(fun p h => by cases h), (fun p h => by cases h)⟩, rfl, rfl⟩
theorem witness_EveryCommandCompletes_held : ∃ (c : Instr) (s : State), s.por = true ∧ ∀ f, c ≠ .porRelease f :=
  ⟨.keepTick, State.reset, rfl, (fun _ h => nomatch h)⟩
/-- The hypotheses of FlagOps. -/
def hypFlagOps (s : State) (n lid i : Nat) (r : Req) (f : Flag) : Prop := s.Serves n r.endpoint.toNat lid ∧ Clean r ∧ r.cls = 0 ∧
    r.index.toNat = i ∧ i < 2 ^ 20 ∧ (s.ch n).flag i = f ∧ (s.ch n).Alone clFlag i ∧ f.poisoned = false
theorem witness_FlagOps_clear : ∃ (s : State) (n lid i : Nat) (r : Req) (f : Flag), hypFlagOps s n lid i r f ∧ f.value = false :=
  ⟨demo demoCh, 0, 3, 0xFFFFF, req 0 0xFFFFF 0, {}, ⟨serves_of, clean_of, ok, ok, ok, ok, alone_of, ok⟩, ok⟩
theorem witness_FlagOps_set : ∃ (s : State) (n lid i : Nat) (r : Req) (f : Flag), hypFlagOps s n lid i r f ∧ f.value = true ∧
    f.strict = false :=
  ⟨demo ({ demoCh with os := { flags := [(0xFFFFF, { value := true })] } }), 0, 3, 0xFFFFF, req 0 0xFFFFF 0, { value := true },
    ⟨serves_of, clean_of, ok, ok, ok, ok, alone_of, ok⟩, ok⟩
/-- The hypotheses of FlagWaits. -/
def hypFlagWaits (s : State) (n lid i : Nat) (r : Req) (f : Flag) : Prop := s.Serves n r.endpoint.toNat lid ∧ Clean r ∧ r.cls = 0 ∧
    r.index.toNat = i ∧ i < 2 ^ 20 ∧ (s.ch n).flag i = f ∧ f.poisoned = false
theorem witness_FlagWaits_clear : ∃ (s : State) (n lid i : Nat) (r : Req) (f : Flag),
    let c := s.ch n
    hypFlagWaits s n lid i r f ∧ f.value = false ∧ c.LowestFree lid 1 :=
  ⟨demo (withWaits [wait 3 0 clFlag 1 opFlagWaitSet] demoCh), 0, 3, 0xFFFFF, req 0 0xFFFFF 0, {}, ⟨serves_of, clean_of, ok⟩, ok,
    lowestFree_of⟩
theorem witness_FlagWaits_set : ∃ (s : State) (n lid i : Nat) (r : Req) (f : Flag),
    let c := s.ch n
    hypFlagWaits s n lid i r f ∧ f.value = true ∧ c.LowestFree lid 0 :=
  ⟨demo ({ demoCh with os := { flags := [(0xFFFFF, { value := true })] } }), 0, 3, 0xFFFFF, req 0 0xFFFFF 0, { value := true },
    ⟨serves_of, clean_of, ok⟩, ok, lowestFree_of⟩
theorem witness_FlagWaits_full : ∃ (s : State) (n lid i : Nat) (r : Req) (f : Flag),
    let c := s.ch n
    hypFlagWaits s n lid i r f ∧ f.value = true ∧ c.SlotsFull lid :=
  ⟨demo (withWaits fourWaits { demoCh with os := { flags := [(0xFFFFF, { value := true })] } }), 0, 3, 0xFFFFF, req 0 0xFFFFF 0,
    { value := true }, ⟨serves_of, clean_of, ok⟩, ok, slotsFull_of⟩
theorem witness_FlagWaits_fullSet : ∃ (s : State) (n lid i : Nat) (r : Req) (f : Flag),
    let c := s.ch n
    hypFlagWaits s n lid i r f ∧ f.value = false ∧ c.SlotsFull lid :=
  ⟨demo (withWaits fourWaits demoCh), 0, 3, 0xFFFFF, req 0 0xFFFFF 0, {}, ⟨serves_of, clean_of, ok⟩, ok, slotsFull_of⟩
/-- The hypotheses of FlagWaits, second part. -/
def hypFlagWaitsB (s : State) (n lid i : Nat) (r : Req) (f : Flag) : Prop := s.Serves n r.endpoint.toNat lid ∧ Clean r ∧ r.cls = 0 ∧
    r.index.toNat = i ∧ i < 2 ^ 20 ∧ (s.ch n).flag i = f ∧ f.poisoned = false ∧ (∀ p ∈ (s.ch n).hw.watches, p.2.enable = true →
    p.2.cls = clFlag → p.2.index ≠ i) ∧ (s.ch n).PlainWaits ((s.ch n).waiters clFlag i)
theorem witness_FlagWaitsB_wakes : ∃ (s : State) (n lid i : Nat) (r : Req) (f : Flag), hypFlagWaitsB s n lid i r f ∧ f.value = false
    :=
  ⟨demo (withWaits [wait 3 0 clFlag 0xFFFFF opFlagWaitSet, wait 4 0 clFlag 0xFFFFF opFlagWaitClear] demoCh), 0, 3, 0xFFFFF, req 0
    0xFFFFF 0, {}, ⟨serves_of, clean_of, ok, ok, ok, ok, ok, ok, plainWaits_of⟩, ok⟩
theorem witness_FlagWaitsB_wakesClear : ∃ (s : State) (n lid i : Nat) (r : Req) (f : Flag), hypFlagWaitsB s n lid i r f ∧ f.value =
    true :=
  ⟨demo (withWaits [wait 3 0 clFlag 0xFFFFF opFlagWaitSet, wait 4 0 clFlag 0xFFFFF opFlagWaitClear]
    { demoCh with os := { flags := [(0xFFFFF, { value := true })] } }), 0, 3, 0xFFFFF, req 0 0xFFFFF 0, { value := true },
    ⟨serves_of, clean_of, ok, ok, ok, ok, ok, ok, plainWaits_of⟩, ok⟩
/-- The hypotheses of SemOps. -/
def hypSemOps (s : State) (n lid i a : Nat) (r : Req) (v : Sem) : Prop := s.Serves n r.endpoint.toNat lid ∧ Clean r ∧ r.cls = 1 ∧
    r.index.toNat = i ∧ i < 2 ^ 18 ∧ (s.ch n).sem i = v ∧ (s.ch n).Alone clSem i ∧ v.poisoned = false ∧ fld r.operand.toNat 31 0 = a
theorem witness_SemOps_add : ∃ (s : State) (n lid i a : Nat) (r : Req) (v : Sem), hypSemOps s n lid i a r v ∧ 0 < a ∧ v.value + a ≤
    0x7FFFFFFF :=
  ⟨demo ({ demoCh with os := { sems := [(0x3FFFF, { value := 0x7FFFFFF0 })] } }), 0, 3, 0x3FFFF, 0xF, req 1 0x3FFFF 0xF,
    { value := 0x7FFFFFF0 }, ⟨serves_of, clean_of, ok, ok, ok, ok, alone_of, ok⟩, ok⟩
theorem witness_SemOps_sub : ∃ (s : State) (n lid i a : Nat) (r : Req) (v : Sem), hypSemOps s n lid i a r v ∧ 0 < a ∧ a ≤ v.value :=
  ⟨demo ({ demoCh with os := { sems := [(0x3FFFF, { value := 5 })] } }), 0, 3, 0x3FFFF, 5, req 1 0x3FFFF 5, { value := 5 },
    ⟨serves_of, clean_of, ok, ok, ok, ok, alone_of, ok⟩, ok⟩
theorem witness_SemOps_false : ∃ (s : State) (n lid i a : Nat) (r : Req) (v : Sem), hypSemOps s n lid i a r v ∧ v.value < a :=
  ⟨demo ({ demoCh with os := { sems := [(0x3FFFF, { value := 5 })] } }), 0, 3, 0x3FFFF, 6, req 1 0x3FFFF 6, { value := 5 },
    ⟨serves_of, clean_of, ok, ok, ok, ok, alone_of, ok⟩, ok⟩
theorem witness_SemOps_zero : ∃ (s : State) (n lid i a : Nat) (r : Req) (v : Sem), hypSemOps s n lid i a r v ∧ a = 0 :=
  ⟨demo ({ demoCh with os := { sems := [(0x3FFFF, { value := 5 })] } }), 0, 3, 0x3FFFF, 0, req 1 0x3FFFF 0, { value := 5 },
    ⟨serves_of, clean_of, ok, ok, ok, ok, alone_of, ok⟩, ok⟩
/-- The hypotheses of SemOps, second part. -/
def hypSemOpsB (s : State) (n lid i a : Nat) (r : Req) (v : Sem) : Prop := s.Serves n r.endpoint.toNat lid ∧ Clean r ∧ r.cls = 1 ∧
    r.index.toNat = i ∧ i < 2 ^ 18 ∧ (s.ch n).sem i = v ∧ v.poisoned = false ∧ fld r.operand.toNat 31 0 = a
theorem witness_SemOpsB_zero : ∃ (s : State) (n lid i a : Nat) (r : Req) (v : Sem), hypSemOpsB s n lid i a r v ∧ a = 0 :=
  ⟨demo ({ demoCh with os := { sems := [(0x3FFFF, { value := 5 })] } }), 0, 3, 0x3FFFF, 0, req 1 0x3FFFF 0, { value := 5 },
    ⟨serves_of, clean_of, ok⟩, ok⟩
theorem witness_SemOpsB_false : ∃ (s : State) (n lid i a : Nat) (r : Req) (v : Sem), hypSemOpsB s n lid i a r v ∧ 0x7FFFFFFF < a :=
  ⟨demo ({ demoCh with os := { sems := [(0x3FFFF, { value := 5 })] } }), 0, 3, 0x3FFFF, 0x80000000, req 1 0x3FFFF 0x80000000,
    { value := 5 }, ⟨serves_of, clean_of, ok⟩, ok⟩
theorem witness_SemOpsB_fits : ∃ (s : State) (n lid i a : Nat) (r : Req) (v : Sem),
    let c := s.ch n
    let fits := a ≤ v.value ∧ (v.firstFit = true ∨ c.waiting clSem i = 0)
    hypSemOpsB s n lid i a r v ∧ 0 < a ∧ a ≤ 0x7FFFFFFF ∧ fits ∧ (∀ p ∈ c.hw.watches, p.2.enable = true → p.2.cls = clSem → p.2.index ≠
    i) :=
  ⟨demo (withWaits [wait 4 0 clSem 0x3FFFF opSemWaitsub]
    { demoCh with os := { sems := [(0x3FFFF, { value := 5, firstFit := true })] } }), 0, 3, 0x3FFFF, 5, req 1 0x3FFFF 5,
    { value := 5, firstFit := true }, ⟨serves_of, clean_of, ok⟩, ok⟩
theorem witness_SemOpsB_parks : ∃ (s : State) (n lid i a : Nat) (r : Req) (v : Sem),
    let c := s.ch n
    let fits := a ≤ v.value ∧ (v.firstFit = true ∨ c.waiting clSem i = 0)
    hypSemOpsB s n lid i a r v ∧ 0 < a ∧ a ≤ 0x7FFFFFFF ∧ (¬ fits) ∧ c.LowestFree lid 0 :=
  ⟨demo (withWaits [wait 4 0 clSem 0x3FFFF opSemWaitsub] { demoCh with os := { sems := [(0x3FFFF, { value := 5 })] } }), 0, 3,
    0x3FFFF, 5, req 1 0x3FFFF 5, { value := 5 }, ⟨serves_of, clean_of, ok⟩, ok, ok, ok, lowestFree_of⟩
theorem witness_SemOpsB_full : ∃ (s : State) (n lid i a : Nat) (r : Req) (v : Sem),
    let c := s.ch n
    let fits := a ≤ v.value ∧ (v.firstFit = true ∨ c.waiting clSem i = 0)
    hypSemOpsB s n lid i a r v ∧ 0 < a ∧ a ≤ 0x7FFFFFFF ∧ (¬ fits) ∧ c.SlotsFull lid :=
  ⟨demo (withWaits fourWaits { demoCh with os := { sems := [(0x3FFFF, { value := 5 })] } }), 0, 3, 0x3FFFF, 0x7FFFFFFF, req 1 0x3FFFF
    0x7FFFFFFF, { value := 5 }, ⟨serves_of, clean_of, ok⟩, ok, ok, ok, slotsFull_of⟩
/-- The hypotheses of StreamOps. -/
def hypStreamOps (s : State) (n lid i a : Nat) (r : Req) (v : Stream) : Prop := s.Serves n r.endpoint.toNat lid ∧ Clean r ∧ r.cls =
    2 ∧ r.index.toNat = i ∧ i < 0xC000 ∧ (s.ch n).str i = v ∧ (s.ch n).PairAlone i ∧ v.poisoned = false ∧ fld r.operand.toNat 31 0 =
    a
theorem witness_StreamOps_produce : ∃ (s : State) (n lid i a : Nat) (r : Req) (v : Stream), hypStreamOps s n lid i a r v ∧ 0 < a ∧
    v.p - v.c + a ≤ v.k ∧ v.p + a ≤ 2 ^ 64 - 1 ∧ fld r.operand.toNat 1 0 = 0 :=
  ⟨demo ({ demoCh with os := { strs := [(0xBFFF, { p := 8, c := 3, k := 9 })] } }), 0, 3, 0xBFFF, 4, req 2 0xBFFF 4,
    { p := 8, c := 3, k := 9 }, ⟨serves_of, clean_of, ok, ok, ok, ok, pairAlone_of, ok⟩, ok⟩
theorem witness_StreamOps_consume : ∃ (s : State) (n lid i a : Nat) (r : Req) (v : Stream), hypStreamOps s n lid i a r v ∧ 0 < a ∧ a
    ≤ v.p - v.c ∧ fld r.operand.toNat 1 0 = 1 :=
  ⟨demo ({ demoCh with os := { strs := [(0xBFFF, { p := 8, c := 3, k := 9 })] } }), 0, 3, 0xBFFF, 5, req 2 0xBFFF 5,
    { p := 8, c := 3, k := 9 }, ⟨serves_of, clean_of, ok, ok, ok, ok, pairAlone_of, ok⟩, ok⟩
theorem witness_StreamOps_zero : ∃ (s : State) (n lid i a : Nat) (r : Req) (v : Stream), hypStreamOps s n lid i a r v ∧ a = 0 :=
  ⟨demo ({ demoCh with os := { strs := [(0xBFFF, { p := 8, c := 3, k := 9 })] } }), 0, 3, 0xBFFF, 0, req 2 0xBFFF 0,
    { p := 8, c := 3, k := 9 }, ⟨serves_of, clean_of, ok, ok, ok, ok, pairAlone_of, ok⟩, ok⟩
theorem witness_StreamOps_read2 : ∃ (s : State) (n lid i a : Nat) (r : Req) (v : Stream), hypStreamOps s n lid i a r v ∧ fld
    r.operand.toNat 1 0 = 2 :=
  ⟨demo ({ demoCh with os := { strs := [(0xBFFF, { p := 8, c := 3, k := 9 })] } }), 0, 3, 0xBFFF, 2, req 2 0xBFFF 2,
    { p := 8, c := 3, k := 9 }, ⟨serves_of, clean_of, ok, ok, ok, ok, pairAlone_of, ok⟩, ok⟩
theorem witness_StreamOps_read3 : ∃ (s : State) (n lid i a : Nat) (r : Req) (v : Stream), hypStreamOps s n lid i a r v ∧ fld
    r.operand.toNat 1 0 = 3 :=
  ⟨demo ({ demoCh with os := { strs := [(0xBFFF, { p := 8, c := 3, k := 9 })] } }), 0, 3, 0xBFFF, 3, req 2 0xBFFF 3,
    { p := 8, c := 3, k := 9 }, ⟨serves_of, clean_of, ok, ok, ok, ok, pairAlone_of, ok⟩, ok⟩
/-- The hypotheses of StreamOps, second part. -/
def hypStreamOpsB (s : State) (n lid i a : Nat) (r : Req) (v : Stream) : Prop := s.Serves n r.endpoint.toNat lid ∧ Clean r ∧ r.cls =
    2 ∧ r.index.toNat = i ∧ i < 0xC000 ∧ (s.ch n).str i = v ∧ v.poisoned = false ∧ fld r.operand.toNat 31 0 = a
theorem witness_StreamOpsB_ok : ∃ (s : State) (n lid i a : Nat) (r : Req) (v : Stream), hypStreamOpsB s n lid i a r v ∧ a ≤ v.k ∧ a
    ≤ v.k - (v.p - v.c) ∧ a ≤ v.p - v.c :=
  ⟨demo ({ demoCh with os := { strs := [(0xBFFF, { p := 8, c := 3, k := 9 })] } }), 0, 3, 0xBFFF, 4, req 2 0xBFFF 4,
    { p := 8, c := 3, k := 9 }, ⟨serves_of, clean_of, ok⟩, ok⟩
theorem witness_StreamOpsB_false : ∃ (s : State) (n lid i a : Nat) (r : Req) (v : Stream), hypStreamOpsB s n lid i a r v ∧ v.k < a
    :=
  ⟨demo ({ demoCh with os := { strs := [(0xBFFF, { p := 8, c := 3, k := 9 })] } }), 0, 3, 0xBFFF, 10, req 2 0xBFFF 10,
    { p := 8, c := 3, k := 9 }, ⟨serves_of, clean_of, ok⟩, ok⟩
theorem witness_StreamOpsB_parks : ∃ (s : State) (n lid i a : Nat) (r : Req) (v : Stream),
    let c := s.ch n
    hypStreamOpsB s n lid i a r v ∧ a ≤ v.k ∧ v.k - (v.p - v.c) < a ∧ v.p - v.c < a ∧ c.LowestFree lid 0 :=
  ⟨demo ({ demoCh with os := { strs := [(0xBFFF, { p := 8, c := 3, k := 9 })] } }), 0, 3, 0xBFFF, 9, req 2 0xBFFF 9,
    { p := 8, c := 3, k := 9 }, ⟨serves_of, clean_of, ok⟩, ok, ok, ok, lowestFree_of⟩
theorem witness_StreamOpsB_full : ∃ (s : State) (n lid i a : Nat) (r : Req) (v : Stream),
    let c := s.ch n
    hypStreamOpsB s n lid i a r v ∧ a ≤ v.k ∧ v.k - (v.p - v.c) < a ∧ v.p - v.c < a ∧ c.SlotsFull lid :=
  ⟨demo (withWaits fourWaits { demoCh with os := { strs := [(0xBFFF, { p := 8, c := 3, k := 9 })] } }), 0, 3, 0xBFFF, 6, req 2 0xBFFF
    6, { p := 8, c := 3, k := 9 }, ⟨serves_of, clean_of, ok⟩, ok, ok, ok, slotsFull_of⟩
/-- The hypotheses of SemZeroAmount. -/
def hypSemZeroAmount (s : State) (n lid i : Nat) (r : Req) (v : Sem) : Prop := s.Serves n r.endpoint.toNat lid ∧ Clean r ∧ r.cls = 1
    ∧ r.index.toNat = i ∧ i < 2 ^ 18 ∧ (s.ch n).sem i = v ∧ fld r.operand.toNat 31 0 = 0
theorem witness_SemZeroAmount : ∃ (s : State) (n lid i : Nat) (r : Req) (v : Sem), hypSemZeroAmount s n lid i r v :=
  ⟨demo (withWaits [wait 4 0 clSem 0x3FFFF opSemWaitsub]
    { demoCh with os := { sems := [(0x3FFFF, { value := 5, poisoned := true })] } }), 0, 3, 0x3FFFF, req 1 0x3FFFF 0,
    { value := 5, poisoned := true }, ⟨serves_of, clean_of, ok⟩⟩
theorem witness_SemZeroAmount_plain : ∃ (s : State) (n lid i : Nat) (r : Req) (v : Sem), hypSemZeroAmount s n lid i r v ∧ v.poisoned
    = false :=
  ⟨demo ({ demoCh with os := { sems := [(0x3FFFF, { value := 5 })] } }), 0, 3, 0x3FFFF, req 1 0x3FFFF 0, { value := 5 }, ⟨serves_of,
    clean_of, ok⟩, ok⟩
/-- The hypotheses of BarArrivals. -/
def hypBarArrivals (s : State) (n lid i : Nat) (r : Req) (b : Bar) : Prop := s.Serves n r.endpoint.toNat lid ∧ Clean r ∧ r.cls = 3 ∧
    r.index.toNat = i ∧ i < 2 ^ 15 ∧ (s.ch n).bar i = b ∧ b.poisoned = false ∧ b.ruPending = false ∧ (s.ch n).accFenced i = false ∧
    (i < 0x400 → b.mask ∉ (s.ch n).os.badMasks ∧ lid < 2048 ∧ ((s.ch n).mask b.mask).testBit lid = true) ∧ (i < 0x2000 → (s.ch
    n).ru.queue.length < 512)
theorem witness_BarArrivals_gen : ∃ (s : State) (n lid i : Nat) (r : Req) (b : Bar),
    let c := s.ch n
    hypBarArrivals s n lid i r b ∧ BitVec.ofNat 32 r.operand.toNat = b.gen ∧ b.gated = false ∧ (i < 0x400 → lid ∉ b.cur) ∧ b.count + 1 ≠
    b.target ∧ c.LowestFree lid 0 :=
  ⟨demo ({ demoCh with os := { bars := [(0x7FFF, { gen := 5, count := 1, early := 1, target := 4 })] } }), 0, 3, 0x7FFF, req 3 0x7FFF
    5, { gen := 5, count := 1, early := 1, target := 4 }, ⟨serves_of, clean_of, ok⟩, ok, ok, ok, ok, lowestFree_of⟩
theorem witness_BarArrivals_genFull : ∃ (s : State) (n lid i : Nat) (r : Req) (b : Bar),
    let c := s.ch n
    hypBarArrivals s n lid i r b ∧ BitVec.ofNat 32 r.operand.toNat = b.gen ∧ b.gated = false ∧ (i < 0x400 → lid ∉ b.cur) ∧ b.count + 1 ≠
    b.target ∧ c.SlotsFull lid :=
  ⟨demo (withWaits fourWaits { demoCh with os := { bars := [(0x2000, { gen := 5, count := 1, early := 1, target := 4 })] } }), 0, 3,
    0x2000, req 3 0x2000 5, { gen := 5, count := 1, early := 1, target := 4 }, ⟨serves_of, clean_of, ok⟩, ok, ok, ok, ok,
    slotsFull_of⟩
theorem witness_BarArrivals_named : ∃ (s : State) (n lid i : Nat) (r : Req) (b : Bar),
    let c := s.ch n
    hypBarArrivals s n lid i r b ∧ BitVec.ofNat 32 r.operand.toNat = b.gen ∧ b.gated = false ∧ (i < 0x400 → lid ∉ b.cur) ∧ b.count + 1 ≠
    b.target ∧ c.LowestFree lid 0 :=
  ⟨demo
    ({ demoCh with os := { bars := [(0x3FF, { gen := 5, count := 1, early := 1, target := 4, mask := 2, cur := [4], nxt := [4] })] }, img := { masks := [(2, 2 ^ 3)] } }),
    0, 3, 0x3FF, req 3 0x3FF 5, { gen := 5, count := 1, early := 1, target := 4, mask := 2, cur := [4], nxt := [4] }, ⟨serves_of,
    clean_of, ok⟩, ok, ok, ok, ok, lowestFree_of⟩
theorem witness_BarArrivals_early : ∃ (s : State) (n lid i : Nat) (r : Req) (b : Bar),
    let c := s.ch n
    hypBarArrivals s n lid i r b ∧ BitVec.ofNat 32 r.operand.toNat = b.gen + 1 ∧ b.early ≠ b.target ∧ (i < 0x400 → lid ∉ b.nxt ∧ lid ∈
    b.cur) ∧ c.LowestFree lid 0 :=
  ⟨demo ({ demoCh with os := { bars := [(0x1FFF, { gen := 5, count := 1, early := 1, target := 4 })] } }), 0, 3, 0x1FFF, req 3 0x1FFF
    6, { gen := 5, count := 1, early := 1, target := 4 }, ⟨serves_of, clean_of, ok⟩, ok, ok, ok, lowestFree_of⟩
theorem witness_BarArrivals_earlyNamed : ∃ (s : State) (n lid i : Nat) (r : Req) (b : Bar),
    let c := s.ch n
    hypBarArrivals s n lid i r b ∧ BitVec.ofNat 32 r.operand.toNat = b.gen + 1 ∧ b.early ≠ b.target ∧ (i < 0x400 → lid ∉ b.nxt ∧ lid ∈
    b.cur) ∧ c.LowestFree lid 0 :=
  ⟨demo
    ({ demoCh with os := { bars := [(0x3FF, { gen := 5, count := 1, early := 1, target := 4, mask := 2, cur := [3], nxt := [4] })] }, img := { masks := [(2, 2 ^ 3)] } }),
    0, 3, 0x3FF, req 3 0x3FF 6, { gen := 5, count := 1, early := 1, target := 4, mask := 2, cur := [3], nxt := [4] }, ⟨serves_of,
    clean_of, ok⟩, ok, ok, ok, lowestFree_of⟩
theorem witness_BarReleases : ∃ (s : State) (n lid i : Nat) (r : Req) (b : Bar),
    let ws := (s.ch n).genWaits i b.gen
    s.Serves n r.endpoint.toNat lid ∧ Clean r ∧ r.cls = 3 ∧ r.index.toNat = i ∧ 0x2000 ≤ i ∧ i < 2 ^ 15 ∧ (s.ch n).bar i = b ∧
    b.poisoned = false ∧ b.gated = false ∧ b.ruPending = false ∧ (s.ch n).accObj (.bar i) = none ∧ (s.ch n).seqEnding (.bar i) =
    none ∧ BitVec.ofNat 32 r.operand.toNat = b.gen ∧ b.count + 1 = b.target ∧ b.early < b.target ∧ (s.ch n).PlainWaits ws ∧ (∀ w ∈
    ws, w.opcode = opBarArriveWait) :=
  ⟨demo (withWaits [wait 4 0 clBar 0x2000 opBarArriveWait 5]
    { demoCh with os := { bars := [(0x2000, { gen := 5, count := 3, early := 1, target := 4 })] } }), 0, 3, 0x2000, req 3 0x2000 5,
    { gen := 5, count := 3, early := 1, target := 4 }, serves_of, clean_of, ok, ok, ok, ok, ok, ok, ok, ok, ok, ok, ok, ok, ok,
    plainWaits_of, ok⟩
/-- The hypotheses of BarReduction. -/
def hypBarReduction (s : State) (n lid i : Nat) (r : Req) (b : Bar) : Prop := s.Serves n r.endpoint.toNat lid ∧ Clean r ∧ r.cls = 3
    ∧ fld r.index.toNat 14 0 = i ∧ i < 0x2000 ∧ (s.ch n).bar i = b ∧ b.poisoned = false ∧ (i < 0x400 → b.mask ∉ (s.ch n).os.badMasks
    ∧ lid < 2048 ∧ ((s.ch n).mask b.mask).testBit lid = true)
theorem witness_BarReduction_stages : ∃ (s : State) (n lid i : Nat) (r : Req) (b : Bar),
    let c := s.ch n
    hypBarReduction s n lid i r b ∧ (∀ t ∈ (s.ch n).ru.staged, t.lid = lid → t.bar = i ∧ t.tag = r.tag.toNat) ∧ r.index.toNat.testBit 17
    = false :=
  ⟨demo { demoCh with os := { bars := [(0x1FFF, { gen := 5, count := 1, early := 1, target := 4 })] } }, 0, 3, 0x1FFF, req 3 (0x1FFF +
    2 ^ 15) 0, { gen := 5, count := 1, early := 1, target := 4 }, ⟨serves_of, clean_of, ok⟩, ok⟩
theorem witness_BarReduction_last : ∃ (s : State) (n lid i : Nat) (r : Req) (b : Bar),
    let c := s.ch n
    hypBarReduction s n lid i r b ∧ (∀ t ∈ (s.ch n).ru.staged, t.lid = lid → t.bar = i ∧ t.tag = r.tag.toNat) ∧ r.index.toNat.testBit 17
    = true ∧ fld r.index.toNat 22 18 = b.gen.toNat % 32 ∧ b.gated = false ∧ b.ruPending = false ∧ (s.ch n).accFenced i = false ∧ (i
    < 0x400 → lid ∉ b.cur) ∧ c.ru.queue.length < 512 ∧ c.LowestFree lid 0 :=
  ⟨demo { demoCh with os := { bars := [(0x1FFF, { gen := 5, count := 3, early := 1, target := 4 })] } }, 0, 3, 0x1FFF, req 3 (0x1FFF +
    2 ^ 17 + 5 * 2 ^ 18) 0, { gen := 5, count := 3, early := 1, target := 4 }, ⟨serves_of, clean_of, ok⟩, ok, ok, ok, ok, ok, ok,
    ok, ok, lowestFree_of⟩
theorem witness_BarReduction_pair : ∃ (s : State) (n lid i : Nat) (r : Req) (b : Bar),
    let c := s.ch n
    hypBarReduction s n lid i r b ∧ fld r.index.toNat 22 18 = 0 ∧ r.index.toNat.testBit 17 = false :=
  ⟨demo { demoCh with os := { bars := [(0x1FFF, { gen := 5, count := 1, early := 1, target := 4 })] } }, 0, 3, 0x1FFF, req 3 (0x1FFF +
    3 * 2 ^ 15) 0, { gen := 5, count := 1, early := 1, target := 4 }, ⟨serves_of, clean_of, ok⟩, ok⟩
theorem witness_BarReduction_scales : ∃ (s : State) (n lid i : Nat) (r : Req) (b : Bar),
    let c := s.ch n
    hypBarReduction s n lid i r b ∧ fld r.index.toNat 22 18 = 0 ∧ r.index.toNat.testBit 17 = true ∧ fld r.index.toNat 16 15 = 0 :=
  ⟨demo { demoCh with os := { bars := [(0x1FFF, { gen := 5, count := 1, early := 1, target := 4 })] } }, 0, 3, 0x1FFF, req 3 (0x1FFF +
    2 ^ 17) 0, { gen := 5, count := 1, early := 1, target := 4 }, ⟨serves_of, clean_of, ok⟩, ok⟩
theorem witness_BarReduction_noPair : ∃ (s : State) (n lid i : Nat) (r : Req) (b : Bar),
    let c := s.ch n
    hypBarReduction s n lid i r b ∧ fld r.index.toNat 22 18 = 0 ∧ r.index.toNat.testBit 17 = true ∧ 2 ≤ fld r.index.toNat 16 15 :=
  ⟨demo { demoCh with os := { bars := [(0x1FFF, { gen := 5, count := 1, early := 1, target := 4 })] } }, 0, 3, 0x1FFF, req 3 (0x1FFF +
    2 ^ 17 + 2 ^ 16) 0, { gen := 5, count := 1, early := 1, target := 4 }, ⟨serves_of, clean_of, ok⟩, ok⟩
theorem witness_BarReduction_read : ∃ (s : State) (n lid i : Nat) (r : Req) (b : Bar),
    let c := s.ch n
    hypBarReduction s n lid i r b ∧ fld r.index.toNat 22 18 = 0 ∧ r.index.toNat.testBit 17 = true ∧ fld r.index.toNat 16 15 = 1 :=
  ⟨demo { demoCh with os := { bars := [(0x1FFF, { gen := 5, count := 3, early := 1, target := 4 })] } }, 0, 3, 0x1FFF, req 3 (0x1FFF +
    2 ^ 17 + 2 ^ 15) 0, { gen := 5, count := 3, early := 1, target := 4 }, ⟨serves_of, clean_of, ok⟩, ok⟩
/-- The hypotheses of Locks. -/
def hypLocks (s : State) (n lid addr cx : Nat) (r : Req) : Prop := s.Serves n r.endpoint.toNat lid ∧ Clean r ∧ r.cls = 4 ∧ r.index =
    0 ∧ fld r.operand.toNat 47 0 = addr ∧ addr % 8 = 0 ∧ fld r.operand.toNat 51 48 = cx
theorem witness_Locks_takes : ∃ (s : State) (n lid addr cx : Nat) (r : Req),
    let c := s.ch n
    hypLocks s n lid addr cx r ∧ c.findLock addr = none ∧ (c.lockEntry (8 * 0 + lockBank addr)).valid = false :=
  ⟨demo ({ demoCh with lt := {} }), 0, 3, 0xFFFFFFFFFFF8, 15, req 4 0 (0xFFFFFFFFFFFF8 - 0xF000000000000 + 15 * 2 ^ 48), ⟨serves_of,
    clean_of, ok⟩, ok⟩
theorem witness_Locks_full : ∃ (s : State) (n lid addr cx : Nat) (r : Req),
    let c := s.ch n
    hypLocks s n lid addr cx r ∧ c.findLock addr = none ∧ (∀ j < 8192, (c.lockEntry (8 * j + lockBank addr)).valid = true) :=
  ⟨demo ({ demoCh with lt := { entries := fullLocks } }), 0, 3, 0, 0, req 4 0 (0), ⟨serves_of, clean_of, ok⟩, fullLocks_none rfl, fun
    _ h => fullLocks_taken h⟩
theorem witness_Locks_left : ∃ (s : State) (n lid addr cx : Nat) (r : Req),
    let c := s.ch n
    hypLocks s n lid addr cx r ∧ c.findLock addr = some 0 ∧ (c.lockEntry 0).valid = true ∧ (c.lockEntry 0).poisoned = false ∧
    (c.lockEntry 0).held = false :=
  ⟨demo ({ demoCh with lt := { entries := [(0, { valid := true, owner := 4 })] } }), 0, 3, 0, 1, req 4 0 (2 ^ 48), ⟨serves_of,
    clean_of, ok⟩, ok⟩
theorem witness_Locks_mine : ∃ (s : State) (n lid addr cx : Nat) (r : Req),
    let c := s.ch n
    hypLocks s n lid addr cx r ∧ c.findLock addr = some 0 ∧ (c.lockEntry 0).valid = true ∧ (c.lockEntry 0).poisoned = false ∧
    (c.lockEntry 0).held = true ∧ (c.lockEntry 0).owner = lid ∧ (c.lockEntry 0).context = cx :=
  ⟨demo ({ demoCh with lt := { entries := [(0, { valid := true, held := true, owner := 3, context := 1, abandoned := true })] } }), 0,
    3, 0, 1, req 4 0 (2 ^ 48), ⟨serves_of, clean_of, ok⟩, ok⟩
theorem witness_Locks_waits : ∃ (s : State) (n lid addr cx : Nat) (r : Req),
    let c := s.ch n
    hypLocks s n lid addr cx r ∧ c.findLock addr = some 0 ∧ (c.lockEntry 0).valid = true ∧ (c.lockEntry 0).poisoned = false ∧
    (c.lockEntry 0).held = true ∧ (¬ ((c.lockEntry 0).owner = lid ∧ (c.lockEntry 0).context = cx)) ∧ c.LowestFree lid 0 :=
  ⟨demo ({ demoCh with lt := { entries := [(0, { valid := true, held := true, owner := 3, context := 2 })] } }), 0, 3, 0, 1, req 4 0
    (2 ^ 48), ⟨serves_of, clean_of, ok⟩, ok, ok, ok, ok, ok, lowestFree_of⟩
theorem witness_Locks_waitsFull : ∃ (s : State) (n lid addr cx : Nat) (r : Req),
    let c := s.ch n
    hypLocks s n lid addr cx r ∧ c.findLock addr = some 0 ∧ (c.lockEntry 0).valid = true ∧ (c.lockEntry 0).poisoned = false ∧
    (c.lockEntry 0).held = true ∧ (¬ ((c.lockEntry 0).owner = lid ∧ (c.lockEntry 0).context = cx)) ∧ c.SlotsFull lid :=
  ⟨demo (withWaits fourWaits { demoCh with lt := { entries := [(0, { valid := true, held := true, owner := 4, context := 1 })] } }),
    0, 3, 0, 1, req 4 0 (2 ^ 48), ⟨serves_of, clean_of, ok⟩, ok, ok, ok, ok, ok, slotsFull_of⟩
/-- The hypotheses of Locks, second part. -/
def hypLocksB (s : State) (n lid addr cx m : Nat) (r : Req) (v : LockEntry) : Prop := s.Serves n r.endpoint.toNat lid ∧ Clean r ∧
    r.cls = 4 ∧ r.index = 0 ∧ fld r.operand.toNat 47 0 = addr ∧ addr % 8 = 0 ∧ fld r.operand.toNat 51 48 = cx ∧
    r.operand.toNat.testBit 52 = false ∧ (s.ch n).findLock addr = some m ∧ (s.ch n).lockEntry m = v ∧ v.valid = true ∧ v.poisoned =
    false ∧ v.held = true ∧ v.owner = lid ∧ v.context = cx ∧ SMap.wf {} (s.ch n).lt.entries = true
theorem witness_LocksB_frees : ∃ (s : State) (n lid addr cx m : Nat) (r : Req) (v : LockEntry),
    let c := s.ch n
    hypLocksB s n lid addr cx m r v ∧ c.lockWaiters m = [] :=
  ⟨demo ({ demoCh with lt := { entries := [(0, { valid := true, held := true, owner := 3, context := 1 })] } }), 0, 3, 0, 1, 0, req 4
    0 (2 ^ 48), { valid := true, held := true, owner := 3, context := 1 }, ⟨serves_of, clean_of, ok⟩, ok⟩
theorem witness_LocksB_passes : ∃ (s : State) (n lid addr cx m : Nat) (r : Req) (v : LockEntry),
    let c := s.ch n
    hypLocksB s n lid addr cx m r v ∧ c.lockWaiters m = [wait 4 0 clLock 0 opLockWait 0 0] ∧ c.PlainWaits [wait 4 0 clLock 0 opLockWait
    0 0] :=
  ⟨demo (withWaits [wait 4 0 clLock 0 opLockWait 0 0]
    { demoCh with lt := { entries := [(0, { valid := true, held := true, owner := 3, context := 1 })] } }), 0, 3, 0, 1, 0, req 4 0
    (2 ^ 48), { valid := true, held := true, owner := 3, context := 1 }, ⟨serves_of, clean_of, ok⟩, ok, plainWaits_of⟩
/-- The hypotheses of ConnSetup. -/
def hypConnSetup (s : State) (n lid port log2 : Nat) (r : Req) : Prop := s.Serves n r.endpoint.toNat lid ∧ Clean r ∧ r.cls = 5 ∧
    r.index.toNat = port ∧ port < 2 ^ 14 ∧ fld r.operand.toNat 52 48 = log2
theorem witness_ConnSetup_accepts : ∃ (s : State) (n lid port log2 : Nat) (r : Req),
    let c := s.ch n
    hypConnSetup s n lid port log2 r ∧ 4 ≤ log2 ∧ log2 ≤ 24 ∧ (c.conn 0).st = .free ∧ (c.str (0xC000 + 0)).poisoned = false :=
  ⟨demo demoCh, 0, 3, 0x3FFF, 24, req 5 0x3FFF (24 * 2 ^ 48), ⟨serves_of, clean_of, ok⟩, ok⟩
theorem witness_ConnSetup_smallest : ∃ (s : State) (n lid port log2 : Nat) (r : Req),
    let c := s.ch n
    hypConnSetup s n lid port log2 r ∧ 4 ≤ log2 ∧ log2 ≤ 24 ∧ (c.conn 0).st = .free ∧ (c.str (0xC000 + 0)).poisoned = false :=
  ⟨demo demoCh, 0, 3, 0x3FFF, 4, req 5 0x3FFF (4 * 2 ^ 48), ⟨serves_of, clean_of, ok⟩, ok⟩
theorem witness_ConnSetup_full : ∃ (s : State) (n lid port log2 : Nat) (r : Req),
    let c := s.ch n
    hypConnSetup s n lid port log2 r ∧ 4 ≤ log2 ∧ log2 ≤ 24 ∧ (∀ k < 0x4000, (c.conn k).st ≠ .free ∨ (c.str (0xC000 + k)).poisoned =
    true) :=
  ⟨demo { demoCh with os := { conns := fullConns } }, 0, 3, 0x3FFF, 4, req 5 0x3FFF (4 * 2 ^ 48), ⟨serves_of, clean_of, ok⟩, ok, ok,
    fun _ h => Or.inl (fullConns_taken h)⟩
theorem witness_ConnSetup_small : ∃ (s : State) (n lid port log2 : Nat) (r : Req),
    let c := s.ch n
    hypConnSetup s n lid port log2 r ∧ (log2 < 4 ∨ 24 < log2) :=
  ⟨demo demoCh, 0, 3, 0x3FFF, 3, req 5 0x3FFF (3 * 2 ^ 48), ⟨serves_of, clean_of, ok⟩, ok⟩
theorem witness_ConnSetup_large : ∃ (s : State) (n lid port log2 : Nat) (r : Req),
    let c := s.ch n
    hypConnSetup s n lid port log2 r ∧ (log2 < 4 ∨ 24 < log2) :=
  ⟨demo demoCh, 0, 3, 0x3FFF, 25, req 5 0x3FFF (25 * 2 ^ 48), ⟨serves_of, clean_of, ok⟩, ok⟩
theorem witness_ConnSetup_opens : ∃ (s : State) (n lid port log2 : Nat) (r : Req),
    let c := s.ch n
    hypConnSetup s n lid port log2 r ∧ c.cu.listening = [5] ++ 7 :: [] ∧ (c.conn 7).port = port ∧ (∀ k ∈ [5], (c.conn k).port ≠ port) :=
  ⟨demo
    { demoCh with os := { conns := [(5, { st := .listening, port := 1 }), (7, { st := .listening, port := 0x3FFF })] }, cu := { listening := [5, 7] } },
    0, 3, 0x3FFF, 4, req 5 0x3FFF (4 * 2 ^ 48), ⟨serves_of, clean_of, ok⟩, ok⟩
theorem witness_ConnSetup_none : ∃ (s : State) (n lid port log2 : Nat) (r : Req),
    let c := s.ch n
    hypConnSetup s n lid port log2 r ∧ (∀ k ∈ c.cu.listening, (c.conn k).port ≠ port) :=
  ⟨demo { demoCh with os := { conns := [(5, { st := .listening, port := 1 })] }, cu := { listening := [5] } }, 0, 3, 0x3FFF, 4, req 5
    0x3FFF (4 * 2 ^ 48), ⟨serves_of, clean_of, ok⟩, ok⟩
/-- The hypotheses of ConnTransfers. -/
def hypConnTransfers (s : State) (n lid i : Nat) (r : Req) (v : Conn) (p : Stream) : Prop := s.Serves n r.endpoint.toNat lid ∧ Clean
    r ∧ r.cls = 5 ∧ r.index.toNat = i ∧ i < 2 ^ 14 ∧ (s.ch n).conn i = v ∧ (s.ch n).str (0xC000 + i) = p ∧ p.poisoned = false ∧ v.st
    = .opened ∧ (s.ch n).PairAlone (0xC000 + i)
theorem witness_ConnTransfers_fits : ∃ (s : State) (n lid i : Nat) (r : Req) (v : Conn) (p : Stream),
    let len := fld r.operand.toNat 4 0
    let tail := p.k - p.p % p.k
    let space := p.k - (p.p - p.c)
    hypConnTransfers s n lid i r v p ∧ v.sender = lid ∧ 0 < len ∧ len ≤ 16 ∧ len ≤ p.k / 2 ∧ v.resValid = false ∧ len ≤ tail ∧ len ≤
    space :=
  ⟨demo
    ({ demoCh with os := { conns := [(0x3FFF, { st := .opened, sender := 3, receiver := 4 })], strs := [(0xFFFF, { p := 16, c := 16, k := 32 })] } }),
    0, 3, 0x3FFF, req 5 0x3FFF (16), { st := .opened, sender := 3, receiver := 4 }, { p := 16, c := 16, k := 32 }, ⟨serves_of,
    clean_of, ok, ok, ok, ok, ok, ok, ok, pairAlone_of⟩, ok⟩
theorem witness_ConnTransfers_wraps : ∃ (s : State) (n lid i : Nat) (r : Req) (v : Conn) (p : Stream),
    let len := fld r.operand.toNat 4 0
    let tail := p.k - p.p % p.k
    let space := p.k - (p.p - p.c)
    hypConnTransfers s n lid i r v p ∧ v.sender = lid ∧ 0 < len ∧ len ≤ 16 ∧ len ≤ p.k / 2 ∧ v.resValid = false ∧ tail < len ∧ tail +
    len ≤ space :=
  ⟨demo
    ({ demoCh with os := { conns := [(0x3FFF, { st := .opened, sender := 3, receiver := 4 })], strs := [(0xFFFF, { p := 30, c := 30, k := 32 })] } }),
    0, 3, 0x3FFF, req 5 0x3FFF (16), { st := .opened, sender := 3, receiver := 4 }, { p := 30, c := 30, k := 32 }, ⟨serves_of,
    clean_of, ok, ok, ok, ok, ok, ok, ok, pairAlone_of⟩, ok⟩
theorem witness_ConnTransfers_full : ∃ (s : State) (n lid i : Nat) (r : Req) (v : Conn) (p : Stream),
    let len := fld r.operand.toNat 4 0
    let tail := p.k - p.p % p.k
    let space := p.k - (p.p - p.c)
    hypConnTransfers s n lid i r v p ∧ v.sender = lid ∧ 0 < len ∧ len ≤ 16 ∧ len ≤ p.k / 2 ∧ v.resValid = false ∧ space < (if len ≤ tail
    then len else tail + len) ∧ r.operand.toNat.testBit 8 = false :=
  ⟨demo
    ({ demoCh with os := { conns := [(0x3FFF, { st := .opened, sender := 3, receiver := 4 })], strs := [(0xFFFF, { p := 32, c := 0, k := 32 })] } }),
    0, 3, 0x3FFF, req 5 0x3FFF (16), { st := .opened, sender := 3, receiver := 4 }, { p := 32, c := 0, k := 32 }, ⟨serves_of,
    clean_of, ok, ok, ok, ok, ok, ok, ok, pairAlone_of⟩, ok⟩
theorem witness_ConnTransfers_parks : ∃ (s : State) (n lid i : Nat) (r : Req) (v : Conn) (p : Stream),
    let len := fld r.operand.toNat 4 0
    let tail := p.k - p.p % p.k
    let space := p.k - (p.p - p.c)
    hypConnTransfers s n lid i r v p ∧ v.sender = lid ∧ 0 < len ∧ len ≤ 16 ∧ len ≤ p.k / 2 ∧ v.resValid = false ∧ space < (if len ≤ tail
    then len else tail + len) ∧ r.operand.toNat.testBit 8 = true ∧ (s.ch n).LowestFree lid 0 :=
  ⟨demo
    ({ demoCh with os := { conns := [(0x3FFF, { st := .opened, sender := 3, receiver := 4 })], strs := [(0xFFFF, { p := 30, c := 15, k := 32 })] } }),
    0, 3, 0x3FFF, req 5 0x3FFF (16 + 2 ^ 8), { st := .opened, sender := 3, receiver := 4 }, { p := 30, c := 15, k := 32 },
    ⟨serves_of, clean_of, ok, ok, ok, ok, ok, ok, ok, pairAlone_of⟩, ok, ok, ok, ok, ok, ok, ok, lowestFree_of⟩
theorem witness_ConnTransfers_commits : ∃ (s : State) (n lid i : Nat) (r : Req) (v : Conn) (p : Stream), hypConnTransfers s n lid i
    r v p ∧ v.sender = lid ∧ v.resValid = true ∧ 0 < v.resPad + v.resLen :=
  ⟨demo
    ({ demoCh with os := { conns := [(0x3FFF, { st := .opened, sender := 3, receiver := 4, resValid := true, resPad := 2, resLen := 16 })], strs := [(0xFFFF, { p := 30, c := 30, k := 32 })] } }),
    0, 3, 0x3FFF, req 5 0x3FFF (0), { st := .opened, sender := 3, receiver := 4, resValid := true, resPad := 2, resLen := 16 },
    { p := 30, c := 30, k := 32 }, ⟨serves_of, clean_of, ok, ok, ok, ok, ok, ok, ok, pairAlone_of⟩, ok⟩
theorem witness_ConnTransfers_consumes : ∃ (s : State) (n lid i : Nat) (r : Req) (v : Conn) (p : Stream), hypConnTransfers s n lid i
    r v p ∧ v.receiver = lid ∧ 0 < fld r.operand.toNat 24 0 ∧ fld r.operand.toNat 24 0 ≤ p.p - p.c :=
  ⟨demo
    ({ demoCh with os := { conns := [(0x3FFF, { st := .opened, sender := 4, receiver := 3 })], strs := [(0xFFFF, { p := 32, c := 0, k := 32 })] } }),
    0, 3, 0x3FFF, req 5 0x3FFF (32), { st := .opened, sender := 4, receiver := 3 }, { p := 32, c := 0, k := 32 }, ⟨serves_of,
    clean_of, ok, ok, ok, ok, ok, ok, ok, pairAlone_of⟩, ok⟩
/-- The hypotheses of ConnCloses. -/
def hypConnCloses (s : State) (n lid i : Nat) (r : Req) (v : Conn) (p : Stream) : Prop := s.Serves n r.endpoint.toNat lid ∧ Clean r
    ∧ r.cls = 5 ∧ r.index.toNat = i ∧ i < 2 ^ 14 ∧ (s.ch n).conn i = v ∧ (s.ch n).str (0xC000 + i) = p ∧ v.st = .opened ∧ (s.ch
    n).PairAlone (0xC000 + i) ∧ SMap.wf {} (s.ch n).os.conns = true
theorem witness_ConnCloses_reader : ∃ (s : State) (n lid i : Nat) (r : Req) (v : Conn) (p : Stream), hypConnCloses s n lid i r v p ∧
    v.receiver = lid ∧ v.sender ≠ lid :=
  ⟨demo
    ({ demoCh with os := { conns := [(0x3FFF, { st := .opened, sender := 4, receiver := 3 })], strs := [(0xFFFF, { k := 32 })] } }),
    0, 3, 0x3FFF, req 5 0x3FFF (0), { st := .opened, sender := 4, receiver := 3 }, { k := 32 }, ⟨serves_of, clean_of, ok, ok, ok,
    ok, ok, ok, pairAlone_of, ok⟩, ok⟩
theorem witness_ConnCloses_sender : ∃ (s : State) (n lid i : Nat) (r : Req) (v : Conn) (p : Stream), hypConnCloses s n lid i r v p ∧
    v.receiver ≠ lid ∧ v.sender = lid :=
  ⟨demo
    ({ demoCh with os := { conns := [(0x3FFF, { st := .opened, sender := 3, receiver := 4 })], strs := [(0xFFFF, { k := 32 })] } }),
    0, 3, 0x3FFF, req 5 0x3FFF (0), { st := .opened, sender := 3, receiver := 4 }, { k := 32 }, ⟨serves_of, clean_of, ok, ok, ok,
    ok, ok, ok, pairAlone_of, ok⟩, ok⟩
theorem witness_ConnCloses_both : ∃ (s : State) (n lid i : Nat) (r : Req) (v : Conn) (p : Stream), hypConnCloses s n lid i r v p ∧
    v.receiver = lid ∧ v.sender = lid ∧ p.k ≠ 0 :=
  ⟨demo
    ({ demoCh with os := { conns := [(0x3FFF, { st := .opened, sender := 3, receiver := 3 })], strs := [(0xFFFF, { k := 32 })] } }),
    0, 3, 0x3FFF, req 5 0x3FFF (0), { st := .opened, sender := 3, receiver := 3 }, { k := 32 }, ⟨serves_of, clean_of, ok, ok, ok,
    ok, ok, ok, pairAlone_of, ok⟩, ok⟩
/-- The hypotheses of TrainStarts. -/
def hypTrainStarts (s : State) (n lid i k : Nat) (r : Req) (f : Flag) : Prop := s.Serves n r.endpoint.toNat lid ∧ Clean r ∧ r.cls =
    0 ∧ r.index.toNat = i ∧ i < 2 ^ 20 ∧ (s.ch n).flag i = f ∧ f.poisoned = false ∧ (∀ t ∈ (s.ch n).hw.ended, ¬ (t.lid = lid ∧ t.tag
    = r.tag.toNat)) ∧ (∀ w ∈ (s.ch n).hw.parked, w.lid = lid → w.isTrain = true → w.lastSeen = true) ∧ (s.ch n).LowestFree lid k ∧
    (fld r.operand.toNat 5 0 = opFlagWaitSet ∨ fld r.operand.toNat 5 0 = opFlagWaitClear)
theorem witness_TrainStarts_lastHolds : ∃ (s : State) (n lid i k : Nat) (r : Req) (f : Flag),
    let armed := fld r.operand.toNat 5 0
    let holds := f.value = decide (armed = opFlagWaitSet)
    hypTrainStarts s n lid i k r f ∧ r.operand.toNat.testBit 8 = true ∧ holds :=
  ⟨demo { demoCh with os := { flags := [(0xFFFFF, { value := true })] } }, 0, 3, 0xFFFFF, 0, req 0 0xFFFFF (opFlagWaitSet + 2 ^ 8),
    { value := true }, ⟨serves_of, clean_of, ok, ok, ok, ok, ok, ok, ok, lowestFree_of, ok⟩, ok⟩
theorem witness_TrainStarts_lastParks : ∃ (s : State) (n lid i k : Nat) (r : Req) (f : Flag),
    let armed := fld r.operand.toNat 5 0
    let holds := f.value = decide (armed = opFlagWaitSet)
    hypTrainStarts s n lid i k r f ∧ r.operand.toNat.testBit 8 = true ∧ (¬ holds) :=
  ⟨demo { demoCh with os := { flags := [(0xFFFFF, { value := true })] } }, 0, 3, 0xFFFFF, 0, req 0 0xFFFFF (opFlagWaitClear + 2 ^ 8),
    { value := true }, ⟨serves_of, clean_of, ok, ok, ok, ok, ok, ok, ok, lowestFree_of, ok⟩, ok⟩
theorem witness_TrainStarts_parks : ∃ (s : State) (n lid i k : Nat) (r : Req) (f : Flag),
    let armed := fld r.operand.toNat 5 0
    let holds := f.value = decide (armed = opFlagWaitSet)
    hypTrainStarts s n lid i k r f ∧ r.operand.toNat.testBit 8 = false ∧ (¬ holds) :=
  ⟨demo { demoCh with os := { flags := [(0xFFFFF, { value := true })] } }, 0, 3, 0xFFFFF, 0, req 0 0xFFFFF (opFlagWaitClear),
    { value := true }, ⟨serves_of, clean_of, ok, ok, ok, ok, ok, ok, ok, lowestFree_of, ok⟩, ok⟩
theorem witness_TrainStarts_holds : ∃ (s : State) (n lid i k : Nat) (r : Req) (f : Flag),
    let armed := fld r.operand.toNat 5 0
    let holds := f.value = decide (armed = opFlagWaitSet)
    hypTrainStarts s n lid i k r f ∧ r.operand.toNat.testBit 8 = false ∧ holds :=
  ⟨demo { demoCh with os := { flags := [(0xFFFFF, { value := true })] } }, 0, 3, 0xFFFFF, 0, req 0 0xFFFFF (opFlagWaitSet),
    { value := true }, ⟨serves_of, clean_of, ok, ok, ok, ok, ok, ok, ok, lowestFree_of, ok⟩, ok⟩
/-- The hypotheses of SlotCancels. -/
def hypSlotCancels (s : State) (n lid k : Nat) (r : Req) : Prop := s.Serves n r.endpoint.toNat lid ∧ Clean r ∧ r.cls = 6 ∧
    r.index.toNat = k ∧ k < 4
theorem witness_SlotCancels_armed : ∃ (s : State) (n lid k : Nat) (r : Req), hypSlotCancels s n lid k r ∧ wait 3 3 clFlag 1
    opFlagWaitSet ∈ (s.ch n).hw.parked ∧ (s.ch n).PlainWaits [wait 3 3 clFlag 1 opFlagWaitSet] :=
  ⟨demo (withWaits fourWaits demoCh), 0, 3, 3, req 6 3 0, ⟨serves_of, clean_of, ok⟩, ok, plainWaits_of⟩
theorem witness_SlotCancels_free : ∃ (s : State) (n lid k : Nat) (r : Req), hypSlotCancels s n lid k r ∧ (s.ch n).slotArmed lid k =
    false :=
  ⟨demo demoCh, 0, 3, 3, req 6 3 0, ⟨serves_of, clean_of, ok⟩, ok⟩
/-- The hypotheses of SeqSelects. -/
def hypSeqSelects (s : State) (n lid q score : Nat) (r : Req) : Prop := s.Serves n r.endpoint.toNat lid ∧ Clean r ∧ r.cls = 7 ∧
    r.index.toNat = q ∧ q < 16 ∧ fld r.operand.toNat 7 0 = score ∧ (s.ch n).img.selEn = true ∧ (s.ch n).img.selMask ∉ (s.ch
    n).os.badMasks ∧ lid < 2048 ∧ ((s.ch n).mask (s.ch n).img.selMask).testBit lid = true ∧ (s.ch n).ps.badWords = [] ∧ SMap.wf {}
    (s.ch n).ps.seqs = true
theorem witness_SeqSelects_bad : ∃ (s : State) (n lid q score : Nat) (r : Req),
    let c := s.ch n
    let word := c.img.scores.get 0 score
    let first := fld word 15 0
    let en := c.entry first
    let st := (c.seq q).st
    hypSeqSelects s n lid q score r ∧ word.testBit 63 = false :=
  ⟨demo { demoCh with img := demoImg, ps := { seqs := [(15, { st := .run, entry := 40 })] } }, 0, 3, 15, 255, req 7 15 255,
    ⟨serves_of, clean_of, ok⟩, ok⟩
theorem witness_SeqSelects_runs : ∃ (s : State) (n lid q score : Nat) (r : Req),
    let c := s.ch n
    let word := c.img.scores.get 0 score
    let first := fld word 15 0
    let en := c.entry first
    let st := (c.seq q).st
    hypSeqSelects s n lid q score r ∧ word.testBit 63 = true ∧ (st = .run ∨ st = .held ∨ st = .audit) :=
  ⟨demo { demoCh with img := demoImg, ps := { seqs := [(15, { st := .run, entry := 40 })] } }, 0, 3, 15, 9, req 7 15 9, ⟨serves_of,
    clean_of, ok⟩, ok⟩
theorem witness_SeqSelects_starts : ∃ (s : State) (n lid q score : Nat) (r : Req),
    let c := s.ch n
    let word := c.img.scores.get 0 score
    let first := fld word 15 0
    let en := c.entry first
    let st := (c.seq q).st
    hypSeqSelects s n lid q score r ∧ word.testBit 63 = true ∧ (st = .idle ∨ st = .stopped) ∧ fld en.w2 26 17 = 0 ∧ en.w3.testBit 45 =
    false ∧ en.w3.testBit 63 = false ∧ (∀ t < 16, t ≠ q → (c.seq t).st = .run ∨ (c.seq t).st = .held → (c.entry (c.seq
    t).entry).endObj ≠ en.endObj) :=
  ⟨demo { demoCh with img := demoImg, ps := { seqs := [(15, { st := .stopped, entry := 40 })] } }, 0, 3, 15, 9, req 7 15 9,
    ⟨serves_of, clean_of, ok⟩, ok⟩
/-- The hypotheses of LaneArrivals. -/
def hypLaneArrivals (s : State) (n lid : Nat) (p : BitVec 12) (l : BitVec 5) (v : Lane) : Prop := s.Ready n ∧ s.ownerOf p.toNat =
    some n ∧ s.quarantined (0x3000 + p.toNat) = false ∧ (s.ch n).lidOf p.toNat = some lid ∧ p.toNat ∉ (s.ch n).ctl.fenced ∧ (s.ch
    n).lane l.toNat = v
theorem witness_LaneArrivals_other : ∃ (s : State) (n lid : Nat) (p : BitVec 12) (l : BitVec 5) (v : Lane), hypLaneArrivals s n lid
    p l v ∧ lid ∉ v.members :=
  ⟨demo { demoCh with bw := { lanes := [(31, { members := [4] })] } }, 0, 3, 5, 31, { members := [4] }, ⟨ready_of, ok⟩, ok⟩
theorem witness_LaneArrivals_late : ∃ (s : State) (n lid : Nat) (p : BitVec 12) (l : BitVec 5) (v : Lane), hypLaneArrivals s n lid p
    l v ∧ lid ∈ v.members ∧ v.st = .timedOut :=
  ⟨demo { demoCh with bw := { lanes := [(31, { members := [3, 4], st := .timedOut })] } }, 0, 3, 5, 31,
    { members := [3, 4], st := .timedOut }, ⟨ready_of, ok⟩, ok⟩
theorem witness_LaneArrivals_arrives : ∃ (s : State) (n lid : Nat) (p : BitVec 12) (l : BitVec 5) (v : Lane), hypLaneArrivals s n
    lid p l v ∧ lid ∈ v.members ∧ v.st ≠ .timedOut ∧ v.p lid = v.rp :=
  ⟨demo { demoCh with bw := { lanes := [(31, openLane)] } }, 0, 4, 6, 31, openLane, ⟨ready_of, ok⟩, ok⟩
theorem witness_LaneArrivals_again : ∃ (s : State) (n lid : Nat) (p : BitVec 12) (l : BitVec 5) (v : Lane),
    let k : Cause := { addr := at_ 63 32 v.gen.toNat + at_ 4 0 l.toNat, master := some (lid, p.toNat), access := 1, key := l.toNat }
    hypLaneArrivals s n lid p l v ∧ lid ∈ v.members ∧ v.st ≠ .timedOut ∧ v.p lid ≠ v.rp ∧ (s.ch n).Raises (s.seen n .none) .bw 0 k 2 :=
  ⟨demo { demoCh with bw := { lanes := [(31, openLane)] } }, 0, 3, 5, 31, openLane, ⟨ready_of, ok⟩, ok, ok, ok, raises_of⟩
/-- The hypotheses of LaneReleases. -/
def hypLaneReleases (s : State) (n : ChanId) (l : BitVec 5) (v : Lane) : Prop := s.Ready n.val ∧ (s.ch n.val).lane l.toNat = v ∧
    v.stalled = none
theorem witness_LaneReleases_complete : ∃ (s : State) (n : ChanId) (l : BitVec 5) (v : Lane), hypLaneReleases s n l v ∧ v.members ≠
    [] ∧ (∀ m ∈ v.members, v.p m ≠ v.rp) ∧ v.gated = false ∧ v.preloadBusy = false ∧ (s.ch n.val).accObj (.lane l.toNat) = none ∧ (∀
    q < 16, ((s.ch n.val).seq q).st = .run → ((s.ch n.val).entry ((s.ch n.val).seq q).entry).endObj ≠ .lane l.toNat) ∧ v.swapPending
    = false :=
  ⟨demo { demoCh with bw := { lanes := [(31, { gatedLane with gated := false })] } }, 0, 31, { gatedLane with gated := false },
    ⟨ready_of, ok⟩, ok⟩
theorem witness_LaneReleases_swaps : ∃ (s : State) (n : ChanId) (l : BitVec 5) (v : Lane), hypLaneReleases s n l v ∧ v.members ≠ []
    ∧ (∀ m ∈ v.members, v.p m ≠ v.rp) ∧ v.gated = false ∧ v.preloadBusy = false ∧ (s.ch n.val).accObj (.lane l.toNat) = none ∧ (∀ q
    < 16, ((s.ch n.val).seq q).st = .run → ((s.ch n.val).entry ((s.ch n.val).seq q).entry).endObj ≠ .lane l.toNat) ∧ v.swapPending =
    true :=
  ⟨demo { demoCh with bw := { lanes := [(31, { gatedLane with gated := false, swapPending := true, next := [4], nextMask := 9 })] } },
    0, 31, { gatedLane with gated := false, swapPending := true, next := [4], nextMask := 9 }, ⟨ready_of, ok⟩, ok⟩
theorem witness_LaneReleases_preloads : ∃ (s : State) (n : ChanId) (l : BitVec 5) (v : Lane), hypLaneReleases s n l v ∧
    v.preloadBusy = true ∧ v.members ≠ [] :=
  ⟨demo { demoCh with bw := { lanes := [(31, { openLane with preloadBusy := true })] } }, 0, 31,
    { openLane with preloadBusy := true }, ⟨ready_of, ok⟩, ok⟩
theorem witness_LaneReleases_enables : ∃ (s : State) (n : ChanId) (l : BitVec 5) (v : Lane), hypLaneReleases s n l v ∧ v.preloadBusy
    = true ∧ v.members = [] :=
  ⟨demo { demoCh with bw := { lanes := [(31, { preloadBusy := true, nextMask := 9, parity := [(3, true)], gen := 1 })] } }, 0, 31,
    { preloadBusy := true, nextMask := 9, parity := [(3, true)], gen := 1 }, ⟨ready_of, ok⟩, ok⟩
/-- The hypotheses of LaneTimeouts. -/
def hypLaneTimeouts (s : State) (n : ChanId) (l : BitVec 5) (v : Lane) (t0 : Nat) : Prop := s.Ready n.val ∧ (s.ch n.val).lane
    l.toNat = v ∧ v.timer = some t0 ∧ v.st = .active ∧ v.members ≠ [] ∧ v.complete = false ∧ v.roundUs ≠ 0 ∧ t0 + 1000 * v.roundUs ≤
    s.time ∧ SMap.wf {} (s.ch n.val).bw.lanes = true ∧ (∀ q < 16, (((s.ch n.val).seq q).st = .run ∨ ((s.ch n.val).seq q).st = .held)
    → ((s.ch n.val).entry ((s.ch n.val).seq q).entry).endObj ≠ .lane l.toNat)
theorem witness_LaneTimeouts_releases : ∃ (s : State) (n : ChanId) (l : BitVec 5) (v : Lane) (t0 : Nat),
    let k : Cause := { addr := at_ 63 32 v.gen.toNat + at_ 4 0 l.toNat, access := 5, key := l.toNat }
    hypLaneTimeouts s n l v t0 ∧ (s.ch n.val).Raises (s.seen n.val .none) .bw 1 k 2 ∧ v.action = false :=
  ⟨demo { demoCh with bw := { lanes := [(31, { openLane with timer := some 9995000, action := false })] } }, 0, 31,
    { openLane with timer := some 9995000, action := false }, 9995000, ⟨ready_of, ok⟩, raises_of, ok⟩
theorem witness_LaneTimeouts_holds : ∃ (s : State) (n : ChanId) (l : BitVec 5) (v : Lane) (t0 : Nat),
    let k : Cause := { addr := at_ 63 32 v.gen.toNat + at_ 4 0 l.toNat, access := 5, key := l.toNat }
    hypLaneTimeouts s n l v t0 ∧ (s.ch n.val).Raises (s.seen n.val .none) .bw 1 k 2 ∧ v.action = true :=
  ⟨demo { demoCh with bw := { lanes := [(31, { openLane with timer := some 9995000, action := true })] } }, 0, 31,
    { openLane with timer := some 9995000, action := true }, 9995000, ⟨ready_of, ok⟩, raises_of, ok⟩
/-- The hypotheses of LaneControls. -/
def hypLaneControls (s : State) (n : ChanId) (l : BitVec 5) (w : Word) (fn : BitVec 8) (v : Lane) : Prop := s.Ready n.val ∧ s.Admits
    fn (chanOff n.val 3 (0x100 + 8 * l.toNat)) w.toNat ∧ (s.ch n.val).lane l.toNat = v ∧ SMap.wf {} (s.ch n.val).bw.lanes = true
theorem witness_LaneControls_preloads : ∃ (s : State) (n : ChanId) (l : BitVec 5) (w : Word) (fn : BitVec 8) (v : Lane),
    let c := s.ch n.val
    let m := fld w.toNat 11 0
    hypLaneControls s n l w fn v ∧ w.toNat.testBit 28 = true ∧ w.toNat.testBit 27 = false ∧ v.preloadBusy = false ∧ v.swapPending =
    false ∧ m ∉ c.os.badMasks :=
  ⟨demo { demoCh with img := demoImg, bw := { lanes := [(31, openLane)] } }, 0, 31, BitVec.ofNat 64 (2 ^ 28 + 9), 0, openLane,
    ⟨ready_of, admits_of, ok⟩, ok⟩
theorem witness_LaneControls_busy : ∃ (s : State) (n : ChanId) (l : BitVec 5) (w : Word) (fn : BitVec 8) (v : Lane),
    let c := s.ch n.val
    let m := fld w.toNat 11 0
    hypLaneControls s n l w fn v ∧ w.toNat.testBit 28 = true ∧ w.toNat.testBit 27 = false ∧ (v.preloadBusy = true ∨ v.swapPending =
    true) :=
  ⟨demo { demoCh with img := demoImg, bw := { lanes := [(31, { openLane with swapPending := true })] } }, 0, 31, BitVec.ofNat 64 (2 ^
    28 + 9), 0, { openLane with swapPending := true }, ⟨ready_of, admits_of, ok⟩, ok⟩
theorem witness_LaneControls_gated : ∃ (s : State) (n : ChanId) (l : BitVec 5) (w : Word) (fn : BitVec 8) (v : Lane),
    let c := s.ch n.val
    let m := fld w.toNat 11 0
    hypLaneControls s n l w fn v ∧ w.toNat.testBit 28 = false ∧ w.toNat.testBit 27 = true ∧ v.gated = true :=
  ⟨demo { demoCh with img := demoImg, bw := { lanes := [(31, gatedLane)] } }, 0, 31, BitVec.ofNat 64 (2 ^ 27 + 7 * 2 ^ 32), 0,
    gatedLane, ⟨ready_of, admits_of, ok⟩, ok⟩
theorem witness_LaneControls_rearms : ∃ (s : State) (n : ChanId) (l : BitVec 5) (w : Word) (fn : BitVec 8) (v : Lane),
    let c := s.ch n.val
    let m := fld w.toNat 11 0
    hypLaneControls s n l w fn v ∧ w.toNat.testBit 28 = false ∧ w.toNat.testBit 27 = true ∧ v.gated = false ∧ v.members ≠ [] ∧ c.accObj
    (.lane l.toNat) = none :=
  ⟨demo { demoCh with img := demoImg, bw := { lanes := [(31, openLane)] } }, 0, 31, BitVec.ofNat 64 (2 ^ 27 + 7 * 2 ^ 32), 0,
    openLane, ⟨ready_of, admits_of, ok⟩, ok⟩
/-- The hypotheses of BarrierTimeouts. -/
def hypBarrierTimeouts (s : State) (n : ChanId) (i : BitVec 15) (b : Bar) (ws : List Parked) : Prop := s.Ready n.val ∧ (s.ch
    n.val).bar i.toNat = b ∧ b.poisoned = false ∧ b.holding = false ∧ b.gated = false ∧ b.ruPending = false ∧ b.count ≠ 0 ∧
    b.timeoutUs ≠ 0 ∧ (1000 * b.timeoutUs + 255) / 256 + 1 ≤ (fld s.time 39 8 + 2 ^ 32 - b.start) % 2 ^ 32 ∧ SMap.wf {} (s.ch
    n.val).os.bars = true ∧ (∀ q < 16, (((s.ch n.val).seq q).st = .run ∨ ((s.ch n.val).seq q).st = .held) → ((s.ch n.val).entry
    ((s.ch n.val).seq q).entry).endObj ≠ .bar i.toNat) ∧ ((s.ch n.val).waiters clBar i.toNat).filter (fun w => w.gen = b.gen) = ws ∧
    (s.ch n.val).PlainWaits ws
theorem witness_BarrierTimeouts_moves : ∃ (s : State) (n : ChanId) (i : BitVec 15) (b : Bar) (ws : List Parked),
    let k : Cause := { addr := at_ 54 52 3 + at_ 50 28 i.toNat, access := 5 }
    hypBarrierTimeouts s n i b ws ∧ (s.ch n.val).Raises (s.seen n.val .none) .os 12 k 2 ∧ b.action = false ∧ 0x2000 ≤ i.toNat ∧ b.early
    ≠ b.target :=
  ⟨demo (withWaits [wait 3 0 clBar 0x2005 opBarArriveWait 5, wait 4 1 clBar 0x2005 opBarArriveWait 6, wait 4 2 clBar 0x2005
    opBarArriveWait 5]
    { demoCh with os := { bars := [(0x2005, { gen := 5, count := 2, early := 1, target := 4, timeoutUs := 10, start := 3 , action := false })] } }),
    0, 0x2005, { gen := 5, count := 2, early := 1, target := 4, timeoutUs := 10, start := 3 , action := false }, [wait 3 0 clBar
    0x2005 opBarArriveWait 5, wait 4 2 clBar 0x2005 opBarArriveWait 5], ⟨ready_of, ok, ok, ok, ok, ok, ok, ok, ok, ok, ok, ok,
    plainWaits_of⟩, raises_of, ok⟩
theorem witness_BarrierTimeouts_holds : ∃ (s : State) (n : ChanId) (i : BitVec 15) (b : Bar) (ws : List Parked),
    let k : Cause := { addr := at_ 54 52 3 + at_ 50 28 i.toNat, access := 5 }
    hypBarrierTimeouts s n i b ws ∧ (s.ch n.val).Raises (s.seen n.val .none) .os 12 k 2 ∧ b.action = true :=
  ⟨demo (withWaits [wait 3 0 clBar 0x2005 opBarArriveWait 5, wait 4 1 clBar 0x2005 opBarArriveWait 6, wait 4 2 clBar 0x2005
    opBarArriveWait 5]
    { demoCh with os := { bars := [(0x2005, { gen := 5, count := 2, early := 1, target := 4, timeoutUs := 10, start := 3 , action := true })] } }),
    0, 0x2005, { gen := 5, count := 2, early := 1, target := 4, timeoutUs := 10, start := 3 , action := true }, [wait 3 0 clBar
    0x2005 opBarArriveWait 5, wait 4 2 clBar 0x2005 opBarArriveWait 5], ⟨ready_of, ok, ok, ok, ok, ok, ok, ok, ok, ok, ok, ok,
    plainWaits_of⟩, raises_of, ok⟩
theorem witness_ReductionSteps : ∃ (s : State) (n : ChanId) (i k w : Nat) (g : BitVec 32) (phys lid : Nat) (rest : List RuArrival)
    (fn : BitVec 8) (v : Word), s.Ready n.val ∧ (s.ch n.val).ru.queue = ⟨i, g, [(k, w)], phys, lid, false⟩ :: rest ∧ cfgOp ((s.ch
    n.val).cfg i) k ≠ opNone ∧ cfgOp ((s.ch n.val).cfg i) k ≠ opNfcnt ∧ nonFinite (cfgFmt ((s.ch n.val).cfg i) k) w = none ∧
    s.Admits fn (chanOff n.val 5 0x200) v.toNat :=
  ⟨demo
    { demoCh with ru := { queue := [⟨0x1FFF, 1, [(7, 5)], 5, 3, false⟩], nfValid := true }, img := { cfgs := [(0x1FFF, 2 ^ 42)] } },
    0, 0x1FFF, 7, 5, 1, 5, 3, [], 0, BitVec.ofNat 64 (2 ^ 31), ready_of, ok, ok, ok, ok, admits_of⟩
theorem witness_Fences_noOwner : ∃ (s : State) (p : BitVec 12) (n lid : Nat), s.Ready n ∧ s.ownerOf p.toNat = none :=
  ⟨demo demoCh, 7, 0, 3, ready_of, ok⟩
theorem witness_Fences_fenced : ∃ (s : State) (p : BitVec 12) (n lid : Nat), s.Ready n ∧ p.toNat < 0x728 ∧ s.ownerOf p.toNat = some
    n ∧ s.held n = false ∧ p.toNat ∈ (s.ch n).ctl.fenced :=
  ⟨demo { demoCh with ctl := { demoCh.ctl with fenced := [6] } }, 6, 0, 3, ready_of, ok⟩
theorem witness_Fences_fences : ∃ (s : State) (p : BitVec 12) (n lid : Nat),
    let c := s.ch n
    s.Ready n ∧ p.toNat < 0x728 ∧ s.ownerOf p.toNat = some n ∧ s.held n = false ∧ p.toNat ∉ c.ctl.fenced ∧ c.lidOf p.toNat = some lid ∧
    c.hw.parked = [] ∧ c.hw.ended = [] ∧ c.ru.staged = [] ∧ c.ru.discards < 2 ^ 64 ∧ (∀ x ∈ c.ctl.shadows, ¬ (x.row = 0 ∧ x.key =
    p.toNat ∧ x.ends = none)) :=
  ⟨demo { demoCh with ctl := { demoCh.ctl with map := [(3, ⟨true, 0x727⟩)] } }, 0x727, 0, 3, ready_of, ok⟩
theorem witness_FencesB_reader : ∃ (s : State) (n : ChanId) (lid : Nat) (m : BitVec 14) (v : Conn) (i : Nat) (w : LockEntry),
    let c := s.ch n.val
    s.Ready n.val ∧ c.conn m.toNat = v ∧ v.st = .opened ∧ c.ctl.connScan = [(m.toNat, lid)] ∧ c.PairAlone (0xC000 + m.toNat) ∧
    v.receiver = lid ∧ v.sender ≠ lid :=
  ⟨demo
    { demoCh with ctl := { demoCh.ctl with connScan := [(0x3FFF, 4)] }, os := { conns := [(0x3FFF, { st := .opened, sender := 3, receiver := 4 })] } },
    0, 4, 0x3FFF, { st := .opened, sender := 3, receiver := 4 }, 0, {}, ready_of, ok, ok, ok, pairAlone_of, ok⟩
theorem witness_FencesB_sender : ∃ (s : State) (n : ChanId) (lid : Nat) (m : BitVec 14) (v : Conn) (i : Nat) (w : LockEntry),
    let c := s.ch n.val
    s.Ready n.val ∧ c.conn m.toNat = v ∧ v.st = .opened ∧ c.ctl.connScan = [(m.toNat, lid)] ∧ c.PairAlone (0xC000 + m.toNat) ∧
    v.receiver ≠ lid ∧ v.sender = lid :=
  ⟨demo
    { demoCh with ctl := { demoCh.ctl with connScan := [(0x3FFF, 3)] }, os := { conns := [(0x3FFF, { st := .opened, sender := 3, receiver := 4 })] } },
    0, 3, 0x3FFF, { st := .opened, sender := 3, receiver := 4 }, 0, {}, ready_of, ok, ok, ok, pairAlone_of, ok⟩
theorem witness_FencesB_scan : ∃ (s : State) (n : ChanId) (lid : Nat) (m : BitVec 14) (v : Conn) (i : Nat) (w : LockEntry),
    let c := s.ch n.val
    s.Ready n.val ∧ c.lt.entries = [(i, w)] ∧ w.valid = true ∧ w.held = true ∧ w.owner = lid ∧ c.lockWaiters i = [] ∧ c.lt.scanning =
    false ∧ c.lt.fencedIds = [lid] :=
  ⟨demo
    { demoCh with lt := { entries := [(8, { valid := true, held := true, owner := 4, seq := 3, addr := 64 })], fencedIds := [4] } },
    0, 4, 0, {}, 8, { valid := true, held := true, owner := 4, seq := 3, addr := 64 }, ready_of, ok⟩
theorem witness_FencesB_scanEnd : ∃ (s : State) (n : ChanId) (lid : Nat) (m : BitVec 14) (v : Conn) (i : Nat) (w : LockEntry),
    let c := s.ch n.val
    s.Ready n.val ∧ c.lt.scanning = true ∧ c.lt.heldMap = none :=
  ⟨demo { demoCh with lt := { scanning := true, scanIds := [4] } }, 0, 4, 0, {}, 8, {}, ready_of, ok⟩
/-- The hypotheses of MapWrites. -/
def hypMapWrites (s : State) (n : ChanId) (v : Word) (fn : BitVec 8) (lid phys : Nat) (valid : Bool) (old : MapEntry) : Prop :=
    s.Ready n.val ∧ s.Admits fn (chanOff n.val 0 0x108) v.toNat ∧ (s.ch n.val).ctl.mapSel = lid ∧ lid ∉ (s.ch n.val).lt.fencedIds ∧
    lid ∉ (s.ch n.val).lt.scanIds ∧ fld v.toNat 11 0 = phys ∧ v.toNat.testBit 16 = valid ∧ (s.ch n.val).ctl.map.get {} lid = old
theorem witness_MapWrites_reserved : ∃ (s : State) (n : ChanId) (v : Word) (fn : BitVec 8) (lid phys : Nat) (valid : Bool) (old :
    MapEntry),
    let c := s.ch n.val
    let used := ∃ p ∈ c.ctl.map, p.2.valid = true ∧ p.2.phys = phys ∧ p.1 ≠ lid
    hypMapWrites s n v fn lid phys valid old ∧ 0xFFE ≤ lid :=
  ⟨demo { demoCh with ctl := { demoCh.ctl with mapSel := 0xFFE, fenced := [6, 0x10] } }, 0, BitVec.ofNat 64 (5 + 2 ^ 16), 0, 0xFFE, 5,
    true, {}, ⟨ready_of, admits_of, ok⟩, ok⟩
theorem witness_MapWrites_same : ∃ (s : State) (n : ChanId) (v : Word) (fn : BitVec 8) (lid phys : Nat) (valid : Bool) (old :
    MapEntry),
    let c := s.ch n.val
    let used := ∃ p ∈ c.ctl.map, p.2.valid = true ∧ p.2.phys = phys ∧ p.1 ≠ lid
    hypMapWrites s n v fn lid phys valid old ∧ lid < 0xFFE ∧ valid = old.valid ∧ phys = old.phys :=
  ⟨demo { demoCh with ctl := { demoCh.ctl with mapSel := 3, fenced := [6, 0x10] } }, 0, BitVec.ofNat 64 (5 + 2 ^ 16), 0, 3, 5, true,
    ⟨true, 5⟩, ⟨ready_of, admits_of, ok⟩, ok⟩
theorem witness_MapWrites_noPort : ∃ (s : State) (n : ChanId) (v : Word) (fn : BitVec 8) (lid phys : Nat) (valid : Bool) (old :
    MapEntry),
    let c := s.ch n.val
    let used := ∃ p ∈ c.ctl.map, p.2.valid = true ∧ p.2.phys = phys ∧ p.1 ≠ lid
    hypMapWrites s n v fn lid phys valid old ∧ lid < 0xFFE ∧ (¬ (valid = old.valid ∧ phys = old.phys)) ∧ valid = true ∧ 0x727 < phys :=
  ⟨demo { demoCh with ctl := { demoCh.ctl with mapSel := 0xFFD, fenced := [6, 0x10] } }, 0, BitVec.ofNat 64 (0x728 + 2 ^ 16), 0,
    0xFFD, 0x728, true, {}, ⟨ready_of, admits_of, ok⟩, ok⟩
theorem witness_MapWrites_otherChannel : ∃ (s : State) (n : ChanId) (v : Word) (fn : BitVec 8) (lid phys : Nat) (valid : Bool) (old
    : MapEntry),
    let c := s.ch n.val
    let used := ∃ p ∈ c.ctl.map, p.2.valid = true ∧ p.2.phys = phys ∧ p.1 ≠ lid
    hypMapWrites s n v fn lid phys valid old ∧ lid < 0xFFE ∧ (¬ (valid = old.valid ∧ phys = old.phys)) ∧ valid = true ∧ phys ≤ 0x727 ∧
    tblChan s.pt.table phys ≠ n.val :=
  ⟨demo { demoCh with ctl := { demoCh.ctl with mapSel := 0xFFD, fenced := [6, 0x10] } }, 0, BitVec.ofNat 64 (7 + 2 ^ 16), 0, 0xFFD, 7,
    true, {}, ⟨ready_of, admits_of, ok⟩, ok⟩
theorem witness_MapWrites_used : ∃ (s : State) (n : ChanId) (v : Word) (fn : BitVec 8) (lid phys : Nat) (valid : Bool) (old :
    MapEntry),
    let c := s.ch n.val
    let used := ∃ p ∈ c.ctl.map, p.2.valid = true ∧ p.2.phys = phys ∧ p.1 ≠ lid
    hypMapWrites s n v fn lid phys valid old ∧ lid < 0xFFE ∧ (¬ (valid = old.valid ∧ phys = old.phys)) ∧ valid = true ∧ phys ≤ 0x727 ∧
    tblChan s.pt.table phys = n.val ∧ used :=
  ⟨demo { demoCh with ctl := { demoCh.ctl with mapSel := 0xFFD, fenced := [6, 0x10] } }, 0, BitVec.ofNat 64 (5 + 2 ^ 16), 0, 0xFFD, 5,
    true, {}, ⟨ready_of, admits_of, ok⟩, ok⟩
theorem witness_MapWrites_fenced : ∃ (s : State) (n : ChanId) (v : Word) (fn : BitVec 8) (lid phys : Nat) (valid : Bool) (old :
    MapEntry),
    let c := s.ch n.val
    let used := ∃ p ∈ c.ctl.map, p.2.valid = true ∧ p.2.phys = phys ∧ p.1 ≠ lid
    hypMapWrites s n v fn lid phys valid old ∧ lid < 0xFFE ∧ (¬ (valid = old.valid ∧ phys = old.phys)) ∧ valid = true ∧ phys ≤ 0x727 ∧
    tblChan s.pt.table phys = n.val ∧ (¬ used) ∧ phys ∈ c.ctl.fenced :=
  ⟨demo { demoCh with ctl := { demoCh.ctl with mapSel := 0xFFD, fenced := [6, 0x10] } }, 0, BitVec.ofNat 64 (0x10 + 2 ^ 16), 0, 0xFFD,
    0x10, true, {}, ⟨ready_of, admits_of, ok⟩, ok⟩
theorem witness_MapWrites_unfencedOld : ∃ (s : State) (n : ChanId) (v : Word) (fn : BitVec 8) (lid phys : Nat) (valid : Bool) (old :
    MapEntry),
    let c := s.ch n.val
    let used := ∃ p ∈ c.ctl.map, p.2.valid = true ∧ p.2.phys = phys ∧ p.1 ≠ lid
    hypMapWrites s n v fn lid phys valid old ∧ lid < 0xFFE ∧ (¬ (valid = old.valid ∧ phys = old.phys)) ∧ (valid = true → phys ≤ 0x727 ∧
    tblChan s.pt.table phys = n.val ∧ ¬ used ∧ phys ∉ c.ctl.fenced) ∧ old.valid = true ∧ old.phys ∉ c.ctl.fenced :=
  ⟨demo { demoCh with ctl := { demoCh.ctl with mapSel := 3, fenced := [6, 0x10] } }, 0, BitVec.ofNat 64 (0x727 + 2 ^ 16), 0, 3, 0x727,
    true, ⟨true, 5⟩, ⟨ready_of, admits_of, ok⟩, ok⟩
theorem witness_MapWrites_replaces : ∃ (s : State) (n : ChanId) (v : Word) (fn : BitVec 8) (lid phys : Nat) (valid : Bool) (old :
    MapEntry),
    let c := s.ch n.val
    let used := ∃ p ∈ c.ctl.map, p.2.valid = true ∧ p.2.phys = phys ∧ p.1 ≠ lid
    hypMapWrites s n v fn lid phys valid old ∧ lid < 0xFFE ∧ (¬ (valid = old.valid ∧ phys = old.phys)) ∧ (valid = true → phys ≤ 0x727 ∧
    tblChan s.pt.table phys = n.val ∧ ¬ used ∧ phys ∉ c.ctl.fenced) ∧ (old.valid = true → old.phys ∈ c.ctl.fenced) ∧ (∀ l < 32, lid
    ∉ (c.lane l).members ∧ lid ∉ (c.lane l).next) :=
  ⟨demo { demoCh with ctl := { demoCh.ctl with mapSel := 4, fenced := [6, 0x10] } }, 0, BitVec.ofNat 64 (0x3FF + 2 ^ 16), 0, 4, 0x3FF,
    true, ⟨true, 6⟩, ⟨ready_of, admits_of, ok⟩, ok⟩
theorem witness_MapWrites_retires : ∃ (s : State) (n : ChanId) (v : Word) (fn : BitVec 8) (lid phys : Nat) (valid : Bool) (old :
    MapEntry),
    let c := s.ch n.val
    let used := ∃ p ∈ c.ctl.map, p.2.valid = true ∧ p.2.phys = phys ∧ p.1 ≠ lid
    hypMapWrites s n v fn lid phys valid old ∧ lid < 0xFFE ∧ (¬ (valid = old.valid ∧ phys = old.phys)) ∧ (valid = true → phys ≤ 0x727 ∧
    tblChan s.pt.table phys = n.val ∧ ¬ used ∧ phys ∉ c.ctl.fenced) ∧ (old.valid = true → old.phys ∈ c.ctl.fenced) ∧ (∀ l < 32, lid
    ∉ (c.lane l).members ∧ lid ∉ (c.lane l).next) :=
  ⟨demo { demoCh with ctl := { demoCh.ctl with mapSel := 4, fenced := [6, 0x10] } }, 0, BitVec.ofNat 64 (0 + 0), 0, 4, 0, false,
    ⟨true, 6⟩, ⟨ready_of, admits_of, ok⟩, ok⟩
theorem witness_MapWrites_adds : ∃ (s : State) (n : ChanId) (v : Word) (fn : BitVec 8) (lid phys : Nat) (valid : Bool) (old :
    MapEntry),
    let c := s.ch n.val
    let used := ∃ p ∈ c.ctl.map, p.2.valid = true ∧ p.2.phys = phys ∧ p.1 ≠ lid
    hypMapWrites s n v fn lid phys valid old ∧ lid < 0xFFE ∧ (¬ (valid = old.valid ∧ phys = old.phys)) ∧ (valid = true → phys ≤ 0x727 ∧
    tblChan s.pt.table phys = n.val ∧ ¬ used ∧ phys ∉ c.ctl.fenced) ∧ (old.valid = true → old.phys ∈ c.ctl.fenced) ∧ (∀ l < 32, lid
    ∉ (c.lane l).members ∧ lid ∉ (c.lane l).next) :=
  ⟨demo { demoCh with ctl := { demoCh.ctl with mapSel := 0xFFD, fenced := [6, 0x10] } }, 0, BitVec.ofNat 64 (0x727 + 2 ^ 16), 0,
    0xFFD, 0x727, true, {}, ⟨ready_of, admits_of, ok⟩, ok⟩
/-- The hypotheses of GatePasses. -/
def hypGatePasses (s : State) (n : ChanId) (h : Held) (rest : List Held) (l : Nat) (v : Lane) (q : BitVec 4) : Prop := s.Ready n.val
    ∧ (s.ch n.val).bg.holdQ = h :: rest ∧ h.obj = .lane l ∧ h.seq = q.toNat ∧ (s.ch n.val).lane l = v ∧ v.preloadBusy = false ∧
    v.swapPending = false ∧ (s.ch n.val).accObj (.lane l) = none ∧ ((s.ch n.val).seq q.toNat).st = .held ∧ s.trip = false ∧ (s.ch
    n.val).ps.badWords = [] ∧ (s.ch n.val).PlainEntry q.toNat h.succ ∧ SMap.wf {} (s.ch n.val).bw.lanes = true ∧ SMap.wf {} (s.ch
    n.val).ps.seqs = true
theorem witness_GatePasses_passes : ∃ (s : State) (n : ChanId) (h : Held) (rest : List Held) (l : Nat) (v : Lane) (q : BitVec 4),
    let c := s.ch n.val
    let fresh := ∀ x ∈ h :: rest, x.cause = none
    let covered := (1000 * (c.entry h.succ).cost : Int) ≤ c.bg.bucket
    let cool := (s.seen n.val .none).phaseClass (c.entry (c.seq q.toNat).entry) < c.img.therm
    hypGatePasses s n h rest l v q ∧ fresh ∧ covered ∧ cool :=
  ⟨{ demo { demoCh with img := demoImg, bw := { lanes := [(6, gatedLane)] }, bg := { bucket := 30000, holdQ := [{ seq := 2, obj := .lane 6, succ := 41, chosen := 0, since := 9995000 }] }, ps := { seqs := [(2, { st := .held, entry := 40, score := 9, deadlineOn := true })] } } with bays := [(3, { stale := false })] },
    0, { seq := 2, obj := .lane 6, succ := 41, chosen := 0, since := 9995000 }, [], 6, gatedLane, 2, ⟨ready_of, ok, ok, ok, ok, ok,
    ok, ok, ok, ok, ok, plainEntry_of, ok⟩, ok⟩
theorem witness_GatePasses_stays : ∃ (s : State) (n : ChanId) (h : Held) (rest : List Held) (l : Nat) (v : Lane) (q : BitVec 4),
    let c := s.ch n.val
    let fresh := ∀ x ∈ h :: rest, x.cause = none
    let covered := (1000 * (c.entry h.succ).cost : Int) ≤ c.bg.bucket
    let cool := (s.seen n.val .none).phaseClass (c.entry (c.seq q.toNat).entry) < c.img.therm
    hypGatePasses s n h rest l v q ∧ (¬ (fresh ∧ covered ∧ cool)) :=
  ⟨{ demo { demoCh with img := demoImg, bw := { lanes := [(6, gatedLane)] }, bg := { bucket := 30000, holdQ := [{ seq := 2, obj := .lane 6, succ := 41, chosen := 0, since := 9995000, cause := some 1 }] }, ps := { seqs := [(2, { st := .held, entry := 40, score := 9, deadlineOn := true })] } } with bays := [(3, { stale := false })] },
    0, { seq := 2, obj := .lane 6, succ := 41, chosen := 0, since := 9995000, cause := some 1 }, [], 6, gatedLane, 2, ⟨ready_of, ok,
    ok, ok, ok, ok, ok, ok, ok, ok, ok, plainEntry_of, ok⟩, ok⟩
theorem witness_GatePasses_expired : ∃ (s : State) (n : ChanId) (h : Held) (rest : List Held) (l : Nat) (v : Lane) (q : BitVec 4),
    let c := s.ch n.val
    let fresh := ∀ x ∈ h :: rest, x.cause = none
    let covered := (1000 * (c.entry h.succ).cost : Int) ≤ c.bg.bucket
    let cool := (s.seen n.val .none).phaseClass (c.entry (c.seq q.toNat).entry) < c.img.therm
    hypGatePasses s n h rest l v q ∧ h.cause = some 1 ∧ h.since + 1000 * c.img.maxHold ≤ s.time :=
  ⟨{ demo { demoCh with img := demoImg, bw := { lanes := [(6, gatedLane)] }, bg := { bucket := 30000, holdQ := [{ seq := 2, obj := .lane 6, succ := 41, chosen := 0, since := 9995000, cause := some 1 }] }, ps := { seqs := [(2, { st := .held, entry := 40, score := 9, deadlineOn := true })] } } with bays := [(3, { stale := false })] },
    0, { seq := 2, obj := .lane 6, succ := 41, chosen := 0, since := 9995000, cause := some 1 }, [], 6, gatedLane, 2, ⟨ready_of, ok,
    ok, ok, ok, ok, ok, ok, ok, ok, ok, plainEntry_of, ok⟩, ok⟩
theorem witness_GatePasses_leans : ∃ (s : State) (n : ChanId) (h : Held) (rest : List Held) (l : Nat) (v : Lane) (q : BitVec 4),
    let c := s.ch n.val
    let fresh := ∀ x ∈ h :: rest, x.cause = none
    let covered := (1000 * (c.entry h.succ).cost : Int) ≤ c.bg.bucket
    let cool := (s.seen n.val .none).phaseClass (c.entry (c.seq q.toNat).entry) < c.img.therm
    hypGatePasses s n h rest l v q ∧ (¬ (covered ∧ cool)) ∧ fresh ∧ h.since + 1000 * c.img.maxHold ≤ s.time :=
  ⟨{ demo { demoCh with img := demoImg, bw := { lanes := [(6, gatedLane)] }, bg := { bucket := 29999, holdQ := [{ seq := 2, obj := .lane 6, succ := 41, chosen := 0, since := 9995000 }] }, ps := { seqs := [(2, { st := .held, entry := 40, score := 9, deadlineOn := true })] } } with bays := [(3, { stale := false })] },
    0, { seq := 2, obj := .lane 6, succ := 41, chosen := 0, since := 9995000 }, [], 6, gatedLane, 2, ⟨ready_of, ok, ok, ok, ok, ok,
    ok, ok, ok, ok, ok, plainEntry_of, ok⟩, ok⟩
/-- The hypotheses of PhaseChecks. -/
def hypPhaseChecks (s : State) (n : ChanId) (q : BitVec 4) (v : Seq) : Prop := s.Ready n.val ∧ (s.ch n.val).seq q.toNat = v ∧
    SMap.wf {} (s.ch n.val).ps.seqs = true
theorem witness_PhaseChecks_overruns : ∃ (s : State) (n : ChanId) (q : BitVec 4) (v : Seq),
    let c := s.ch n.val
    let k : Cause := { addr := at_ 3 0 q.toNat + at_ 31 16 v.entry, access := 4 }
    hypPhaseChecks s n q v ∧ v.st = .run ∧ v.deadlineOn = true ∧ v.missed = false ∧ (c.entry v.entry).deadlineUs ≠ 0 ∧ v.start + 1000 *
    (c.entry v.entry).deadlineUs ≤ s.time ∧ c.Raises (s.seen n.val .none) .ps 5 k 2 :=
  ⟨demo
    { demoCh with img := demoImg, ps := { seqs := [(15, { st := .run, entry := 40, score := 9, deadlineOn := true, start := 9995000 })] } },
    0, 15, { st := .run, entry := 40, score := 9, deadlineOn := true, start := 9995000 }, ⟨ready_of, ok⟩, ok, ok, ok, ok, ok,
    raises_of⟩
theorem witness_PhaseChecks_notYet : ∃ (s : State) (n : ChanId) (q : BitVec 4) (v : Seq), hypPhaseChecks s n q v ∧ s.time < v.start
    + 1000 * ((s.ch n.val).entry v.entry).deadlineUs :=
  ⟨demo
    { demoCh with img := demoImg, ps := { seqs := [(15, { st := .run, entry := 40, score := 9, deadlineOn := true, start := 9995001 })] } },
    0, 15, { st := .run, entry := 40, score := 9, deadlineOn := true, start := 9995001 }, ⟨ready_of, ok⟩, ok⟩
/-- The hypotheses of PhaseChecks, second part. -/
def hypPhaseChecksB (s : State) (n : ChanId) (q : BitVec 4) (v : Seq) (i : Nat) : Prop := s.Ready n.val ∧ (s.ch n.val).seq q.toNat =
    v ∧ v.st = .audit ∧ (s.ch n.val).ps.badWords = []
theorem witness_PhaseChecksB_atRest : ∃ (s : State) (n : ChanId) (q : BitVec 4) (v : Seq) (i : Nat),
    let c := s.ch n.val
    let d := c.img.scores.get 0 v.score
    let first := fld d 32 16
    let len := fld d 48 33
    hypPhaseChecksB s n q v i ∧ (∀ j < len, ∀ x ∈ runObjects (c.img.lists.get 0 (first + j)), c.atRest (runKind (c.img.lists.get 0
    (first + j))) x = true) :=
  ⟨demo { demoCh with img := demoImg, ps := { seqs := [(15, { st := .audit, entry := 40, score := 9 })] } }, 0, 15,
    { st := .audit, entry := 40, score := 9 }, 0, ⟨ready_of, ok⟩, ok⟩
theorem witness_PhaseChecksB_mismatch : ∃ (s : State) (n : ChanId) (q : BitVec 4) (v : Seq) (i : Nat),
    let c := s.ch n.val
    let d := c.img.scores.get 0 v.score
    let first := fld d 32 16
    let len := fld d 48 33
    let k : Cause := { addr := at_ 54 52 0 + at_ 50 28 i, access := 5 }
    hypPhaseChecksB s n q v i ∧ len = 1 ∧ runKind (c.img.lists.get 0 first) = 0 ∧ runObjects (c.img.lists.get 0 first) = [i] ∧ c.atRest
    0 i = false ∧ c.ps.auValid = false ∧ c.Raises (s.seen n.val .none) .ps 6 k 2 :=
  ⟨demo
    { demoCh with img := demoImg, ps := { seqs := [(15, { st := .audit, entry := 40, score := 9 })] }, os := { flags := [(12, { value := true })] } },
    0, 15, { st := .audit, entry := 40, score := 9 }, 12, ⟨ready_of, ok⟩, ok, ok, ok, ok, ok, raises_of⟩
/-- The hypotheses of SequenceWrites. -/
def hypSequenceWrites (s : State) (n : ChanId) (q : BitVec 4) (w : Word) (fn : BitVec 8) (v : Seq) (l : Nat) (b : Lane) : Prop :=
    s.Ready n.val ∧ s.Admits fn (chanOff n.val 7 (0x100 + 8 * q.toNat)) w.toNat ∧ (s.ch n.val).seq q.toNat = v ∧ (s.ch
    n.val).ps.badWords = [] ∧ SMap.wf {} (s.ch n.val).ps.seqs = true ∧ SMap.wf {} (s.ch n.val).bw.lanes = true ∧ (s.ch n.val).lane l
    = b
theorem witness_SequenceWrites_selectBad : ∃ (s : State) (n : ChanId) (q : BitVec 4) (w : Word) (fn : BitVec 8) (v : Seq) (l : Nat)
    (b : Lane),
    let c := s.ch n.val
    let word := c.img.scores.get 0 (fld w.toNat 15 8)
    hypSequenceWrites s n q w fn v l b ∧ fld w.toNat 2 0 = 1 ∧ word.testBit 63 = false :=
  ⟨demo
    { demoCh with img := demoImg, bw := { lanes := [(6, openLane)] }, ps := { seqs := [(15, { st := .idle, entry := 40, score := 9 })] } },
    0, 15, BitVec.ofNat 64 (1 + 255 * 256), 0, { st := .idle, entry := 40, score := 9 }, 6, openLane, ⟨ready_of, admits_of, ok⟩, ok⟩
theorem witness_SequenceWrites_selectRuns : ∃ (s : State) (n : ChanId) (q : BitVec 4) (w : Word) (fn : BitVec 8) (v : Seq) (l : Nat)
    (b : Lane),
    let c := s.ch n.val
    let word := c.img.scores.get 0 (fld w.toNat 15 8)
    hypSequenceWrites s n q w fn v l b ∧ fld w.toNat 2 0 = 1 ∧ word.testBit 63 = true ∧ (v.st = .run ∨ v.st = .held ∨ v.st = .audit) :=
  ⟨demo
    { demoCh with img := demoImg, bw := { lanes := [(6, openLane)] }, ps := { seqs := [(15, { st := .held, entry := 40, score := 9 })] } },
    0, 15, BitVec.ofNat 64 (1 + 9 * 256), 0, { st := .held, entry := 40, score := 9 }, 6, openLane, ⟨ready_of, admits_of, ok⟩, ok⟩
theorem witness_SequenceWrites_selectStarts : ∃ (s : State) (n : ChanId) (q : BitVec 4) (w : Word) (fn : BitVec 8) (v : Seq) (l :
    Nat) (b : Lane),
    let c := s.ch n.val
    let word := c.img.scores.get 0 (fld w.toNat 15 8)
    hypSequenceWrites s n q w fn v l b ∧ fld w.toNat 2 0 = 1 ∧ word.testBit 63 = true ∧ (v.st = .idle ∨ v.st = .stopped) ∧ c.PlainEntry
    q.toNat (fld word 15 0) :=
  ⟨demo
    { demoCh with img := demoImg, bw := { lanes := [(6, openLane)] }, ps := { seqs := [(15, { st := .stopped, entry := 40, score := 9 })] } },
    0, 15, BitVec.ofNat 64 (1 + 9 * 256), 0, { st := .stopped, entry := 40, score := 9 }, 6, openLane, ⟨ready_of, admits_of, ok⟩,
    ok, ok, ok, plainEntry_of⟩
theorem witness_SequenceWrites_restartIdle : ∃ (s : State) (n : ChanId) (q : BitVec 4) (w : Word) (fn : BitVec 8) (v : Seq) (l :
    Nat) (b : Lane),
    let c := s.ch n.val
    let word := c.img.scores.get 0 (fld w.toNat 15 8)
    hypSequenceWrites s n q w fn v l b ∧ fld w.toNat 2 0 = 2 ∧ v.st ≠ .run :=
  ⟨demo
    { demoCh with img := demoImg, bw := { lanes := [(6, openLane)] }, ps := { seqs := [(15, { st := .idle, entry := 40, score := 9 })] } },
    0, 15, BitVec.ofNat 64 (2), 0, { st := .idle, entry := 40, score := 9 }, 6, openLane, ⟨ready_of, admits_of, ok⟩, ok⟩
theorem witness_SequenceWrites_restarts : ∃ (s : State) (n : ChanId) (q : BitVec 4) (w : Word) (fn : BitVec 8) (v : Seq) (l : Nat)
    (b : Lane),
    let c := s.ch n.val
    let word := c.img.scores.get 0 (fld w.toNat 15 8)
    hypSequenceWrites s n q w fn v l b ∧ fld w.toNat 2 0 = 2 ∧ v.st = .run ∧ c.PlainEntry q.toNat v.entry ∧ (c.entry v.entry).endObj =
    .lane l ∧ b.members ≠ [] ∧ c.accObj (.lane l) = none :=
  ⟨demo
    { demoCh with img := demoImg, bw := { lanes := [(6, openLane)] }, ps := { seqs := [(15, { st := .run, entry := 40, score := 9 })] } },
    0, 15, BitVec.ofNat 64 (2), 0, { st := .run, entry := 40, score := 9 }, 6, openLane, ⟨ready_of, admits_of, ok⟩, ok, ok,
    plainEntry_of, ok⟩
theorem witness_SequenceWrites_stopAudit : ∃ (s : State) (n : ChanId) (q : BitVec 4) (w : Word) (fn : BitVec 8) (v : Seq) (l : Nat)
    (b : Lane),
    let c := s.ch n.val
    let word := c.img.scores.get 0 (fld w.toNat 15 8)
    hypSequenceWrites s n q w fn v l b ∧ fld w.toNat 2 0 = 4 ∧ v.st = .audit :=
  ⟨demo
    { demoCh with img := demoImg, bw := { lanes := [(6, openLane)] }, ps := { seqs := [(15, { st := .audit, entry := 40, score := 9 })] } },
    0, 15, BitVec.ofNat 64 (4), 0, { st := .audit, entry := 40, score := 9 }, 6, openLane, ⟨ready_of, admits_of, ok⟩, ok⟩
theorem witness_SequenceWrites_stops : ∃ (s : State) (n : ChanId) (q : BitVec 4) (w : Word) (fn : BitVec 8) (v : Seq) (l : Nat) (b :
    Lane),
    let c := s.ch n.val
    let word := c.img.scores.get 0 (fld w.toNat 15 8)
    hypSequenceWrites s n q w fn v l b ∧ fld w.toNat 2 0 = 4 ∧ v.st ≠ .audit ∧ v.st ≠ .held :=
  ⟨demo
    { demoCh with img := demoImg, bw := { lanes := [(6, openLane)] }, ps := { seqs := [(15, { st := .run, entry := 40, score := 9 })] } },
    0, 15, BitVec.ofNat 64 (4), 0, { st := .run, entry := 40, score := 9 }, 6, openLane, ⟨ready_of, admits_of, ok⟩, ok⟩
/-- The hypotheses of PinsAndTimers. -/
def hypPinsAndTimers (s : State) (b : BitVec 3) (cls : BitVec 2) (power : BitVec 16) (late : Bool) (v : Bay) : Prop := s.Still ∧
    s.bays.get {} b.toNat = v
theorem witness_PinsAndTimers_locks : ∃ (s : State) (b : BitVec 3) (cls : BitVec 2) (power : BitVec 16) (late : Bool) (v : Bay),
    hypPinsAndTimers s b cls power late v ∧ s.ck.pll = .locking ∧ s.quarantined (0x4000 + b.toNat) = false :=
  ⟨{ demo demoCh with bays := [(3, { cls := 2, power := 77, stale := false, at_ := 9900000 })], ck := { pll := .locking } }, 3, 1,
    500, true, { cls := 2, power := 77, stale := false, at_ := 9900000 }, ⟨still_of, ok⟩, ok⟩
theorem witness_PinsAndTimers_fresh : ∃ (s : State) (b : BitVec 3) (cls : BitVec 2) (power : BitVec 16) (late : Bool) (v : Bay),
    hypPinsAndTimers s b cls power late v ∧ (v.stale = true ∨ s.time < v.at_ + 100000) ∧ s.ck.pll ≠ .locking :=
  ⟨{ demo demoCh with bays := [(7, { cls := 2, power := 77, stale := false, at_ := 9900001 })] }, 7, 1, 500, true,
    { cls := 2, power := 77, stale := false, at_ := 9900001 }, ⟨still_of, ok⟩, ok⟩
theorem witness_PinsAndTimers_stale : ∃ (s : State) (b : BitVec 3) (cls : BitVec 2) (power : BitVec 16) (late : Bool) (v : Bay),
    let k : Cause := { addr := b.toNat, key := b.toNat }
    let warned := fun n => (s.ch n).ctl.st = .run ∧ (tblBayView s.pt.table n).testBit b.toNat = true ∧ b.toNat ∉ (s.ch n).bg.staleRaised
    hypPinsAndTimers s b cls power late v ∧ v.stale = false ∧ v.at_ + 100000 ≤ s.time ∧ SMap.wf {} s.bays = true ∧ warned 0 ∧ (s.ch
    0).Raises (s.seen 0 .none) .bg 0 k 1 ∧ (¬ warned 1) :=
  ⟨{ demo demoCh with bays := [(3, { cls := 2, power := 77, stale := false, at_ := 9900000 })] }, 3, 1, 500, true,
    { cls := 2, power := 77, stale := false, at_ := 9900000 }, ⟨still_of, ok⟩, ok, ok, ok, ok, raises_of, ok⟩
/-- The hypotheses of PinsAndTimers, second part. -/
def hypPinsAndTimersB (s : State) (v : Word) (fn : BitVec 8) : Prop := s.por = false ∧ s.settled = true
theorem witness_PinsAndTimersB_alarm : ∃ (s : State) (v : Word) (fn : BitVec 8), hypPinsAndTimersB s v fn ∧ s.Admits fn 0x5008
    v.toNat ∧ s.ck.tmArmed = true ∧ s.ck.tmAlarm ≤ s.time :=
  ⟨{ demo demoCh with ck := { tmArmed := true, tmAlarm := 10000000 } }, 77, 0, by unfold hypPinsAndTimersB; exact ok, admits_of, ok⟩
theorem witness_PinsAndTimersB_early : ∃ (s : State) (v : Word) (fn : BitVec 8), hypPinsAndTimersB s v fn ∧ s.time < s.ck.tmAlarm :=
  ⟨{ demo demoCh with ck := { tmArmed := true, tmAlarm := 10000001 } }, 77, 0, by unfold hypPinsAndTimersB; exact ok, ok⟩
theorem witness_PinsAndTimersB_rises : ∃ (s : State) (v : Word) (fn : BitVec 8), hypPinsAndTimersB s v fn ∧ s.Admits fn 0x2408
    v.toNat ∧ s.hp.errLow = true ∧ 100 < s.hp.errCount ∧ s.hp.acked = true :=
  ⟨{ demo demoCh with hp := { errLow := true, errCount := 101, acked := true } }, 1, 0, by unfold hypPinsAndTimersB; exact ok,
    admits_of, ok⟩
theorem witness_PinsAndTimersB_stays : ∃ (s : State) (v : Word) (fn : BitVec 8), hypPinsAndTimersB s v fn ∧ s.hp.errLow = true ∧ 100
    < s.hp.errCount ∧ s.hp.acked = false :=
  ⟨{ demo demoCh with hp := { errLow := true, errCount := 101 } }, 0, 0, by unfold hypPinsAndTimersB; exact ok, ok⟩
theorem witness_PinsAndTimersB_counts : ∃ (s : State) (v : Word) (fn : BitVec 8), hypPinsAndTimersB s v fn ∧ s.hp.errLow = true ∧
    s.hp.errCount ≤ 100 :=
  ⟨{ demo demoCh with hp := { errLow := true, errCount := 100 } }, 0, 0, by unfold hypPinsAndTimersB; exact ok, ok⟩
theorem witness_PinsAndTimersB_noAck : ∃ (s : State) (v : Word) (fn : BitVec 8), hypPinsAndTimersB s v fn ∧ s.Admits fn 0x2408
    v.toNat ∧ v.toNat.testBit 0 = false :=
  ⟨{ demo demoCh with ck := {} }, 2, 0, by unfold hypPinsAndTimersB; exact ok, admits_of, ok⟩
theorem witness_PinsAndTimersB_acks : ∃ (s : State) (v : Word) (fn : BitVec 8), hypPinsAndTimersB s v fn ∧ s.Admits fn 0x2408
    v.toNat ∧ v.toNat.testBit 0 = true ∧ s.hp.ackPend = false ∧ (∀ a, s.hp.ackAt = some a → a + 80 ≤ s.begin.stamp) :=
  ⟨{ demo demoCh with hp := { ackAt := some 9999920, errShared := true, errChans := 15 } }, 1, 0,
    by unfold hypPinsAndTimersB; exact ok, admits_of, ok, ok, fun _ h => by cases h; exact Nat.le_add_right 10000000 _⟩
theorem witness_PinsAndTimersB_merges : ∃ (s : State) (v : Word) (fn : BitVec 8), hypPinsAndTimersB s v fn ∧ s.Admits fn 0x2408
    v.toNat ∧ v.toNat.testBit 0 = true ∧ (∃ a, s.hp.ackAt = some a ∧ s.begin.stamp < a + 80) :=
  ⟨{ demo demoCh with hp := { ackAt := some 9999999 } }, 1, 0, by unfold hypPinsAndTimersB; exact ok, admits_of, ok, ⟨9999999, rfl,
    stamp_lt⟩⟩
theorem witness_SleepAndWake_dozes : ∃ (s : State) (n : ChanId),
    let c := s.ch n.val
    let clk := c.clk
    s.Rests n.val ∧ c.ctl.st = .run ∧ clk.st = .active ∧ clk.dozeEn = true ∧ clk.wakeReq = false ∧ c.idle = true ∧ s.busyAt.get 0 n.val
    + clk.dozeIdle ≤ s.begin.coreNow ∧ s.held n.val = false ∧ s.pt.st ≠ .approved :=
  ⟨{ demo { demoCh with clk := { st := .active, dozeEn := true } } with ck := { pll := .locked } }, 0, rests_of, ok, ok, ok, ok, ok,
    Nat.le_trans (m := 15000000) (by decide +kernel) (Nat.le_add_right _ _), ok⟩
theorem witness_SleepAndWake_staysAwake : ∃ (s : State) (n : ChanId),
    let c := s.ch n.val
    let clk := c.clk
    s.Rests n.val ∧ (clk.dozeEn = false ∨ c.idle = false ∨ s.held n.val = true) :=
  ⟨{ demo { demoCh with clk := { st := .active, dozeEn := false } } with ck := { pll := .locked } }, 0, rests_of, ok⟩
theorem witness_SleepAndWake_slumbers : ∃ (s : State) (n : ChanId),
    let c := s.ch n.val
    let clk := c.clk
    s.Rests n.val ∧ clk.st = .doze ∧ clk.slumberEn = true ∧ clk.since + 1000 * clk.slumberUs ≤ s.time ∧ (∀ x ∈ c.expiries s.time, s.time
    + 8380 < x) :=
  ⟨{ demo { demoCh with clk := { st := .doze, slumberEn := true, slumberUs := 1000, since := 9000000 }, bw := { lanes := [(3, { members := [3], timer := some 10007381, roundUs := 1 })] } } with ck := { pll := .locked } },
    0, rests_of, ok⟩
theorem witness_SleepAndWake_alarmNear : ∃ (s : State) (n : ChanId),
    let c := s.ch n.val
    let clk := c.clk
    s.Rests n.val ∧ (∃ x ∈ c.expiries s.time, x ≤ s.time + 8380) :=
  ⟨{ demo { demoCh with clk := { st := .doze, slumberEn := true, slumberUs := 1000, since := 9000000 }, bw := { lanes := [(3, { members := [3], timer := some 10007380, roundUs := 1 })] } } with ck := { pll := .locked } },
    0, rests_of, ok⟩
theorem witness_SleepAndWake_tooSoon : ∃ (s : State) (n : ChanId),
    let c := s.ch n.val
    let clk := c.clk
    s.Rests n.val ∧ s.time < clk.since + 1000 * clk.slumberUs :=
  ⟨{ demo { demoCh with clk := { st := .doze, slumberEn := true, slumberUs := 1000, since := 9000001 } } with ck := { pll := .locked } },
    0, rests_of, ok⟩
theorem witness_SleepAndWake_wakes : ∃ (s : State) (n : ChanId),
    let c := s.ch n.val
    let clk := c.clk
    s.Rests n.val ∧ c.ctl.st = .run ∧ clk.st = .doze :=
  ⟨{ demo { demoCh with clk := { st := .doze } } with ck := { pll := .locked } }, 0, rests_of, ok⟩
theorem witness_SleepAndWake_wakesFromSlumber : ∃ (s : State) (n : ChanId),
    let c := s.ch n.val
    let clk := c.clk
    s.Rests n.val ∧ c.ctl.st = .run ∧ clk.st = .slumber :=
  ⟨{ demo { demoCh with clk := { st := .slumber } } with ck := { pll := .locked } }, 0, rests_of, ok⟩
theorem witness_SleepAndWake_alarm : ∃ (s : State) (n : ChanId),
    let c := s.ch n.val
    let clk := c.clk
    s.Rests n.val ∧ c.ctl.st = .run ∧ s.keepCut n.val = false ∧ clk.st = .doze ∧ (∃ x ∈ c.expiries s.time, x ≤ s.time + 20) :=
  ⟨{ demo { demoCh with clk := { st := .doze }, bw := { lanes := [(3, { members := [3], timer := some 9999020, roundUs := 1 })] } } with ck := { pll := .locked } },
    0, rests_of, ok⟩
theorem witness_SleepAndWake_alarmInSlumber : ∃ (s : State) (n : ChanId),
    let c := s.ch n.val
    let clk := c.clk
    s.Rests n.val ∧ c.ctl.st = .run ∧ s.keepCut n.val = false ∧ clk.st = .slumber ∧ (∃ x ∈ c.expiries s.time, x ≤ s.time + 8020) :=
  ⟨{ demo { demoCh with clk := { st := .slumber }, bw := { lanes := [(3, { members := [3], timer := some 10007020, roundUs := 1 })] } } with ck := { pll := .locked } },
    0, rests_of, ok⟩
theorem witness_SleepAndWake_wakeDone : ∃ (s : State) (n : ChanId),
    let c := s.ch n.val
    let clk := c.clk
    let still := c.bw.strobes = [] ∧ c.rq.ingress = [] ∧ c.rq.bankQ = [] ∧ c.rq.full = []
    s.Rests n.val ∧ c.ctl.st = .run ∧ clk.st = .waking ∧ clk.fromSlumber = false ∧ still :=
  ⟨{ demo { demoCh with clk := { st := .waking } } with ck := { pll := .locked } }, 0, rests_of, ok⟩
theorem witness_SleepAndWake_slumberWakeDone : ∃ (s : State) (n : ChanId),
    let c := s.ch n.val
    let clk := c.clk
    let still := c.bw.strobes = [] ∧ c.rq.ingress = [] ∧ c.rq.bankQ = [] ∧ c.rq.full = []
    s.Rests n.val ∧ c.ctl.st = .run ∧ clk.st = .waking ∧ clk.fromSlumber = true ∧ still ∧ s.ck.pll = .locked ∧ clk.wakeAt + 7980 ≤
    s.time :=
  ⟨{ demo { demoCh with clk := { st := .waking, fromSlumber := true } } with ck := { pll := .locked } }, 0, rests_of, ok⟩
/-- The hypotheses of ClocksAndPower. -/
def hypClocksAndPower (s : State) (f : FlashDev) : Prop := s.Still ∧ s.blockHalted = false ∧ s.sflt.ck.disabled = 0
theorem witness_ClocksAndPower_halts : ∃ (s : State) (f : FlashDev), hypClocksAndPower s f ∧ s.ck.pll = .locked ∧ (∃ n < 4, (s.ch
    n).clockNow = .active ∨ (s.ch n).clockNow = .doze ∨ (s.ch n).clockNow = .waking) ∧ f.answers = false :=
  ⟨{ demo demoCh with ck := { pll := .locked } },
    { answers := false, sfdp := true, tables := true, density := 64, fourByte := true, readCmd := 0xEE11, maxMHz := 200, dummies := [], changes := [], verifies := true, bytes := [] },
    ⟨still_of, ok⟩, ok⟩
theorem witness_ClocksAndPower_relocks : ∃ (s : State) (f : FlashDev), hypClocksAndPower s f ∧ s.ck.pll = .locked ∧ (∀ n < 4, (s.ch
    n).clockNow ≠ .active ∧ (s.ch n).clockNow ≠ .doze ∧ (s.ch n).clockNow ≠ .waking) :=
  ⟨{ demo {} with ck := { pll := .locked } },
    { answers := false, sfdp := true, tables := true, density := 64, fourByte := true, readCmd := 0xEE11, maxMHz := 200, dummies := [], changes := [], verifies := true, bytes := [] },
    ⟨still_of, ok⟩, ok⟩
theorem witness_ClocksAndPower_off : ∃ (s : State) (f : FlashDev), hypClocksAndPower s f ∧ s.ck.pll ≠ .locked :=
  ⟨{ demo {} with ck := { pll := .locking } },
    { answers := false, sfdp := true, tables := true, density := 64, fourByte := true, readCmd := 0xEE11, maxMHz := 200, dummies := [], changes := [], verifies := true, bytes := [] },
    ⟨still_of, ok⟩, ok⟩
/-- The hypotheses of LoadGate. -/
def hypLoadGate (s : State) (v : Word) (k : Nat) : Prop := s.Still ∧ s.blockHalted = false ∧ s.sflt.cl.disabled = 0
theorem witness_LoadGate_ready : ∃ (s : State) (v : Word) (k : Nat), hypLoadGate s v k ∧ s.cl.phase = .reading ∧ s.cl.timedOut ≠
    some k ∧ (s.pt.gate ≠ .ready ∨ s.begin.stamp < s.pt.readyAt + 1000000000) :=
  ⟨{ por := false, time := 0, cl := { phase := .reading, timedOut := some 2 }, pt := { gate := .waiting } }, 0, 3, ⟨still_of, ok⟩, ok⟩
theorem witness_LoadGate_secondTimeout : ∃ (s : State) (v : Word) (k : Nat), hypLoadGate s v k ∧ s.cl.phase = .reading ∧
    s.cl.timedOut = some k :=
  ⟨{ por := false, time := 0, cl := { phase := .reading, timedOut := some 3 }, pt := { gate := .waiting } }, 0, 3, ⟨still_of, ok⟩, ok⟩
theorem witness_LoadGate_refuses : ∃ (s : State) (v : Word) (k : Nat), hypLoadGate s v k ∧ s.pt.gate = .ready ∧ s.StewardPort ∧
    v.toNat.testBit 1 = true ∧ (∀ n < 4, (s.ch n).ctl.st ≠ .run ∧ (s.ch n).ctl.st ≠ .closing) :=
  ⟨{ por := false, time := 0, cl := { phase := .gateWait, timedOut := none }, pt := { gate := .ready } }, 2, 3, ⟨still_of, ok⟩, ok,
    stewardPort_of, ok⟩
theorem witness_LoadGate_times : ∃ (s : State) (v : Word) (k : Nat), hypLoadGate s v k ∧ s.pt.gate = .ready ∧ s.pt.readyAt +
    1000000000 ≤ s.begin.stamp ∧ (∀ n < 4, (s.ch n).ctl.st ≠ .run ∧ (s.ch n).ctl.st ≠ .closing) :=
  ⟨{ por := false, time := 1000000000, cl := { phase := .gateWait, timedOut := none }, pt := { gate := .ready } }, 0, 3, ⟨still_of,
    ok⟩, ok, Nat.le_add_right 1000000000 _, ok⟩
theorem witness_LoadGateB : ∃ (s : State) (v : Word) (n : ChanId) (m : Img), s.Still ∧ s.blockHalted = false ∧ s.StewardPort ∧
    s.pt.gate = .ready ∧ v.toNat.testBit 1 = false ∧ v.toNat.testBit 0 = true ∧ s.cl.imgs = [(n.val, m)] ∧ tblPaired s.cl.prot 0 =
    false ∧ tblPaired s.cl.prot 2 = false ∧ tblAccord s.cl.prot n.val = 0 ∧ s.cl.accord 0 = none ∧ (∀ w ∈ m.lanes.map (·.1), w < 32)
    ∧ (m.lanes.map (·.1)).Nodup ∧ (s.ch n.val).ctl.st = .loading ∧ (∀ x < 4, x ≠ n.val → (s.ch x).ctl.st ≠ .loading) ∧ SMap.wf {}
    (s.ch n.val).bw.lanes = true :=
  ⟨{ por := false, cl := { phase := .gateWait, imgs := [(1, { capUj := 100, map := [(3, 2 ^ 16 + 5)], flags := [(12, { value := true })], lanes := [(4, 2 ^ 12 + 2 + 77 * 2 ^ 32), (31, 2 ^ 29)] })], prot := [(16, 2 ^ 27)] }, pt := { gate := .ready }, chB := { ctl := { st := .loading } } },
    1, 1,
    { capUj := 100, map := [(3, 2 ^ 16 + 5)], flags := [(12, { value := true })], lanes := [(4, 2 ^ 12 + 2 + 77 * 2 ^ 32), (31, 2 ^ 29)] },
    still_of, ok, stewardPort_of, ok⟩
/-- The hypotheses of Quarantines. -/
def hypQuarantines (s : State) (q : BitVec 16) (dropped : Nat) : Prop := s.Still ∧ crossingOk q.toNat = true ∧ (∀ n < 4, (s.ch
    n).bw.strobes = [])
theorem witness_Quarantines_channel : ∃ (s : State) (q : BitVec 16) (dropped : Nat), hypQuarantines s q dropped ∧ s.quarantined
    q.toNat = false ∧ s.crossingChan q.toNat = some 0 :=
  ⟨{ demo demoCh with ck := {} }, 0x13FF, 3, ⟨still_of, ok⟩, ok⟩
theorem witness_Quarantines_shared : ∃ (s : State) (q : BitVec 16) (dropped : Nat), hypQuarantines s q dropped ∧ s.quarantined
    q.toNat = false ∧ s.crossingChan q.toNat = none :=
  ⟨{ demo demoCh with ck := {} }, 0x4007, 3, ⟨still_of, ok⟩, ok⟩
theorem witness_Quarantines_ends : ∃ (s : State) (q : BitVec 16) (dropped : Nat), hypQuarantines s q dropped ∧ s.quarantined q.toNat
    = true :=
  ⟨{ demo demoCh with ck := { quar := [⟨0x9004, 5, 5, 5, false⟩] } }, 0x9004, 3, ⟨still_of, ok⟩, ok⟩
theorem witness_Quarantines_raises : ∃ (s : State) (q : BitVec 16) (dropped : Nat), hypQuarantines s q dropped ∧ (∃ x ∈ s.ck.quar,
    x.number = q.toNat ∧ x.raised = false ∧ x.left + 20480 ≤ s.time) ∧ s.crossingChan q.toNat = none ∧ s.sflt.ck.disabled.testBit 2
    = false ∧ capturedClass s.sflt.ck ≠ 2 :=
  ⟨{ demo demoCh with ck := { quar := [⟨0x9004, 5, 9979520, 5, false⟩] } }, 0x9004, 3, ⟨still_of, ok⟩, ok⟩
theorem witness_Quarantines_notYet : ∃ (s : State) (q : BitVec 16) (dropped : Nat), hypQuarantines s q dropped ∧ (∀ x ∈ s.ck.quar,
    x.number = q.toNat → x.raised = true ∨ s.time < x.left + 20480) :=
  ⟨{ demo demoCh with ck := { quar := [⟨0x9004, 5, 9979521, 5, false⟩] } }, 0x9004, 3, ⟨still_of, ok⟩, ok⟩
/-- The hypotheses of AccordForming. -/
def hypAccordForming (s : State) (n : ChanId) (m : MsgIn) (d : Edge) : Prop := s.Ready n.val ∧ (s.ch n.val).la.st = .forming ∧ (s.ch
    n.val).GoodTree ∧ (s.ch n.val).img.commons = [] ∧ (s.ch n.val).img.locals = [] ∧ d ∈ (s.ch n.val).la.edges ∧ d.port =
    m.port.toNat
theorem witness_AccordForming_helloWaits : ∃ (s : State) (n : ChanId) (m : MsgIn) (d : Edge),
    let c := s.ch n.val
    let p := m.port.toNat
    let waits := ∃ x ∈ c.la.edges, x.up = false ∧ x.isReady = false
    let leaf := c.la.edges = [d] ∧ d.up = true ∧ d.isReady = false
    let agrees := m.accord.toNat = c.la.accord ∧ bodyWord m 1 = c.la.digest ∧ fld (bodyWord m 2) 47 40 = verMajor ∧ fld (bodyWord m 2) 31 0 = laFeatures ∧ d.rank = m.src.toNat
    hypAccordForming s n m d ∧ s.Hears n.val tyHello m ∧ agrees ∧ d.isReady = false ∧ (waits ∨ leaf ∧ d.recvOk = false) :=
  ⟨demo (inAccord .forming [parent false false false, child false false false] demoCh), 0, msgTo 1 8 0 (helloOf 99), parent false
    false false, ⟨ready_of, ok, goodTree_of, ok⟩, hears_of, ok⟩
theorem witness_AccordForming_helloLeaf : ∃ (s : State) (n : ChanId) (m : MsgIn) (d : Edge),
    let c := s.ch n.val
    let p := m.port.toNat
    let waits := ∃ x ∈ c.la.edges, x.up = false ∧ x.isReady = false
    let leaf := c.la.edges = [d] ∧ d.up = true ∧ d.isReady = false
    let agrees := m.accord.toNat = c.la.accord ∧ bodyWord m 1 = c.la.digest ∧ fld (bodyWord m 2) 47 40 = verMajor ∧ fld (bodyWord m 2) 31 0 = laFeatures ∧ d.rank = m.src.toNat
    hypAccordForming s n m d ∧ s.Hears n.val tyHello m ∧ agrees ∧ leaf ∧ d.recvOk = true ∧ 17 < (c.la.credit p).txAvail :=
  ⟨demo (inAccord .forming [parent false true false] demoCh), 0, msgTo 1 8 0 (helloOf 99), parent false true false, ⟨ready_of, ok,
    goodTree_of, ok⟩, hears_of, ok⟩
theorem witness_AccordForming_helloDigest : ∃ (s : State) (n : ChanId) (m : MsgIn) (d : Edge),
    let c := s.ch n.val
    let p := m.port.toNat
    let waits := ∃ x ∈ c.la.edges, x.up = false ∧ x.isReady = false
    let leaf := c.la.edges = [d] ∧ d.up = true ∧ d.isReady = false
    let agrees := m.accord.toNat = c.la.accord ∧ bodyWord m 1 = c.la.digest ∧ fld (bodyWord m 2) 47 40 = verMajor ∧ fld (bodyWord m 2) 31 0 = laFeatures ∧ d.rank = m.src.toNat
    hypAccordForming s n m d ∧ s.Hears n.val tyHello m ∧ m.accord.toNat = c.la.accord ∧ bodyWord m 1 ≠ c.la.digest ∧ c.la.firstReason =
    0 :=
  ⟨demo (inAccord .forming [parent false false false] demoCh), 0, msgTo 1 8 0 (helloOf 98), parent false false false, ⟨ready_of, ok,
    goodTree_of, ok⟩, hears_of, ok⟩
theorem witness_AccordForming_verdictWaits : ∃ (s : State) (n : ChanId) (m : MsgIn) (d : Edge),
    let c := s.ch n.val
    let p := m.port.toNat
    let waits := ∃ x ∈ c.la.edges, x.up = false ∧ x.isReady = false
    let leaf := c.la.edges = [d] ∧ d.up = true ∧ d.isReady = false
    let agrees := m.accord.toNat = c.la.accord ∧ bodyWord m 1 = c.la.digest ∧ fld (bodyWord m 2) 47 40 = verMajor ∧ fld (bodyWord m 2) 31 0 = laFeatures ∧ d.rank = m.src.toNat
    hypAccordForming s n m d ∧ s.Hears n.val tyVerdict m ∧ fld (bodyWord m 1) 7 0 = 0 ∧ waits :=
  ⟨demo (inAccord .forming [parent false false false, child false false false] demoCh), 0, msgTo 1 8 0 [0], parent false false false,
    ⟨ready_of, ok, goodTree_of, ok⟩, hears_of, ok⟩
theorem witness_AccordForming_verdictLeaf : ∃ (s : State) (n : ChanId) (m : MsgIn) (d : Edge),
    let c := s.ch n.val
    let p := m.port.toNat
    let waits := ∃ x ∈ c.la.edges, x.up = false ∧ x.isReady = false
    let leaf := c.la.edges = [d] ∧ d.up = true ∧ d.isReady = false
    let agrees := m.accord.toNat = c.la.accord ∧ bodyWord m 1 = c.la.digest ∧ fld (bodyWord m 2) 47 40 = verMajor ∧ fld (bodyWord m 2) 31 0 = laFeatures ∧ d.rank = m.src.toNat
    hypAccordForming s n m d ∧ s.Hears n.val tyVerdict m ∧ fld (bodyWord m 1) 7 0 = 0 ∧ leaf ∧ d.sentOk = true :=
  ⟨demo (inAccord .forming [parent true false false] demoCh), 0, msgTo 1 8 0 [0], parent true false false, ⟨ready_of, ok, goodTree_of,
    ok⟩, hears_of, ok⟩
theorem witness_AccordForming_verdictReason : ∃ (s : State) (n : ChanId) (m : MsgIn) (d : Edge),
    let c := s.ch n.val
    let p := m.port.toNat
    let waits := ∃ x ∈ c.la.edges, x.up = false ∧ x.isReady = false
    let leaf := c.la.edges = [d] ∧ d.up = true ∧ d.isReady = false
    let agrees := m.accord.toNat = c.la.accord ∧ bodyWord m 1 = c.la.digest ∧ fld (bodyWord m 2) 47 40 = verMajor ∧ fld (bodyWord m 2) 31 0 = laFeatures ∧ d.rank = m.src.toNat
    hypAccordForming s n m d ∧ s.Hears n.val tyVerdict m ∧ fld (bodyWord m 1) 7 0 ≠ 0 ∧ c.la.firstReason = 0 :=
  ⟨demo (inAccord .forming [parent false false false] demoCh), 0, msgTo 1 8 0 [4], parent false false false, ⟨ready_of, ok,
    goodTree_of, ok⟩, hears_of, ok⟩
theorem witness_AccordForming_readyMore : ∃ (s : State) (n : ChanId) (m : MsgIn) (d : Edge),
    let c := s.ch n.val
    let p := m.port.toNat
    let waits := ∃ x ∈ c.la.edges, x.up = false ∧ x.isReady = false
    let leaf := c.la.edges = [d] ∧ d.up = true ∧ d.isReady = false
    let agrees := m.accord.toNat = c.la.accord ∧ bodyWord m 1 = c.la.digest ∧ fld (bodyWord m 2) 47 40 = verMajor ∧ fld (bodyWord m 2) 31 0 = laFeatures ∧ d.rank = m.src.toNat
    hypAccordForming s n m d ∧ s.Hears n.val tyReady m ∧ d.up = false ∧ (∃ x ∈ c.la.edges, x.up = false ∧ x.isReady = false ∧ x.port ≠
    p) :=
  ⟨demo (inAccord .forming [child false false false, ⟨4, 10, false, true, true, false⟩] demoCh), 0, msgTo 3 9 0 [], child false false
    false, ⟨ready_of, ok, goodTree_of, ok⟩, hears_of, ok⟩
theorem witness_AccordForming_readyLast : ∃ (s : State) (n : ChanId) (m : MsgIn) (d : Edge),
    let c := s.ch n.val
    let p := m.port.toNat
    let waits := ∃ x ∈ c.la.edges, x.up = false ∧ x.isReady = false
    let leaf := c.la.edges = [d] ∧ d.up = true ∧ d.isReady = false
    let agrees := m.accord.toNat = c.la.accord ∧ bodyWord m 1 = c.la.digest ∧ fld (bodyWord m 2) 47 40 = verMajor ∧ fld (bodyWord m 2) 31 0 = laFeatures ∧ d.rank = m.src.toNat
    hypAccordForming s n m d ∧ s.Hears n.val tyReady m ∧ (∀ x ∈ c.la.edges, x.up = false ∧ (x.port ≠ p → x.isReady = true)) :=
  ⟨demo (inAccord .forming [child false false false, ⟨4, 10, false, true, true, true⟩] demoCh), 0, msgTo 3 9 0 [], child false false
    false, ⟨ready_of, ok, goodTree_of, ok⟩, hears_of, ok⟩
theorem witness_AccordForming_formed : ∃ (s : State) (n : ChanId) (m : MsgIn) (d : Edge),
    let c := s.ch n.val
    let p := m.port.toNat
    let waits := ∃ x ∈ c.la.edges, x.up = false ∧ x.isReady = false
    let leaf := c.la.edges = [d] ∧ d.up = true ∧ d.isReady = false
    let agrees := m.accord.toNat = c.la.accord ∧ bodyWord m 1 = c.la.digest ∧ fld (bodyWord m 2) 47 40 = verMajor ∧ fld (bodyWord m 2) 31 0 = laFeatures ∧ d.rank = m.src.toNat
    hypAccordForming s n m d ∧ s.Hears n.val tyFormed m ∧ d.up = true ∧ d.isReady = true ∧ c.la.joining = false :=
  ⟨demo (inAccord .forming [parent true true true] demoCh), 0, msgTo 1 8 0 [], parent true true true, ⟨ready_of, ok, goodTree_of, ok⟩,
    hears_of, ok⟩
theorem witness_AccordForming_early : ∃ (s : State) (n : ChanId) (m : MsgIn) (d : Edge),
    let c := s.ch n.val
    let p := m.port.toNat
    let waits := ∃ x ∈ c.la.edges, x.up = false ∧ x.isReady = false
    let leaf := c.la.edges = [d] ∧ d.up = true ∧ d.isReady = false
    let agrees := m.accord.toNat = c.la.accord ∧ bodyWord m 1 = c.la.digest ∧ fld (bodyWord m 2) 47 40 = verMajor ∧ fld (bodyWord m 2) 31 0 = laFeatures ∧ d.rank = m.src.toNat
    hypAccordForming s n m d ∧ s.time < c.la.attemptAt + 10000000 :=
  ⟨demo (inAccord .forming [parent false false false] { demoCh with la := { attemptAt := 1 } }), 0, msgTo 1 8 0 [], parent false false
    false, ⟨ready_of, ok, goodTree_of, ok⟩, ok⟩
theorem witness_AccordForming_retries : ∃ (s : State) (n : ChanId) (m : MsgIn) (d : Edge),
    let c := s.ch n.val
    let p := m.port.toNat
    let waits := ∃ x ∈ c.la.edges, x.up = false ∧ x.isReady = false
    let leaf := c.la.edges = [d] ∧ d.up = true ∧ d.isReady = false
    let agrees := m.accord.toNat = c.la.accord ∧ bodyWord m 1 = c.la.digest ∧ fld (bodyWord m 2) 47 40 = verMajor ∧ fld (bodyWord m 2) 31 0 = laFeatures ∧ d.rank = m.src.toNat
    hypAccordForming s n m d ∧ c.la.attemptAt + 10000000 ≤ s.time ∧ c.la.attempts ≤ c.la.retries ∧ (∀ x ∈ c.la.edges,
    c.la.linkPorts.testBit x.port = true ∧ c.la.up.testBit x.port = true) :=
  ⟨demo (inAccord .forming [parent false false false] { demoCh with la := { attempts := 3, retries := 3 } }), 0, msgTo 1 8 0 [],
    parent false false false, ⟨ready_of, ok, goodTree_of, ok⟩, ok⟩
theorem witness_AccordForming_fails : ∃ (s : State) (n : ChanId) (m : MsgIn) (d : Edge),
    let c := s.ch n.val
    let p := m.port.toNat
    let waits := ∃ x ∈ c.la.edges, x.up = false ∧ x.isReady = false
    let leaf := c.la.edges = [d] ∧ d.up = true ∧ d.isReady = false
    let agrees := m.accord.toNat = c.la.accord ∧ bodyWord m 1 = c.la.digest ∧ fld (bodyWord m 2) 47 40 = verMajor ∧ fld (bodyWord m 2) 31 0 = laFeatures ∧ d.rank = m.src.toNat
    hypAccordForming s n m d ∧ c.la.attemptAt + 10000000 ≤ s.time ∧ c.la.retries < c.la.attempts ∧ c.la.firstReason ≠ 0 ∧ c.Raises
    (s.seen n.val .none) .la 2 {} 2 :=
  ⟨demo (inAccord .forming [parent false false false] { demoCh with la := { attempts := 4, retries := 3, firstReason := 5 } }), 0,
    msgTo 1 8 0 [], parent false false false, ⟨ready_of, ok, goodTree_of, ok⟩, ok, ok, ok, raises_of⟩
/-- The hypotheses of AccordObjects. -/
def hypAccordObjects (s : State) (n : ChanId) (m : MsgIn) (d : Edge) (a : AccObj) (k : Nat) : Prop := s.Ready n.val ∧ (s.ch
    n.val).la.st = .formed ∧ (s.ch n.val).GoodTree ∧ (s.ch n.val).img.locals = [] ∧ d ∈ (s.ch n.val).la.edges ∧ d.port =
    m.port.toNat ∧ ((s.ch n.val).common k).testBit 63 = true ∧ (s.ch n.val).accReduce k = false ∧ m.object.toNat = k ∧ (s.ch
    n.val).accState k = a ∧ SMap.wf {} (s.ch n.val).la.objs = true
theorem witness_AccordObjects_one : ∃ (s : State) (n : ChanId) (m : MsgIn) (d : Edge) (a : AccObj) (k : Nat),
    let c := s.ch n.val
    let p := m.port.toNat
    let word := bodyWord m 1
    let kids := c.la.edges.filter (fun x => !x.up)
    let root := kids.length = c.la.edges.length
    let goodArrive := s.Hears n.val tyArrive m ∧ d.up = false ∧ fld word 63 32 = a.gen.toNat ∧ p ∉ a.children
    hypAccordObjects s n m d a k ∧ goodArrive ∧ (∃ x ∈ kids, x.port ≠ p ∧ x.port ∉ a.children) :=
  ⟨demo (inAccord .formed [parent true true true, child true true true, ⟨4, 10, false, true, true, true⟩]
    { demoCh with img := { commons := [(0xFF, 2 ^ 63 + 1000 * 2 ^ 40)] }, la := { objs := [(0xFF, { gen := 5 })] } }), 0, msgTo 3 9
    0xFF [5 * 2 ^ 32 + 2 ^ 31 + 2 ^ 29], child true true true, { gen := 5 }, 0xFF, ⟨ready_of, ok, goodTree_of, ok⟩, ⟨hears_of, ok⟩,
    ok⟩
theorem witness_AccordObjects_up : ∃ (s : State) (n : ChanId) (m : MsgIn) (d : Edge) (a : AccObj) (k : Nat),
    let c := s.ch n.val
    let p := m.port.toNat
    let word := bodyWord m 1
    let kids := c.la.edges.filter (fun x => !x.up)
    let root := kids.length = c.la.edges.length
    let goodArrive := s.Hears n.val tyArrive m ∧ d.up = false ∧ fld word 63 32 = a.gen.toNat ∧ p ∉ a.children
    hypAccordObjects s n m d a k ∧ goodArrive ∧ (∀ x ∈ kids, x.port = p ∨ x.port ∈ a.children) ∧ a.sent = false ∧ (∃ u ∈ c.la.edges,
    u.up = true) :=
  ⟨demo (inAccord .formed [parent true true true, child true true true, ⟨4, 10, false, true, true, true⟩]
    { demoCh with img := { commons := [(0xFF, 2 ^ 63 + 1000 * 2 ^ 40)] }, la := { objs := [(0xFF, { gen := 5, children := [4] })] } }),
    0, msgTo 3 9 0xFF [5 * 2 ^ 32 + 2 ^ 31 + 2 ^ 29], child true true true, { gen := 5, children := [4] }, 0xFF, ⟨ready_of, ok,
    goodTree_of, ok⟩, ⟨hears_of, ok⟩, ok⟩
theorem witness_AccordObjects_root : ∃ (s : State) (n : ChanId) (m : MsgIn) (d : Edge) (a : AccObj) (k : Nat),
    let c := s.ch n.val
    let p := m.port.toNat
    let word := bodyWord m 1
    let kids := c.la.edges.filter (fun x => !x.up)
    let root := kids.length = c.la.edges.length
    let goodArrive := s.Hears n.val tyArrive m ∧ d.up = false ∧ fld word 63 32 = a.gen.toNat ∧ p ∉ a.children
    hypAccordObjects s n m d a k ∧ goodArrive ∧ (∀ x ∈ kids, x.port = p ∨ x.port ∈ a.children) ∧ a.sent = false ∧ root :=
  ⟨demo (inAccord .formed [child true true true, ⟨4, 10, false, true, true, true⟩]
    { demoCh with img := { commons := [(0xFF, 2 ^ 63 + 1000 * 2 ^ 40)] }, la := { objs := [(0xFF, { gen := 5, children := [4], timer := some 7 })] } }),
    0, msgTo 3 9 0xFF [5 * 2 ^ 32 + 2 ^ 31 + 2 ^ 29], child true true true, { gen := 5, children := [4], timer := some 7 }, 0xFF,
    ⟨ready_of, ok, goodTree_of, ok⟩, ⟨hears_of, ok⟩, ok⟩
theorem witness_AccordObjects_generation : ∃ (s : State) (n : ChanId) (m : MsgIn) (d : Edge) (a : AccObj) (k : Nat),
    let c := s.ch n.val
    let p := m.port.toNat
    let word := bodyWord m 1
    let kids := c.la.edges.filter (fun x => !x.up)
    let root := kids.length = c.la.edges.length
    let goodArrive := s.Hears n.val tyArrive m ∧ d.up = false ∧ fld word 63 32 = a.gen.toNat ∧ p ∉ a.children
    let y : Cause := { addr := at_ 63 32 (c.accState 0xFF).gen.toNat + at_ 7 0 0xFF, access := 6, key := p }
    hypAccordObjects s n m d a k ∧ s.Hears n.val tyArrive m ∧ d.up = false ∧ fld word 63 32 ≠ a.gen.toNat ∧ c.Raises (s.seen n.val
    .none) .la 4 y 2 :=
  ⟨demo (inAccord .formed [child true true true]
    { demoCh with img := { commons := [(0xFF, 2 ^ 63 + 1000 * 2 ^ 40)] }, la := { objs := [(0xFF, { gen := 5 })] } }), 0, msgTo 3 9
    0xFF [6 * 2 ^ 32], child true true true, { gen := 5 }, 0xFF, ⟨ready_of, ok, goodTree_of, ok⟩, hears_of, ok, ok, raises_of⟩
theorem witness_AccordObjects_release : ∃ (s : State) (n : ChanId) (m : MsgIn) (d : Edge) (a : AccObj) (k : Nat),
    let c := s.ch n.val
    let p := m.port.toNat
    let word := bodyWord m 1
    let kids := c.la.edges.filter (fun x => !x.up)
    let root := kids.length = c.la.edges.length
    let goodArrive := s.Hears n.val tyArrive m ∧ d.up = false ∧ fld word 63 32 = a.gen.toNat ∧ p ∉ a.children
    hypAccordObjects s n m d a k ∧ s.Hears n.val tyRelease m ∧ d.up = true ∧ fld word 63 32 = a.gen.toNat ∧ word.testBit 28 = false ∧
    kids ≠ [] :=
  ⟨demo (inAccord .formed [parent true true true, child true true true]
    { demoCh with img := { commons := [(0xFF, 2 ^ 63 + 1000 * 2 ^ 40)] }, la := { objs := [(0xFF, { gen := 5 })] } }), 0, msgTo 1 8
    0xFF [5 * 2 ^ 32], parent true true true, { gen := 5 }, 0xFF, ⟨ready_of, ok, goodTree_of, ok⟩, hears_of, ok⟩
theorem witness_AccordObjects_timeout : ∃ (s : State) (n : ChanId) (m : MsgIn) (d : Edge) (a : AccObj) (k : Nat),
    let c := s.ch n.val
    let p := m.port.toNat
    let word := bodyWord m 1
    let kids := c.la.edges.filter (fun x => !x.up)
    let root := kids.length = c.la.edges.length
    let goodArrive := s.Hears n.val tyArrive m ∧ d.up = false ∧ fld word 63 32 = a.gen.toNat ∧ p ∉ a.children
    let x : Cause := { addr := at_ 63 32 a.gen.toNat + at_ 7 0 k, access := 5 }
    hypAccordObjects s n m d a k ∧ root ∧ a.expired = false ∧ (∃ t0, a.timer = some t0 ∧ t0 + 1000 * fld (c.common k) 59 40 ≤ s.time) ∧
    fld (c.common k) 59 40 ≠ 0 ∧ kids.length ≤ 4 ∧ c.Raises (s.seen n.val .none) .la 3 x 2 ∧ (c.common k).testBit 60 = false :=
  ⟨demo (inAccord .formed [child true true true, ⟨4, 10, false, true, true, true⟩]
    { demoCh with img := { commons := [(0xFF, 2 ^ 63 + 1000 * 2 ^ 40)] }, la := { objs := [(0xFF, { gen := 5, timer := some 9000000 })] } }),
    0, msgTo 3 9 0xFF [5 * 2 ^ 32 + 2 ^ 31 + 2 ^ 29], child true true true, { gen := 5, timer := some 9000000 }, 0xFF, ⟨ready_of,
    ok, goodTree_of, ok⟩, ok, ok, ⟨9000000, ok⟩, ok, ok, raises_of, ok⟩
theorem witness_AccordObjects_holds : ∃ (s : State) (n : ChanId) (m : MsgIn) (d : Edge) (a : AccObj) (k : Nat),
    let c := s.ch n.val
    let p := m.port.toNat
    let word := bodyWord m 1
    let kids := c.la.edges.filter (fun x => !x.up)
    let root := kids.length = c.la.edges.length
    let goodArrive := s.Hears n.val tyArrive m ∧ d.up = false ∧ fld word 63 32 = a.gen.toNat ∧ p ∉ a.children
    let x : Cause := { addr := at_ 63 32 a.gen.toNat + at_ 7 0 k, access := 5 }
    hypAccordObjects s n m d a k ∧ root ∧ a.expired = false ∧ (∃ t0, a.timer = some t0 ∧ t0 + 1000 * fld (c.common k) 59 40 ≤ s.time) ∧
    fld (c.common k) 59 40 ≠ 0 ∧ kids.length ≤ 4 ∧ c.Raises (s.seen n.val .none) .la 3 x 2 ∧ (c.common k).testBit 60 = true :=
  ⟨demo (inAccord .formed [child true true true, ⟨4, 10, false, true, true, true⟩]
    { demoCh with img := { commons := [(0xFF, 2 ^ 63 + 1000 * 2 ^ 40 + 2 ^ 60)] }, la := { objs := [(0xFF, { gen := 5, timer := some 9000000 })] } }),
    0, msgTo 3 9 0xFF [5 * 2 ^ 32 + 2 ^ 31 + 2 ^ 29], child true true true, { gen := 5, timer := some 9000000 }, 0xFF, ⟨ready_of,
    ok, goodTree_of, ok⟩, ok, ok, ⟨9000000, ok⟩, ok, ok, raises_of, ok⟩
theorem witness_AccordObjects_breaks : ∃ (s : State) (n : ChanId) (m : MsgIn) (d : Edge) (a : AccObj) (k : Nat),
    let c := s.ch n.val
    let p := m.port.toNat
    let word := bodyWord m 1
    let kids := c.la.edges.filter (fun x => !x.up)
    let root := kids.length = c.la.edges.length
    let goodArrive := s.Hears n.val tyArrive m ∧ d.up = false ∧ fld word 63 32 = a.gen.toNat ∧ p ∉ a.children
    let y : Cause := { addr := at_ 63 32 (c.accState 0).gen.toNat, access := 6, key := p }
    hypAccordObjects s n m d a k ∧ s.Hears n.val tyBreak m ∧ c.Raises (s.seen n.val .none) .la 4 y 2 :=
  ⟨demo (inAccord .formed [parent true true true, child true true true]
    { demoCh with img := { commons := [(0xFF, 2 ^ 63 + 1000 * 2 ^ 40)] }, la := { objs := [(0xFF, { gen := 5 })] } }), 0, msgTo 1 8
    0xFF [6], parent true true true, { gen := 5 }, 0xFF, ⟨ready_of, ok, goodTree_of, ok⟩, hears_of, raises_of⟩
/-- The hypotheses of AccordTime. -/
def hypAccordTime (s : State) (n : ChanId) (m : MsgIn) (d : Edge) : Prop := s.Ready n.val ∧ (s.ch n.val).la.st = .formed ∧ (s.ch
    n.val).GoodTree ∧ (s.ch n.val).img.locals = [] ∧ d ∈ (s.ch n.val).la.edges ∧ d.up = true ∧ (s.ch n.val).la.accord ≠ 0
theorem witness_AccordTime_early : ∃ (s : State) (n : ChanId) (m : MsgIn) (d : Edge),
    let c := s.ch n.val
    let e := s.seen n.val .none
    hypAccordTime s n m d ∧ s.time < c.la.reqAt + 1000000 ∧ s.Hears n.val tyTimeReq m ∧ c.MaySend m.port.toNat :=
  ⟨demo (inAccord .formed [parent true true true, child true true true] { demoCh with la := { reqAt := 9000001 } }), 0, msgTo 1 8 0
    [77], parent true true true, ⟨ready_of, ok, goodTree_of, ok⟩, ok, hears_of, maySend_of⟩
theorem witness_AccordTime_asks : ∃ (s : State) (n : ChanId) (m : MsgIn) (d : Edge),
    let c := s.ch n.val
    let e := s.seen n.val .none
    hypAccordTime s n m d ∧ c.la.reqAt + 1000000 ≤ s.time ∧ c.la.reqT1 = none :=
  ⟨demo (inAccord .formed [parent true true true, child true true true] { demoCh with la := { reqAt := 9000000 } }), 0, msgTo 1 8 0
    [77], parent true true true, ⟨ready_of, ok, goodTree_of, ok⟩, ok⟩
theorem witness_AccordTime_misses : ∃ (s : State) (n : ChanId) (m : MsgIn) (d : Edge),
    let c := s.ch n.val
    let e := s.seen n.val .none
    hypAccordTime s n m d ∧ c.la.reqAt + 1000000 ≤ s.time ∧ c.la.reqT1 ≠ none ∧ c.la.missRun < 2 :=
  ⟨demo (inAccord .formed [parent true true true, child true true true]
    { demoCh with la := { reqAt := 9000000, reqT1 := some 5, missRun := 1 } }), 0, msgTo 1 8 0 [77], parent true true true,
    ⟨ready_of, ok, goodTree_of, ok⟩, ok⟩
theorem witness_AccordTime_lost : ∃ (s : State) (n : ChanId) (m : MsgIn) (d : Edge),
    let c := s.ch n.val
    let e := s.seen n.val .none
    let k : Cause := { addr := at_ 63 32 (c.accState 0).gen.toNat, access := 6, key := d.port }
    hypAccordTime s n m d ∧ c.la.reqAt + 1000000 ≤ s.time ∧ c.la.reqT1 ≠ none ∧ 2 ≤ c.la.missRun ∧ c.Raises e .la 4 k 2 :=
  ⟨demo (inAccord .formed [parent true true true, child true true true]
    { demoCh with la := { reqAt := 9000000, reqT1 := some 5, missRun := 2 } }), 0, msgTo 1 8 0 [77], parent true true true,
    ⟨ready_of, ok, goodTree_of, ok⟩, ok, ok, ok, raises_of⟩
theorem witness_AccordTime_discards : ∃ (s : State) (n : ChanId) (m : MsgIn) (d : Edge),
    let c := s.ch n.val
    let e := s.seen n.val .none
    let mine := (e.linkTime d.port : Int) + c.la.timeOffset
    let t1 := c.la.reqT1.getD 0
    let sum := (signed64 (bodyWord m 2) - t1) + (signed64 (bodyWord m 3) - mine)
    let θ := Int.tdiv sum 2
    let δ := (mine - t1) - (signed64 (bodyWord m 3) - signed64 (bodyWord m 2))
    let answered := s.Hears n.val tyTimeRsp m ∧ c.la.reqT1 ≠ none ∧ d.port = m.port.toNat ∧ signed64 (bodyWord m 1) = t1
    hypAccordTime s n m d ∧ answered ∧ (δ < 0 ∨ 4000 < δ) :=
  ⟨demo (inAccord .formed [parent true true true, child true true true] { demoCh with la := { reqT1 := some 9990000 } }), 0, msgTo 1 8
    0 [9990000, 9998500, 9998500], parent true true true, ⟨ready_of, ok, goodTree_of, ok⟩, ⟨hears_of, ok⟩, ok⟩
theorem witness_AccordTime_moves : ∃ (s : State) (n : ChanId) (m : MsgIn) (d : Edge),
    let c := s.ch n.val
    let e := s.seen n.val .none
    let mine := (e.linkTime d.port : Int) + c.la.timeOffset
    let t1 := c.la.reqT1.getD 0
    let sum := (signed64 (bodyWord m 2) - t1) + (signed64 (bodyWord m 3) - mine)
    let θ := Int.tdiv sum 2
    let δ := (mine - t1) - (signed64 (bodyWord m 3) - signed64 (bodyWord m 2))
    let answered := s.Hears n.val tyTimeRsp m ∧ c.la.reqT1 ≠ none ∧ d.port = m.port.toNat ∧ signed64 (bodyWord m 1) = t1
    hypAccordTime s n m d ∧ answered ∧ 0 ≤ δ ∧ δ ≤ 4000 ∧ θ.natAbs ≤ 250 :=
  ⟨demo (inAccord .formed [parent true true true, child true true true] { demoCh with la := { reqT1 := some 9997000 } }), 0, msgTo 1 8
    0 [9997000, 9998500, 9998500], parent true true true, ⟨ready_of, ok, goodTree_of, ok⟩, ⟨hears_of, ok⟩, ok⟩
theorem witness_AccordTime_warns : ∃ (s : State) (n : ChanId) (m : MsgIn) (d : Edge),
    let c := s.ch n.val
    let e := s.seen n.val .none
    let mine := (e.linkTime d.port : Int) + c.la.timeOffset
    let t1 := c.la.reqT1.getD 0
    let sum := (signed64 (bodyWord m 2) - t1) + (signed64 (bodyWord m 3) - mine)
    let θ := Int.tdiv sum 2
    let δ := (mine - t1) - (signed64 (bodyWord m 3) - signed64 (bodyWord m 2))
    let answered := s.Hears n.val tyTimeRsp m ∧ c.la.reqT1 ≠ none ∧ d.port = m.port.toNat ∧ signed64 (bodyWord m 1) = t1
    let k : Cause := { addr := at_ 18 16 m.port.toNat, access := 6, key := m.port.toNat }
    hypAccordTime s n m d ∧ answered ∧ 0 ≤ δ ∧ δ ≤ 4000 ∧ 250 < θ.natAbs ∧ θ.natAbs ≤ 5000 ∧ c.Raises e .la 1 k 1 :=
  ⟨demo (inAccord .formed [parent true true true, child true true true] { demoCh with la := { reqT1 := some 9997000 } }), 0, msgTo 1 8
    0 [9997000, 9999500, 9999500], parent true true true, ⟨ready_of, ok, goodTree_of, ok⟩, ⟨hears_of, ok⟩, ok, ok, ok, ok,
    raises_of⟩
theorem witness_AccordTime_breaks : ∃ (s : State) (n : ChanId) (m : MsgIn) (d : Edge),
    let c := s.ch n.val
    let e := s.seen n.val .none
    let mine := (e.linkTime d.port : Int) + c.la.timeOffset
    let t1 := c.la.reqT1.getD 0
    let sum := (signed64 (bodyWord m 2) - t1) + (signed64 (bodyWord m 3) - mine)
    let θ := Int.tdiv sum 2
    let δ := (mine - t1) - (signed64 (bodyWord m 3) - signed64 (bodyWord m 2))
    let answered := s.Hears n.val tyTimeRsp m ∧ c.la.reqT1 ≠ none ∧ d.port = m.port.toNat ∧ signed64 (bodyWord m 1) = t1
    let k : Cause := { addr := at_ 63 32 (c.accState 0).gen.toNat, access := 6, key := d.port }
    hypAccordTime s n m d ∧ answered ∧ 0 ≤ δ ∧ δ ≤ 4000 ∧ 5000 < θ.natAbs ∧ c.Raises e .la 4 k 2 :=
  ⟨demo (inAccord .formed [parent true true true, child true true true] { demoCh with la := { reqT1 := some 9997000 } }), 0, msgTo 1 8
    0 [9997000, 10018500, 10018500], parent true true true, ⟨ready_of, ok, goodTree_of, ok⟩, ⟨hears_of, ok⟩, ok, ok, ok, raises_of⟩
/-- The hypotheses of LinkEvents. -/
def hypLinkEvents (s : State) (n : ChanId) (p : BitVec 3) (t : TrailerArg) (w : Msg) (rest : List (Nat × Msg)) : Prop := s.Still ∧
    s.Ready n.val ∧ s.portOwner p.toNat = some n.val ∧ s.quarantined (0x5000 + p.toNat) = false ∧ SMap.wf {} (s.ch n.val).la.credits
    = true
theorem witness_LinkEvents_noEdge : ∃ (s : State) (n : ChanId) (p : BitVec 3) (t : TrailerArg) (w : Msg) (rest : List (Nat × Msg)),
    let c := s.ch n.val
    let q := p.toNat
    let avail := (c.la.credit q).txAvail
    hypLinkEvents s n p t w rest ∧ c.la.edgeAt q = none ∧ (∀ x ∈ c.ctl.shadows, ¬ (x.row = 3 ∧ x.key = q ∧ x.ends = none)) ∧ 64 ≤ avail
    :=
  ⟨demo (inAccord .formed [parent true true true, child true true true] { demoCh with la := { reqAt := 0 } }), 0, 7,
    { issuer := 5, chan := 0, opcode := 1, cls := 0, index := 7, operand := 9, tile := 5, poisoned := false, pkt := .none, mem := .none },
    { typ := tyTimeReq, accord := 7, src := 3, dst := 9 }, [], ⟨still_of, ready_of, ok⟩, ok⟩
theorem witness_LinkEvents_edge : ∃ (s : State) (n : ChanId) (p : BitVec 3) (t : TrailerArg) (w : Msg) (rest : List (Nat × Msg)),
    let c := s.ch n.val
    let q := p.toNat
    let avail := (c.la.credit q).txAvail
    let k : Cause := { addr := at_ 63 32 (c.accState 0).gen.toNat, access := 6, key := q }
    hypLinkEvents s n p t w rest ∧ c.la.st = .formed ∧ c.GoodTree ∧ c.img.locals = [] ∧ c.la.edgeAt q = some (child true true true) ∧
    c.Raises (s.seen n.val .none) .la 4 k 2 :=
  ⟨demo (inAccord .formed [parent true true true, child true true true] { demoCh with la := { reqAt := 0 } }), 0, 3,
    { issuer := 5, chan := 0, opcode := 1, cls := 0, index := 7, operand := 9, tile := 5, poisoned := false, pkt := .none, mem := .none },
    { typ := tyTimeReq, accord := 7, src := 3, dst := 9 }, [], ⟨still_of, ready_of, ok⟩, ok, goodTree_of, ok, ok, raises_of⟩
theorem witness_LinkEvents_credit : ∃ (s : State) (n : ChanId) (p : BitVec 3) (t : TrailerArg) (w : Msg) (rest : List (Nat × Msg)),
    let c := s.ch n.val
    let q := p.toNat
    let avail := (c.la.credit q).txAvail
    hypLinkEvents s n p t w rest ∧ avail < 64 ∧ (∀ x ∈ c.la.txWait, x.1 ≠ q) :=
  ⟨demo (inAccord .formed [parent true true true, child true true true]
    { demoCh with la := { credits := [(3, { txAvail := 63 })] } }), 0, 3,
    { issuer := 5, chan := 0, opcode := 1, cls := 0, index := 7, operand := 9, tile := 5, poisoned := false, pkt := .none, mem := .none },
    { typ := tyTimeReq, accord := 7, src := 3, dst := 9 }, [], ⟨still_of, ready_of, ok⟩, ok⟩
theorem witness_LinkEvents_waiting : ∃ (s : State) (n : ChanId) (p : BitVec 3) (t : TrailerArg) (w : Msg) (rest : List (Nat × Msg)),
    let c := s.ch n.val
    let q := p.toNat
    let avail := (c.la.credit q).txAvail
    hypLinkEvents s n p t w rest ∧ avail < 16 ∧ c.la.txWait = (q, w) :: rest ∧ w.typ ≠ tyTrailer ∧ w.typ ≠ tyArrive ∧ (∀ x ∈ rest, x.1 ≠
    q) :=
  ⟨demo (inAccord .formed [parent true true true, child true true true]
    { demoCh with la := { credits := [(3, { txAvail := 15 })], txWait := [(3, { typ := tyTimeReq, accord := 7, src := 3, dst := 9 }), (1, { typ := tyTimeReq, accord := 7, src := 3, dst := 9 })] } }),
    0, 3,
    { issuer := 5, chan := 0, opcode := 1, cls := 0, index := 7, operand := 9, tile := 5, poisoned := false, pkt := .none, mem := .none },
    { typ := tyTimeReq, accord := 7, src := 3, dst := 9 }, [(1, { typ := tyTimeReq, accord := 7, src := 3, dst := 9 })], ⟨still_of,
    ready_of, ok⟩, ok⟩
theorem witness_LinkEvents_waitingBreak : ∃ (s : State) (n : ChanId) (p : BitVec 3) (t : TrailerArg) (w : Msg) (rest : List (Nat ×
    Msg)),
    let c := s.ch n.val
    let q := p.toNat
    let avail := (c.la.credit q).txAvail
    hypLinkEvents s n p t w rest ∧ avail < 16 ∧ c.la.txWait = (q, w) :: rest ∧ w.typ ≠ tyTrailer ∧ w.typ ≠ tyArrive ∧ w.typ ≠ tyTimeReq
    ∧ w.typ ≠ tyTimeRsp ∧ (∀ x ∈ rest, x.1 ≠ q) :=
  ⟨demo (inAccord .formed [parent true true true, child true true true]
    { demoCh with la := { credits := [(3, { txAvail := 15 })], txWait := [(3, { typ := tyBreak, accord := 7, src := 3, dst := 9 }), (1, { typ := tyTimeReq, accord := 7, src := 3, dst := 9 })] } }),
    0, 3,
    { issuer := 5, chan := 0, opcode := 1, cls := 0, index := 7, operand := 9, tile := 5, poisoned := false, pkt := .none, mem := .none },
    { typ := tyBreak, accord := 7, src := 3, dst := 9 }, [(1, { typ := tyTimeReq, accord := 7, src := 3, dst := 9 })], ⟨still_of,
    ready_of, ok⟩, ok⟩
theorem witness_LinkEvents_sends : ∃ (s : State) (n : ChanId) (p : BitVec 3) (t : TrailerArg) (w : Msg) (rest : List (Nat × Msg)),
    let c := s.ch n.val
    let q := p.toNat
    let avail := (c.la.credit q).txAvail
    hypLinkEvents s n p t w rest ∧ s.ownerOf t.issuer.toNat = some n.val ∧ c.la.accord ≠ 0 ∧ c.la.linkPorts.testBit q = true ∧ c.MaySend
    q ∧ c.la.edgeAt q = some (child true true true) :=
  ⟨demo (inAccord .formed [parent true true true, child true true true] { demoCh with la := { reqAt := 0 } }), 0, 3,
    { issuer := 5, chan := 0, opcode := 1, cls := 0, index := 7, operand := 9, tile := 5, poisoned := false, pkt := .none, mem := .none },
    { typ := tyTimeReq, accord := 7, src := 3, dst := 9 }, [], ⟨still_of, ready_of, ok⟩, ok, ok, ok, maySend_of, ok⟩
theorem witness_LinkEvents_refused : ∃ (s : State) (n : ChanId) (p : BitVec 3) (t : TrailerArg) (w : Msg) (rest : List (Nat × Msg)),
    hypLinkEvents s n p t w rest ∧ s.ownerOf t.issuer.toNat = some n.val ∧ ((s.ch n.val).la.accord = 0 ∨ (s.ch
    n.val).la.linkPorts.testBit p.toNat = false) :=
  ⟨demo demoCh, 0, 3,
    { issuer := 5, chan := 0, opcode := 1, cls := 0, index := 7, operand := 9, tile := 5, poisoned := false, pkt := .none, mem := .none },
    { typ := tyTimeReq, accord := 7, src := 3, dst := 9 }, [], ⟨still_of, ready_of, ok⟩, ok⟩
/-- The hypotheses of TrailerOps. -/
def hypTrailerOps (s : State) (n phys lid i op : Nat) (t : TrailerArg) (m : MsgIn) (f : Flag) (v : Sem) : Prop := s.Ready n ∧
    t.issuer.toNat = phys ∧ s.packetOwner (trailerPacket t) = some n ∧ s.quarantined (srnCrossing t.tile.toNat) = false ∧
    s.fabricPort t.tile.toNat = false ∧ s.held n = false ∧ (s.ch n).lidOf phys = some lid ∧ lid < 0xFFE ∧ phys ∉ (s.ch n).ctl.fenced
    ∧ t.pkt = .none ∧ t.mem = .none ∧ t.poisoned = false ∧ t.opcode.toNat = op ∧ t.index.toNat = i ∧ (s.ch n).flag i = f ∧ (s.ch
    n).sem i = v
theorem witness_TrailerOps_set : ∃ (s : State) (n phys lid i op : Nat) (t : TrailerArg) (m : MsgIn) (f : Flag) (v : Sem),
    let remote := s.Hears n tyTrailer m ∧ m.port.toNat + 0x700 = phys ∧ bodyWord m 1 = at_ 31 26 op + at_ 25 23 t.cls.toNat + at_ 22 0 i ∧ bodyWord m 2 = t.operand.toNat ∧ ((s.ch n).la.st = .formed ∨ (s.ch n).la.st = .broken)
    hypTrailerOps s n phys lid i op t m f v ∧ t.cls = 0 ∧ i < 2 ^ 20 ∧ (s.ch n).Alone clFlag i ∧ f.poisoned = false ∧ op = opFlagSet ∧
    f.value = false ∧ remote :=
  ⟨demo (inAccord .formed []
    { demoCh with ctl := { demoCh.ctl with map := [(3, ⟨true, 0x703⟩)] }, os := { flags := [(0xFFFFF, { value := false })], sems := [(0xFFFFF, {})] } }),
    0, 0x703, 3, 0xFFFFF, opFlagSet,
    { issuer := 0x703, chan := 0, opcode := BitVec.ofNat 6 opFlagSet, cls := 0, index := 0xFFFFF, operand := 9, tile := 5, poisoned := false, pkt := .none, mem := .none },
    msgTo 3 8 9 [opFlagSet * 2 ^ 26 + 0 * 2 ^ 23 + 0xFFFFF, 9, 77], { value := false }, {}, ⟨ready_of, ok⟩, ok, ok, alone_of, ok,
    ok, ok, ⟨hears_of, ok⟩⟩
theorem witness_TrailerOps_clear : ∃ (s : State) (n phys lid i op : Nat) (t : TrailerArg) (m : MsgIn) (f : Flag) (v : Sem),
    let remote := s.Hears n tyTrailer m ∧ m.port.toNat + 0x700 = phys ∧ bodyWord m 1 = at_ 31 26 op + at_ 25 23 t.cls.toNat + at_ 22 0 i ∧ bodyWord m 2 = t.operand.toNat ∧ ((s.ch n).la.st = .formed ∨ (s.ch n).la.st = .broken)
    hypTrailerOps s n phys lid i op t m f v ∧ t.cls = 0 ∧ i < 2 ^ 20 ∧ (s.ch n).Alone clFlag i ∧ f.poisoned = false ∧ op = opFlagClear ∧
    f.value = true ∧ remote :=
  ⟨demo (inAccord .broken []
    { demoCh with ctl := { demoCh.ctl with map := [(3, ⟨true, 0x703⟩)] }, os := { flags := [(0xFFFFF, { value := true })], sems := [(0xFFFFF, {})] } }),
    0, 0x703, 3, 0xFFFFF, opFlagClear,
    { issuer := 0x703, chan := 0, opcode := BitVec.ofNat 6 opFlagClear, cls := 0, index := 0xFFFFF, operand := 9, tile := 5, poisoned := false, pkt := .none, mem := .none },
    msgTo 3 8 9 [opFlagClear * 2 ^ 26 + 0 * 2 ^ 23 + 0xFFFFF, 9, 77], { value := true }, {}, ⟨ready_of, ok⟩, ok, ok, alone_of, ok,
    ok, ok, ⟨hears_of, ok⟩⟩
theorem witness_TrailerOps_add : ∃ (s : State) (n phys lid i op : Nat) (t : TrailerArg) (m : MsgIn) (f : Flag) (v : Sem),
    let remote := s.Hears n tyTrailer m ∧ m.port.toNat + 0x700 = phys ∧ bodyWord m 1 = at_ 31 26 op + at_ 25 23 t.cls.toNat + at_ 22 0 i ∧ bodyWord m 2 = t.operand.toNat ∧ ((s.ch n).la.st = .formed ∨ (s.ch n).la.st = .broken)
    hypTrailerOps s n phys lid i op t m f v ∧ t.cls = 1 ∧ i < 2 ^ 18 ∧ (s.ch n).Alone clSem i ∧ v.poisoned = false ∧ op = opSemAdd ∧ 0 <
    fld t.operand.toNat 31 0 ∧ v.value + fld t.operand.toNat 31 0 ≤ 0x7FFFFFFF ∧ remote :=
  ⟨demo (inAccord .formed []
    { demoCh with ctl := { demoCh.ctl with map := [(3, ⟨true, 0x703⟩)] }, os := { flags := [(0x3FFFF, {})], sems := [(0x3FFFF, { value := 0x7FFFFFF6 })] } }),
    0, 0x703, 3, 0x3FFFF, opSemAdd,
    { issuer := 0x703, chan := 0, opcode := BitVec.ofNat 6 opSemAdd, cls := 1, index := 0x3FFFF, operand := 9, tile := 5, poisoned := false, pkt := .none, mem := .none },
    msgTo 3 8 9 [opSemAdd * 2 ^ 26 + 1 * 2 ^ 23 + 0x3FFFF, 9, 77], {}, { value := 0x7FFFFFF6 }, ⟨ready_of, ok⟩, ok, ok, alone_of,
    ok, ok, ok, ok, ⟨hears_of, ok⟩⟩
/-- The hypotheses of NodeEvents. -/
def hypNodeEvents (s : State) (n lid : Nat) (p : BitVec 12) (r : Response) (l₁ l₂ : List Response) : Prop := s.Ready n ∧
    s.quarantined (srnCrossing p.toNat) = false ∧ s.fabricPort p.toNat = false
theorem witness_NodeEvents_owned : ∃ (s : State) (n lid : Nat) (p : BitVec 12) (r : Response) (l₁ l₂ : List Response),
    let k : Cause := { addr := p.toNat, master := some (lid, p.toNat), access := 1 }
    hypNodeEvents s n lid p r l₁ l₂ ∧ s.outstanding.get 0 p.toNat < 16 ∧ s.ownerOf p.toNat = some n ∧ s.held n = false ∧ (s.ch n).lidOf
    p.toNat = some lid ∧ (s.ch n).Raises (s.seen n .none) .rq 1 k 2 :=
  ⟨{ demo demoCh with outstanding := [(5, 15)], resp := [{ endpoint := 9, chan := 0, opcode := 4, status := 0, tag := 8, result := 9, first := false }, { endpoint := 5, chan := 0, opcode := 4, status := 0, tag := 8, result := 9, first := true }, { endpoint := 5, chan := 0, opcode := 4, status := 0, tag := 8, result := 9, first := false }] },
    0, 3, 5, { endpoint := 5, chan := 0, opcode := 4, status := 0, tag := 8, result := 9, first := true },
    [{ endpoint := 9, chan := 0, opcode := 4, status := 0, tag := 8, result := 9, first := false }],
    [{ endpoint := 5, chan := 0, opcode := 4, status := 0, tag := 8, result := 9, first := false }], ⟨ready_of, ok⟩, ok, ok, ok, ok,
    raises_of⟩
theorem witness_NodeEvents_unowned : ∃ (s : State) (n lid : Nat) (p : BitVec 12) (r : Response) (l₁ l₂ : List Response),
    hypNodeEvents s n lid p r l₁ l₂ ∧ s.outstanding.get 0 p.toNat < 16 ∧ s.ownerOf p.toNat = none :=
  ⟨{ demo demoCh with outstanding := [(7, 15)], resp := [{ endpoint := 9, chan := 0, opcode := 4, status := 0, tag := 8, result := 9, first := false }, { endpoint := 7, chan := 0, opcode := 4, status := 0, tag := 8, result := 9, first := true }, { endpoint := 7, chan := 0, opcode := 4, status := 0, tag := 8, result := 9, first := false }] },
    0, 3, 7, { endpoint := 7, chan := 0, opcode := 4, status := 0, tag := 8, result := 9, first := true },
    [{ endpoint := 9, chan := 0, opcode := 4, status := 0, tag := 8, result := 9, first := false }],
    [{ endpoint := 7, chan := 0, opcode := 4, status := 0, tag := 8, result := 9, first := false }], ⟨ready_of, ok⟩, ok⟩
theorem witness_NodeEvents_delivers : ∃ (s : State) (n lid : Nat) (p : BitVec 12) (r : Response) (l₁ l₂ : List Response),
    hypNodeEvents s n lid p r l₁ l₂ ∧ s.resp = l₁ ++ r :: l₂ ∧ (∀ x ∈ l₁, x.endpoint ≠ p.toNat) ∧ r.endpoint = p.toNat :=
  ⟨{ demo demoCh with outstanding := [(5, 15)], resp := [{ endpoint := 9, chan := 0, opcode := 4, status := 0, tag := 8, result := 9, first := false }, { endpoint := 5, chan := 0, opcode := 4, status := 0, tag := 8, result := 9, first := true }, { endpoint := 5, chan := 0, opcode := 4, status := 0, tag := 8, result := 9, first := false }] },
    0, 3, 5, { endpoint := 5, chan := 0, opcode := 4, status := 0, tag := 8, result := 9, first := true },
    [{ endpoint := 9, chan := 0, opcode := 4, status := 0, tag := 8, result := 9, first := false }],
    [{ endpoint := 5, chan := 0, opcode := 4, status := 0, tag := 8, result := 9, first := false }], ⟨ready_of, ok⟩, ok⟩
theorem witness_NodeEvents_nothing : ∃ (s : State) (n lid : Nat) (p : BitVec 12) (r : Response) (l₁ l₂ : List Response),
    hypNodeEvents s n lid p r l₁ l₂ ∧ (∀ x ∈ s.resp, x.endpoint ≠ p.toNat) :=
  ⟨demo demoCh, 0, 3, 0x727, { endpoint := 5, chan := 0, opcode := 4, status := 0, tag := 8, result := 9, first := false }, [], [],
    ⟨ready_of, ok⟩, ok⟩
/-- The hypotheses of TableCommands. -/
def hypTableCommands (s : State) (v : Word) (fn : BitVec 8) : Prop := s.blockHalted = false ∧ s.sflt.pt.pendForce = none ∧
    s.sflt.upsets = []
theorem witness_TableCommands_opens : ∃ (s : State) (v : Word) (fn : BitVec 8),
    let next := (fld (s.pt.table.get 0 0) 63 32 + 1) % 2 ^ 32
    hypTableCommands s v fn ∧ s.StewardPort ∧ s.Admits fn 0x3010 v.toNat ∧ s.pt.st = .idle ∧ fld v.toNat 31 0 = next :=
  ⟨inChange { table := goodTable 3 0, aborts := 3 }, BitVec.ofNat 64 (4), 0, by unfold hypTableCommands; exact ok, stewardPort_of,
    admits_of, ok⟩
theorem witness_TableCommands_openSeq : ∃ (s : State) (v : Word) (fn : BitVec 8),
    let next := (fld (s.pt.table.get 0 0) 63 32 + 1) % 2 ^ 32
    hypTableCommands s v fn ∧ s.StewardPort ∧ s.Admits fn 0x3010 v.toNat ∧ s.pt.st = .idle ∧ fld v.toNat 31 0 ≠ next :=
  ⟨inChange { table := goodTable 3 0, aborts := 3 }, BitVec.ofNat 64 (3), 0, by unfold hypTableCommands; exact ok, stewardPort_of,
    admits_of, ok⟩
theorem witness_TableCommands_stages : ∃ (s : State) (v : Word) (fn : BitVec 8), hypTableCommands s v fn ∧ s.StewardPort ∧ s.Admits
    fn 0x3048 v.toNat ∧ s.pt.st = .edit ∧ s.pt.checking = false ∧ s.pt.stageSel ≠ 0 :=
  ⟨inChange { table := goodTable 3 0, st := .edit, ownerSteward := true, seq := 4, stage := goodTable 4 0, stageSel := 255 },
    BitVec.ofNat 64 (7), 0, by unfold hypTableCommands; exact ok, stewardPort_of, admits_of, ok⟩
theorem witness_TableCommands_submits : ∃ (s : State) (v : Word) (fn : BitVec 8), hypTableCommands s v fn ∧ s.StewardPort ∧ s.Admits
    fn 0x3018 v.toNat ∧ s.pt.st = .edit ∧ s.pt.checking = false :=
  ⟨inChange { table := goodTable 3 0, st := .edit, seq := 4, stage := goodTable 4 0 }, BitVec.ofNat 64 (0), 0,
    by unfold hypTableCommands; exact ok, stewardPort_of, admits_of, ok⟩
theorem witness_TableCommands_notEdit : ∃ (s : State) (v : Word) (fn : BitVec 8), hypTableCommands s v fn ∧ s.StewardPort ∧ s.Admits
    fn 0x3018 v.toNat ∧ (s.pt.st ≠ .edit ∨ s.pt.checking = true) ∧ s.pt.st ≠ .idle :=
  ⟨inChange { table := goodTable 3 0, st := .staged, seq := 4 }, BitVec.ofNat 64 (0), 0, by unfold hypTableCommands; exact ok,
    stewardPort_of, admits_of, ok⟩
theorem witness_TableCommands_approves : ∃ (s : State) (v : Word) (fn : BitVec 8), hypTableCommands s v fn ∧ s.StewardPort ∧
    s.Admits fn 0x3020 v.toNat ∧ s.pt.st = .staged ∧ fld v.toNat 31 0 = s.pt.seq ∧ fld v.toNat 63 32 = s.pt.stageCrc :=
  ⟨inChange { table := goodTable 3 0, st := .staged, seq := 4, stageCrc := 77 }, BitVec.ofNat 64 (77 * 2 ^ 32 + 4), 0,
    by unfold hypTableCommands; exact ok, stewardPort_of, admits_of, ok⟩
theorem witness_TableCommands_mismatch : ∃ (s : State) (v : Word) (fn : BitVec 8), hypTableCommands s v fn ∧ s.StewardPort ∧
    s.Admits fn 0x3020 v.toNat ∧ s.pt.st = .staged ∧ (¬ (fld v.toNat 31 0 = s.pt.seq ∧ fld v.toNat 63 32 = s.pt.stageCrc)) :=
  ⟨inChange { table := goodTable 3 0, st := .staged, seq := 4, stageCrc := 77 }, BitVec.ofNat 64 (77 * 2 ^ 32 + 5), 0,
    by unfold hypTableCommands; exact ok, stewardPort_of, admits_of, ok⟩
theorem witness_TableCommands_idle : ∃ (s : State) (v : Word) (fn : BitVec 8), hypTableCommands s v fn ∧ s.StewardPort ∧ s.Admits fn
    0x3020 v.toNat ∧ s.Admits fn 0x3028 v.toNat ∧ s.pt.st ≠ .staged ∧ s.pt.st = .idle :=
  ⟨inChange { table := goodTable 3 0, aborts := 3 }, BitVec.ofNat 64 (0), 0, by unfold hypTableCommands; exact ok, stewardPort_of,
    admits_of, admits_of, ok⟩
theorem witness_TableCommands_aborts : ∃ (s : State) (v : Word) (fn : BitVec 8), hypTableCommands s v fn ∧ s.StewardPort ∧ s.Admits
    fn 0x3028 v.toNat ∧ s.pt.st ≠ .idle :=
  ⟨inChange { table := goodTable 3 0, st := .approved, seq := 4 }, BitVec.ofNat 64 (0), 0, by unfold hypTableCommands; exact ok,
    stewardPort_of, admits_of, ok⟩
/-- The hypotheses of TableSteps. -/
def hypTableSteps (s : State) : Prop := s.Still ∧ s.blockHalted = false ∧ s.sflt.pt.pendForce = none ∧ s.sflt.upsets = []
theorem witness_TableSteps_staged : ∃ (s : State),
    let p := s.pt
    let late := p.windowStart + 100000000 ≤ s.begin.stamp
    let level := ∀ n ∈ p.affected, (s.ch n).ctl.st = .run → changeLevel p.table p.stage n = 1 ∧ (s.ch n).quiet = true
    let single := tblPaired p.table 0 = false ∧ tblPaired p.table 2 = false
    hypTableSteps s ∧ p.checking = true ∧ p.submitAt + 341 ≤ s.begin.stamp ∧ tblCheck p.stage = 0 :=
  ⟨inChange { table := goodTable 3 0, st := .edit, checking := true, seq := 4, stage := goodTable 4 0 }, ⟨still_of, ok⟩, ok,
    Nat.le_trans (by decide) (Nat.le_add_right 200000000 _), ok⟩
theorem witness_TableSteps_failed : ∃ (s : State),
    let p := s.pt
    let late := p.windowStart + 100000000 ≤ s.begin.stamp
    let level := ∀ n ∈ p.affected, (s.ch n).ctl.st = .run → changeLevel p.table p.stage n = 1 ∧ (s.ch n).quiet = true
    let single := tblPaired p.table 0 = false ∧ tblPaired p.table 2 = false
    hypTableSteps s ∧ p.checking = true ∧ p.submitAt + 341 ≤ s.begin.stamp ∧ tblCheck p.stage ≠ 0 :=
  ⟨inChange { table := goodTable 3 0, st := .edit, checking := true, seq := 4 }, ⟨still_of, ok⟩, ok, Nat.le_trans (by decide)
    (Nat.le_add_right 200000000 _), ok⟩
theorem witness_TableSteps_notChecking : ∃ (s : State),
    let p := s.pt
    let late := p.windowStart + 100000000 ≤ s.begin.stamp
    let level := ∀ n ∈ p.affected, (s.ch n).ctl.st = .run → changeLevel p.table p.stage n = 1 ∧ (s.ch n).quiet = true
    let single := tblPaired p.table 0 = false ∧ tblPaired p.table 2 = false
    hypTableSteps s ∧ (p.checking = false ∨ s.begin.stamp < p.submitAt + 341) ∧ (p.st ≠ .approved ∨ p.holding = true ∨ late) ∧
    (p.holding = false ∨ late) ∧ (p.st ≠ .staged ∧ p.st ≠ .approved ∨ ¬ late) :=
  ⟨inChange { table := goodTable 3 0, st := .idle }, ⟨still_of, ok⟩, ok⟩
theorem witness_TableSteps_applies : ∃ (s : State),
    let p := s.pt
    let late := p.windowStart + 100000000 ≤ s.begin.stamp
    let level := ∀ n ∈ p.affected, (s.ch n).ctl.st = .run → changeLevel p.table p.stage n = 1 ∧ (s.ch n).quiet = true
    let single := tblPaired p.table 0 = false ∧ tblPaired p.table 2 = false
    hypTableSteps s ∧ p.st = .approved ∧ p.holding = false ∧ (¬ late) ∧ p.affected = [] ∧ single :=
  ⟨inChange { table := goodTable 3 0, st := .approved, seq := 4, windowStart := 150000000, stage := goodTable 4 0 }, ⟨still_of, ok⟩,
    ok, ok, not_late, ok⟩
theorem witness_TableSteps_holds : ∃ (s : State),
    let p := s.pt
    let late := p.windowStart + 100000000 ≤ s.begin.stamp
    let level := ∀ n ∈ p.affected, (s.ch n).ctl.st = .run → changeLevel p.table p.stage n = 1 ∧ (s.ch n).quiet = true
    let single := tblPaired p.table 0 = false ∧ tblPaired p.table 2 = false
    hypTableSteps s ∧ p.st = .approved ∧ p.holding = false ∧ (¬ late) ∧ p.affected ≠ [] ∧ (∀ n ∈ p.affected, (s.ch n).asleep = false) ∧
    level :=
  ⟨inChange { table := goodTable 3 0, st := .approved, seq := 4, windowStart := 150000000, stage := goodTable 4 5 }, ⟨still_of, ok⟩,
    ok, ok, not_late, ok⟩
theorem witness_TableSteps_waits : ∃ (s : State),
    let p := s.pt
    let late := p.windowStart + 100000000 ≤ s.begin.stamp
    let level := ∀ n ∈ p.affected, (s.ch n).ctl.st = .run → changeLevel p.table p.stage n = 1 ∧ (s.ch n).quiet = true
    let single := tblPaired p.table 0 = false ∧ tblPaired p.table 2 = false
    hypTableSteps s ∧ p.st = .approved ∧ p.holding = false ∧ (¬ late) ∧ p.affected ≠ [] ∧ (∀ n ∈ p.affected, (s.ch n).asleep = false) ∧
    (¬ level) :=
  ⟨inChange { table := goodTable 3 0, st := .approved, seq := 4, windowStart := 150000000, stage := goodTable 4 (2 ^ 24) }, ⟨still_of,
    ok⟩, ok, ok, not_late, ok⟩
theorem witness_TableSteps_commits : ∃ (s : State),
    let p := s.pt
    let late := p.windowStart + 100000000 ≤ s.begin.stamp
    let level := ∀ n ∈ p.affected, (s.ch n).ctl.st = .run → changeLevel p.table p.stage n = 1 ∧ (s.ch n).quiet = true
    let single := tblPaired p.table 0 = false ∧ tblPaired p.table 2 = false
    hypTableSteps s ∧ p.st = .approved ∧ p.holding = true ∧ (¬ late) ∧ level ∧ single :=
  ⟨inChange { table := goodTable 3 0, st := .approved, seq := 4, windowStart := 150000000, holding := true, stage := goodTable 4 5 },
    ⟨still_of, ok⟩, ok, ok, not_late, ok⟩
theorem witness_TableSteps_leaves : ∃ (s : State),
    let p := s.pt
    let late := p.windowStart + 100000000 ≤ s.begin.stamp
    let level := ∀ n ∈ p.affected, (s.ch n).ctl.st = .run → changeLevel p.table p.stage n = 1 ∧ (s.ch n).quiet = true
    let single := tblPaired p.table 0 = false ∧ tblPaired p.table 2 = false
    hypTableSteps s ∧ p.st = .approved ∧ p.holding = true ∧ (¬ late) ∧ (¬ level) :=
  ⟨inChange
    { table := goodTable 3 0, st := .approved, seq := 4, windowStart := 150000000, holding := true, stage := goodTable 4 (2 ^ 24) },
    ⟨still_of, ok⟩, ok, ok, not_late, ok⟩
theorem witness_TableSteps_expires : ∃ (s : State),
    let p := s.pt
    let late := p.windowStart + 100000000 ≤ s.begin.stamp
    let level := ∀ n ∈ p.affected, (s.ch n).ctl.st = .run → changeLevel p.table p.stage n = 1 ∧ (s.ch n).quiet = true
    let single := tblPaired p.table 0 = false ∧ tblPaired p.table 2 = false
    hypTableSteps s ∧ (p.st = .staged ∨ p.st = .approved) ∧ late :=
  ⟨inChange { table := goodTable 3 0, st := .approved, seq := 4, windowStart := 100000000 }, ⟨still_of, ok⟩, ok, Nat.le_add_right
    200000000 _⟩
/-- The hypotheses of FaultWrites. -/
def hypFaultWrites (s : State) (u : FltUnit) (v : Word) (fn : BitVec 8) (src : Nat) (fs : FaultSet) : Prop := s.unitFault u = fs ∧
    (∀ c k, u = .chan c k → (s.pair c.val).st = .single)
theorem witness_FaultWrites_ack : ∃ (s : State) (u : FltUnit) (v : Word) (fn : BitVec 8) (src : Nat) (fs : FaultSet), hypFaultWrites
    s u v fn src fs ∧ s.Admits fn (faultOff u 0x18) v.toNat ∧ v.toNat.testBit 0 = true :=
  ⟨demo demoCh, .chan 0 .la, BitVec.ofNat 64 (1), 0, 0, {}, ⟨ok, single_of⟩, admits_of, ok⟩
theorem witness_FaultWrites_ackShared : ∃ (s : State) (u : FltUnit) (v : Word) (fn : BitVec 8) (src : Nat) (fs : FaultSet),
    hypFaultWrites s u v fn src fs ∧ s.Admits fn (faultOff u 0x18) v.toNat ∧ v.toNat.testBit 0 = false :=
  ⟨demo demoCh, .shared .ck, BitVec.ofNat 64 (0), 0, 0, {}, ⟨ok, single_of⟩, admits_of, ok⟩
theorem witness_FaultWrites_lowest : ∃ (s : State) (u : FltUnit) (v : Word) (fn : BitVec 8) (src : Nat) (fs : FaultSet),
    let us := fld v.toNat 19 0
    hypFaultWrites s u v fn src fs ∧ s.Admits fn (faultOff u 0x60) v.toNat ∧ 1000 ≤ us ∧ us ≤ 1000000 :=
  ⟨demo demoCh, .chan 0 .os, BitVec.ofNat 64 (1000), 0, 0, {}, ⟨ok, single_of⟩, admits_of, ok⟩
theorem witness_FaultWrites_highest : ∃ (s : State) (u : FltUnit) (v : Word) (fn : BitVec 8) (src : Nat) (fs : FaultSet),
    let us := fld v.toNat 19 0
    hypFaultWrites s u v fn src fs ∧ s.Admits fn (faultOff u 0x60) v.toNat ∧ 1000 ≤ us ∧ us ≤ 1000000 :=
  ⟨demo demoCh, .shared .pt, BitVec.ofNat 64 (1000000), 0, 0, {}, ⟨ok, single_of⟩, admits_of, ok⟩
theorem witness_FaultWrites_tooLow : ∃ (s : State) (u : FltUnit) (v : Word) (fn : BitVec 8) (src : Nat) (fs : FaultSet),
    let us := fld v.toNat 19 0
    hypFaultWrites s u v fn src fs ∧ s.Admits fn (faultOff u 0x60) v.toNat ∧ (us < 1000 ∨ 1000000 < us) :=
  ⟨demo demoCh, .chan 0 .os, BitVec.ofNat 64 (999), 0, 0, {}, ⟨ok, single_of⟩, admits_of, ok⟩
theorem witness_FaultWrites_tooHigh : ∃ (s : State) (u : FltUnit) (v : Word) (fn : BitVec 8) (src : Nat) (fs : FaultSet),
    let us := fld v.toNat 19 0
    hypFaultWrites s u v fn src fs ∧ s.Admits fn (faultOff u 0x60) v.toNat ∧ (us < 1000 ∨ 1000000 < us) :=
  ⟨demo demoCh, .chan 0 .os, BitVec.ofNat 64 (1000001), 0, 0, {}, ⟨ok, single_of⟩, admits_of, ok⟩
theorem witness_FaultWrites_armsCe : ∃ (s : State) (u : FltUnit) (v : Word) (fn : BitVec 8) (src : Nat) (fs : FaultSet),
    hypFaultWrites s u v fn src fs ∧ v.toNat = 2 ^ src ∧ src < 32 ∧ fs.forceArray = 0 ∧ fs.forceBank = 0 ∧ fs.forceWord = 0 ∧
    s.Admits fn (faultOff u 0x10) v.toNat ∧ u = .chan 0 .rq ∧ s.Ready 0 ∧ srcClass .rq src ≠ 0 ∧ hasArrays .rq = true ∧ src = ceSrc
    .rq :=
  ⟨demo demoCh, .chan 0 .rq, BitVec.ofNat 64 (2 ^ 5), 0, 5, {}, ⟨ok, single_of⟩, ok, ok, ok, ok, ok, admits_of, ok, ready_of, ok⟩
theorem witness_FaultWrites_armsUe : ∃ (s : State) (u : FltUnit) (v : Word) (fn : BitVec 8) (src : Nat) (fs : FaultSet),
    hypFaultWrites s u v fn src fs ∧ v.toNat = 2 ^ src ∧ src < 32 ∧ fs.forceArray = 0 ∧ fs.forceBank = 0 ∧ fs.forceWord = 0 ∧
    s.Admits fn (faultOff u 0x10) v.toNat ∧ u = .chan 0 .rq ∧ s.Ready 0 ∧ srcClass .rq src ≠ 0 ∧ hasArrays .rq = true ∧ src = ueSrc
    .rq :=
  ⟨demo demoCh, .chan 0 .rq, BitVec.ofNat 64 (2 ^ 6), 0, 6, {}, ⟨ok, single_of⟩, ok, ok, ok, ok, ok, admits_of, ok, ready_of, ok⟩
theorem witness_FaultWrites_packet : ∃ (s : State) (u : FltUnit) (v : Word) (fn : BitVec 8) (src : Nat) (fs : FaultSet),
    hypFaultWrites s u v fn src fs ∧ v.toNat = 2 ^ src ∧ src < 32 ∧ fs.forceArray = 0 ∧ fs.forceBank = 0 ∧ fs.forceWord = 0 ∧
    s.Admits fn (faultOff u 0x10) v.toNat ∧ u = .chan 0 .rq ∧ s.Ready 0 ∧ srcClass .rq src ≠ 0 ∧ src ≤ 1 :=
  ⟨demo demoCh, .chan 0 .rq, BitVec.ofNat 64 (2), 0, 1, {}, ⟨ok, single_of⟩, ok, ok, ok, ok, ok, admits_of, ok, ready_of, ok⟩
theorem witness_FaultWrites_message : ∃ (s : State) (u : FltUnit) (v : Word) (fn : BitVec 8) (src : Nat) (fs : FaultSet),
    hypFaultWrites s u v fn src fs ∧ v.toNat = 2 ^ src ∧ src < 32 ∧ fs.forceArray = 0 ∧ fs.forceBank = 0 ∧ fs.forceWord = 0 ∧
    s.Admits fn (faultOff u 0x10) v.toNat ∧ u = .chan 0 .la ∧ s.Ready 0 ∧ srcClass .la src ≠ 0 ∧ src = 0 :=
  ⟨demo demoCh, .chan 0 .la, BitVec.ofNat 64 (1), 0, 0, {}, ⟨ok, single_of⟩, ok, ok, ok, ok, ok, admits_of, ok, ready_of, ok⟩
theorem witness_FaultWrites_armsResult : ∃ (s : State) (u : FltUnit) (v : Word) (fn : BitVec 8) (src : Nat) (fs : FaultSet),
    hypFaultWrites s u v fn src fs ∧ v.toNat = 2 ^ src ∧ src < 32 ∧ fs.forceArray = 0 ∧ fs.forceBank = 0 ∧ fs.forceWord = 0 ∧
    s.Admits fn (faultOff u 0x10) v.toNat ∧ u = .chan 0 .ru ∧ s.Ready 0 ∧ srcClass .ru src ≠ 0 ∧ src = 4 :=
  ⟨demo demoCh, .chan 0 .ru, BitVec.ofNat 64 (2 ^ 4), 0, 4, {}, ⟨ok, single_of⟩, ok, ok, ok, ok, ok, admits_of, ok, ready_of, ok⟩
theorem witness_FaultWrites_raises : ∃ (s : State) (u : FltUnit) (v : Word) (fn : BitVec 8) (src : Nat) (fs : FaultSet),
    hypFaultWrites s u v fn src fs ∧ v.toNat = 2 ^ src ∧ src < 32 ∧ fs.forceArray = 0 ∧ fs.forceBank = 0 ∧ fs.forceWord = 0 ∧
    s.Admits fn (faultOff u 0x10) v.toNat ∧ u = .chan 0 .rq ∧ s.Ready 0 ∧ srcClass .rq src ≠ 0 ∧ (¬ (hasArrays .rq = true ∧ src =
    ceSrc .rq)) ∧ (¬ (hasArrays .rq = true ∧ src = ueSrc .rq ∨ Sub.rq = .ru ∧ src = 4)) ∧ (¬ (Sub.rq = .rq ∧ src ≤ 1)) ∧ srcClass
    .rq src = 2 ∧ fs.disabled.testBit src = false ∧ capturedClass fs ≠ 2 :=
  ⟨demo demoCh, .chan 0 .rq, BitVec.ofNat 64 (2 ^ 10), 0, 10, {}, ⟨ok, single_of⟩, ok, ok, ok, ok, ok, admits_of, ok, ready_of, ok⟩
theorem witness_FaultWrites_armsShared : ∃ (s : State) (u : FltUnit) (v : Word) (fn : BitVec 8) (src : Nat) (fs : FaultSet),
    hypFaultWrites s u v fn src fs ∧ v.toNat = 2 ^ src ∧ src < 32 ∧ fs.forceArray = 0 ∧ fs.forceBank = 0 ∧ fs.forceWord = 0 ∧
    s.Admits fn (faultOff u 0x10) v.toNat ∧ u = .shared .pt ∧ sharedArms .pt src = some true :=
  ⟨demo demoCh, .shared .pt, BitVec.ofNat 64 (2 ^ 2), 0, 2, {}, ⟨ok, single_of⟩, ok, ok, ok, ok, ok, admits_of, ok⟩
theorem witness_FaultWrites_raisesShared : ∃ (s : State) (u : FltUnit) (v : Word) (fn : BitVec 8) (src : Nat) (fs : FaultSet),
    hypFaultWrites s u v fn src fs ∧ v.toNat = 2 ^ src ∧ src < 32 ∧ fs.forceArray = 0 ∧ fs.forceBank = 0 ∧ fs.forceWord = 0 ∧
    s.Admits fn (faultOff u 0x10) v.toNat ∧ u = .shared .ck ∧ sharedArms .ck src = none ∧ sharedSrcClass .ck src = 2 ∧
    fs.disabled.testBit src = false ∧ capturedClass fs ≠ 2 :=
  ⟨demo demoCh, .shared .ck, BitVec.ofNat 64 (2 ^ 2), 0, 2, {}, ⟨ok, single_of⟩, ok, ok, ok, ok, ok, admits_of, ok⟩
/-- The hypotheses of FaultTimers. -/
def hypFaultTimers (s : State) (u : FltUnit) (fs : FaultSet) : Prop := s.por = false ∧ s.settled = true ∧ s.unitFault u = fs
theorem witness_FaultTimers_faulted : ∃ (s : State) (u : FltUnit) (fs : FaultSet), hypFaultTimers s u fs ∧ fs.st = .faulted ∧
    fs.windowStart + 1000 * fs.windowUs ≤ s.time :=
  ⟨demo { demoCh with flt := { os := { st := .faulted, windowStart := 9000000, windowUs := 1000 } } }, .chan 0 .os,
    { st := .faulted, windowStart := 9000000, windowUs := 1000 }, by unfold hypFaultTimers; exact ok, ok⟩
theorem witness_FaultTimers_recovers : ∃ (s : State) (u : FltUnit) (fs : FaultSet), hypFaultTimers s u fs ∧ fs.st = .drydown ∧
    fs.lastFault + 1000 * fs.loadedUs ≤ s.time :=
  ⟨demo { demoCh with flt := { os := { st := .drydown, lastFault := 9000000, loadedUs := 1000 } } }, .chan 0 .os,
    { st := .drydown, lastFault := 9000000, loadedUs := 1000 }, by unfold hypFaultTimers; exact ok, ok⟩
theorem witness_FaultTimers_driesDown : ∃ (s : State) (u : FltUnit) (fs : FaultSet), hypFaultTimers s u fs ∧ fs.st ≠ .faulted ∧
    s.time < fs.lastFault + 1000 * fs.loadedUs ∧ s.time < fs.windowStart + 1000 * fs.windowUs :=
  ⟨demo
    { demoCh with flt := { os := { st := .drydown, lastFault := 9000001, loadedUs := 1000, windowStart := 9000001, windowUs := 1000 } } },
    .chan 0 .os, { st := .drydown, lastFault := 9000001, loadedUs := 1000, windowStart := 9000001, windowUs := 1000 },
    by unfold hypFaultTimers; exact ok, ok⟩
/-- The hypotheses of UnmatchedOutputs. -/
def hypUnmatchedOutputs (s : State) (second : Bool) (stream : BitVec 3) (p : Pair) (x y : Option (Output × Option Nat)) : Prop :=
    s.por = false ∧ s.settled = true ∧ s.Quiet ∧ (if second then s.pairCD else s.pairAB) = p ∧ (p.first.get [] stream.toNat).head? =
    x ∧ (p.second.get [] stream.toNat).head? = y
theorem witness_UnmatchedOutputs_none : ∃ (s : State) (second : Bool) (stream : BitVec 3) (p : Pair) (x y : Option (Output × Option
    Nat)), hypUnmatchedOutputs s second stream p x y ∧ (p.st ≠ .paired ∨ ¬ ∃ o b, (x = some (o, some b) ∨ y = some (o, some b)) ∧ b
    + 256 ≤ s.begin.coreNow) :=
  ⟨demo demoCh, true, 4, {}, none, none, ⟨ok, ok, ⟨quiet_of, quiet_of, quiet_of, quiet_of⟩, ok⟩, .inl (by decide)⟩
theorem witness_UnmatchedOutputs_diverges : ∃ (s : State) (second : Bool) (stream : BitVec 3) (p : Pair) (x y : Option (Output ×
    Option Nat)), hypUnmatchedOutputs s second stream p x y ∧ p.st = .paired ∧ (∃ o b, (x = some (o, some b) ∨ y = some (o, some b))
    ∧ b + 256 ≤ s.begin.coreNow) ∧ (s.ch 0).flt.rq.disabled.testBit 9 = false ∧ (s.ch (0 + 1)).flt.rq.disabled.testBit 9 = false ∧
    (s.ch 0).ctl.st = .run ∧ (s.ch (0 + 1)).ctl.st = .run :=
  ⟨{ demo demoCh with chB := demoCh, pairAB := { st := .paired, first := [(4, [(.ack 5 3 1, some 14000000)])] } }, false, 4,
    { st := .paired, first := [(4, [(.ack 5 3 1, some 14000000)])] }, some (.ack 5 3 1, some 14000000), none, ⟨ok, ok, ⟨quiet_of,
    quiet_of, quiet_of, quiet_of⟩, ok⟩, ok, ⟨.ack 5 3 1, 14000000, Or.inl rfl, Nat.le_trans (m := 15000000) (by decide)
    (Nat.le_add_right _ _)⟩, ok⟩
/-- The hypotheses of ChannelRestarts. -/
def hypChannelRestarts (s : State) (n : ChanId) (v : Word) (fn : BitVec 8) (burst : List Byte) (l : Loading) : Prop := s.Rests n.val
    ∧ s.blockHalted = false
theorem witness_ChannelRestarts_ignored : ∃ (s : State) (n : ChanId) (v : Word) (fn : BitVec 8) (burst : List Byte) (l : Loading),
    hypChannelRestarts s n v fn burst l ∧ s.Admits fn (chanOff n.val 0 0x008) v.toNat ∧ v.toNat.testBit 0 = true ∧ ((s.ch
    n.val).ctl.st = .loading ∨ (s.ch n.val).ctl.st = .closing) :=
  ⟨restarting 0 0, 0, 1, 0, [], {}, ⟨rests_of, ok⟩, admits_of, ok⟩
theorem witness_ChannelRestarts_restarts : ∃ (s : State) (n : ChanId) (v : Word) (fn : BitVec 8) (burst : List Byte) (l : Loading),
    hypChannelRestarts s n v fn burst l ∧ s.Admits fn (chanOff n.val 0 0x008) v.toNat ∧ v.toNat.testBit 0 = true ∧ (s.ch
    n.val).ctl.st ≠ .loading ∧ (s.ch n.val).ctl.st ≠ .closing :=
  ⟨demo demoCh, 0, 1, 0, [], {}, ⟨rests_of, ok⟩, admits_of, ok⟩
theorem witness_ChannelRestarts_fromDown : ∃ (s : State) (n : ChanId) (v : Word) (fn : BitVec 8) (burst : List Byte) (l : Loading),
    hypChannelRestarts s n v fn burst l ∧ s.Admits fn (chanOff n.val 0 0x008) v.toNat ∧ v.toNat.testBit 0 = true ∧ (s.ch
    n.val).ctl.st ≠ .loading ∧ (s.ch n.val).ctl.st ≠ .closing :=
  ⟨demo {}, 0, 1, 0, [], {}, ⟨rests_of, ok⟩, admits_of, ok⟩
theorem witness_ChannelRestarts_fromHalted : ∃ (s : State) (n : ChanId) (v : Word) (fn : BitVec 8) (burst : List Byte) (l :
    Loading), hypChannelRestarts s n v fn burst l ∧ s.Admits fn (chanOff n.val 0 0x008) v.toNat ∧ v.toNat.testBit 0 = true ∧ (s.ch
    n.val).ctl.st ≠ .loading ∧ (s.ch n.val).ctl.st ≠ .closing :=
  ⟨demo { demoCh with ctl := { demoCh.ctl with st := .halted }, clk := {} }, 0, 1, 0, [], {}, ⟨rests_of, ok⟩, admits_of, ok⟩
theorem witness_ChannelRestarts_slot : ∃ (s : State) (n : ChanId) (v : Word) (fn : BitVec 8) (burst : List Byte) (l : Loading),
    let sect := s.cl.sects.get {} (4 + n.val)
    hypChannelRestarts s n v fn burst l ∧ s.cl.phase = .restart ∧ s.cl.loads.find? (fun p => p.1 = n.val) = some (n.val, l) ∧ min l.left
    (4096 - (sect.offset + l.bytes.length) % 4096) ≤ burst.length :=
  ⟨restarting 2 0, 0, 1, 0, [7#8], { bytes := demoSection, left := 2 }, ⟨rests_of, ok⟩, ok⟩
theorem witness_ChannelRestarts_loads : ∃ (s : State) (n : ChanId) (v : Word) (fn : BitVec 8) (burst : List Byte) (l : Loading),
    hypChannelRestarts s n v fn burst l ∧ s.cl.loads = [(n.val, l)] ∧ s.cl.phase = .restart ∧ l.left = 0 ∧ (s.ch n.val).ctl.st =
    .loading ∧ s.restartCheck n.val l.bytes = .inr { capUj := 100, maxHold := 2000, therm := 2 } ∧ tblAccord s.pt.table n.val = 0 ∧
    s.cl.accord 0 = none :=
  ⟨restarting 0 2734443281, 0, 1, 0, [], { bytes := demoSection }, ⟨rests_of, ok⟩, ok⟩
theorem witness_ChannelRestarts_fails : ∃ (s : State) (n : ChanId) (v : Word) (fn : BitVec 8) (burst : List Byte) (l : Loading),
    hypChannelRestarts s n v fn burst l ∧ s.cl.loads = [(n.val, l)] ∧ s.cl.phase = .restart ∧ l.left = 0 ∧ (s.ch n.val).ctl.st =
    .loading ∧ s.restartCheck n.val l.bytes = .inl leChanged ∧ s.sflt.cl.disabled.testBit 5 = false ∧ SMap.wf {} s.cl.sects = true
    :=
  ⟨restarting 0 0, 0, 1, 0, [], { bytes := demoSection }, ⟨rests_of, ok⟩, ok⟩
theorem witness_OrderlyCloses_ignored : ∃ (s : State) (n : ChanId) (v : Word) (fn : BitVec 8),
    let c := s.ch n.val
    s.Rests n.val ∧ (∀ x ∈ c.ctl.shadows, ¬ (x.row = 2 ∧ x.key = 0 ∧ x.ends = none)) ∧ s.Admits fn (chanOff n.val 0 0x008) v.toNat ∧
    v.toNat.testBit 0 = false ∧ v.toNat.testBit 1 = true ∧ c.ctl.st ≠ .run :=
  ⟨demo ({ demoCh with ctl := { demoCh.ctl with st := .closing }, clk := { } }), 0, 2, 0, rests_of, ok, admits_of, ok⟩
theorem witness_OrderlyCloses_closes : ∃ (s : State) (n : ChanId) (v : Word) (fn : BitVec 8),
    let c := s.ch n.val
    s.Rests n.val ∧ (∀ x ∈ c.ctl.shadows, ¬ (x.row = 2 ∧ x.key = 0 ∧ x.ends = none)) ∧ s.Admits fn (chanOff n.val 0 0x008) v.toNat ∧
    v.toNat.testBit 0 = false ∧ v.toNat.testBit 1 = true ∧ s.Ready n.val ∧ c.rq.ingress = [] ∧ c.ru.queue = [] ∧ SMap.wf {}
    c.ps.seqs = true :=
  ⟨demo ({ demoCh with ps := { seqs := [(15, { st := .run })] } }), 0, 2, 0, rests_of, ok, admits_of, ok, ok, ready_of, ok⟩
theorem witness_OrderlyCloses_completes : ∃ (s : State) (n : ChanId) (v : Word) (fn : BitVec 8),
    let c := s.ch n.val
    s.Rests n.val ∧ (∀ x ∈ c.ctl.shadows, ¬ (x.row = 2 ∧ x.key = 0 ∧ x.ends = none)) ∧ c.ctl.st = .closing ∧ (∀ p ∈ c.ps.seqs, p.2.st ≠
    .audit) ∧ c.la.st ≠ .formed ∧ c.ru.late = [] ∧ c.PlainWaits c.hw.parked ∧ SMap.wf {} c.ps.seqs = true :=
  ⟨demo (withWaits fourWaits
    { demoCh with ctl := { demoCh.ctl with st := .closing }, clk := { }, ps := { seqs := [(15, { st := .stopped })] } }), 0, 2, 0,
    rests_of, ok, ok, ok, ok, ok, plainWaits_of, ok⟩
theorem witness_OrderlyCloses_audits : ∃ (s : State) (n : ChanId) (v : Word) (fn : BitVec 8),
    let c := s.ch n.val
    s.Rests n.val ∧ (∀ x ∈ c.ctl.shadows, ¬ (x.row = 2 ∧ x.key = 0 ∧ x.ends = none)) ∧ (∃ p ∈ c.ps.seqs, p.2.st = .audit) :=
  ⟨demo ({ demoCh with ctl := { demoCh.ctl with st := .closing }, clk := { }, ps := { seqs := [(15, { st := .audit })] } }), 0, 2, 0,
    rests_of, ok⟩
theorem witness_InspectionAndBlotter_flag : ∃ (s : State) (n : ChanId) (v : Word) (fn : BitVec 8) (kind i : Nat),
    let c := s.ch n.val
    s.Rests n.val ∧ s.Admits fn (chanOff n.val 0xB 0x000) v.toNat ∧ s.Ready n.val ∧ v.toNat = at_ 63 60 kind + i ∧ kind ≤ 9 ∧ i <
    snapLimit kind ∧ c.db.inBusy = false :=
  ⟨demo (withWaits fourWaits { demoCh with db := {} }), 0, BitVec.ofNat 64 (0xFFFFF), 0, 0, 0xFFFFF, rests_of, admits_of, ready_of,
    ok⟩
theorem witness_InspectionAndBlotter_last : ∃ (s : State) (n : ChanId) (v : Word) (fn : BitVec 8) (kind i : Nat),
    let c := s.ch n.val
    s.Rests n.val ∧ s.Admits fn (chanOff n.val 0xB 0x000) v.toNat ∧ s.Ready n.val ∧ v.toNat = at_ 63 60 kind + i ∧ kind ≤ 9 ∧ i <
    snapLimit kind ∧ c.db.inBusy = false :=
  ⟨demo (withWaits fourWaits { demoCh with db := {} }), 0, BitVec.ofNat 64 (9 * 2 ^ 60 + 4095), 0, 9, 4095, rests_of, admits_of,
    ready_of, ok⟩
theorem witness_InspectionAndBlotter_missed : ∃ (s : State) (n : ChanId) (v : Word) (fn : BitVec 8) (kind i : Nat),
    let c := s.ch n.val
    s.Rests n.val ∧ s.Admits fn (chanOff n.val 0xB 0x200) v.toNat ∧ fld v.toNat 1 0 = 1 ∧ tblBlotSize s.pt.table n.val = 0 :=
  ⟨{ demo (withWaits fourWaits { demoCh with db := {} }) with pt := { gate := .opened, table := [(0x28, 0x7F)] } }, 0, BitVec.ofNat 64
    (1), 0, 0, 0, rests_of, admits_of, ok⟩
theorem witness_InspectionAndBlotter_goes : ∃ (s : State) (n : ChanId) (v : Word) (fn : BitVec 8) (kind i : Nat),
    let c := s.ch n.val
    s.Rests n.val ∧ s.Admits fn (chanOff n.val 0xB 0x200) v.toNat ∧ fld v.toNat 1 0 = 1 ∧ tblBlotSize s.pt.table n.val ≠ 0 ∧ c.db.bSt =
    .free ∧ c.db.bSt ≠ .writing :=
  ⟨demo (withWaits fourWaits { demoCh with db := {} }), 0, BitVec.ofNat 64 (1), 0, 0, 0, rests_of, admits_of, ok⟩
theorem witness_InspectionAndBlotter_refused : ∃ (s : State) (n : ChanId) (v : Word) (fn : BitVec 8) (kind i : Nat),
    let c := s.ch n.val
    s.Rests n.val ∧ s.Admits fn (chanOff n.val 0xB 0x200) v.toNat ∧ fld v.toNat 1 0 = 1 ∧ tblBlotSize s.pt.table n.val ≠ 0 ∧ c.db.bSt ≠
    .free ∧ c.db.bSt = .writing :=
  ⟨demo (withWaits fourWaits { demoCh with db := { bSt := .writing } }), 0, BitVec.ofNat 64 (1), 0, 0, 0, rests_of, admits_of, ok⟩
theorem witness_InspectionAndBlotter_releases : ∃ (s : State) (n : ChanId) (v : Word) (fn : BitVec 8) (kind i : Nat),
    let c := s.ch n.val
    s.Rests n.val ∧ s.Admits fn (chanOff n.val 0xB 0x200) v.toNat ∧ fld v.toNat 1 0 = 2 ∧ c.db.bSt = .held :=
  ⟨demo (withWaits fourWaits { demoCh with db := { bSt := .held } }), 0, BitVec.ofNat 64 (2), 0, 0, 0, rests_of, admits_of, ok⟩
/-- The hypotheses of HandActions. -/
def hypHandActions (s : State) (n : ChanId) (index : BitVec 23) (fn : BitVec 8) (i d0 : Nat) : Prop := s.Ready n.val ∧ index.toNat =
    i ∧ (∀ w, s.Admits fn (chanOff n.val 0xB 0x118) w) ∧ (s.ch n.val).db.hand0 = d0 ∧ (s.ch n.val).db.hBusy = false
theorem witness_HandActions_flag : ∃ (s : State) (n : ChanId) (index : BitVec 23) (fn : BitVec 8) (i d0 : Nat),
    let c := s.ch n.val
    hypHandActions s n index fn i d0 ∧ i < 2 ^ 20 ∧ c.Alone clFlag i :=
  ⟨demo { demoCh with db := { hand0 := 2 ^ 12 + 2 ^ 13, hand1 := 0, hand2 := 0, hCount := 65535 } }, 0, 0xFFFFF, 0, 0xFFFFF, 2 ^ 12 +
    2 ^ 13, ⟨ready_of, ok, admitsAll_of, ok⟩, ok, alone_of⟩
theorem witness_HandActions_flagIndex : ∃ (s : State) (n : ChanId) (index : BitVec 23) (fn : BitVec 8) (i d0 : Nat),
    let c := s.ch n.val
    hypHandActions s n index fn i d0 ∧ 2 ^ 20 ≤ i :=
  ⟨demo { demoCh with db := { hand0 := 0, hand1 := 0, hand2 := 0, hCount := 65535 } }, 0, 0x100000, 0, 0x100000, 0, ⟨ready_of, ok,
    admitsAll_of, ok⟩, ok⟩
theorem witness_HandActions_semIndex : ∃ (s : State) (n : ChanId) (index : BitVec 23) (fn : BitVec 8) (i d0 : Nat),
    let c := s.ch n.val
    hypHandActions s n index fn i d0 ∧ 2 ^ 18 ≤ i :=
  ⟨demo { demoCh with db := { hand0 := 0, hand1 := 0, hand2 := 0, hCount := 65535 } }, 0, 0x40000, 0, 0x40000, 0, ⟨ready_of, ok,
    admitsAll_of, ok⟩, ok⟩
theorem witness_HandActions_streamIndex : ∃ (s : State) (n : ChanId) (index : BitVec 23) (fn : BitVec 8) (i d0 : Nat),
    let c := s.ch n.val
    hypHandActions s n index fn i d0 ∧ 2 ^ 16 ≤ i :=
  ⟨demo { demoCh with db := { hand0 := 0, hand1 := 0, hand2 := 0, hCount := 65535 } }, 0, 0x10000, 0, 0x10000, 0, ⟨ready_of, ok,
    admitsAll_of, ok⟩, ok⟩
theorem witness_HandActions_barIndex : ∃ (s : State) (n : ChanId) (index : BitVec 23) (fn : BitVec 8) (i d0 : Nat),
    let c := s.ch n.val
    hypHandActions s n index fn i d0 ∧ 2 ^ 15 ≤ i :=
  ⟨demo { demoCh with db := { hand0 := 0, hand1 := 0, hand2 := 0, hCount := 65535 } }, 0, 0x8000, 0, 0x8000, 0, ⟨ready_of, ok,
    admitsAll_of, ok⟩, ok⟩
theorem witness_HandActions_connIndex : ∃ (s : State) (n : ChanId) (index : BitVec 23) (fn : BitVec 8) (i d0 : Nat),
    let c := s.ch n.val
    hypHandActions s n index fn i d0 ∧ 2 ^ 14 ≤ i :=
  ⟨demo { demoCh with db := { hand0 := 0, hand1 := 0, hand2 := 0, hCount := 65535 } }, 0, 0x4000, 0, 0x4000, 0, ⟨ready_of, ok,
    admitsAll_of, ok⟩, ok⟩
theorem witness_HandActions_semOp : ∃ (s : State) (n : ChanId) (index : BitVec 23) (fn : BitVec 8) (i d0 : Nat),
    let c := s.ch n.val
    hypHandActions s n index fn i d0 ∧ i < 2 ^ 18 ∧ d0.testBit 31 = true :=
  ⟨demo { demoCh with db := { hand0 := 2 ^ 31, hand1 := 0, hand2 := 0, hCount := 65535 } }, 0, 0x3FFFF, 0, 0x3FFFF, 2 ^ 31, ⟨ready_of,
    ok, admitsAll_of, ok⟩, ok⟩
theorem witness_HandActions_sem : ∃ (s : State) (n : ChanId) (index : BitVec 23) (fn : BitVec 8) (i d0 : Nat),
    let c := s.ch n.val
    hypHandActions s n index fn i d0 ∧ i < 2 ^ 18 ∧ d0.testBit 31 = false ∧ c.Alone clSem i :=
  ⟨demo { demoCh with db := { hand0 := 2 ^ 45 + 0x7FFFFFFF, hand1 := 0, hand2 := 0, hCount := 65535 } }, 0, 0x3FFFF, 0, 0x3FFFF, 2 ^
    45 + 0x7FFFFFFF, ⟨ready_of, ok, admitsAll_of, ok⟩, ok, ok, alone_of⟩
theorem witness_HandActions_stream : ∃ (s : State) (n : ChanId) (index : BitVec 23) (fn : BitVec 8) (i d0 : Nat),
    let c := s.ch n.val
    let p := c.db.hand1
    let k := fld c.db.hand2 24 0
    hypHandActions s n index fn i d0 ∧ i < 0xC000 ∧ 0 < k ∧ k ≤ 2 ^ 24 ∧ p ≤ d0 ∧ d0 - p ≤ k ∧ c.PairAlone i :=
  ⟨demo { demoCh with db := { hand0 := 2 ^ 24 + 5, hand1 := 5, hand2 := 2 ^ 24, hCount := 65535 } }, 0, 0xBFFF, 0, 0xBFFF, 2 ^ 24 + 5,
    ⟨ready_of, ok, admitsAll_of, ok⟩, ok, ok, ok, ok, ok, pairAlone_of⟩
theorem witness_HandActions_streamConn : ∃ (s : State) (n : ChanId) (index : BitVec 23) (fn : BitVec 8) (i d0 : Nat),
    let c := s.ch n.val
    let p := c.db.hand1
    let k := fld c.db.hand2 24 0
    hypHandActions s n index fn i d0 ∧ (0xC000 ≤ i ∨ k = 0 ∨ d0 < p ∨ k < d0 - p) ∧ i < 2 ^ 16 :=
  ⟨demo { demoCh with db := { hand0 := 9, hand1 := 5, hand2 := 4, hCount := 65535 } }, 0, 0xC000, 0, 0xC000, 9, ⟨ready_of, ok,
    admitsAll_of, ok⟩, ok⟩
theorem witness_HandActions_streamOver : ∃ (s : State) (n : ChanId) (index : BitVec 23) (fn : BitVec 8) (i d0 : Nat),
    let c := s.ch n.val
    let p := c.db.hand1
    let k := fld c.db.hand2 24 0
    hypHandActions s n index fn i d0 ∧ (0xC000 ≤ i ∨ k = 0 ∨ d0 < p ∨ k < d0 - p) ∧ i < 2 ^ 16 :=
  ⟨demo { demoCh with db := { hand0 := 10, hand1 := 5, hand2 := 4, hCount := 65535 } }, 0, 0xBFFF, 0, 0xBFFF, 10, ⟨ready_of, ok,
    admitsAll_of, ok⟩, ok⟩
theorem witness_HandActions_bar : ∃ (s : State) (n : ChanId) (index : BitVec 23) (fn : BitVec 8) (i d0 : Nat),
    let c := s.ch n.val
    hypHandActions s n index fn i d0 ∧ 0x400 ≤ i ∧ i < 2 ^ 15 ∧ fld d0 12 0 < (c.bar i).target ∧ fld d0 25 13 ≤ (c.bar i).target :=
  ⟨demo
    { demoCh with db := { hand0 := 5 + 6 * 2 ^ 13, hand1 := 0, hand2 := 0, hCount := 65535 }, os := { bars := [(0x7FFF, { target := 6, early := 3, count := 2, gen := 8 })] } },
    0, 0x7FFF, 0, 0x7FFF, 5 + 6 * 2 ^ 13, ⟨ready_of, ok, admitsAll_of, ok⟩, ok⟩
theorem witness_HandActions_barNamed : ∃ (s : State) (n : ChanId) (index : BitVec 23) (fn : BitVec 8) (i d0 : Nat),
    let c := s.ch n.val
    hypHandActions s n index fn i d0 ∧ i < 2 ^ 15 ∧ (i < 0x400 ∨ (c.bar i).target ≤ fld d0 12 0 ∨ (c.bar i).target < fld d0 25 13) :=
  ⟨demo
    { demoCh with db := { hand0 := 0, hand1 := 0, hand2 := 0, hCount := 65535 }, os := { bars := [(0x3FF, { target := 6, early := 3, count := 2, gen := 8 })] } },
    0, 0x3FF, 0, 0x3FF, 0, ⟨ready_of, ok, admitsAll_of, ok⟩, ok⟩
theorem witness_HandActions_barFull : ∃ (s : State) (n : ChanId) (index : BitVec 23) (fn : BitVec 8) (i d0 : Nat),
    let c := s.ch n.val
    hypHandActions s n index fn i d0 ∧ i < 2 ^ 15 ∧ (i < 0x400 ∨ (c.bar i).target ≤ fld d0 12 0 ∨ (c.bar i).target < fld d0 25 13) :=
  ⟨demo
    { demoCh with db := { hand0 := 6, hand1 := 0, hand2 := 0, hCount := 65535 }, os := { bars := [(0x400, { target := 6, early := 3, count := 2, gen := 8 })] } },
    0, 0x400, 0, 0x400, 6, ⟨ready_of, ok, admitsAll_of, ok⟩, ok⟩
theorem witness_HandActions_gated : ∃ (s : State) (n : ChanId) (index : BitVec 23) (fn : BitVec 8) (i d0 : Nat),
    let c := s.ch n.val
    hypHandActions s n index fn i d0 ∧ i < 2 ^ 15 ∧ (c.bar i).gated = true :=
  ⟨demo
    { demoCh with db := { hand0 := 0, hand1 := 0, hand2 := 0, hCount := 65535 }, os := { bars := [(0x7FFF, { target := 6, early := 3, count := 2, gen := 8, gated := true })] } },
    0, 0x7FFF, 0, 0x7FFF, 0, ⟨ready_of, ok, admitsAll_of, ok⟩, ok⟩
theorem witness_HandActions_release : ∃ (s : State) (n : ChanId) (index : BitVec 23) (fn : BitVec 8) (i d0 : Nat),
    let c := s.ch n.val
    hypHandActions s n index fn i d0 ∧ 0x2000 ≤ i ∧ i < 2 ^ 15 ∧ (c.bar i).gated = false ∧ c.waiters clBar i = [] ∧ c.accObj (.bar i) =
    none ∧ (c.bar i).early ≠ (c.bar i).target ∧ SMap.wf {} c.os.bars = true ∧ c.ru.late = [] ∧ (∀ q < 16, (c.seq q).st = .run ∨
    (c.seq q).st = .held → (c.entry (c.seq q).entry).endObj ≠ .bar i) :=
  ⟨demo
    { demoCh with db := { hand0 := 0, hand1 := 0, hand2 := 0, hCount := 65535 }, os := { bars := [(0x2000, { target := 6, early := 3, count := 2, gen := 8 })] } },
    0, 0x2000, 0, 0x2000, 0, ⟨ready_of, ok, admitsAll_of, ok⟩, ok⟩
theorem witness_HandActions_freeFree : ∃ (s : State) (n : ChanId) (index : BitVec 23) (fn : BitVec 8) (i d0 : Nat),
    let c := s.ch n.val
    hypHandActions s n index fn i d0 ∧ i < 2 ^ 14 ∧ (c.conn i).st = .free ∧ (c.str (0xC000 + i)).poisoned = false :=
  ⟨demo { demoCh with db := { hand0 := 0, hand1 := 0, hand2 := 0, hCount := 65535 } }, 0, 0x3FFF, 0, 0x3FFF, 0, ⟨ready_of, ok,
    admitsAll_of, ok⟩, ok⟩
theorem witness_HandActions_free : ∃ (s : State) (n : ChanId) (index : BitVec 23) (fn : BitVec 8) (i d0 : Nat),
    let c := s.ch n.val
    hypHandActions s n index fn i d0 ∧ i < 2 ^ 14 ∧ ((c.conn i).st ≠ .free ∨ (c.str (0xC000 + i)).poisoned = true) ∧ c.PairAlone (0xC000
    + i) :=
  ⟨demo
    { demoCh with db := { hand0 := 0, hand1 := 0, hand2 := 0, hCount := 65535 }, os := { strs := [(0xC000 + 0x3FFF, { poisoned := true })] } },
    0, 0x3FFF, 0, 0x3FFF, 0, ⟨ready_of, ok, admitsAll_of, ok⟩, ok, ok, pairAlone_of⟩
/-- The hypotheses of HostOperations. -/
def hypHostOperations (s : State) (n : ChanId) (cls : BitVec 3) (index : BitVec 23) (fn : BitVec 8) (i a : Nat) (f : Flag) (v : Sem)
    : Prop := s.Ready n.val ∧ index.toNat = i ∧ (∀ w, s.Admits fn (chanOff n.val 0xC 0x308) w) ∧ (s.ch n.val).flag i = f ∧ (s.ch
    n.val).sem i = v ∧ (s.ch n.val).hw.busy = false ∧ fld (s.ch n.val).hw.operand 31 0 = a
theorem witness_HostOperations_clear : ∃ (s : State) (n : ChanId) (cls : BitVec 3) (index : BitVec 23) (fn : BitVec 8) (i a : Nat)
    (f : Flag) (v : Sem),
    let c := s.ch n.val
    hypHostOperations s n cls index fn i a f v ∧ cls = 0 ∧ i < 2 ^ 20 ∧ c.Alone clFlag i ∧ f.poisoned = false ∧ f.value = false :=
  ⟨demo { demoCh with hw := { operand := 0, count := 65535 }, os := { flags := [(0xFFFFF, {})], sems := [(0xFFFFF, {})] } }, 0, 0,
    0xFFFFF, 0, 0xFFFFF, 0, {}, {}, ⟨ready_of, ok, admitsAll_of, ok⟩, ok, ok, alone_of, ok⟩
theorem witness_HostOperations_set : ∃ (s : State) (n : ChanId) (cls : BitVec 3) (index : BitVec 23) (fn : BitVec 8) (i a : Nat) (f
    : Flag) (v : Sem),
    let c := s.ch n.val
    hypHostOperations s n cls index fn i a f v ∧ cls = 0 ∧ i < 2 ^ 20 ∧ c.Alone clFlag i ∧ f.poisoned = false ∧ f.value = true ∧
    f.strict = false :=
  ⟨demo
    { demoCh with hw := { operand := 0, count := 65535 }, os := { flags := [(0xFFFFF, { value := true })], sems := [(0xFFFFF, {})] } },
    0, 0, 0xFFFFF, 0, 0xFFFFF, 0, { value := true }, {}, ⟨ready_of, ok, admitsAll_of, ok⟩, ok, ok, alone_of, ok⟩
theorem witness_HostOperations_add : ∃ (s : State) (n : ChanId) (cls : BitVec 3) (index : BitVec 23) (fn : BitVec 8) (i a : Nat) (f
    : Flag) (v : Sem),
    let c := s.ch n.val
    hypHostOperations s n cls index fn i a f v ∧ cls = 1 ∧ i < 2 ^ 18 ∧ c.Alone clSem i ∧ v.poisoned = false ∧ 0 < a ∧ v.value + a ≤
    0x7FFFFFFF ∧ a ≤ v.value :=
  ⟨demo
    { demoCh with hw := { operand := 1, count := 65535 }, os := { flags := [(0x3FFFF, {})], sems := [(0x3FFFF, { value := 0x7FFFFFFE })] } },
    0, 1, 0x3FFFF, 0, 0x3FFFF, 1, {}, { value := 0x7FFFFFFE }, ⟨ready_of, ok, admitsAll_of, ok⟩, ok, ok, alone_of, ok⟩
theorem witness_HostOperations_false : ∃ (s : State) (n : ChanId) (cls : BitVec 3) (index : BitVec 23) (fn : BitVec 8) (i a : Nat)
    (f : Flag) (v : Sem),
    let c := s.ch n.val
    hypHostOperations s n cls index fn i a f v ∧ cls = 1 ∧ i < 2 ^ 18 ∧ c.Alone clSem i ∧ v.poisoned = false ∧ v.value < a :=
  ⟨demo
    { demoCh with hw := { operand := 6, count := 65535 }, os := { flags := [(0x3FFFF, {})], sems := [(0x3FFFF, { value := 5 })] } },
    0, 1, 0x3FFFF, 0, 0x3FFFF, 6, {}, { value := 5 }, ⟨ready_of, ok, admitsAll_of, ok⟩, ok, ok, alone_of, ok⟩
theorem witness_HostOperations_zero : ∃ (s : State) (n : ChanId) (cls : BitVec 3) (index : BitVec 23) (fn : BitVec 8) (i a : Nat) (f
    : Flag) (v : Sem),
    let c := s.ch n.val
    hypHostOperations s n cls index fn i a f v ∧ cls = 1 ∧ i < 2 ^ 18 ∧ c.Alone clSem i ∧ v.poisoned = false ∧ a = 0 :=
  ⟨demo
    { demoCh with hw := { operand := 0, count := 65535 }, os := { flags := [(0x3FFFF, {})], sems := [(0x3FFFF, { value := 5 })] } },
    0, 1, 0x3FFFF, 0, 0x3FFFF, 0, {}, { value := 5 }, ⟨ready_of, ok, admitsAll_of, ok⟩, ok, ok, alone_of, ok⟩
theorem witness_HostControls_off : ∃ (s : State) (n : ChanId) (m : BitVec 6) (v : Word) (fn : BitVec 8) (w : Parked) (i : Nat) (x :
    LockEntry),
    let c := s.ch n.val
    let cond := fld v.toNat 30 28
    let isFlag := fld v.toNat 26 24 = 0
    let obj := fld v.toNat 19 0
    let arms := v.toNat.testBit 31 = true ∧ ((isFlag ∧ (cond = 0 ∨ cond = 1 ∨ cond = 4)) ∨ (fld v.toNat 26 24 = 1 ∧ obj < 2 ^ 18 ∧ (cond = 2 ∨ cond = 3 ∨ cond = 4)))
    let holds := (isFlag ∧ (c.flag obj).poisoned = false ∧ (cond = 0 ∧ (c.flag obj).value = true ∨ cond = 1 ∧ (c.flag obj).value = false)) ∨ (¬ isFlag ∧ (c.sem obj).poisoned = false ∧ (cond = 2 ∧ fld v.toNat 63 32 ≤ (c.sem obj).value ∨ cond = 3 ∧ (c.sem obj).value ≤ fld v.toNat 63 32))
    s.Ready n.val ∧ s.Admits fn (chanOff n.val 0xC (8 * m.toNat)) v.toNat ∧ (¬ arms) :=
  ⟨demo (withWaits [wait 3 1 clFlag 6 opFlagWaitSet]
    { demoCh with os := { flags := [(7, { value := true })], sems := [(0x3FFFF, { value := 5 })] }, lt := { entries := [(9, { valid := true, held := true, owner := 4, seq := 3, addr := 64 })] } }),
    0, 63, BitVec.ofNat 64 (7), 0, wait 3 1 clFlag 6 opFlagWaitSet, 9,
    { valid := true, held := true, owner := 4, seq := 3, addr := 64 }, ready_of, admits_of, ok⟩
theorem witness_HostControls_badIndex : ∃ (s : State) (n : ChanId) (m : BitVec 6) (v : Word) (fn : BitVec 8) (w : Parked) (i : Nat)
    (x : LockEntry),
    let c := s.ch n.val
    let cond := fld v.toNat 30 28
    let isFlag := fld v.toNat 26 24 = 0
    let obj := fld v.toNat 19 0
    let arms := v.toNat.testBit 31 = true ∧ ((isFlag ∧ (cond = 0 ∨ cond = 1 ∨ cond = 4)) ∨ (fld v.toNat 26 24 = 1 ∧ obj < 2 ^ 18 ∧ (cond = 2 ∨ cond = 3 ∨ cond = 4)))
    let holds := (isFlag ∧ (c.flag obj).poisoned = false ∧ (cond = 0 ∧ (c.flag obj).value = true ∨ cond = 1 ∧ (c.flag obj).value = false)) ∨ (¬ isFlag ∧ (c.sem obj).poisoned = false ∧ (cond = 2 ∧ fld v.toNat 63 32 ≤ (c.sem obj).value ∨ cond = 3 ∧ (c.sem obj).value ≤ fld v.toNat 63 32))
    s.Ready n.val ∧ s.Admits fn (chanOff n.val 0xC (8 * m.toNat)) v.toNat ∧ (¬ arms) :=
  ⟨demo (withWaits [wait 3 1 clFlag 6 opFlagWaitSet]
    { demoCh with os := { flags := [(7, { value := true })], sems := [(0x3FFFF, { value := 5 })] }, lt := { entries := [(9, { valid := true, held := true, owner := 4, seq := 3, addr := 64 })] } }),
    0, 63, BitVec.ofNat 64 (2 ^ 31 + 2 ^ 29 + 2 ^ 24 + 2 ^ 18), 0, wait 3 1 clFlag 6 opFlagWaitSet, 9,
    { valid := true, held := true, owner := 4, seq := 3, addr := 64 }, ready_of, admits_of, ok⟩
theorem witness_HostControls_arms : ∃ (s : State) (n : ChanId) (m : BitVec 6) (v : Word) (fn : BitVec 8) (w : Parked) (i : Nat) (x :
    LockEntry),
    let c := s.ch n.val
    let cond := fld v.toNat 30 28
    let isFlag := fld v.toNat 26 24 = 0
    let obj := fld v.toNat 19 0
    let arms := v.toNat.testBit 31 = true ∧ ((isFlag ∧ (cond = 0 ∨ cond = 1 ∨ cond = 4)) ∨ (fld v.toNat 26 24 = 1 ∧ obj < 2 ^ 18 ∧ (cond = 2 ∨ cond = 3 ∨ cond = 4)))
    let holds := (isFlag ∧ (c.flag obj).poisoned = false ∧ (cond = 0 ∧ (c.flag obj).value = true ∨ cond = 1 ∧ (c.flag obj).value = false)) ∨ (¬ isFlag ∧ (c.sem obj).poisoned = false ∧ (cond = 2 ∧ fld v.toNat 63 32 ≤ (c.sem obj).value ∨ cond = 3 ∧ (c.sem obj).value ≤ fld v.toNat 63 32))
    s.Ready n.val ∧ s.Admits fn (chanOff n.val 0xC (8 * m.toNat)) v.toNat ∧ arms ∧ (¬ holds) :=
  ⟨demo (withWaits [wait 3 1 clFlag 6 opFlagWaitSet]
    { demoCh with os := { flags := [(7, { value := true })], sems := [(0x3FFFF, { value := 5 })] }, lt := { entries := [(9, { valid := true, held := true, owner := 4, seq := 3, addr := 64 })] } }),
    0, 63, BitVec.ofNat 64 (2 ^ 31 + 2 ^ 28 + 7), 0, wait 3 1 clFlag 6 opFlagWaitSet, 9,
    { valid := true, held := true, owner := 4, seq := 3, addr := 64 }, ready_of, admits_of, ok⟩
theorem witness_HostControls_hitsFlag : ∃ (s : State) (n : ChanId) (m : BitVec 6) (v : Word) (fn : BitVec 8) (w : Parked) (i : Nat)
    (x : LockEntry),
    let c := s.ch n.val
    let cond := fld v.toNat 30 28
    let isFlag := fld v.toNat 26 24 = 0
    let obj := fld v.toNat 19 0
    let arms := v.toNat.testBit 31 = true ∧ ((isFlag ∧ (cond = 0 ∨ cond = 1 ∨ cond = 4)) ∨ (fld v.toNat 26 24 = 1 ∧ obj < 2 ^ 18 ∧ (cond = 2 ∨ cond = 3 ∨ cond = 4)))
    let holds := (isFlag ∧ (c.flag obj).poisoned = false ∧ (cond = 0 ∧ (c.flag obj).value = true ∨ cond = 1 ∧ (c.flag obj).value = false)) ∨ (¬ isFlag ∧ (c.sem obj).poisoned = false ∧ (cond = 2 ∧ fld v.toNat 63 32 ≤ (c.sem obj).value ∨ cond = 3 ∧ (c.sem obj).value ≤ fld v.toNat 63 32))
    s.Ready n.val ∧ s.Admits fn (chanOff n.val 0xC (8 * m.toNat)) v.toNat ∧ arms ∧ holds :=
  ⟨demo (withWaits [wait 3 1 clFlag 6 opFlagWaitSet]
    { demoCh with os := { flags := [(7, { value := true })], sems := [(0x3FFFF, { value := 5 })] }, lt := { entries := [(9, { valid := true, held := true, owner := 4, seq := 3, addr := 64 })] } }),
    0, 63, BitVec.ofNat 64 (2 ^ 31 + 7), 0, wait 3 1 clFlag 6 opFlagWaitSet, 9,
    { valid := true, held := true, owner := 4, seq := 3, addr := 64 }, ready_of, admits_of, ok⟩
theorem witness_HostControls_hitsSem : ∃ (s : State) (n : ChanId) (m : BitVec 6) (v : Word) (fn : BitVec 8) (w : Parked) (i : Nat)
    (x : LockEntry),
    let c := s.ch n.val
    let cond := fld v.toNat 30 28
    let isFlag := fld v.toNat 26 24 = 0
    let obj := fld v.toNat 19 0
    let arms := v.toNat.testBit 31 = true ∧ ((isFlag ∧ (cond = 0 ∨ cond = 1 ∨ cond = 4)) ∨ (fld v.toNat 26 24 = 1 ∧ obj < 2 ^ 18 ∧ (cond = 2 ∨ cond = 3 ∨ cond = 4)))
    let holds := (isFlag ∧ (c.flag obj).poisoned = false ∧ (cond = 0 ∧ (c.flag obj).value = true ∨ cond = 1 ∧ (c.flag obj).value = false)) ∨ (¬ isFlag ∧ (c.sem obj).poisoned = false ∧ (cond = 2 ∧ fld v.toNat 63 32 ≤ (c.sem obj).value ∨ cond = 3 ∧ (c.sem obj).value ≤ fld v.toNat 63 32))
    s.Ready n.val ∧ s.Admits fn (chanOff n.val 0xC (8 * m.toNat)) v.toNat ∧ arms ∧ holds :=
  ⟨demo (withWaits [wait 3 1 clFlag 6 opFlagWaitSet]
    { demoCh with os := { flags := [(7, { value := true })], sems := [(0x3FFFF, { value := 5 })] }, lt := { entries := [(9, { valid := true, held := true, owner := 4, seq := 3, addr := 64 })] } }),
    0, 63, BitVec.ofNat 64 (5 * 2 ^ 32 + 2 ^ 31 + 3 * 2 ^ 28 + 2 ^ 24 + 0x3FFFF), 0, wait 3 1 clFlag 6 opFlagWaitSet, 9,
    { valid := true, held := true, owner := 4, seq := 3, addr := 64 }, ready_of, admits_of, ok⟩
theorem witness_HostControls_cancels : ∃ (s : State) (n : ChanId) (m : BitVec 6) (v : Word) (fn : BitVec 8) (w : Parked) (i : Nat)
    (x : LockEntry),
    let c := s.ch n.val
    let lid := fld v.toNat 11 0
    let addr := 8 * fld v.toNat 47 3
    s.Ready n.val ∧ s.Admits fn (chanOff n.val 0xC 0x320) v.toNat ∧ lid < 0xFFE ∧ w ∈ c.hw.parked ∧ w.lid = lid ∧ w.slot = fld v.toNat
    17 16 ∧ w.won = false ∧ c.PlainWaits [w] :=
  ⟨demo (withWaits [wait 3 1 clFlag 6 opFlagWaitSet]
    { demoCh with os := { flags := [(7, { value := true })], sems := [(0x3FFFF, { value := 5 })] }, lt := { entries := [(9, { valid := true, held := true, owner := 4, seq := 3, addr := 64 })] } }),
    0, 63, BitVec.ofNat 64 (3 + 2 ^ 16), 0, wait 3 1 clFlag 6 opFlagWaitSet, 9,
    { valid := true, held := true, owner := 4, seq := 3, addr := 64 }, ready_of, admits_of, ok, ok, ok, ok, ok, plainWaits_of⟩
theorem witness_HostControls_reserved : ∃ (s : State) (n : ChanId) (m : BitVec 6) (v : Word) (fn : BitVec 8) (w : Parked) (i : Nat)
    (x : LockEntry),
    let c := s.ch n.val
    let lid := fld v.toNat 11 0
    let addr := 8 * fld v.toNat 47 3
    s.Ready n.val ∧ s.Admits fn (chanOff n.val 0xC 0x320) v.toNat ∧ (0xFFE ≤ lid ∨ c.slotArmed lid (fld v.toNat 17 16) = false) :=
  ⟨demo (withWaits [wait 3 1 clFlag 6 opFlagWaitSet]
    { demoCh with os := { flags := [(7, { value := true })], sems := [(0x3FFFF, { value := 5 })] }, lt := { entries := [(9, { valid := true, held := true, owner := 4, seq := 3, addr := 64 })] } }),
    0, 63, BitVec.ofNat 64 (0xFFE + 2 ^ 16), 0, wait 3 1 clFlag 6 opFlagWaitSet, 9,
    { valid := true, held := true, owner := 4, seq := 3, addr := 64 }, ready_of, admits_of, ok⟩
theorem witness_HostControls_notArmed : ∃ (s : State) (n : ChanId) (m : BitVec 6) (v : Word) (fn : BitVec 8) (w : Parked) (i : Nat)
    (x : LockEntry),
    let c := s.ch n.val
    let lid := fld v.toNat 11 0
    let addr := 8 * fld v.toNat 47 3
    s.Ready n.val ∧ s.Admits fn (chanOff n.val 0xC 0x320) v.toNat ∧ (0xFFE ≤ lid ∨ c.slotArmed lid (fld v.toNat 17 16) = false) :=
  ⟨demo (withWaits [wait 3 1 clFlag 6 opFlagWaitSet]
    { demoCh with os := { flags := [(7, { value := true })], sems := [(0x3FFFF, { value := 5 })] }, lt := { entries := [(9, { valid := true, held := true, owner := 4, seq := 3, addr := 64 })] } }),
    0, 63, BitVec.ofNat 64 (3 + 2 ^ 17), 0, wait 3 1 clFlag 6 opFlagWaitSet, 9,
    { valid := true, held := true, owner := 4, seq := 3, addr := 64 }, ready_of, admits_of, ok⟩
theorem witness_HostControls_address : ∃ (s : State) (n : ChanId) (m : BitVec 6) (v : Word) (fn : BitVec 8) (w : Parked) (i : Nat)
    (x : LockEntry),
    let c := s.ch n.val
    let lid := fld v.toNat 11 0
    let addr := 8 * fld v.toNat 47 3
    s.Ready n.val ∧ s.Admits fn (chanOff n.val 4 0x100) v.toNat ∧ v.toNat.testBit 48 = false :=
  ⟨demo (withWaits [wait 3 1 clFlag 6 opFlagWaitSet]
    { demoCh with os := { flags := [(7, { value := true })], sems := [(0x3FFFF, { value := 5 })] }, lt := { entries := [(9, { valid := true, held := true, owner := 4, seq := 3, addr := 64 })] } }),
    0, 63, BitVec.ofNat 64 (64), 0, wait 3 1 clFlag 6 opFlagWaitSet, 9,
    { valid := true, held := true, owner := 4, seq := 3, addr := 64 }, ready_of, admits_of, ok⟩
theorem witness_HostControls_noLock : ∃ (s : State) (n : ChanId) (m : BitVec 6) (v : Word) (fn : BitVec 8) (w : Parked) (i : Nat) (x
    : LockEntry),
    let c := s.ch n.val
    let lid := fld v.toNat 11 0
    let addr := 8 * fld v.toNat 47 3
    s.Ready n.val ∧ s.Admits fn (chanOff n.val 4 0x100) v.toNat ∧ v.toNat.testBit 48 = true ∧ c.lt.busy = false ∧ c.findLock addr = none
    :=
  ⟨demo (withWaits [wait 3 1 clFlag 6 opFlagWaitSet]
    { demoCh with os := { flags := [(7, { value := true })], sems := [(0x3FFFF, { value := 5 })] }, lt := { entries := [(9, { valid := true, held := true, owner := 4, seq := 3, addr := 64 })] } }),
    0, 63, BitVec.ofNat 64 (2 ^ 48 + 72), 0, wait 3 1 clFlag 6 opFlagWaitSet, 9,
    { valid := true, held := true, owner := 4, seq := 3, addr := 64 }, ready_of, admits_of, ok⟩
theorem witness_HostControls_frees : ∃ (s : State) (n : ChanId) (m : BitVec 6) (v : Word) (fn : BitVec 8) (w : Parked) (i : Nat) (x
    : LockEntry),
    let c := s.ch n.val
    let lid := fld v.toNat 11 0
    let addr := 8 * fld v.toNat 47 3
    s.Ready n.val ∧ s.Admits fn (chanOff n.val 4 0x100) v.toNat ∧ v.toNat.testBit 48 = true ∧ c.lt.busy = false ∧ c.findLock addr = some
    i ∧ c.lockEntry i = x ∧ x.held = true ∧ x.poisoned = false ∧ c.lockWaiters i = [] :=
  ⟨demo (withWaits [wait 3 1 clFlag 6 opFlagWaitSet]
    { demoCh with os := { flags := [(7, { value := true })], sems := [(0x3FFFF, { value := 5 })] }, lt := { entries := [(9, { valid := true, held := true, owner := 4, seq := 3, addr := 64 })] } }),
    0, 63, BitVec.ofNat 64 (2 ^ 48 + 64), 0, wait 3 1 clFlag 6 opFlagWaitSet, 9,
    { valid := true, held := true, owner := 4, seq := 3, addr := 64 }, ready_of, admits_of, ok⟩
/-- The hypotheses of AccessRefusals. -/
def hypAccessRefusals (s : State) (fn : BitVec 8) (off : BitVec 23) (width : Nat) (v : Word) : Prop := s.por = false ∧ s.settled =
    true ∧ s.quarantined 0x7000 = false ∧ (0x500000 ≤ off.toNat ∨ off.toNat % 8 ≠ 0 ∨ width < 64)
theorem witness_AccessRefusals_reserved : ∃ (s : State) (fn : BitVec 8) (off : BitVec 23) (width : Nat) (v : Word),
    hypAccessRefusals s fn off width v ∧ 0x500000 ≤ off.toNat :=
  ⟨demo demoCh, 4, 0x500000, 64, 5, by unfold hypAccessRefusals; exact ok, ok⟩
theorem witness_AccessRefusals_offset : ∃ (s : State) (fn : BitVec 8) (off : BitVec 23) (width : Nat) (v : Word), hypAccessRefusals
    s fn off width v ∧ off.toNat % 8 ≠ 0 :=
  ⟨demo demoCh, 4, 0x100001, 64, 5, by unfold hypAccessRefusals; exact ok, ok⟩
theorem witness_AccessRefusals_narrow : ∃ (s : State) (fn : BitVec 8) (off : BitVec 23) (width : Nat) (v : Word), hypAccessRefusals
    s fn off width v ∧ width < 64 :=
  ⟨demo demoCh, 4, 0x100000, 32, 5, by unfold hypAccessRefusals; exact ok, ok⟩
/-- The hypotheses of RegisterAccesses. -/
def hypRegisterAccesses (s : State) (n : ChanId) (off : BitVec 23) (width o : Nat) (fn : BitVec 8) (v : Word) (u : FltUnit) (fs :
    FaultSet) (cause : Nat) : Prop := s.Rests n.val ∧ off.toNat = o ∧ s.unitFault u = fs ∧ (∀ c k, u = .chan c k → (s.pair c.val).st
    = .single)
theorem witness_RegisterAccesses_deniedWrite : ∃ (s : State) (n : ChanId) (off : BitVec 23) (width o : Nat) (fn : BitVec 8) (v :
    Word) (u : FltUnit) (fs : FaultSet) (cause : Nat), hypRegisterAccesses s n off width o fn v u fs cause ∧ s.por = false ∧
    s.quarantined 0x7000 = false ∧ s.denial fn.toNat width ⟨.host fn, o, true, v.toNat⟩ = some cause :=
  ⟨demo demoCh, 0, 0x100010, 64, 0x100010, 4, BitVec.ofNat 64 (1), .chan 0 .os, {}, 0, ⟨rests_of, ok, ok, single_of⟩, ok⟩
theorem witness_RegisterAccesses_deniedRead : ∃ (s : State) (n : ChanId) (off : BitVec 23) (width o : Nat) (fn : BitVec 8) (v :
    Word) (u : FltUnit) (fs : FaultSet) (cause : Nat), hypRegisterAccesses s n off width o fn v u fs cause ∧ s.por = false ∧
    s.quarantined 0x7000 = false ∧ s.denial fn.toNat width ⟨.host fn, o, false, 0⟩ = some cause :=
  ⟨demo demoCh, 0, 0x3040, 64, 0x3040, 4, BitVec.ofNat 64 (1), .chan 0 .os, {}, 1, ⟨rests_of, ok, ok, single_of⟩, ok⟩
theorem witness_RegisterAccesses_event : ∃ (s : State) (n : ChanId) (off : BitVec 23) (width o : Nat) (fn : BitVec 8) (v : Word) (u
    : FltUnit) (fs : FaultSet) (cause : Nat), hypRegisterAccesses s n off width o fn v u fs cause ∧ o = chanOff n.val 0 0x010 ∧
    s.Admits fn (chanOff n.val 0 0x010) v.toNat ∧ width = 64 :=
  ⟨demo demoCh, 0, 0x100010, 64, 0x100010, 0, BitVec.ofNat 64 (1), .chan 0 .os, {}, 0, ⟨rests_of, ok, ok, single_of⟩, ok, admits_of,
    ok⟩
theorem witness_RegisterAccesses_eventEn : ∃ (s : State) (n : ChanId) (off : BitVec 23) (width o : Nat) (fn : BitVec 8) (v : Word)
    (u : FltUnit) (fs : FaultSet) (cause : Nat), hypRegisterAccesses s n off width o fn v u fs cause ∧ o = chanOff n.val 0 0x018 ∧
    s.Admits fn (chanOff n.val 0 0x018) v.toNat ∧ width = 64 :=
  ⟨demo demoCh, 0, 0x100018, 64, 0x100018, 0, BitVec.ofNat 64 (1), .chan 0 .os, {}, 0, ⟨rests_of, ok, ok, single_of⟩, ok, admits_of,
    ok⟩
theorem witness_RegisterAccesses_mapSel : ∃ (s : State) (n : ChanId) (off : BitVec 23) (width o : Nat) (fn : BitVec 8) (v : Word) (u
    : FltUnit) (fs : FaultSet) (cause : Nat), hypRegisterAccesses s n off width o fn v u fs cause ∧ o = chanOff n.val 0 0x100 ∧
    s.Admits fn (chanOff n.val 0 0x100) v.toNat ∧ width = 64 :=
  ⟨demo demoCh, 0, 0x100100, 64, 0x100100, 0, BitVec.ofNat 64 (0xFFF), .chan 0 .os, {}, 0, ⟨rests_of, ok, ok, single_of⟩, ok,
    admits_of, ok⟩
theorem witness_RegisterAccesses_sleepCtl : ∃ (s : State) (n : ChanId) (off : BitVec 23) (width o : Nat) (fn : BitVec 8) (v : Word)
    (u : FltUnit) (fs : FaultSet) (cause : Nat), hypRegisterAccesses s n off width o fn v u fs cause ∧ o = chanOff n.val 0 0x400 ∧
    s.Admits fn (chanOff n.val 0 0x400) v.toNat ∧ width = 64 ∧ fld v.toNat 31 12 = 0 ∧ (¬ fld v.toNat 11 0 < 16) :=
  ⟨demo demoCh, 0, 0x100400, 64, 0x100400, 0, BitVec.ofNat 64 (2 ^ 33 + 16), .chan 0 .os, {}, 0, ⟨rests_of, ok, ok, single_of⟩, ok,
    admits_of, ok⟩
theorem witness_RegisterAccesses_sleepCtlFields : ∃ (s : State) (n : ChanId) (off : BitVec 23) (width o : Nat) (fn : BitVec 8) (v :
    Word) (u : FltUnit) (fs : FaultSet) (cause : Nat), hypRegisterAccesses s n off width o fn v u fs cause ∧ o = chanOff n.val 0
    0x400 ∧ s.Admits fn (chanOff n.val 0 0x400) v.toNat ∧ width = 64 ∧ fld v.toNat 31 12 ≠ 0 ∧ fld v.toNat 11 0 < 16 :=
  ⟨demo demoCh, 0, 0x100400, 64, 0x100400, 0, BitVec.ofNat 64 (2 ^ 33 + 2 ^ 12 + 15), .chan 0 .os, {}, 0, ⟨rests_of, ok, ok,
    single_of⟩, ok, admits_of, ok⟩
theorem witness_RegisterAccesses_readOnly : ∃ (s : State) (n : ChanId) (off : BitVec 23) (width o : Nat) (fn : BitVec 8) (v : Word)
    (u : FltUnit) (fs : FaultSet) (cause : Nat), hypRegisterAccesses s n off width o fn v u fs cause ∧ o = chanOff n.val 0 0x000 ∧
    s.Admits fn (chanOff n.val 0 0x000) v.toNat ∧ width = 64 :=
  ⟨demo demoCh, 0, 0x100000, 64, 0x100000, 0, BitVec.ofNat 64 (1), .chan 0 .os, {}, 0, ⟨rests_of, ok, ok, single_of⟩, ok, admits_of,
    ok⟩
theorem witness_RegisterAccesses_noRegister : ∃ (s : State) (n : ChanId) (off : BitVec 23) (width o : Nat) (fn : BitVec 8) (v :
    Word) (u : FltUnit) (fs : FaultSet) (cause : Nat), hypRegisterAccesses s n off width o fn v u fs cause ∧ o = chanOff n.val 0xD
    0x000 ∧ s.Admits fn (chanOff n.val 0xD 0x000) v.toNat ∧ width = 64 :=
  ⟨demo demoCh, 0, 0x10D000, 64, 0x10D000, 0, BitVec.ofNat 64 (1), .chan 0 .os, {}, 0, ⟨rests_of, ok, ok, single_of⟩, ok, admits_of,
    ok⟩
theorem witness_RegisterAccesses_hit : ∃ (s : State) (n : ChanId) (off : BitVec 23) (width o : Nat) (fn : BitVec 8) (v : Word) (u :
    FltUnit) (fs : FaultSet) (cause : Nat), hypRegisterAccesses s n off width o fn v u fs cause ∧ o = chanOff n.val 0xC 0x200 ∧
    s.Admits fn (chanOff n.val 0xC 0x200) v.toNat ∧ width = 64 :=
  ⟨demo demoCh, 0, 0x10C200, 64, 0x10C200, 0, BitVec.ofNat 64 (1), .chan 0 .os, {}, 0, ⟨rests_of, ok, ok, single_of⟩, ok, admits_of,
    ok⟩
theorem witness_RegisterAccesses_operand : ∃ (s : State) (n : ChanId) (off : BitVec 23) (width o : Nat) (fn : BitVec 8) (v : Word)
    (u : FltUnit) (fs : FaultSet) (cause : Nat), hypRegisterAccesses s n off width o fn v u fs cause ∧ o = chanOff n.val 0xC 0x300 ∧
    s.Admits fn (chanOff n.val 0xC 0x300) v.toNat ∧ width = 64 :=
  ⟨demo demoCh, 0, 0x10C300, 64, 0x10C300, 0, BitVec.ofNat 64 (1), .chan 0 .os, {}, 0, ⟨rests_of, ok, ok, single_of⟩, ok, admits_of,
    ok⟩
theorem witness_RegisterAccesses_hand : ∃ (s : State) (n : ChanId) (off : BitVec 23) (width o : Nat) (fn : BitVec 8) (v : Word) (u :
    FltUnit) (fs : FaultSet) (cause : Nat), hypRegisterAccesses s n off width o fn v u fs cause ∧ o = chanOff n.val 0xB 0x100 ∧
    s.Admits fn (chanOff n.val 0xB 0x100) v.toNat ∧ width = 64 :=
  ⟨demo demoCh, 0, 0x10B100, 64, 0x10B100, 0, BitVec.ofNat 64 (1), .chan 0 .os, {}, 0, ⟨rests_of, ok, ok, single_of⟩, ok, admits_of,
    ok⟩
theorem witness_RegisterAccesses_stageSel : ∃ (s : State) (n : ChanId) (off : BitVec 23) (width o : Nat) (fn : BitVec 8) (v : Word)
    (u : FltUnit) (fs : FaultSet) (cause : Nat), hypRegisterAccesses s n off width o fn v u fs cause ∧ o = 0x3040 ∧ s.Admits fn
    (0x3040) v.toNat ∧ width = 64 :=
  ⟨demo demoCh, 0, 0x3040, 64, 0x3040, 0, BitVec.ofNat 64 (255), .chan 0 .os, {}, 0, ⟨rests_of, ok, ok, single_of⟩, ok, admits_of, ok⟩
theorem witness_RegisterAccesses_enable : ∃ (s : State) (n : ChanId) (off : BitVec 23) (width o : Nat) (fn : BitVec 8) (v : Word) (u
    : FltUnit) (fs : FaultSet) (cause : Nat), hypRegisterAccesses s n off width o fn v u fs cause ∧ o = faultOff u 0x08 ∧ s.Admits
    fn (faultOff u 0x08) v.toNat ∧ width = 64 :=
  ⟨demo demoCh, 0, 0x102F08, 64, 0x102F08, 0, BitVec.ofNat 64 (1), .chan 0 .os, {}, 0, ⟨rests_of, ok, ok, single_of⟩, ok, admits_of,
    ok⟩
theorem witness_RegisterAccesses_drydownLow : ∃ (s : State) (n : ChanId) (off : BitVec 23) (width o : Nat) (fn : BitVec 8) (v :
    Word) (u : FltUnit) (fs : FaultSet) (cause : Nat), hypRegisterAccesses s n off width o fn v u fs cause ∧ o = faultOff u 0x58 ∧
    s.Admits fn (faultOff u 0x58) v.toNat ∧ width = 64 ∧ 64 ≤ fld v.toNat 19 0 ∧ fld v.toNat 19 0 ≤ 1000000 :=
  ⟨demo demoCh, 0, 0x4F58, 64, 0x4F58, 0, BitVec.ofNat 64 (64), .shared .ck, {}, 0, ⟨rests_of, ok, ok, single_of⟩, ok, admits_of, ok⟩
theorem witness_RegisterAccesses_drydownHigh : ∃ (s : State) (n : ChanId) (off : BitVec 23) (width o : Nat) (fn : BitVec 8) (v :
    Word) (u : FltUnit) (fs : FaultSet) (cause : Nat), hypRegisterAccesses s n off width o fn v u fs cause ∧ o = faultOff u 0x58 ∧
    s.Admits fn (faultOff u 0x58) v.toNat ∧ width = 64 ∧ (¬ (64 ≤ fld v.toNat 19 0 ∧ fld v.toNat 19 0 ≤ 1000000)) :=
  ⟨demo demoCh, 0, 0x4F58, 64, 0x4F58, 0, BitVec.ofNat 64 (1000001), .shared .ck, {}, 0, ⟨rests_of, ok, ok, single_of⟩, ok, admits_of,
    ok⟩
theorem witness_RegisterAccesses_hwResult : ∃ (s : State) (n : ChanId) (off : BitVec 23) (width o : Nat) (fn : BitVec 8) (v : Word)
    (u : FltUnit) (fs : FaultSet) (cause : Nat), hypRegisterAccesses s n off width o fn v u fs cause ∧ o = chanOff n.val 0xC 0x310 ∧
    s.AdmitsRead fn (chanOff n.val 0xC 0x310) ∧ width = 64 :=
  ⟨demo demoCh, 0, 0x10C310, 64, 0x10C310, 0, BitVec.ofNat 64 (0), .chan 0 .os, {}, 0, ⟨rests_of, ok, ok, single_of⟩, ok,
    admitsRead_of, ok⟩
theorem witness_RegisterAccesses_ltResult : ∃ (s : State) (n : ChanId) (off : BitVec 23) (width o : Nat) (fn : BitVec 8) (v : Word)
    (u : FltUnit) (fs : FaultSet) (cause : Nat), hypRegisterAccesses s n off width o fn v u fs cause ∧ o = chanOff n.val 4 0x108 ∧
    s.AdmitsRead fn (chanOff n.val 4 0x108) ∧ width = 64 :=
  ⟨demo demoCh, 0, 0x104108, 64, 0x104108, 0, BitVec.ofNat 64 (0), .chan 0 .os, {}, 0, ⟨rests_of, ok, ok, single_of⟩, ok,
    admitsRead_of, ok⟩
theorem witness_RegisterAccesses_overrun : ∃ (s : State) (n : ChanId) (off : BitVec 23) (width o : Nat) (fn : BitVec 8) (v : Word)
    (u : FltUnit) (fs : FaultSet) (cause : Nat), hypRegisterAccesses s n off width o fn v u fs cause ∧ o = 0x4100 ∧ s.AdmitsRead fn
    (0x4100) ∧ width = 64 :=
  ⟨demo demoCh, 0, 0x4100, 64, 0x4100, 0, BitVec.ofNat 64 (0), .chan 0 .os, {}, 0, ⟨rests_of, ok, ok, single_of⟩, ok, admitsRead_of,
    ok⟩
theorem witness_RegisterAccesses_ops : ∃ (s : State) (n : ChanId) (off : BitVec 23) (width o : Nat) (fn : BitVec 8) (v : Word) (u :
    FltUnit) (fs : FaultSet) (cause : Nat), hypRegisterAccesses s n off width o fn v u fs cause ∧ o = chanOff n.val 1 0x010 ∧
    s.AdmitsRead fn (chanOff n.val 1 0x010) ∧ width = 64 :=
  ⟨demo demoCh, 0, 0x101010, 64, 0x101010, 0, BitVec.ofNat 64 (0), .chan 0 .os, {}, 0, ⟨rests_of, ok, ok, single_of⟩, ok,
    admitsRead_of, ok⟩
theorem witness_RegisterAccesses_readMapSel : ∃ (s : State) (n : ChanId) (off : BitVec 23) (width o : Nat) (fn : BitVec 8) (v :
    Word) (u : FltUnit) (fs : FaultSet) (cause : Nat), hypRegisterAccesses s n off width o fn v u fs cause ∧ o = chanOff n.val 0
    0x100 ∧ s.AdmitsRead fn (chanOff n.val 0 0x100) ∧ width = 64 :=
  ⟨demo demoCh, 0, 0x100100, 64, 0x100100, 0, BitVec.ofNat 64 (0), .chan 0 .os, {}, 0, ⟨rests_of, ok, ok, single_of⟩, ok,
    admitsRead_of, ok⟩
theorem witness_RegisterAccesses_readNoRegister : ∃ (s : State) (n : ChanId) (off : BitVec 23) (width o : Nat) (fn : BitVec 8) (v :
    Word) (u : FltUnit) (fs : FaultSet) (cause : Nat), hypRegisterAccesses s n off width o fn v u fs cause ∧ o = chanOff n.val 0xD
    0x000 ∧ s.AdmitsRead fn (chanOff n.val 0xD 0x000) ∧ width = 64 :=
  ⟨demo demoCh, 0, 0x10D000, 64, 0x10D000, 0, BitVec.ofNat 64 (0), .chan 0 .os, {}, 0, ⟨rests_of, ok, ok, single_of⟩, ok,
    admitsRead_of, ok⟩
theorem witness_FenceEventsComplete : ∃ (s : State) (p : BitVec 12) (n : Nat), s.Ready n ∧ p.toNat < 0x728 ∧ s.ownerOf p.toNat =
    some n ∧ s.held n = false :=
  ⟨demo (withWaits [wait 3 0 clFlag 1 opFlagWaitSet]
    { demoCh with os := { conns := [(0x3FFF, { st := .opened, sender := 3, receiver := 4 })] } }), 5, 0, ready_of, ok⟩
/-- The hypotheses of FenceEventsComplete, second part. -/
def hypFenceEventsCompleteB (s : State) (n : ChanId) (lid : Nat) (m : BitVec 14) (v : Conn) : Prop := s.Ready n.val ∧ (s.ch
    n.val).conn m.toNat = v ∧ (s.ch n.val).ctl.connScan.filter (fun p => p.1 = m.toNat) = [(m.toNat, lid)]
theorem witness_FenceEventsCompleteB_listening : ∃ (s : State) (n : ChanId) (lid : Nat) (m : BitVec 14) (v : Conn),
    hypFenceEventsCompleteB s n lid m v ∧ v.receiver = lid ∧ (v.st = .listening ∨ v.st = .senderClosed) :=
  ⟨demo
    { demoCh with ctl := { demoCh.ctl with connScan := [(0x3FFF, 4), (7, 9)] }, os := { conns := [(0x3FFF, { st := .listening, receiver := 4 })] } },
    0, 4, 0x3FFF, { st := .listening, receiver := 4 }, ⟨ready_of, ok⟩, ok⟩
theorem witness_FenceEventsCompleteB_reader : ∃ (s : State) (n : ChanId) (lid : Nat) (m : BitVec 14) (v : Conn),
    hypFenceEventsCompleteB s n lid m v ∧ v.receiver = lid ∧ v.sender ≠ lid ∧ v.st = .opened :=
  ⟨demo
    { demoCh with ctl := { demoCh.ctl with connScan := [(0x3FFF, 4), (7, 9)] }, os := { conns := [(0x3FFF, { st := .opened, sender := 3, receiver := 4 })] } },
    0, 4, 0x3FFF, { st := .opened, sender := 3, receiver := 4 }, ⟨ready_of, ok⟩, ok⟩
theorem witness_FenceEventsCompleteB_sender : ∃ (s : State) (n : ChanId) (lid : Nat) (m : BitVec 14) (v : Conn),
    hypFenceEventsCompleteB s n lid m v ∧ v.receiver ≠ lid ∧ v.sender = lid ∧ v.st = .opened :=
  ⟨demo
    { demoCh with ctl := { demoCh.ctl with connScan := [(0x3FFF, 3), (7, 9)] }, os := { conns := [(0x3FFF, { st := .opened, sender := 3, receiver := 4 })] } },
    0, 3, 0x3FFF, { st := .opened, sender := 3, receiver := 4 }, ⟨ready_of, ok⟩, ok⟩
theorem witness_FenceEventsCompleteB_left : ∃ (s : State) (n : ChanId) (lid : Nat) (m : BitVec 14) (v : Conn),
    hypFenceEventsCompleteB s n lid m v ∧ v.receiver ≠ lid ∧ v.sender = lid ∧ (v.st = .readerClosed ∨ v.st = .broken) :=
  ⟨demo
    { demoCh with ctl := { demoCh.ctl with connScan := [(0x3FFF, 3), (7, 9)] }, os := { conns := [(0x3FFF, { st := .broken, sender := 3, receiver := 4 })] } },
    0, 3, 0x3FFF, { st := .broken, sender := 3, receiver := 4 }, ⟨ready_of, ok⟩, ok⟩
theorem witness_FenceEventsCompleteB_scan : ∃ (s : State) (n : ChanId),
    let c := s.ch n.val
    s.Ready n.val ∧ c.lt.scanning = false ∧ c.lt.fencedIds ≠ [] ∧ SMap.wf {} c.lt.entries = true ∧ (∃ i w, c.lockEntry i = w ∧ w.valid =
    true ∧ w.held = true ∧ w.poisoned = false ∧ w.owner ∈ c.lt.fencedIds ∧ c.lockWaiters i = []) :=
  ⟨demo
    { demoCh with lt := { entries := [(8, { valid := true, held := true, owner := 4, seq := 3, addr := 64 })], fencedIds := [4] } },
    0, ready_of, ok, ok, ok, ⟨8, { valid := true, held := true, owner := 4, seq := 3, addr := 64 }, ok⟩⟩
theorem witness_FenceEventsCompleteB_scanEnd : ∃ (s : State) (n : ChanId),
    let c := s.ch n.val
    s.Ready n.val ∧ c.lt.scanning = true ∧ c.scanBusy = false :=
  ⟨demo { demoCh with lt := { scanning := true, scanIds := [4] } }, 0, ready_of, ok⟩
/-- The hypotheses of AccordEventsComplete. -/
def hypAccordEventsComplete (s : State) (n : ChanId) (m : MsgIn) (d : Edge) (a : AccObj) (k : Nat) : Prop := s.Ready n.val ∧ (s.ch
    n.val).la.st = .formed ∧ (s.ch n.val).img.locals = [] ∧ (s.ch n.val).la.edges.find? (fun x => x.port = m.port.toNat) = some d ∧
    ((s.ch n.val).common k).testBit 63 = true ∧ (s.ch n.val).accReduce k = false ∧ m.object.toNat = k ∧ (s.ch n.val).accState k = a
    ∧ SMap.wf {} (s.ch n.val).la.objs = true
theorem witness_AccordEventsComplete_arrive : ∃ (s : State) (n : ChanId) (m : MsgIn) (d : Edge) (a : AccObj) (k : Nat),
    let c := s.ch n.val
    let word := bodyWord m 1
    hypAccordEventsComplete s n m d a k ∧ s.Hears n.val tyArrive m ∧ d.up = false ∧ fld word 63 32 = a.gen.toNat ∧ m.port.toNat ∉
    a.children ∧ a.sent = false :=
  ⟨demo (inAccord .formed [parent true true true, child true true true, ⟨4, 10, false, true, true, true⟩]
    { demoCh with img := { commons := [(0xFF, 2 ^ 63 + 1000 * 2 ^ 40)] }, la := { objs := [(0xFF, { gen := 5 })] } }), 0, msgTo 3 9
    0xFF [5 * 2 ^ 32 + 2 ^ 31 + 2 ^ 29], child true true true, { gen := 5 }, 0xFF, ⟨ready_of, ok⟩, hears_of, ok⟩
theorem witness_AccordEventsComplete_last : ∃ (s : State) (n : ChanId) (m : MsgIn) (d : Edge) (a : AccObj) (k : Nat),
    let c := s.ch n.val
    let word := bodyWord m 1
    hypAccordEventsComplete s n m d a k ∧ s.Hears n.val tyArrive m ∧ d.up = false ∧ fld word 63 32 = a.gen.toNat ∧ m.port.toNat ∉
    a.children ∧ a.sent = false :=
  ⟨demo (inAccord .formed [child true true true, ⟨4, 10, false, true, true, true⟩]
    { demoCh with img := { commons := [(0xFF, 2 ^ 63 + 1000 * 2 ^ 40)] }, la := { objs := [(0xFF, { gen := 5, children := [4] })] } }),
    0, msgTo 3 9 0xFF [5 * 2 ^ 32 + 2 ^ 31 + 2 ^ 29], child true true true, { gen := 5, children := [4] }, 0xFF, ⟨ready_of, ok⟩,
    hears_of, ok⟩
theorem witness_AccordEventsComplete_release : ∃ (s : State) (n : ChanId) (m : MsgIn) (d : Edge) (a : AccObj) (k : Nat),
    let c := s.ch n.val
    let word := bodyWord m 1
    hypAccordEventsComplete s n m d a k ∧ s.Hears n.val tyRelease m ∧ d.up = true ∧ fld word 63 32 = a.gen.toNat :=
  ⟨demo (inAccord .formed [parent true true true]
    { demoCh with img := { commons := [(0xFF, 2 ^ 63 + 1000 * 2 ^ 40)] }, la := { objs := [(0xFF, { gen := 5 })] } }), 0, msgTo 1 8
    0xFF [5 * 2 ^ 32], parent true true true, { gen := 5 }, 0xFF, ⟨ready_of, ok⟩, hears_of, ok⟩
theorem witness_AccordEventsComplete_breaks : ∃ (s : State) (n : ChanId) (m : MsgIn) (d : Edge) (a : AccObj) (k : Nat),
    let c := s.ch n.val
    let word := bodyWord m 1
    hypAccordEventsComplete s n m d a k ∧ s.Hears n.val tyBreak m :=
  ⟨demo (inAccord .formed [parent true true true, child true true true]
    { demoCh with img := { commons := [(0xFF, 2 ^ 63 + 1000 * 2 ^ 40)] }, la := { objs := [(0xFF, { gen := 5 })] } }), 0, msgTo 1 8
    0xFF [6], parent true true true, { gen := 5 }, 0xFF, ⟨ready_of, ok⟩, hears_of⟩
theorem witness_AccordEventsComplete_timeout : ∃ (s : State) (n : ChanId) (m : MsgIn) (d : Edge) (a : AccObj) (k : Nat),
    let c := s.ch n.val
    let word := bodyWord m 1
    hypAccordEventsComplete s n m d a k ∧ (∀ x ∈ c.la.edges, x.up = false) ∧ a.expired = false ∧ fld (c.common k) 59 40 ≠ 0 ∧ (∃ t0,
    a.timer = some t0 ∧ t0 + 1000 * fld (c.common k) 59 40 ≤ s.time) ∧ (c.common k).testBit 60 = false :=
  ⟨demo (inAccord .formed [child true true true, ⟨4, 10, false, true, true, true⟩]
    { demoCh with img := { commons := [(0xFF, 2 ^ 63 + 1000 * 2 ^ 40)] }, la := { objs := [(0xFF, { gen := 5, timer := some 9000000 })] } }),
    0, msgTo 3 9 0xFF [5 * 2 ^ 32 + 2 ^ 31 + 2 ^ 29], child true true true, { gen := 5, timer := some 9000000 }, 0xFF, ⟨ready_of,
    ok⟩, ok, ok, ok, ⟨9000000, ok⟩, ok⟩
theorem witness_AccordEventsComplete_holds : ∃ (s : State) (n : ChanId) (m : MsgIn) (d : Edge) (a : AccObj) (k : Nat),
    let c := s.ch n.val
    let word := bodyWord m 1
    hypAccordEventsComplete s n m d a k ∧ (∀ x ∈ c.la.edges, x.up = false) ∧ a.expired = false ∧ fld (c.common k) 59 40 ≠ 0 ∧ (∃ t0,
    a.timer = some t0 ∧ t0 + 1000 * fld (c.common k) 59 40 ≤ s.time) ∧ (c.common k).testBit 60 = true :=
  ⟨demo (inAccord .formed [child true true true, ⟨4, 10, false, true, true, true⟩]
    { demoCh with img := { commons := [(0xFF, 2 ^ 63 + 1000 * 2 ^ 40 + 2 ^ 60)] }, la := { objs := [(0xFF, { gen := 5, timer := some 9000000 })] } }),
    0, msgTo 3 9 0xFF [5 * 2 ^ 32 + 2 ^ 31 + 2 ^ 29], child true true true, { gen := 5, timer := some 9000000 }, 0xFF, ⟨ready_of,
    ok⟩, ok, ok, ok, ⟨9000000, ok⟩, ok⟩
theorem witness_EventsComplete_lock : ∃ (s : State) (n : ChanId) (v : Word) (fn : BitVec 8) (q : BitVec 16) (p : BitVec 3),
    let c := s.ch n.val
    let off := chanOff n.val 0 0x008
    s.Still ∧ s.ck.pll = .locked ∧ s.blockHalted = false :=
  ⟨{ demo demoCh with ck := { pll := .locked } }, 0, 0, 0, 0x9004, 3, still_of, ok⟩
theorem witness_EventsComplete_keep : ∃ (s : State) (n : ChanId) (v : Word) (fn : BitVec 8) (q : BitVec 16) (p : BitVec 3),
    let c := s.ch n.val
    let off := chanOff n.val 0 0x008
    s.Still ∧ s.blockHalted = false ∧ s.sflt.ck.disabled.testBit 1 = false ∧ crossingOk q.toNat = true :=
  ⟨demo demoCh, 0, 0, 0, 0x9004, 3, still_of, ok⟩
theorem witness_EventsComplete_ends : ∃ (s : State) (n : ChanId) (v : Word) (fn : BitVec 8) (q : BitVec 16) (p : BitVec 3),
    let c := s.ch n.val
    let off := chanOff n.val 0 0x008
    s.Still ∧ s.quarantined q.toNat = true ∧ (∃ x ∈ s.ck.quar, x.number = q.toNat ∧ x.raised = false ∧ x.left + 20480 ≤ s.time) :=
  ⟨{ demo demoCh with ck := { quar := [⟨0x9004, 5, 5, 5, false⟩] } }, 0, 0, 0, 0x9004, 3, still_of, ok⟩
theorem witness_EventsComplete_opens : ∃ (s : State) (n : ChanId) (v : Word) (fn : BitVec 8) (q : BitVec 16) (p : BitVec 3),
    let c := s.ch n.val
    let off := chanOff n.val 0 0x008
    s.Still ∧ s.blockHalted = false ∧ s.StewardPort ∧ s.pt.gate = .ready ∧ v.toNat.testBit 1 = false ∧ v.toNat.testBit 0 = true :=
  ⟨{ por := false, cl := { phase := .gateWait, imgs := [(0, { capUj := 100, map := [(3, 2 ^ 16 + 5)] })], prot := [(8, 2 ^ 27)] }, pt := { gate := .ready } },
    0, 1, 0, 0x9004, 3, still_of, ok, stewardPort_of, ok⟩
theorem witness_EventsComplete_refuses : ∃ (s : State) (n : ChanId) (v : Word) (fn : BitVec 8) (q : BitVec 16) (p : BitVec 3),
    let c := s.ch n.val
    let off := chanOff n.val 0 0x008
    s.Still ∧ s.blockHalted = false ∧ s.StewardPort ∧ s.pt.gate = .ready ∧ v.toNat.testBit 1 = true :=
  ⟨{ por := false, cl := { phase := .gateWait, imgs := [(0, { capUj := 100, map := [(3, 2 ^ 16 + 5)] })], prot := [(8, 2 ^ 27)] }, pt := { gate := .ready } },
    0, 2, 0, 0x9004, 3, still_of, ok, stewardPort_of, ok⟩
theorem witness_EventsComplete_restarts : ∃ (s : State) (n : ChanId) (v : Word) (fn : BitVec 8) (q : BitVec 16) (p : BitVec 3),
    let c := s.ch n.val
    let off := chanOff n.val 0 0x008
    s.Still ∧ s.blockHalted = false ∧ s.Admits fn off v.toNat ∧ v.toNat.testBit 0 = true ∧ c.ctl.st ≠ .loading ∧ c.ctl.st ≠ .closing :=
  ⟨demo demoCh, 0, 1, 0, 0x9004, 3, still_of, ok, admits_of, ok⟩
theorem witness_EventsComplete_closes : ∃ (s : State) (n : ChanId) (v : Word) (fn : BitVec 8) (q : BitVec 16) (p : BitVec 3),
    let c := s.ch n.val
    let off := chanOff n.val 0 0x008
    s.Still ∧ s.Admits fn off v.toNat ∧ v.toNat.testBit 0 = false ∧ v.toNat.testBit 1 = true ∧ c.Calm ∧ c.ru.queue = [] :=
  ⟨demo (withWaits fourWaits { demoCh with ps := { seqs := [(15, { st := .run })] } }), 0, 2, 0, 0x9004, 3, still_of, admits_of, ok,
    ok, calm_of, ok⟩
theorem witness_EventsComplete_completes : ∃ (s : State) (n : ChanId) (v : Word) (fn : BitVec 8) (q : BitVec 16) (p : BitVec 3),
    let c := s.ch n.val
    let off := chanOff n.val 0 0x008
    s.Still ∧ c.ctl.st = .closing ∧ (∀ x ∈ c.ps.seqs, x.2.st ≠ .audit) :=
  ⟨demo (withWaits fourWaits { demoCh with ctl := { demoCh.ctl with st := .closing }, clk := {} }), 0, 0, 0, 0x9004, 3, still_of, ok⟩
theorem witness_EventsComplete_missed : ∃ (s : State) (n : ChanId) (v : Word) (fn : BitVec 8) (q : BitVec 16) (p : BitVec 3),
    let c := s.ch n.val
    let off := chanOff n.val 0 0x008
    s.Still ∧ (∃ i : BitVec 4, (c.seq i.toNat).st = .run ∧ (c.seq i.toNat).deadlineOn = true ∧ (c.seq i.toNat).missed = false ∧ (c.entry
    (c.seq i.toNat).entry).deadlineUs ≠ 0 ∧ (c.seq i.toNat).start + 1000 * (c.entry (c.seq i.toNat).entry).deadlineUs ≤ s.time) ∧
    c.Calm :=
  ⟨demo
    { demoCh with img := { entries := [(40, { w2 := 5 * 2 ^ 32 })] }, ps := { seqs := [(6, { st := .run, entry := 40, deadlineOn := true, start := 9000000 })] } },
    0, 0, 0, 0x9004, 3, still_of, ⟨6, ok⟩, calm_of⟩
theorem witness_EventsCompleteB : ∃ (s : State) (second : Bool) (stream : BitVec 3) (p : Pair) (o : Output) (b : Nat), s.por = false
    ∧ s.settled = true ∧ (if second then s.pairCD else s.pairAB) = p ∧ p.st = .paired ∧ ((p.first.get [] stream.toNat).head? = some
    (o, some b) ∨ (p.second.get [] stream.toNat).head? = some (o, some b)) ∧ b + 256 ≤ s.begin.coreNow ∧ (∀ m < 4, (s.ch
    m).flt.rq.disabled.testBit 9 = false) :=
  ⟨{ demo demoCh with chB := demoCh, pairAB := { st := .paired, first := [(4, [(.ack 5 3 1, some 14000000)])] } }, false, 4,
    { st := .paired, first := [(4, [(.ack 5 3 1, some 14000000)])] }, .ack 5 3 1, 14000000, ok, ok, ok, ok, ok, Nat.le_trans (m :=
    15000000) (by decide) (Nat.le_add_right _ _), ok⟩
theorem witness_RequestLayout : ∃ (chan opcode : Nat) (r : Req), Clean r ∧ chan < 16 ∧ opcode < 64 :=
  ⟨15, 63, req 7 0x7FFFFF (2 ^ 64 - 1), clean_of, ok⟩

end Sys2Proof.Tests
end

namespace Sys2Proof.Machine
section
variable {s : State} {n p lid m i : Nat} {c d : Ch} {e : Env}

/-! ## Effects of one channel within a command -/

theorem State.leave_nil (s : State) : s.leave [] = s := by
  simp [State.leave, responsesOf, risingCores]

/-- An effect on a channel that stands alone, which leaves it quiet with nothing sent, only replaces that channel. -/
theorem State.Ready.begin_atChan (h : s.Ready n) (f : Env → Ch → Ch) (hf : f (s.seen n .none) (s.ch n) = c)
    (hc : c.Same (s.ch n)) : s.begin.atChan n .none f = (s.begin.setCh n c).busyNow n := by
  have hset : (f (s.begin.env n false .none) (s.begin.ch n)).settle (s.begin.env n false .none) = c := by
    rw [State.ch_begin]
    exact (congrArg _ hf).trans (Ch.settle_quiet hc.quiet.1 hc.quiet.2.2.2.1)
  rw [State.atChan_single (by simpa using h.single), hset,
    State.finish_quiet s.begin n hc.quiet.1 hc.quiet.2.2.1 hc.quiet.2.2.2.1 hc.quiet.2.2.2.2]
  have hout : ({ c with out := [] } : Ch) = c := by rw [← hc.quiet.2.1]
  rw [hout, hc.quiet.2.1, State.leave_nil]

/-! ## Endpoint resets (R20, R31) -/

/-- The reset takes play no part in what the PLLs need. -/
theorem State.setPll_ackReset (s : State) (p : Nat) : (s.ackReset p).setPll = s.setPll.ackReset p := by
  by_cases h : s.pllRight = true
  · have h' : (s.ackReset p).pllRight = true := h
    simp only [State.setPll, h, h', if_true]
  · have h' : ¬ (s.ackReset p).pllRight = true := h
    simp only [State.setPll, h, h']
    rfl

/-- Nothing waits at the edges of a settled block, so an event of no channel is counted and acknowledged. -/
theorem State.resetEvent_of_no_owner (hs : s.settled = true) (ho : s.ownerOf p = none) :
    s.resetEvent p = (s.onPt (fun k => { k with resetIgnored := inc k.resetIgnored })).ackReset p := by
  have hnone : (if p < 0x728 then s.ownerOf p else none) = none := by rw [ho, ite_self]
  have hw : s.resetWait = [] := (State.settled_iff.mp hs).2.2.1
  have hfull : s.resetFull p = false := by unfold State.resetFull; rw [hnone]
  unfold State.resetEvent State.takeReset
  rw [hfull, hw, hnone]
  rfl

/-- An event of an endpoint of a calm channel reaches the channel, and its take is acknowledged. -/
theorem State.Ready.begin_resetEvent (h : s.Ready n) (hp : p < 0x728) (ho : s.ownerOf p = some n) (hh : s.held n = false) :
    s.begin.resetEvent p = (s.begin.atChan n .none (fun e c => c.takeReset e p)).ackReset p := by
  have ho' : (if p < 0x728 then s.begin.ownerOf p else none) = some n := by rw [if_pos hp, State.ownerOf_begin, ho]
  have hh' : s.begin.held n = false := hh
  have hl : s.begin.lead n = n := h.lead
  have hw : s.begin.resetWait = [] := (State.settled_iff.mp h.settled).2.2.1
  have hawake : (s.begin.ch n).asleep = false := by rw [State.ch_begin]; exact h.calm.awake'
  have hfull : s.begin.resetFull p = false := by
    unfold State.resetFull State.queuesReset
    simp only [ho', hl, hawake, hh', Bool.or_self, Bool.false_and]
  unfold State.resetEvent State.takeReset
  rw [hfull, hw, ho']
  simp only [hl, hawake, hh', List.isEmpty_nil, Bool.not_true, Bool.or_self, Bool.false_eq_true, if_false]

/-- ENDPOINT_RESET_EVENT of an endpoint of a calm channel, which only changes the channel. -/
theorem exec_endpointReset {q : BitVec 12} (h : s.Ready n) (hp : q.toNat < 0x728) (ho : s.ownerOf q.toNat = some n)
    (hh : s.held n = false) (hf : (s.ch n).takeReset (s.seen n .none) q.toNat = c) (hc : c.Same (s.ch n)) :
    exec (.endpointResetEvent q) s = .next { s.moved n c [] with resetTakes := s.resetTakes ++ [(q.toNat, 3)] } := by
  have hset : (((s.begin.setCh n c).busyNow n).ackReset q.toNat).settled = true :=
    State.settled_same (c := s.ch n) h.settled h.chan (by simp) hc.edge
  have hev := h.begin_resetEvent hp ho hh
  rw [h.begin_atChan (fun e c => c.takeReset e q.toNat) hf hc] at hev
  show act s (fun s => s.resetEvent q.toNat) = _
  rw [act_powered h.por _ hev hset, State.setPll_ackReset]
  simp only [State.moved, State.leave_nil, State.ackReset, State.setPll_resetTakes, State.busyNow_resetTakes,
    State.setCh_resetTakes, State.begin_resetTakes]

/-- A trigger that does not run yet starts its shadow. -/
theorem Ch.startShadow_new {row key : Nat} (lanes : List Nat)
    (h : ∀ x ∈ c.ctl.shadows, ¬ (x.row = row ∧ x.key = key ∧ x.ends = none)) :
    c.startShadow row key lanes = { c with ctl := { c.ctl with shadows := c.ctl.shadows ++ [⟨row, key, lanes, none⟩] } } := by
  unfold Ch.startShadow
  rw [if_neg]
  simpa [List.any_eq_true, and_assoc] using h

/-- A channel with no staged train has none to drop. -/
theorem Ch.dropStaged_none (h : c.ru.staged = []) (hd : c.ru.discards < 2 ^ 64) : c.dropStaged lid = c := by
  have hsat : sat64 c.ru.discards = c.ru.discards := by unfold sat64; omega
  have hru : ({ c.ru with staged := [], discards := c.ru.discards } : Ru) = c.ru := by rw [← h]
  simp [Ch.dropStaged, h, hsat, hru]

/-- The fence of an endpoint with no wait and no staged train (R20): what it sets and which scans become due. -/
theorem Ch.fence_idle (hl : c.lidOf p = some lid) (hw : c.hw.parked = []) (he : c.hw.ended = []) (hst : c.ru.staged = [])
    (hd : c.ru.discards < 2 ^ 64) (hs : ∀ x ∈ c.ctl.shadows, ¬ (x.row = 0 ∧ x.key = p ∧ x.ends = none)) :
    c.fence e p = { c with
      ctl := { c.ctl with
        fenced := insertId p c.ctl.fenced,
        shadows := c.ctl.shadows ++ [⟨0, p, (List.range 32).filter (fun l => (c.lane l).members.contains lid), none⟩],
        connScan := c.ctl.connScan ++ (c.connsOf lid).map (fun m => (m, lid)) },
      lt := { c.lt with fencedIds := insertId lid c.lt.fencedIds } } := by
  have hl' : ({ c with ctl := { c.ctl with fenced := insertId p c.ctl.fenced } } : Ch).lidOf p = some lid := hl
  have hsh := fun lanes => Ch.startShadow_new (c := { c with ctl := { c.ctl with fenced := insertId p c.ctl.fenced } })
    (row := 0) (key := p) lanes hs
  have hhw : ({ c.hw with parked := [], ended := [] } : Hw) = c.hw := by rw [← hw, ← he]
  have hdrop : ∀ b : Ch, b.ru = c.ru → b.dropStaged lid = b := fun b hb =>
    Ch.dropStaged_none (hb ▸ hst) (hb ▸ hd)
  unfold Ch.fence
  simp only [hl', hsh, hw, he, List.filter_nil, Ch.endLost, hdrop, hhw]
  rfl

/-! ## The scan of a fenced ID's connections (R131) -/

/-- A connection and its pair that no error concerns are read well. -/
theorem Ch.readConn_clean (h : c.Sound) (he : e.inject = 0) (o : Op) (m : Nat) : c.readConn e o m = c := by
  unfold Ch.readConn
  rw [Ch.readEcc_clean h.1 h.2 he]
  exact readStr_clean h.1 h.2 rfl o _

/-- The reaction of an OPEN connection to the fence of its reader alone, which nobody waits for. -/
theorem Ch.fenceConn_reader (h : c.Sound) (hst : (c.conn m).st = .opened) (hw : c.PairAlone (connPair m))
    (hr : (c.conn m).receiver = lid) (hs : (c.conn m).sender ≠ lid) :
    c.fenceConn e m lid = c.putConn m { c.conn m with st := .broken } := by
  have hwaits : ∀ v, (c.putConn m v).sendWaits m = [] := by
    intro v
    have hp : c.waiters clStr (connPair m) ++ (if 0xC000 ≤ connPair m then c.waiters clConn (connPair m - 0xC000) else []) = [] := hw
    rw [if_pos (Nat.le_add_right _ _), Nat.add_sub_cancel_left] at hp
    obtain ⟨hstr, hconn⟩ := List.append_eq_nil_iff.mp hp
    show c.waiters clConn m ++ (c.waiters clStr (connPair m)).filter _ = []
    rw [hstr, hconn]
    rfl
  unfold Ch.fenceConn
  simp only [Ch.readConn_clean h (e := e.quiet) rfl, hst, hr, hs, decide_true, decide_false, Bool.false_and, Bool.and_false,
    Bool.false_eq_true, if_true, if_false, hwaits, Ch.endUnmet]

/-- The reaction of an OPEN connection to the fence of its sender alone, which nobody waits for. -/
theorem Ch.fenceConn_sender (h : c.Sound) (hst : (c.conn m).st = .opened) (hw : c.PairAlone (connPair m))
    (hr : (c.conn m).receiver ≠ lid) (hs : (c.conn m).sender = lid) :
    c.fenceConn e m lid = c.putConn m { c.conn m with st := .senderClosed, resValid := false, resPad := 0, resLen := 0 } := by
  have hwaits : ∀ v, (c.putConn m v).pairWaits (connPair m) = [] := fun _ => hw
  have hne : ConnSt.opened ≠ .listening := by decide
  unfold Ch.fenceConn Ch.senderCloses
  simp only [Ch.readConn_clean h (e := e.quiet) rfl, hst, hr, hs, hne, decide_true, decide_false, Bool.false_and, Bool.true_and,
    Bool.false_eq_true, if_true, if_false, ne_eq, not_false_eq_true, hwaits, Ch.endUnmet]

/-- The channel once its scan has no connection left to reach. -/
def Ch.connsScanned (c : Ch) : Ch := { c with ctl := { c.ctl with connScan := [] } }

/-- The scan reaches the last connection, at which one fenced ID is due. -/
theorem Ch.fenceReaction_last (h : c.ctl.connScan = [(m, lid)]) : c.fenceReaction e m = c.connsScanned.fenceConn e m lid := by
  simp [Ch.fenceReaction, Ch.connsScanned, h]

/-- An event of a unit of a calm channel, which leaves it quiet with nothing sent. -/
theorem exec_live (h : s.Ready n) (f : Env → Ch → Ch) (hf : f (s.seen n .none) (s.ch n) = c) (hc : c.Same (s.ch n)) :
    actLive s n .none f = .next (s.moved n c []) := by
  refine actLive_event h f ?_ hc
  rw [hf, Ch.settle_quiet hc.quiet.1 hc.quiet.2.2.2.1, ← hc.quiet.2.1]

/-! ## The lock scan (R216, R217, R219) -/

/-- A table entry that no error concerns is read well. -/
theorem Ch.scanRead_clean (hf : (c.fault .lt).pendForce = none) (hu : c.upsets = []) (i : Nat) : c.scanRead e i = c := by
  unfold Ch.scanRead Ch.readLock
  rw [Ch.readEcc_clean hf hu rfl]
  rfl

/-- An entry that nobody waits for is abandoned (R217). -/
theorem Ch.abandonLock_alone (h : c.lockWaiters i = []) :
    c.abandonLock e i =
      (({ c with lt := { c.lt with abandons := inc c.lt.abandons } } : Ch).putLock i
        { c.lockEntry i with held := false, owner := 0, context := 0, abandoned := true }) := by
  have hw : ({ c with lt := { c.lt with abandons := inc c.lt.abandons } } : Ch).lockWaiters i = [] := h
  unfold Ch.abandonLock
  simp only [hw, Ch.nextOwner]
  rfl

/-- One act that ends no wait has no loser. -/
theorem Ch.together_one {obj : Nat × Nat} {f : Ch → Ch} (h : c.endedBy obj f = []) (k : Nat) :
    c.together [(obj, f)] (k + 1) = f c := by
  simp [Ch.together, h]

/-- What the scan's acts on an entry that nobody waits for end. -/
theorem Ch.endedBy_lock (h : c.lockWaiters i = []) (f : Ch → Ch) : c.endedBy (clLock, i) f = [] := by
  unfold Ch.endedBy
  have hnone : c.hw.parked.filter (fun w => w.isTrain && !w.won && w.obj = (clLock, i)) = [] := by
    rw [List.filter_eq_nil_iff]
    intro w hw hx
    have hmem : w ∈ c.lockWaiters i := by
      simp only [Bool.and_eq_true] at hx
      exact List.mem_filter.mpr ⟨hw, by simpa [hx.1.2] using hx.2⟩
    rw [h] at hmem
    exact List.not_mem_nil hmem
  rw [hnone, List.filter_nil]

/-- The row of the table that holds entry `i`. -/
theorem filter_row_eq (i : Nat) : ((List.range 8).map (fun b => 8 * (i / 8) + b)).filter (fun n => n = i) = [i] := by
  have hnd : ((List.range 8).map (fun b => 8 * (i / 8) + b)).Nodup :=
    List.nodup_range.map fun a b hab => Nat.add_left_cancel hab
  have hmem : i ∈ (List.range 8).map (fun b => 8 * (i / 8) + b) :=
    List.mem_map.mpr ⟨i % 8, List.mem_range.mpr (Nat.mod_lt _ (by decide)), Nat.div_add_mod i 8⟩
  rw [List.filter_eq, List.count_eq_one_of_mem hnd hmem]
  rfl

/-- The scan of the row of the one entry, which a fenced ID holds and nobody waits for. -/
theorem Ch.scanRow_single {w : LockEntry} {ids : List Nat} (hf : (c.fault .lt).pendForce = none) (hu : c.upsets = [])
    (hr : c.raised = []) (he : c.lt.entries = [(i, w)]) (hv : w.valid = true) (hh : w.held = true) (ho : w.owner ∈ ids)
    (hw : c.lockWaiters i = []) : c.scanRow e ids (i / 8) = c.abandonLock e i := by
  have hcyc : c.newCycle = c := by unfold Ch.newCycle; rw [hr, List.map_nil, ← hr]
  have hread : ∀ l : List Nat, l.foldl (fun c n => c.scanRead e n) c = c := by
    intro l
    induction l with
    | nil => rfl
    | cons j l ih => rw [List.foldl_cons, Ch.scanRead_clean hf hu, ih]
  have hentry : ∀ j, c.lockEntry j = if i = j then w else {} := by
    intro j; unfold Ch.lockEntry; rw [he]; rfl
  have hhit : ∀ j, ((c.lockEntry j).valid && (c.lockEntry j).held && ids.contains (c.lockEntry j).owner) = decide (j = i) := by
    intro j
    rw [hentry]
    by_cases h : i = j
    · simp [h, hv, hh, ho]
    · have h' : ¬ j = i := fun x => h x.symm
      simp [h, h']
  unfold Ch.scanRow
  simp only [hcyc, hread, hhit, filter_row_eq, List.map_cons, List.map_nil]
  exact Ch.together_one (Ch.endedBy_lock hw _) 7

/-- No entry of a calm channel's table is struck. -/
theorem Ch.Calm.struckLocks (h : c.Calm) : c.struckLocks = [] := by
  unfold Ch.struckLocks
  simp [h.sound, h.unforced .lt]

/-- The scan of a table with one entry, which the one fenced ID holds and nobody waits for. -/
theorem Ch.startScan_single {w : LockEntry} (h : c.Calm) (he : c.lt.entries = [(i, w)]) (hv : w.valid = true) (hh : w.held = true)
    (ho : w.owner = lid) (hw : c.lockWaiters i = []) (hs : c.lt.scanning = false) (hi : c.lt.fencedIds = [lid]) :
    c.startScan e =
      (let c1 := c.putLock i { w with held := false, owner := 0, context := 0, abandoned := true }
       { c1 with lt := { c1.lt with scanning := true, scanIds := [lid], fencedIds := [], abandons := inc c.lt.abandons } }) := by
  have hrows : ((c.lt.entries.filter (fun p => p.2.valid && p.2.held && [lid].contains p.2.owner)).map (·.1) ++ c.struckLocks).foldl
      (fun l n => insertId (n / 8) l) [] = [i / 8] := by
    simp [he, hv, hh, ho, h.struckLocks, insertId]
  have hrow := Ch.scanRow_single (e := e) (ids := [lid])
    (c := { c with lt := { c.lt with scanning := true, scanIds := [lid], fencedIds := [] } })
    (h.unforced .lt) h.sound h.quiet.2.2.1 he hv hh (by simp [ho]) hw
  have hab := Ch.abandonLock_alone (e := e) (i := i)
    (c := { c with lt := { c.lt with scanning := true, scanIds := [lid], fencedIds := [] } }) hw
  have hent : ({ c with lt := { c.lt with scanning := true, scanIds := [lid], fencedIds := [] } } : Ch).lockEntry i = w := by
    unfold Ch.lockEntry
    simp [he, SMap.get]
  rw [hent] at hab
  unfold Ch.startScan
  rw [if_neg (by simp [hs, hi])]
  simp only [hi, hrows, List.foldl_cons, List.foldl_nil]
  exact hrow.trans hab

/-- The running scan ends where no reaction and no map write waits for it (R219). -/
theorem Ch.endScan_free (hs : c.lt.scanning = true) (hb : c.scanBusy = false) (hm : c.lt.heldMap = none) :
    c.endScan e = ({ c with lt := { c.lt with scanning := false, scanIds := [] } } : Ch).settleFences e.time := by
  have hm' : (({ c with lt := { c.lt with scanning := false, scanIds := [] } } : Ch).settleFences e.time).lt.heldMap = none := hm
  unfold Ch.endScan
  simp only [hs, hb, hm', Bool.not_true, Bool.or_self, Bool.false_eq_true, if_false]

/-! ## The events -/

theorem exec_endpointReset_no_owner {q : BitVec 12} (h : s.Ready n) (ho : s.ownerOf q.toNat = none) :
    exec (.endpointResetEvent q) s = .next { s.begin with
      pt := { s.pt with resetIgnored := inc s.pt.resetIgnored }, resetTakes := s.resetTakes ++ [(q.toNat, 3)] }.setPll :=
  act_powered h.por _ (State.resetEvent_of_no_owner h.settled ho) h.settled

theorem exec_endpointReset_fenced {q : BitVec 12} (h : s.Ready n) (hp : q.toNat < 0x728) (ho : s.ownerOf q.toNat = some n)
    (hh : s.held n = false) (hf : q.toNat ∈ (s.ch n).ctl.fenced) :
    exec (.endpointResetEvent q) s = .next { s.moved n { s.ch n with
      ctl := { (s.ch n).ctl with resetIgnored := inc (s.ch n).ctl.resetIgnored } } [] with
      resetTakes := s.resetTakes ++ [(q.toNat, 3)] } := by
  refine exec_endpointReset h hp ho hh ?_ ⟨h.calm.quiet, rfl⟩
  unfold Ch.takeReset
  rw [if_pos (.inr (List.contains_iff_mem.mpr hf))]

/-- A calm channel fences an endpoint that it has not fenced yet. -/
theorem Ch.Calm.takeReset_unfenced (h : c.Calm) (hf : p ∉ c.ctl.fenced) : c.takeReset e p = c.fence e p := by
  unfold Ch.takeReset
  rw [if_neg]
  rintro (hst | hin)
  · exact hst h.run
  · exact hf (List.contains_iff_mem.mp hin)

/-- FENCE_REACTION at the last connection to scan, which it leaves as `v`. -/
theorem exec_fenceReaction_last {k : ChanId} {b : BitVec 14} {v : Conn} (h : s.Ready k.val)
    (hscan : (s.ch k.val).ctl.connScan = [(b.toNat, lid)])
    (hreact : (s.ch k.val).connsScanned.fenceConn (s.seen k.val .none) b.toNat lid = (s.ch k.val).connsScanned.putConn b.toNat v) :
    exec (.fenceReaction k b) s =
      .next (s.moved k.val ((((s.ch k.val).putConn b.toNat v).connsScanned).settleFences s.time) []) := by
  refine exec_live h _ ?_ ⟨h.calm.quiet, rfl⟩
  rw [Ch.fenceReaction_last hscan, hreact]
  rfl

/-- Settles O28: each event by the law of its effect on the channel (the fence, the reaction, the scan, its end). -/
theorem fences : Obligations.Fences := by
  refine ⟨fun s q n lid h => ⟨exec_endpointReset_no_owner h, fun hp ho hh => ⟨?_, ?_⟩⟩, fun s k lid b v i w h => ⟨?_, ?_, ?_⟩⟩
  · exact exec_endpointReset_fenced h hp ho hh
  · intro hf hl hw he hst hd hs
    refine exec_endpointReset h hp ho hh ?_ ⟨h.calm.quiet, rfl⟩
    rw [h.calm.takeReset_unfenced hf, Ch.fence_idle hl hw he hst hd hs]
  · intro hv hst hscan hw
    subst hv
    exact ⟨fun hr hs => exec_fenceReaction_last h hscan (Ch.fenceConn_reader h.calm.os hst hw hr hs),
      fun hr hs => exec_fenceReaction_last h hscan (Ch.fenceConn_sender h.calm.os hst hw hr hs)⟩
  · intro he hv hh ho hw hs hi
    exact exec_live h _ (Ch.startScan_single h.calm he hv hh ho hw hs hi) ⟨h.calm.quiet, rfl⟩
  · intro hs hb hm
    exact exec_live h _ (Ch.endScan_free hs hb hm) ⟨h.calm.quiet, rfl⟩

/-! ## A connection that is listed twice -/

/-- A state outside the canonical form of the stores: LISTENING connection 0 of channel A is listed twice, and its scan is due. -/
def twiceListed : State :=
  { por := false
    chA := { ctl := { st := .run, connScan := [(0, 0)] }, clk := { st := .active },
             os := { conns := [(0, { st := .listening }), (0, { st := .listening })] } } }

theorem twiceListed_ready : twiceListed.Ready 0 where
  por := rfl
  chan := by decide
  single := rfl
  settled := by decide
  calm := ⟨rfl, rfl, ⟨rfl, rfl, rfl, rfl, rfl⟩, rfl, rfl, rfl, rfl, rfl, fun u => by cases u <;> rfl⟩

theorem exec_fenceReaction_twiceListed : exec (.fenceReaction 0 0) twiceListed =
    .next (twiceListed.moved 0 ((((twiceListed.ch 0).putConn 0 {}).connsScanned).settleFences 0) []) :=
  exec_fenceReaction_last twiceListed_ready rfl rfl

/-- Refutes O29: its FENCE_REACTION clause has no premise that the connections are listed in canonical form. Where one is listed
twice, freeing it removes the first entry only, so it still reads LISTENING. The stores' writes keep the canonical form
(`SMap.wf_put`), so a premise `SMap.wf {} c.os.conns = true` is what the clause lacks. -/
theorem not_fenceEventsComplete : ¬ Obligations.FenceEventsComplete := by
  rintro ⟨-, hreact, -⟩
  obtain ⟨t, ht, -, hfree, -⟩ := hreact twiceListed 0 0 0 { st := .listening } twiceListed_ready rfl (by decide)
  rw [exec_fenceReaction_twiceListed] at ht
  obtain rfl := Host.Outcome.next.inj ht
  have hst : ((((twiceListed.ch 0).putConn 0 {}).connsScanned.settleFences 0).conn 0).st = .listening := by decide
  have hfree' := hfree rfl (.inl rfl)
  rw [State.moved, State.ch_setPll, State.ch_busyNow, State.ch_leave] at hfree'
  exact absurd (hst.symm.trans hfree') (by decide)
end
end Sys2Proof.Machine

section

/-! ## CH_MAP_DATA (R21, R155)

The write reaches `Ch.mapEval` where no lock scan of the logical ID is to finish; the outcome is the first rule of `Ch.mapCode`. -/

namespace Sys2Proof.Machine
section
variable {s : State} {n lid v code : Nat} {c d : Ch} {chanOf : Nat → Nat} {who : Requester} {fn : BitVec 8}

/-- A logical ID that is a member of no lane leaves no lane. -/
theorem Ch.remapLanes_of_no_member {valid : Bool} (h : ∀ l < 32, lid ∉ (c.lane l).members ∧ lid ∉ (c.lane l).next) :
    c.remapLanes lid valid = c := by
  unfold Ch.remapLanes
  refine List.foldlRecOn (motive := (· = c)) _ _ rfl ?_
  rintro d rfl l hl
  obtain ⟨hm, hn⟩ := h l (List.mem_range.1 hl)
  simp [hm, hn]

/-- A map write of a logical ID that no scan concerns is evaluated at once. -/
theorem Ch.mapWrite_of_no_scan (h1 : lid ∉ c.lt.fencedIds) (h2 : lid ∉ c.lt.scanIds) :
    c.mapWrite who n chanOf lid v = c.mapEval n chanOf lid v := by
  have h : c.scanPending lid = false := by simp [Ch.scanPending, h1, h2]
  simp [Ch.mapWrite, h]

/-- In RUN, an outcome other than 0, a constant ID or an unchanged entry leaves the map as it is (R21). -/
theorem Ch.mapEval_result (hrun : c.ctl.st = .run) (hc : c.mapCode n chanOf lid v = code)
    (h : code ≠ 0 ∨ 0xFFE ≤ lid ∨ (⟨v.testBit 16, fld v 11 0⟩ : MapEntry) = c.ctl.map.get {} lid) :
    c.mapEval n chanOf lid v = c.mapResult lid code := by
  unfold Ch.mapEval
  simp only [hrun, ne_eq, not_true_eq_false, if_false, hc]
  exact if_pos h

/-- A changed entry with outcome 0 takes its place in the map; a valid core counts as replaced (R21, R344). -/
theorem Ch.mapEval_change {phys : Nat} {valid : Bool} (hrun : c.ctl.st = .run) (hc : c.mapCode n chanOf lid v = 0) (hl : lid < 0xFFE)
    (hp : fld v 11 0 = phys) (hv : v.testBit 16 = valid)
    (h : ¬ (valid = (c.ctl.map.get {} lid).valid ∧ phys = (c.ctl.map.get {} lid).phys))
    (hm : ∀ l < 32, lid ∉ (c.lane l).members ∧ lid ∉ (c.lane l).next) :
    c.mapEval n chanOf lid v = { c with ctl := { c.ctl with
      mapResLid := lid, mapResCode := 0, map := c.ctl.map.put {} lid ⟨valid, phys⟩,
      replaced := c.ctl.replaced + b01 (valid && decide (phys ≤ 0x3FF)) } } := by
  subst hp hv
  have hne : (⟨v.testBit 16, fld v 11 0⟩ : MapEntry) ≠ c.ctl.map.get {} lid := fun he => h (by rw [← he]; exact ⟨rfl, rfl⟩)
  unfold Ch.mapEval
  simp only [hrun, ne_eq, not_true_eq_false, if_false, hc]
  refine (if_neg (show ¬ (False ∨ 0xFFE ≤ lid ∨ (⟨v.testBit 16, fld v 11 0⟩ : MapEntry) = c.ctl.map.get {} lid) from ?_)).trans
    ?_
  · simp [Nat.not_le.2 hl, hne]
  · exact (Ch.remapLanes_of_no_member (by exact hm)).trans (by simp only [Ch.mapResult, hrun, bit])

/-! ### The outcome codes in order (R21) -/

theorem Ch.mapCode_constant (h : 0xFFE ≤ lid) : c.mapCode n chanOf lid v = 5 := by
  simp [Ch.mapCode, h]

/-- The order of the rules (R21), over what a write asks for. -/
theorem Ch.mapCode_eq {phys : Nat} {valid : Bool} {old : MapEntry} (hl : lid < 0xFFE) (hp : fld v 11 0 = phys)
    (hv : v.testBit 16 = valid) (ho : c.ctl.map.get {} lid = old) :
    c.mapCode n chanOf lid v =
      if valid = old.valid ∧ phys = old.phys then 0
      else if valid = true ∧ 0x727 < phys then 1
      else if valid = true ∧ chanOf phys ≠ n then 2
      else if valid = true ∧ ∃ p ∈ c.ctl.map, p.2.valid = true ∧ p.2.phys = phys ∧ p.1 ≠ lid then 3
      else if valid = true ∧ phys ∈ c.ctl.fenced then 4
      else if old.valid = true ∧ old.phys ∉ c.ctl.fenced then 7
      else 0 := by
  subst hp hv ho
  have hany : (c.ctl.map.any (fun p => p.2.valid && p.2.phys = fld v 11 0 && p.1 ≠ lid) = true) ↔
      ∃ p ∈ c.ctl.map, p.2.valid = true ∧ p.2.phys = fld v 11 0 ∧ p.1 ≠ lid := by
    rw [List.any_eq_true]
    simp [and_assoc]
  unfold Ch.mapCode
  simp only [hany]
  simp [Nat.not_le.2 hl, bit]
  congr

/-! ### The command -/

/-- A map write at a channel that stands alone, of a logical ID with no lock scan to finish, only replaces that channel. -/
theorem State.writeMap_single {b : State} (hp : (b.pair n).st = .single) (hsel : (b.ch n).ctl.mapSel = lid)
    (h1 : lid ∉ (b.ch n).lt.fencedIds) (h2 : lid ∉ (b.ch n).lt.scanIds)
    (he : (b.ch n).mapEval n (tblChan b.pt.table) lid v = c) (hc : c.Quiet) :
    b.writeMap who n v = (b.setCh n c).leave [] := by
  obtain ⟨htodo, hout, hraised, hhalt, herr⟩ := hc
  have hlead : b.lead n = n := by simp [State.lead, hp]
  have hset : ((b.ch n).mapWrite who n (tblChan b.pt.table) lid v).settle (b.env n false .none) = c := by
    rw [Ch.mapWrite_of_no_scan h1 h2, he, Ch.settle_quiet htodo hhalt]
  have hnil : ({ c with out := [] } : Ch) = c := by rw [← hout]
  unfold State.writeMap State.onChan State.runAlone
  rw [hlead, hp, hsel]
  simp only [ne_eq, not_true_eq_false, decide_false]
  rw [show (b.env n false .none).chan = n from rfl, show (b.env n false .none).pt = b.pt from rfl, hset,
    State.finish_quiet _ _ htodo hraised hhalt herr, hout, hnil]

/-- A write of CH_MAP_DATA in the window of a first side is a map write. -/
theorem State.writeWindow_mapData {off : Nat} (h : s.windowOf off = (n, n)) (hp : off / 0x1000 % 0x100 = 0)
    (ho : off % 0x1000 = 0x108) : s.writeWindow who off v = s.writeMap who n v := by
  unfold State.writeWindow
  simp [h, hp, ho]

theorem State.writeReg_mapData (h : s.Ready n) (hw : InWindow n 0 0x108) :
    s.writeReg who (chanOff n 0 0x108) v = s.writeMap who n v := by
  obtain ⟨-, hpage, hoff, hwin, -⟩ := hw.split
  rw [State.writeReg_window hw.faultAt hwin]
  exact State.writeWindow_mapData (h.windowOf hw) hpage hoff

/-- The command issued, its channel is as it was. -/
theorem State.Ready.issued (h : s.Ready n) (off : Nat) : (s.issued off).Ready n := by
  obtain ⟨q, b, he, -⟩ := s.issued_eq off
  exact ⟨by rw [he]; exact h.por, h.chan, by rw [State.issued_pair]; exact h.single, by rw [State.settled_issued]; exact h.settled,
    by rw [State.issued_ch]; exact h.calm⟩

/-- A channel's window is its queue's. -/
theorem InWindow.queueOf {page o : Nat} (hw : InWindow n page o) : Machine.queueOf (chanOff n page o) - 1 = n := by
  have h := hw.split.1
  unfold Machine.queueOf
  omega

/-- No map write waits at a single channel where none waited before it changed. -/
theorem State.Ready.mapHeld_setCh {b : State} (hb : b.Ready n) (hlt : c.lt = (b.ch n).lt) :
    ((b.setCh n c).leave []).mapHeld n = b.mapHeld n := by
  have hc : ((b.setCh n c).leave []).ch n = c := by rw [State.ch_leave, State.ch_setCh_self]
  simp [State.mapHeld, State.isSecond, State.windowSide, State.firstOf, State.lead, hb.single, hc, hlt]

/-- CH_MAP_DATA at a channel that stands alone, of a logical ID with no lock scan to finish: the channel becomes what the evaluation
leaves. -/
theorem exec_mapWrite {k : ChanId} {w : Word} (h : s.Ready k.val) (ha : s.Admits fn (chanOff k.val 0 0x108) w.toNat)
    (hsel : (s.ch k.val).ctl.mapSel = lid) (h1 : lid ∉ (s.ch k.val).lt.fencedIds) (h2 : lid ∉ (s.ch k.val).lt.scanIds)
    (he : (s.ch k.val).mapEval k.val (tblChan s.pt.table) lid w.toNat = c) (hc : c.Same (s.ch k.val)) (hlt : c.lt = (s.ch k.val).lt) :
    exec (.chMapData (.host fn) k w) s = .next (s.wroteChan fn (chanOff k.val 0 0x108) w.toNat k.val c []) := by
  have hw : InWindow k.val 0 0x108 := ⟨h.chan, by decide, by decide⟩
  have hi := h.issued (chanOff k.val 0 0x108)
  refine act_write ha (t := ((s.issued (chanOff k.val 0 0x108)).setCh k.val c).leave []) ?_ ?_ ?_
  · rw [State.writeReg_mapData hi hw]
    refine State.writeMap_single (lid := lid) hi.single ?_ ?_ ?_ ?_ hc.quiet <;>
      simp only [State.issued_ch, State.issued_pt] <;> assumption
  · rw [hw.queueOf, hi.mapHeld_setCh (by rw [State.issued_ch]; exact hlt)]
    have : (s.issued (chanOff k.val 0 0x108)).mapHeld k.val = s.mapHeld k.val := by
      simp [State.mapHeld, State.isSecond, State.windowSide, State.firstOf, State.lead, h.single]
    rw [this]
    simp
  · rw [State.settled_leave]
    exact State.settled_same hi.settled h.chan (by rw [State.issued_ch]) hc.edge

/-- Settles O30: `Ch.mapCode_eq` gives the order of the outcomes, and each is a command by `exec_mapWrite`. -/
theorem mapWrites : Obligations.MapWrites := by
  intro s n v fn lid phys valid old h ha hsel h1 h2 hp hv ho
  have hrun := h.calm.run
  have hanswer : ∀ code, (s.ch n.val).mapCode n.val (tblChan s.pt.table) lid v.toNat = code →
      code ≠ 0 ∨ 0xFFE ≤ lid ∨ (⟨v.toNat.testBit 16, fld v.toNat 11 0⟩ : MapEntry) = (s.ch n.val).ctl.map.get {} lid →
      exec (.chMapData (.host fn) n v) s = .next (s.wroteChan fn (chanOff n.val 0 0x108) v.toNat n.val
        ((s.ch n.val).mapResult lid code) []) := fun code hcode hkeep =>
    exec_mapWrite h ha hsel h1 h2 (Ch.mapEval_result hrun hcode hkeep) ⟨h.calm.quiet, rfl⟩ rfl
  refine ⟨fun hl => hanswer 5 (Ch.mapCode_constant hl) (.inr (.inl hl)), fun hl hval hphys => ?_, fun hl hne => ?_⟩
  · refine hanswer 0 ?_ (.inr (.inr ?_))
    · rw [Ch.mapCode_eq hl hp hv ho, if_pos ⟨hval, hphys⟩]
    · rw [hv, hp, ho, hval, hphys]
  · have hcode := Ch.mapCode_eq (n := n.val) (chanOf := tblChan s.pt.table) hl hp hv ho
    rw [if_neg hne] at hcode
    refine ⟨fun hv1 hph => hanswer 1 ?_ (.inl (by decide)), fun hv1 hph hch => hanswer 2 ?_ (.inl (by decide)),
      fun hv1 hph hch hused => hanswer 3 ?_ (.inl (by decide)), fun hv1 hph hch hused hfen => hanswer 4 ?_ (.inl (by decide)),
      fun hgood => ?_⟩
    · rw [hcode, if_pos ⟨hv1, hph⟩]
    · rw [hcode, if_neg (by omega), if_pos ⟨hv1, hch⟩]
    · rw [hcode, if_neg (by omega), if_neg (by simp [hch]), if_pos ⟨hv1, hused⟩]
    · rw [hcode, if_neg (by omega), if_neg (by simp [hch]), if_neg (fun hx => hused hx.2), if_pos ⟨hv1, hfen⟩]
    · rw [if_neg (fun hx => absurd (hgood hx.1).1 (Nat.not_le.2 hx.2)), if_neg (fun hx => hx.2 (hgood hx.1).2.1),
        if_neg (fun hx => (hgood hx.1).2.2.1 hx.2), if_neg (fun hx => (hgood hx.1).2.2.2 hx.2)] at hcode
      refine ⟨fun hov hof => hanswer 7 ?_ (.inl (by decide)), fun hold hmem => ?_⟩
      · rw [hcode, if_pos ⟨hov, hof⟩]
      · rw [if_neg (fun hx => hx.2 (hold hx.1))] at hcode
        exact exec_mapWrite h ha hsel h1 h2 (Ch.mapEval_change hrun hcode hl hp hv (by rwa [ho]) hmem) ⟨h.calm.quiet, rfl⟩ rfl

end
end Sys2Proof.Machine
end

section

/-! ## Time and SCE_ERR_N (R329, R364, R428) -/

namespace Sys2Proof.Machine
section
variable {s : State} {v : Nat} {who : Requester} {fn : BitVec 8}

/-- Of the clocks and of HP_ERR_ACK's crossing, two states agree. -/
structure State.SameClocks (b s : State) : Prop where
  ck    : b.ck = s.ck
  time  : b.time = s.time
  stamp : b.stamp = s.begin.stamp
  pend  : b.hp.ackPend = s.hp.ackPend
  ackAt : b.hp.ackAt = s.hp.ackAt

/-- The issue of a write moves no clock. -/
theorem State.issued_clocks (s : State) (off : Nat) : (s.issued off).SameClocks s := by
  unfold State.issued
  dsimp only
  split <;> exact ⟨rfl, rfl, rfl, rfl, rfl⟩

theorem State.writeReg_tmAlarm : s.writeReg who 0x5008 v =
    { s with ck := { s.ck with tmAlarm := v, tmAlarmAt := s.time, tmArmed := true } } := rfl

theorem State.writeReg_errAck : s.writeReg who 0x2408 v = s.errAck v := rfl

/-- A write of HP_ERR_ACK without bit 0 does nothing. -/
theorem State.errAck_none (hv : v.testBit 0 = false) : s.errAck v = s := by
  simp [State.errAck, bit, hv]

/-- An acknowledgement outside the spacing interval of the one before crosses at once (R329). -/
theorem State.errAck_crosses (hv : v.testBit 0 = true) (hp : s.hp.ackPend = false)
    (ha : ∀ a, s.hp.ackAt = some a → a + 80 ≤ s.stamp) :
    s.errAck v = { s with hp := { s.hp with ackNew := true, ackAt := some s.stamp, errShared := false, errChans := 0 } } := by
  have hflow : s.hp.ackFlow s.stamp = s.hp := by
    unfold Hp.ackFlow
    split <;> simp [hp]
  have hclose : s.hp.ackClose s.stamp = false := by
    unfold Hp.ackClose
    split
    · rfl
    · next a h => simp [ha a h]
  simp only [State.errAck, Hp.sendAck, bit, hv, hflow, hclose, if_true, Bool.false_eq_true, if_false]

/-- An acknowledgement within the spacing interval of the one before is merged with it (R364). -/
theorem State.errAck_merged {a : Nat} (hv : v.testBit 0 = true) (ha : s.hp.ackAt = some a) (hlt : s.stamp < a + 80) :
    s.errAck v = { s with hp := { s.hp with ackPend := true, errShared := false, errChans := 0 },
                          ck := { s.ck with overrun := setBit s.ck.overrun 7 } } := by
  have hflow : s.hp.ackFlow s.stamp = s.hp := by
    simp [Hp.ackFlow, ha, Nat.not_le.2 hlt]
  have hclose : s.hp.ackClose s.stamp = true := by
    simp [Hp.ackClose, ha, hlt]
  simp only [State.errAck, Hp.sendAck, bit, hv, hflow, hclose, if_true]

/-- A write of HP_ERR_ACK is a write in the shared region. -/
theorem exec_hpErrAck {w : Word} (h : s.Admits fn 0x2408 w.toNat) {f : State → State}
    (hf : (s.issued 0x2408).errAck w.toNat = f (s.issued 0x2408)) (hset : (f (s.issued 0x2408)).settled = (s.issued 0x2408).settled) :
    exec (.hpErrAck (.host fn) w) s = .next (s.wrote fn 0x2408 w.toNat f) :=
  act_write_shared h (by decide) hf (by rw [hset, State.settled_issued]; exact h.settled)

theorem exec_tmAlarm {w : Word} (h : s.Admits fn 0x5008 w.toNat) :
    exec (.tmAlarm (.host fn) w) s = .next (s.wrote fn 0x5008 w.toNat (fun t =>
      { t with ck := { t.ck with tmAlarm := w.toNat, tmAlarmAt := s.time, tmArmed := true } })) := by
  refine act_write_shared h (by decide) ?_ (State.settled_issued (s := s) 0x5008 ▸ h.settled)
  rw [State.writeReg_tmAlarm, (s.issued_clocks 0x5008).time]

/-- A command that changes nothing of a settled block. -/
theorem act_nothing (hpor : s.por = false) (hset : s.settled = true) (f : State → State) (hf : f s.begin = s.begin) :
    act s f = .next s.begin.setPll :=
  act_powered hpor f hf hset

/-! ### The expiry of TM_ALARM and the end of the low time -/

theorem State.tmExpires_due (h1 : s.ck.tmArmed = true) (h2 : s.ck.tmAlarm ≤ s.time) (h3 : s.ck.tmAlarmAt < s.time) :
    s.tmExpires = { s with ck := { s.ck with tmArmed := false, tmEvent := true } } := by
  simp [State.tmExpires, h1, h2, h3]

theorem State.tmExpires_early (h : s.ck.tmArmed = false ∨ s.time < s.ck.tmAlarm ∨ s.time ≤ s.ck.tmAlarmAt) : s.tmExpires = s := by
  unfold State.tmExpires
  refine if_neg fun hx => ?_
  simp only [Bool.and_eq_true, decide_eq_true_eq] at hx
  obtain ⟨⟨harmed, hdue⟩, hlater⟩ := hx
  rcases h with h | h | h
  · rw [h] at harmed; exact absurd harmed (by decide)
  · omega
  · omega

section
variable {h : Hp}

theorem Hp.lowTimeEnd_acked (h1 : h.errLow = true) (h2 : 100 < h.errCount) (h3 : h.acked = true) :
    h.lowTimeEnd = { h with errDone := true, errLow := false, acked := false } := by
  simp [Hp.lowTimeEnd, h1, h2, h3]

theorem Hp.lowTimeEnd_waits (h1 : h.errLow = true) (h2 : 100 < h.errCount) (h3 : h.acked = false) :
    h.lowTimeEnd = { h with errDone := true } := by
  simp [Hp.lowTimeEnd, h1, h2, h3]

theorem Hp.lowTimeEnd_early (h1 : h.errLow = false ∨ h.errCount ≤ 100) : h.lowTimeEnd = h := by
  unfold Hp.lowTimeEnd
  refine if_neg fun hx => ?_
  simp only [Bool.and_eq_true, decide_eq_true_eq] at hx
  rcases h1 with h1 | h1
  · rw [h1] at hx; exact absurd hx.1 (by decide)
  · omega

end

/-- ERR_LOW_TIME_END touches HP alone. -/
theorem exec_errLowTimeEnd (hpor : s.por = false) (hset : s.settled = true) :
    exec .errLowTimeEnd s = .next { s.begin with hp := s.hp.lowTimeEnd }.setPll := by
  obtain ⟨hqueues, hport⟩ := Hp.lowTimeEnd_eq s.hp
  refine act_powered hpor (fun s => { s with hp := s.hp.lowTimeEnd }) rfl ?_
  rw [← hset]
  unfold State.settled
  simp only [hqueues, hport]
  rfl

end
end Sys2Proof.Machine
end

section

/-! ## The trip pin at a keep tick (R28)

What follows the tick within its command may change channels. It leaves the flops of SCE_TRIP_N, the pairs and what waits at the
block's edges. -/

namespace Sys2Proof.Machine
section
variable {s a b : State} {n : Nat} {α : Type}

/-- The flops of SCE_TRIP_N and its effect (R28). -/
def State.tripFlops (s : State) : Bool × Bool × Bool × Bool := (s.trip1, s.trip2, s.tripTaken, s.trip)

/-- The flops of SCE_TRIP_N, the pairs, and what waits at the edges of the block. -/
def State.rim (s : State) :=
  (s.tripFlops, s.pairAB, s.pairCD, s.nodeWait, s.bayQ, s.resetWait, s.hp.queues, s.hp.atPort)

theorem State.tripFlops_of_rim (h : b.rim = a.rim) : b.tripFlops = a.tripFlops := (Prod.mk.inj h).1

/-- No channel has a partner. -/
def State.AllSingle (s : State) : Prop := s.pairAB.st = .single ∧ s.pairCD.st = .single

theorem State.AllSingle.pair (h : s.AllSingle) (n : Nat) : (s.pair n).st = .single := by
  unfold State.pair
  split
  · exact h.1
  · exact h.2

theorem State.AllSingle.of_rim (h : a.AllSingle) (hb : b.rim = a.rim) : b.AllSingle := by
  simp only [State.rim, Prod.mk.injEq] at hb
  obtain ⟨-, hab, hcd, -⟩ := hb
  unfold State.AllSingle
  rw [hab, hcd]
  exact h

@[simp] theorem State.rim_setCh (s : State) (n : Nat) (c : Ch) : (s.setCh n c).rim = s.rim := by
  simp [State.rim, State.tripFlops]

@[simp] theorem State.rim_leave (s : State) (l : List Output) : (s.leave l).rim = s.rim := rfl
@[simp] theorem State.rim_errPulse (s : State) (n : Option Nat) : (s.errPulse n).rim = s.rim := rfl
@[simp] theorem State.rim_busyNow (s : State) (n : Nat) : (s.busyNow n).rim = s.rim := rfl
@[simp] theorem State.rim_renew (s : State) : s.renew.rim = s.rim := rfl
@[simp] theorem State.rim_onPt (s : State) (f : Pt → Pt) : (s.onPt f).rim = s.rim := rfl

@[simp] theorem State.rim_setPll (s : State) : s.setPll.rim = s.rim := by
  simp [State.rim, State.tripFlops]

@[simp] theorem State.rim_finish (s : State) (n : Nat) (c : Ch) (l : List Output) : (s.finish n c l).rim = s.rim := by
  unfold State.finish
  dsimp only
  split <;> simp

theorem State.AllSingle.rim_onChan (h : s.AllSingle) (m : MemErr) (f : Env → Ch → Ch) : (s.onChan n m f).rim = s.rim := by
  unfold State.onChan State.runAlone
  simp [h.pair n]

theorem State.AllSingle.rim_atChan (h : s.AllSingle) (m : MemErr) (f : Env → Ch → Ch) : (s.atChan n m f).rim = s.rim := by
  unfold State.atChan
  split
  · rfl
  · simp [h.rim_onChan]

theorem State.AllSingle.rim_onOwn (h : s.AllSingle) (f : Env → Ch → Ch) : (s.onOwn n f).rim = s.rim := by
  unfold State.onOwn
  split
  · rfl
  · exact h.rim_onChan _ _

theorem State.AllSingle.rim_foldl {f : State → α → State} (hf : ∀ t x, t.AllSingle → (f t x).rim = t.rim) (l : List α)
    (h : s.AllSingle) : (l.foldl f s).rim = s.rim := by
  induction l generalizing s with
  | nil => rfl
  | cons x l ih =>
    have hx := hf s x h
    exact (ih (h.of_rim hx)).trans hx

theorem State.AllSingle.rim_takeReset (h : s.AllSingle) (phys : Nat) : (s.takeReset phys).rim = s.rim := by
  unfold State.takeReset
  split
  · simp
  · dsimp only
    split
    · exact h.rim_atChan _ _
    · split
      · simp
      · exact h.rim_atChan _ _

theorem State.AllSingle.rim_serveResets (h : s.AllSingle) (k : Nat) : (s.serveResets k).rim = s.rim := by
  unfold State.serveResets
  dsimp only
  split
  · rfl
  · have hclean : ∀ c, (s.setCh k c).isPaired k = false := fun c => by
      simp [State.isPaired, h.pair k]
    rw [hclean, if_neg (by decide)]
    refine (State.AllSingle.rim_foldl (fun t p ht => ?_) _ (h.of_rim (State.rim_setCh s k _))).trans (State.rim_setCh s k _)
    exact (ht.of_rim t.rim_renew).rim_takeReset p

theorem State.AllSingle.rim_serveChan (h : s.AllSingle) (k : Nat) : (s.serveChan k).rim = s.rim := by
  have hr := h.rim_serveResets k
  unfold State.serveChan
  dsimp only
  split
  · rfl
  · split
    · exact hr
    · exact ((h.of_rim hr).of_rim (State.rim_renew _)).rim_atChan _ _ |>.trans hr

@[simp] theorem State.rim_gateIdle (s : State) (n : Nat) : (s.gateIdle n).rim = s.rim := by
  unfold State.gateIdle
  split <;> simp

@[simp] theorem State.rim_markBusy (s : State) (n : Nat) : (s.markBusy n).rim = s.rim := by
  unfold State.markBusy
  dsimp only
  split
  · rfl
  · split <;> simp

/-- Nothing waits at the host port: nothing is served there. -/
theorem State.serveHost_empty (hq : s.hp.queues = []) (hp : s.hp.atPort = []) : s.serveHost = s := by
  have hw : ∀ q, s.hp.waiting q = [] := fun q => by unfold Hp.waiting; rw [hq]; rfl
  have hb : s.hp.backlog = 0 := by simp [Hp.backlog, hw, hp]
  unfold State.serveHost State.arbitrate
  simp [hb, hw]

/-- No channel has a partner, and nothing waits at the nodes, the bays, for a reset event or at the host port. -/
structure State.Bare (s : State) : Prop where
  single : s.AllSingle
  node   : s.nodeWait = []
  bay    : s.bayQ = []
  reset  : s.resetWait = []
  queues : s.hp.queues = []
  port   : s.hp.atPort = []

theorem State.Bare.of_rim (h : a.Bare) (hb : b.rim = a.rim) : b.Bare := by
  have hsingle := h.single.of_rim hb
  simp only [State.rim, Prod.mk.injEq] at hb
  obtain ⟨-, -, -, hnode, hbay, hreset, hqueues, hport⟩ := hb
  exact ⟨hsingle, hnode.trans h.node, hbay.trans h.bay, hreset.trans h.reset, hqueues.trans h.queues, hport.trans h.port⟩

/-- Where nothing waits but reset events and messages at channels, what is served at the end of a command leaves the rim. -/
theorem State.Bare.rim_serveWaiting (h : s.Bare) : s.serveWaiting.rim = s.rim := by
  have h1 : ([0, 1, 2, 3].foldl State.serveChan s).rim = s.rim :=
    h.single.rim_foldl (fun t n ht => ht.rim_serveChan n) _
  have hb := h.of_rim h1
  unfold State.serveWaiting
  generalize [0, 1, 2, 3].foldl State.serveChan s = t at h1 hb
  have hreset : ∀ f : State → Nat → State, t.resetWait.foldl f { t with resetWait := [] } = t := fun f => by
    rw [hb.reset, List.foldl_nil, ← hb.reset]
  have hbay : ∀ f : State → Packet → State, t.bayQ.foldl f { t with bayQ := [] } = t := fun f => by
    rw [hb.bay, List.foldl_nil, ← hb.bay]
  have hnode : ∀ f : State → Packet → State, t.nodeWait.foldl f { t with nodeWait := [] } = t := fun f => by
    rw [hb.node, List.foldl_nil, ← hb.node]
  dsimp only
  rw [hreset, hbay, hnode, State.serveHost_empty hb.queues hb.port]
  exact (hb.single.rim_foldl (fun t n _ => t.rim_gateIdle n) _).trans h1

theorem State.Bare.rim_afterwards (h : s.Bare) : s.afterwards.rim = s.rim := by
  unfold State.afterwards
  rw [State.rim_setPll]
  split
  · rfl
  · exact h.rim_serveWaiting

theorem State.Still.bare (h : s.Still) : s.Bare := by
  obtain ⟨hnode, hbay, hreset, hqueues, hport, -⟩ := State.settled_iff.1 h.settled
  exact ⟨h.single, hnode, hbay, hreset, hqueues, hport⟩

/-- The block as a keep tick begins: its time, its flops and its take acknowledgements have moved (R28, R31, R358). -/
abbrev State.edgePassed (s : State) : State :=
  ({ s with time := s.time + 20, coreK := 0, irq1 := s.irqCauses, irq2 := s.irq1, irq := s.irq2,
            flt1 := s.fltCauses, flt2 := s.flt1, flt := s.flt2, hp := (s.hp.ackFlow (s.time + 20)).tick,
            laneWakes := [] } : State).tickTrip.tickTakes

theorem State.tripFlops_edgePassed (s : State) :
    s.edgePassed.tripFlops = (s.tripPin, s.trip1, if s.trip1 = s.trip2 then s.trip1 else s.tripTaken, s.tripTaken) := rfl

theorem State.Bare.edgePassed (h : s.Bare) : s.edgePassed.Bare := by
  obtain ⟨hq, hp⟩ := Hp.tick_eq s.hp (s.time + 20)
  exact ⟨h.single, h.node, h.bay, h.reset, hq.trans h.queues, hp.trans h.port⟩

/-- After its edge a keep tick leaves the rim. -/
theorem State.Bare.rim_keepTick (h : s.Bare) : s.keepTick.rim = s.edgePassed.rim := by
  have he := h.edgePassed.single
  have h1 := State.AllSingle.rim_foldl (fun t n (ht : t.AllSingle) => ht.rim_onOwn (n := n) Ch.tick)
    ([0, 1, 2, 3].filter (fun n => !s.edgePassed.keepCut n)) he
  exact (State.AllSingle.rim_foldl (fun t n _ => t.rim_markBusy n) _ (he.of_rim h1)).trans h1

/-- A keep tick takes SCE_TRIP_N through two flops and two equal samples, the effect one edge later (R28). -/
theorem exec_keepTick_flops (h : s.Still) : ∃ t : State, exec .keepTick s = .next t ∧
    t.tripFlops = (s.tripPin, s.trip1, if s.trip1 = s.trip2 then s.trip1 else s.tripTaken, s.tripTaken) := by
  have hb : s.begin.Bare := h.bare.of_rim rfl
  refine ⟨s.begin.keepTick.afterwards, ?_, ?_⟩
  · show act s State.keepTick = _
    unfold act
    rw [h.por]
    rfl
  · have hkeep := hb.rim_keepTick
    have hafter := (hb.edgePassed.of_rim hkeep).rim_afterwards.trans hkeep
    exact (State.tripFlops_of_rim hafter).trans s.begin.tripFlops_edgePassed

end
end Sys2Proof.Machine
end

section

/-! ## Bay telemetry (R32, R363) -/

namespace Sys2Proof.Machine
section
variable {s a b : State} {n : Nat} {c d : Ch} {f : Env → Ch → Ch}

/-- What every channel sees of the rest of the block, but for its own clocks. -/
def State.common (s : State) :=
  (s.time, s.coreK, s.trip, s.bays, s.pt, s.cl, s.sflt, s.pairAB, s.pairCD, s.ck, s.free)

theorem State.env_of_common (h : b.common = a.common) (hc : b.ch n = a.ch n) (x : Bool) (m : MemErr) : b.env n x m = a.env n x m := by
  simp only [State.common, Prod.mk.injEq] at h
  obtain ⟨htime, hcore, htrip, hbays, hpt, hcl, hsflt, hab, hcd, hck, hfree⟩ := h
  have hstamp : b.stamp = a.stamp := by unfold State.stamp; rw [htime, hcore]
  have hpair : b.pair n = a.pair n := by unfold State.pair; rw [hab, hcd]
  have hfrozen : b.frozenTimes = a.frozenTimes := by unfold State.frozenTimes; rw [hck]
  unfold State.env
  rw [hstamp, hpair, hfrozen, htime, htrip, hbays, hpt, hcl, hsflt, hfree, hc]

/-- An effect settles with nothing sent and with the channel's edge as it was. -/
structure State.Silent (s : State) (f : Env → Ch → Ch) (n : Nat) : Prop where
  out  : ((f (s.env n false .none) (s.ch n)).settle (s.env n false .none)).out = []
  edge : ((f (s.env n false .none) (s.ch n)).settle (s.env n false .none)).edge = (s.ch n).edge

/-- A channel whose report has gone on. -/
def Ch.reported (c : Ch) : Ch := { c with todo := [], out := [], raised := [], haltReq := false, errPulse := false }

theorem Ch.Quiet.reported (h : c.Quiet) : c.reported = c := by
  obtain ⟨htodo, hout, hraised, hhalt, herr⟩ := h
  cases c
  dsimp only at htodo hout hraised hhalt herr
  subst htodo hout hraised hhalt herr
  rfl

/-- Channel `n` as an effect on it has settled and its report has gone on. -/
def State.after (s : State) (f : Env → Ch → Ch) (n : Nat) : Ch :=
  ((f (s.env n false .none) (s.ch n)).settle (s.env n false .none)).reported

/-- From `s` to `t` the channels of `l` have taken the effect `f`, with nothing sent. -/
structure State.Took (f : Env → Ch → Ch) (l : List Nat) (s t : State) : Prop where
  common  : t.common = s.common
  emitted : t.emitted = s.emitted
  settled : s.settled = true → t.settled = true
  ch      : ∀ m < 4, t.ch m = if m ∈ l then s.after f m else s.ch m

@[simp] theorem State.common_setCh (s : State) (n : Nat) (c : Ch) : (s.setCh n c).common = s.common := by
  simp [State.common]

theorem State.common_finish (s : State) (n : Nat) (c : Ch) (l : List Output) : (s.finish n c l).common = s.common := by
  unfold State.finish
  dsimp only
  split <;> exact State.common_setCh s n _

theorem State.emitted_finish (s : State) (n : Nat) (c : Ch) : (s.finish n c []).emitted = s.emitted := by
  unfold State.finish
  dsimp only
  split <;> simp

theorem State.ch_finish (s : State) (c : Ch) (l : List Output) (hn : n < 4) (m : Nat) (hm : m < 4) :
    (s.finish n c l).ch m =
      if m = n then c.reported else s.ch m := by
  have h : ∀ d, (s.setCh n d).ch m = if m = n then d else s.ch m := fun d => by
    split
    · next he => rw [he, State.ch_setCh_self]
    · next he => exact State.ch_setCh_of_ne s d hn hm he
  have hfinish : s.finish n c l = (if c.errPulse then (s.setCh n c.reported).errPulse (some n) else s.setCh n c.reported).leave l := rfl
  rw [← h, hfinish, State.ch_leave]
  split <;> rfl

/-- An effect on one channel that stands alone. -/
theorem State.took_onOwn (h1 : (s.pair n).st = .single) (hn : n < 4) (hf : s.Silent f n) : State.Took f [n] s (s.onOwn n f) := by
  rw [State.onOwn_single h1, hf.out]
  refine ⟨State.common_finish .., State.emitted_finish .., fun hs => State.settled_finish hs hn hf.edge _, fun m hm => ?_⟩
  rw [State.ch_finish s _ _ hn m hm]
  simp only [List.mem_singleton]
  split
  · next he => rw [he]; rfl
  · rfl

/-- What a channel's effect does depends on what the channel sees and on itself. -/
theorem State.after_of_common (h : b.common = a.common) (hc : b.ch n = a.ch n) : b.after f n = a.after f n := by
  unfold State.after
  rw [State.env_of_common h hc, hc]

theorem State.Silent.of_common (hf : a.Silent f n) (h : b.common = a.common) (hc : b.ch n = a.ch n) : b.Silent f n := by
  obtain ⟨hout, hedge⟩ := hf
  rw [← State.env_of_common h hc, ← hc] at hout hedge
  exact ⟨hout, hedge⟩

theorem State.pair_of_common (h : b.common = a.common) (n : Nat) : b.pair n = a.pair n := by
  simp only [State.common, Prod.mk.injEq] at h
  obtain ⟨-, -, -, -, -, -, -, hab, hcd, -⟩ := h
  unfold State.pair
  rw [hab, hcd]

/-- An effect on one channel after another, each of them alone: none sees what the others did. -/
theorem State.took_onList {l : List Nat} (hl : l.Nodup) (h : ∀ n ∈ l, n < 4 ∧ (s.pair n).st = .single ∧ s.Silent f n) :
    State.Took f l s (s.onList f l) := by
  induction l generalizing s with
  | nil => exact ⟨rfl, rfl, id, fun m _ => by simp [State.onList]⟩
  | cons n l ih =>
    obtain ⟨hnot, hl⟩ := List.nodup_cons.1 hl
    obtain ⟨hn, hsingle, hsilent⟩ := h n (by simp)
    have h1 := State.took_onOwn hsingle hn hsilent
    have hother : ∀ m < 4, m ≠ n → (s.onOwn n f).ch m = s.ch m := fun m hm he => by
      rw [h1.ch m hm, if_neg (by simpa using he)]
    have h2 : State.Took f l (s.onOwn n f) ((s.onOwn n f).onList f l) := by
      refine ih hl fun m hm => ?_
      obtain ⟨hm4, hmsingle, hmsilent⟩ := h m (by simp [hm])
      refine ⟨hm4, by rw [State.pair_of_common h1.common]; exact hmsingle, hmsilent.of_common h1.common (hother m hm4 ?_)⟩
      rintro rfl
      exact hnot hm
    refine ⟨h2.common.trans h1.common, h2.emitted.trans h1.emitted, fun hs => h2.settled (h1.settled hs), fun m hm => ?_⟩
    show ((s.onOwn n f).onList f l).ch m = _
    rw [h2.ch m hm]
    by_cases he : m = n
    · subst he
      rw [if_neg hnot, h1.ch m hm]
      simp
    · have hne : (m ∈ n :: l) = (m ∈ l) := by simp [he]
      rw [hother m hm he, State.after_of_common h1.common (hother m hm he)]
      simp only [hne]

/-! ### A feed that becomes stale (R32) -/

theorem escalate_one (cap : Nat) : escalate cap 1 ≠ 3 := by
  unfold escalate
  split
  · decide
  · simp

/-- BG_FEED_STALE is of class D (R313): it asks for no halt, and leaves what a channel has to do and to send. -/
theorem Ch.raise_feedStale (c : Ch) (e : Env) (k : Cause) :
    (c.raise e .bg 0 k).todo = c.todo ∧ (c.raise e .bg 0 k).out = c.out ∧ (c.raise e .bg 0 k).haltReq = c.haltReq ∧
      (c.raise e .bg 0 k).edge = c.edge := by
  unfold Ch.raise
  split
  · exact ⟨rfl, rfl, rfl, rfl⟩
  · split
    · exact ⟨rfl, rfl, rfl, rfl⟩
    · have hclass : ∀ fresh, (raiseOn e.time e.stamp fresh (srcClass .bg 0) 0 k (c.fault .bg)).2 ≠ 3 := fun _ => escalate_one _
      refine ⟨rfl, rfl, ?_, rfl⟩
      simp only [hclass, decide_false, Bool.or_false]
      rfl

section
variable {x : Nat} {e : Env}

theorem Ch.feedStale_unwarned
    (h : ¬ (c.ctl.st = .run ∧ (tblBayView e.pt.table e.chan).testBit x = true ∧ x ∉ c.bg.staleRaised)) : Ch.feedStale x e c = c := by
  unfold Ch.feedStale
  refine if_neg fun hx => h ?_
  simpa [bit, and_assoc] using hx

theorem Ch.feedStale_warned
    (h : c.ctl.st = .run ∧ (tblBayView e.pt.table e.chan).testBit x = true ∧ x ∉ c.bg.staleRaised) :
    Ch.feedStale x e c = ({ c with bg := { c.bg with staleRaised := c.bg.staleRaised ++ [x] } } : Ch).raise e .bg 0
      { addr := x, key := x } := by
  unfold Ch.feedStale
  refine if_pos ?_
  simpa [bit, and_assoc] using h

/-- A channel that learns of a stale feed has nothing left to do, and sends nothing. -/
theorem Ch.Quiet.settle_feedStale (h : c.Quiet) :
    (Ch.feedStale x e c).settle e = Ch.feedStale x e c ∧ (Ch.feedStale x e c).out = [] ∧ (Ch.feedStale x e c).edge = c.edge := by
  obtain ⟨htodo, hout, -, hhalt, -⟩ := h
  by_cases hw : c.ctl.st = .run ∧ (tblBayView e.pt.table e.chan).testBit x = true ∧ x ∉ c.bg.staleRaised
  · obtain ⟨rtodo, rout, rhalt, redge⟩ :=
      Ch.raise_feedStale { c with bg := { c.bg with staleRaised := c.bg.staleRaised ++ [x] } } e { addr := x, key := x }
    rw [Ch.feedStale_warned hw]
    exact ⟨Ch.settle_quiet (rtodo.trans htodo) (rhalt.trans hhalt), rout.trans hout, redge⟩
  · rw [Ch.feedStale_unwarned hw]
    exact ⟨Ch.settle_quiet htodo hhalt, hout, rfl⟩

end

theorem State.silent_feedStale (x : Nat) (h : (s.ch n).Quiet) : s.Silent (Ch.feedStale x) n := by
  obtain ⟨hsettle, hout, hedge⟩ := h.settle_feedStale (x := x) (e := s.env n false .none)
  exact ⟨by rw [hsettle]; exact hout, by rw [hsettle]; exact hedge⟩

theorem State.after_feedStale_unwarned {x : Nat} (h : (s.ch n).Quiet)
    (hw : ¬ ((s.ch n).ctl.st = .run ∧ (tblBayView s.pt.table n).testBit x = true ∧ x ∉ (s.ch n).bg.staleRaised)) :
    s.after (Ch.feedStale x) n = s.ch n := by
  unfold State.after
  rw [h.settle_feedStale.1, Ch.feedStale_unwarned hw, h.reported]

theorem State.after_feedStale_warned {x : Nat} (h : (s.ch n).Quiet)
    (hw : (s.ch n).ctl.st = .run ∧ (tblBayView s.pt.table n).testBit x = true ∧ x ∉ (s.ch n).bg.staleRaised)
    (hr : (s.ch n).Raises (s.env n false .none) .bg 0 { addr := x, key := x } 1) :
    s.after (Ch.feedStale x) n =
      let d := (s.ch n).faulted (s.env n false .none) .bg 0 { addr := x, key := x }
      { d with bg := { d.bg with staleRaised := d.bg.staleRaised ++ [x] } } := by
  unfold State.after
  rw [h.settle_feedStale.1, Ch.feedStale_warned hw, Ch.raise_faulted (by exact hr) (by decide) (by exact h.2.2.1)]
  exact Ch.Quiet.reported (c := Ch.faulted (s.env n false .none) .bg 0 { addr := x, key := x }
    { s.ch n with bg := { (s.ch n).bg with staleRaised := (s.ch n).bg.staleRaised ++ [x] } }) h

theorem State.setPll_ck (s : State) : { s.setPll.ck with pll := s.ck.pll } = s.ck := by
  unfold State.setPll
  split <;> rfl

/-- FEED_STALE of a feed that has given nothing for 100 µs: every channel learns of it (R32). -/
theorem State.Still.feedTimeout_due {x : Nat} {v : Bay} (h : s.Still) (hv : s.bays.get {} x = v) (hfresh : v.stale = false)
    (hdue : v.at_ + 100000 ≤ s.time) :
    let s1 := { s.begin with bays := s.bays.put {} x { v with stale := true } }
    State.Took (Ch.feedStale x) [0, 1, 2, 3] s1 (s.begin.feedTimeout x) := by
  subst hv
  intro s1
  have he : s.begin.feedTimeout x = s1.onList (Ch.feedStale x) [0, 1, 2, 3] := by
    unfold State.feedTimeout
    refine if_pos ?_
    simp [hfresh, hdue]
  rw [he]
  refine State.took_onList (by decide) fun n hn => ⟨?_, State.AllSingle.pair (s := s1) h.single n, State.silent_feedStale x ?_⟩
  · simp only [List.mem_cons, List.not_mem_nil, or_false] at hn
    omega
  · exact State.Quiet.ch (s := s1) h.quiet n

end
end Sys2Proof.Machine
end

section

/-! ### A telemetry value (R32, R363) -/

namespace Sys2Proof.Machine
section
variable {s : State} {n x : Nat} {c : Ch} {f : Env → Ch → Ch}

/-- An effect that leaves a single channel between commands only replaces it. -/
theorem State.onOwn_quiet (h1 : (s.pair n).st = .single) (hc : f (s.env n false .none) (s.ch n) = c) (hq : c.Quiet) :
    s.onOwn n f = s.setCh n c := by
  obtain ⟨htodo, hout, hraised, hhalt, herr⟩ := hq
  have hnil : ({ c with out := [] } : Ch) = c := by rw [← hout]
  rw [State.onOwn_single h1, hc, Ch.settle_quiet htodo hhalt, State.finish_quiet _ _ htodo hraised hhalt herr, hout,
    State.leave_nil, hnil]

/-- An effect that leaves every single channel between commands, and depends on nothing but the channel, only replaces the channels. -/
theorem State.onAll_quiet {g : Ch → Ch} (h : s.AllSingle) (hq : s.Quiet)
    (hg : ∀ c : Ch, c.Quiet → (g c).Quiet) :
    s.onAll (fun _ => g) = { s with chA := g s.chA, chB := g s.chB, chC := g s.chC, chD := g s.chD } := by
  obtain ⟨hA, hB, hC, hD⟩ := hq
  have step : ∀ (t : State) n, (t.pair n).st = .single → (t.ch n).Quiet → t.onOwn n (fun _ => g) = t.setCh n (g (t.ch n)) :=
    fun t n h1 h2 => State.onOwn_quiet h1 rfl (hg _ h2)
  unfold State.onAll State.onList
  simp only [List.foldl_cons, List.foldl_nil]
  rw [step s 0 h.1 hA, step _ 1 ?_ ?_, step _ 2 ?_ ?_, step _ 3 ?_ ?_]
  · rfl
  · exact h.2
  · exact hD
  · exact h.2
  · exact hC
  · exact h.1
  · exact hB

theorem Ch.Quiet.feedFresh (h : c.Quiet) : (c.feedFresh x).Quiet := h

/-- A fallback at a bay's feed is counted in CK (R363). -/
theorem State.noteFallback_bay (h : x < 8) : s.noteFallback (0x4000 + x) =
    { s with ck := { s.ck with lateAgree := inc s.ck.lateAgree, xFallback := 0x4000 + x } } := by
  have hkind : fld (0x4000 + x) 15 12 = 4 := by interval_cases x <;> rfl
  have hindex : fld (0x4000 + x) 11 0 = x := by interval_cases x <;> rfl
  have hok : crossingOk (0x4000 + x) = true := by
    unfold crossingOk
    simp [hkind, hindex, h]
  have hnone : s.crossingChan (0x4000 + x) = none := by
    unfold State.crossingChan
    simp [hkind]
  unfold State.noteFallback
  simp [hok, hnone]

/-- A value from a feed that is not quarantined. -/
theorem State.Still.telemetry_taken {cls power : Nat} {late : Bool} (h : s.Still) (hx : x < 8) (hq : s.quarantined (0x4000 + x) = false) :
    s.begin.telemetry x cls power late = { s.begin with
      bays := s.bays.put {} x { cls := cls, power := power, stale := false, at_ := s.time },
      ck := if late then { s.ck with lateAgree := inc s.ck.lateAgree, xFallback := 0x4000 + x } else s.ck,
      chA := s.chA.feedFresh x, chB := s.chB.feedFresh x, chC := s.chC.feedFresh x, chD := s.chD.feedFresh x } := by
  unfold State.telemetry
  rw [if_neg (by rw [show s.begin.quarantined (0x4000 + x) = false from hq]; decide)]
  dsimp only
  cases late with
  | false => exact State.onAll_quiet h.single h.quiet fun _ hc => hc.feedFresh
  | true =>
    rw [if_pos rfl, State.noteFallback_bay hx]
    exact State.onAll_quiet h.single h.quiet fun _ hc => hc.feedFresh

end
end Sys2Proof.Machine
end

section

/-! ## The statement -/

namespace Sys2Proof.Machine

/-- BAY_TELEMETRY of a feed that is not quarantined (R32, R363). -/
theorem exec_bayTelemetry {s : State} {b : BitVec 3} {cls : BitVec 2} {power : BitVec 16} {late : Bool} (h : s.Still)
    (hq : s.quarantined (0x4000 + b.toNat) = false) :
    exec (.bayTelemetry b cls power late) s = .next ({ s.begin with
      bays := s.bays.put {} b.toNat { cls := cls.toNat, power := power.toNat, stale := false, at_ := s.time },
      ck := if late then { s.ck with lateAgree := inc s.ck.lateAgree, xFallback := 0x4000 + b.toNat } else s.ck,
      chA := s.chA.feedFresh b.toNat, chB := s.chB.feedFresh b.toNat, chC := s.chC.feedFresh b.toNat,
      chD := s.chD.feedFresh b.toNat } : State).setPll :=
  act_powered h.por (State.telemetry b.toNat cls.toNat power.toNat late) (h.telemetry_taken b.isLt hq) h.settled

/-- FEED_STALE of a feed that is stale already, or has given a value within 100 µs, does nothing (R32). -/
theorem exec_feedStale_early {s : State} {b : BitVec 3} (h : s.Still)
    (he : (s.bays.get {} b.toNat).stale = true ∨ s.time < (s.bays.get {} b.toNat).at_ + 100000) :
    exec (.feedStale b) s = .next s.begin.setPll := by
  refine act_nothing h.por h.settled (State.feedTimeout b.toNat) (if_neg fun hx => ?_)
  simp only [Bool.and_eq_true, Bool.not_eq_true', decide_eq_true_eq] at hx
  obtain ⟨hfresh, hdue⟩ := hx
  rcases he with he | he
  · exact absurd (hfresh.symm.trans he) (by decide)
  · exact absurd hdue (Nat.not_le.2 he)

/-- Channel `n` is in RUN, has bay `x` in its view, and has not been told that its feed is stale. -/
def State.Unaware (s : State) (x n : Nat) : Prop :=
  (s.ch n).ctl.st = .run ∧ (tblBayView s.pt.table n).testBit x = true ∧ x ∉ (s.ch n).bg.staleRaised

/-- FEED_STALE of a feed that has given nothing for 100 µs: class and power stay, and the channels that are not told yet are told. -/
theorem exec_feedStale_due {s : State} {b : BitVec 3} (h : s.Still) (hfresh : (s.bays.get {} b.toNat).stale = false)
    (hdue : (s.bays.get {} b.toNat).at_ + 100000 ≤ s.time) :
    ∃ t : State, exec (.feedStale b) s = .next t ∧
      t.bays = s.bays.put {} b.toNat { s.bays.get {} b.toNat with stale := true } ∧
      { t.ck with pll := s.ck.pll } = s.ck ∧ t.pt = s.pt ∧ t.emitted = [] ∧
      (∀ n < 4, ¬ s.Unaware b.toNat n → t.ch n = s.ch n) ∧
      (∀ n < 4, s.Unaware b.toNat n → (s.ch n).Raises (s.seen n .none) .bg 0 { addr := b.toNat, key := b.toNat } 1 →
        let d := (s.ch n).faulted (s.seen n .none) .bg 0 { addr := b.toNat, key := b.toNat }
        t.ch n = { d with bg := { d.bg with staleRaised := d.bg.staleRaised ++ [b.toNat] } }) := by
  have htook := h.feedTimeout_due rfl hfresh hdue
  have hch : ∀ n < 4, (s.begin.feedTimeout b.toNat).setPll.ch n = _ := fun n hn => by
    rw [State.ch_setPll, htook.ch n hn, if_pos (by simp only [List.mem_cons]; omega)]
  have hcommon := htook.common
  simp only [State.common, Prod.mk.injEq] at hcommon
  obtain ⟨-, -, -, hbays, hpt, -, -, -, -, hck, -⟩ := hcommon
  refine ⟨(s.begin.feedTimeout b.toNat).setPll, act_powered h.por (State.feedTimeout b.toNat) rfl (htook.settled h.settled),
    ?_, ?_, ?_, ?_, fun n hn hw => ?_, fun n hn hw hr => ?_⟩
  · rw [State.setPll_bays, hbays]
  · have := (s.begin.feedTimeout b.toNat).setPll_ck
    rwa [hck] at this
  · rw [State.setPll_pt, hpt]; rfl
  · rw [State.setPll_emitted, htook.emitted]; rfl
  · rw [hch n hn]
    exact State.after_feedStale_unwarned (h.quiet.ch n) hw
  · rw [hch n hn]
    exact State.after_feedStale_warned (h.quiet.ch n) hw hr

theorem exec_pllLocked_locking {s : State} (hpor : s.por = false) (hset : s.settled = true) (h : s.ck.pll = .locking) :
    exec .pllLocked s = .next { s.begin with ck := { s.ck with pll := .locked } }.setPll := by
  change execPllLocked s = _
  unfold execPllLocked
  refine act_powered hpor _ ?_ (t := { s.begin with ck := { s.ck with pll := .locked } }) hset
  simp only [State.begin_ck, h]

theorem exec_pllLocked_not_locking {s : State} (hpor : s.por = false) (hset : s.settled = true) (h : s.ck.pll ≠ .locking) :
    exec .pllLocked s = .next s.begin.setPll := by
  change execPllLocked s = _
  unfold execPllLocked
  refine act_nothing hpor hset _ ?_
  split
  · next hl => exact absurd hl h
  · rfl

/-- Settles O34: the pin by the rim of the block, which a tick moves by its edge alone; a stale feed by the channels taking it one after
another; the timers by the effects on CK and HP. -/
theorem pinsAndTimers : Obligations.PinsAndTimers := by
  refine ⟨fun s b cls power late v h hv => ?_, fun s v fn hpor hset => ?_⟩
  · subst hv
    refine ⟨?_, ?_, ?_, fun hp => ?_, fun hp => ?_, exec_bayTelemetry h, exec_feedStale_early h, fun hfresh hdue hwf => ?_⟩
    · exact act_powered h.por (fun s => { s with tripPin := true }) rfl h.settled
    · exact act_powered h.por (fun s => { s with tripPin := false }) rfl h.settled
    · obtain ⟨t, ht, hflops⟩ := exec_keepTick_flops h
      simp only [State.tripFlops, Prod.mk.injEq] at hflops
      exact ⟨t, ht, hflops⟩
    · exact exec_pllLocked_locking h.por h.settled hp
    · exact exec_pllLocked_not_locking h.por h.settled hp
    · obtain ⟨t, ht, hbays, hck, hpt, hemitted, hunwarned, hwarned⟩ := exec_feedStale_due h hfresh hdue
      refine ⟨t, ht, ?_, fun x _ hx => ?_, hck, hpt, hemitted, fun n hn => ⟨hunwarned n hn, hwarned n hn⟩⟩
      · rw [hbays, SMap.get_put hwf, if_pos rfl]
      · rw [hbays, SMap.get_put hwf, if_neg hx]
  · have hclk := s.issued_clocks 0x2408
    refine ⟨exec_tmAlarm, fun h1 h2 h3 => ?_, fun h1 => ?_, fun ha hv => ?_, fun ha hv hp hat => ?_, fun ha hv hat => ?_,
      fun h1 h2 => ⟨fun h3 => ?_, fun h3 => ?_⟩, fun h1 => ?_⟩
    · exact act_powered hpor State.tmExpires (State.tmExpires_due (s := s.begin) h1 h2 h3) hset
    · exact act_nothing hpor hset State.tmExpires (State.tmExpires_early (s := s.begin) h1)
    · exact exec_hpErrAck ha (State.errAck_none hv) rfl
    · refine exec_hpErrAck ha ?_ rfl
      rw [State.errAck_crosses hv (hclk.pend.trans hp) (by rw [hclk.ackAt, hclk.stamp]; exact hat), hclk.stamp]
    · obtain ⟨a, ha1, hlt⟩ := hat
      exact exec_hpErrAck ha (State.errAck_merged hv (hclk.ackAt.trans ha1) (by rw [hclk.stamp]; exact hlt)) rfl
    · rw [exec_errLowTimeEnd hpor hset, Hp.lowTimeEnd_acked h1 h2 h3]
    · rw [exec_errLowTimeEnd hpor hset, Hp.lowTimeEnd_waits h1 h2 h3]
    · rw [exec_errLowTimeEnd hpor hset, Hp.lowTimeEnd_early h1]; rfl

end Sys2Proof.Machine
end

section

/-! ## The invariant (R36, R292, R293, R340)

What every effect leaves alone is said once by `Keep` and `exec_effect`; a keep tick and the two commands of SCE_POR_N stand apart. -/

namespace Sys2Proof.Machine
section
variable {a b s t : State}

/-- A step that keeps the transients, the access queues' form and SURVIVOR, and the bound of R36, keeps the invariant. -/
theorem State.Inv.of_keep (h : a.Inv) (k : Keep false false true a b) (hb : a.Bounded → b.Bounded) : b.Inv :=
  ⟨k.quiet h.quiet, hb h.bounded, k.hosts rfl h.hosts, k.pairs h.pairs⟩

/-- A step that leaves the outstanding counts alone keeps the bound as well. -/
theorem State.Inv.keep (h : a.Inv) (k : Keep true false true a b) : b.Inv :=
  ⟨k.quiet h.quiet, by unfold State.Bounded; rw [k.out rfl]; exact h.bounded, k.hosts rfl h.hosts, k.pairs h.pairs⟩

theorem State.Inv.afterwards (h : s.Inv) : s.afterwards.Inv :=
  h.of_keep (Keep.afterwards (fun _ => rfl) fun _ => h.hosts) State.Bounded.afterwards

theorem State.Inv.ticked (h : s.Inv) : s.ticked.Inv := ⟨h.quiet, h.bounded, h.hosts.ticked, h.pairs⟩

/-- A block without power holds nothing but its defaults, so nothing is outstanding, queued or left to do. -/
theorem State.powerDown_inv (s : State) : s.powerDown.Inv where
  quiet   := ⟨⟨rfl, rfl, rfl, rfl, rfl⟩, ⟨rfl, rfl, rfl, rfl, rfl⟩, ⟨rfl, rfl, rfl, rfl, rfl⟩, ⟨rfl, rfl, rfl, rfl, rfl⟩⟩
  bounded := ⟨rfl, fun _ => Nat.zero_le 16⟩
  hosts   := ⟨fun _ hp => absurd hp List.not_mem_nil, fun _ ha => absurd ha List.not_mem_nil⟩
  pairs   := ⟨Nat.zero_le 1, Nat.zero_le 1⟩

/-- A command of the common shape keeps the invariant where its effect does. -/
theorem State.Inv.act {f : State → State} (h : s.Inv) (hf : s.begin.Inv → (f s.begin).Inv) (ht : act s f = .next t) : t.Inv := by
  unfold Machine.act at ht
  split at ht
  · cases ht; exact h
  · cases ht; exact (hf (h.keep Keep.begin)).afterwards

theorem State.Inv.porRelease {f : FlashDev} (h : s.Inv) (ht : exec (.porRelease f) s = .next t) : t.Inv := by
  have hpow : s.begin.powered.Inv := ⟨h.quiet, h.bounded, h.hosts, h.pairs⟩
  change (if s.por then Host.Outcome.next (s.begin.powerUp f).setPll else .next s) = .next t at ht
  split at ht
  · cases ht; exact hpow.keep ((Keep.powerUp f).trans Keep.setPll)
  · cases ht; exact h

/-- Every command keeps the invariant. -/
theorem State.Inv.exec {c : Instr} (h : s.Inv) (ht : exec c s = .next t) : t.Inv := by
  by_cases htick : c = .keepTick
  · subst htick
    exact h.act (fun hb => hb.ticked.keep Keep.keepTick) ht
  by_cases hassert : c = .porAssert
  · subst hassert
    exact h.act (fun _ => State.powerDown_inv _) ht
  by_cases hrelease : ∃ f, c = .porRelease f
  · obtain ⟨f, rfl⟩ := hrelease
    exact h.porRelease ht
  obtain ⟨f, hexec, hf⟩ := exec_effect (t := false) (z := true) c htick hassert (fun f hc => hrelease ⟨f, hc⟩)
    fun hf => absurd hf (by decide)
  rw [hexec] at ht
  exact h.act (fun hb => hb.of_keep (hf _).1 (hf _).2) ht

/-- Settles O3: by cases on the queue; the command at its front keeps the invariant by `State.Inv.exec`. -/
theorem stepKeepsInv : Obligations.StepKeepsInv := by
  intro s t h ht
  unfold step at ht
  split at ht
  · cases ht; exact h
  · next c rest _ =>
    have hrest : ({ s with pending := rest } : State).Inv := ⟨h.quiet, h.bounded, h.hosts, h.pairs⟩
    exact hrest.exec ht

/-- Settles O4: at reset the block is as it is without power, with no command waiting. -/
theorem resetInv : Obligations.ResetInv := State.reset.powerDown_inv

end
end Sys2Proof.Machine
end

section

/-! ## The words of a request (R40) -/

namespace Sys2Proof.Machine

theorem at_of_lt {hi lo v : Nat} (h : v < 2 ^ (hi + 1 - lo)) : at_ hi lo v = v * 2 ^ lo := by
  rw [at_, Nat.mod_eq_of_lt h]

/-- Fields that fit lie side by side in the upper word: it is no longer than 64 bits, and each is read back from its own place. -/
theorem upperWord_fields {endpoint chan opcode cls index tag w : Nat} (he : endpoint < 2 ^ 12) (hch : chan < 2 ^ 4)
    (hop : opcode < 2 ^ 6) (hcl : cls < 2 ^ 3) (hix : index < 2 ^ 23) (htg : tag < 2 ^ 16)
    (hw : w = at_ 63 52 endpoint + at_ 51 48 chan + at_ 47 42 opcode + at_ 41 39 cls + at_ 38 16 index + at_ 15 0 tag) :
    w < 2 ^ 64 ∧ fld w 63 52 = endpoint ∧ fld w 51 48 = chan ∧ fld w 47 42 = opcode ∧ fld w 41 39 = cls ∧
      fld w 38 16 = index ∧ fld w 15 0 = tag := by
  rw [at_of_lt he, at_of_lt hch, at_of_lt hop, at_of_lt hcl, at_of_lt hix, at_of_lt htg] at hw
  subst hw
  unfold fld
  omega

/-- Settles O54: the upper word by its fields, the lower is the operand, and what a clean request says of errors is nothing. -/
theorem requestLayout : Obligations.RequestLayout := by
  intro chan opcode r hr hch hop
  obtain ⟨hpkt, hmem⟩ := hr
  obtain ⟨hlt, hendpoint, hchan, hopcode, hcls, hindex, htag⟩ :=
    upperWord_fields r.endpoint.isLt hch hop r.cls.isLt r.index.isLt r.tag.isLt rfl
  refine ⟨hlt, r.operand.isLt, ?_⟩
  unfold requestOfWords requestWords
  rw [hendpoint, hchan, hopcode, hcls, hindex, htag]
  simp only [BitVec.ofNat_toNat, BitVec.setWidth_eq, ← hpkt, ← hmem]

end Sys2Proof.Machine
end

section

/-! ## What a node takes at once (R36, R38, R300) -/

namespace Sys2Proof.Machine
section
variable {s : State} {n lid phys : Nat} {p : Packet} {c : Ch} {e : Env} {r : Response} {rs l₁ l₂ : List Response}

/-- The owner of an endpoint's own packet, in which no channel is captured. -/
theorem State.packetOwner_uncaptured (h : p.capt = 16) : s.packetOwner p = s.ownerOf p.phys := by
  unfold State.packetOwner State.ownerOf State.nibble Packet.nibble
  by_cases hg : s.pt.gate = .opened <;> simp [hg, h]

/-- At a settled block a packet without an array error is taken at once: its endpoint has room, and its channel, where it has one, is
calm and not held. -/
theorem State.Ready.begin_packet (h : s.Ready n) (ho : s.packetOwner p = some n ∧ s.held n = false ∨ s.packetOwner p = none)
    (hq : s.quarantined (srnCrossing p.port) = false) (hm : p.mem = .none)
    (hroom : p.trailer = true ∨ s.outstanding.get 0 p.phys < 16) : s.begin.packet p = s.begin.take p := by
  obtain ⟨hnode, hbay, -⟩ := State.settled_iff.mp h.settled
  have hq' : s.begin.quarantined (srnCrossing p.port) = false := hq
  have hb : s.begin.brings p.mem = s.begin := by unfold State.brings; rw [hm]
  have hnode' : s.begin.nodeWait = [] := hnode
  have hcount : (!p.trailer && decide (16 ≤ s.begin.outstanding.get 0 p.phys)) = false := by
    rcases hroom with ht | hlt
    · rw [ht]; rfl
    · rw [State.begin_outstanding, decide_eq_false (Nat.not_le.2 hlt), Bool.and_false]
  have hwait : s.begin.mustWait p = false := by
    unfold State.mustWait
    rw [hcount, hnode', show s.begin.packetOwner p = s.packetOwner p from rfl]
    rcases ho with ⟨ho, hh⟩ | ho
    · have hhub : s.begin.hubRoom n p = true := State.hubRoom_calm (by simpa using h.calm) h.lead hbay p
      have hheld : s.begin.held n = false := hh
      simp [ho, hhub, hheld]
    · simp [ho]
  unfold State.packet State.present
  rw [hq', hb, hwait]
  rfl

/-! ## PACKET_ERROR (R53, R69) -/

/-- The packet of a request whose upper half cannot be read: nothing but its endpoint is known. -/
def unreadablePacket (phys : Nat) : Packet :=
  { phys := phys, port := phys, opcode := 0, cls := 0, index := 0, operand := 0, tag := 0xFFFF, trailer := false,
    poisoned := false, ingress := ingressOf phys, pkt := .upperUncorrectable, mem := .none }

/-- The block as a command begins that brings one more request of an endpoint (R36). -/
abbrev State.beginIssued (s : State) (phys : Nat) : State :=
  { s.begin with outstanding := s.outstanding.put 0 phys (s.outstanding.get 0 phys + 1) }

theorem State.begin_issue_unreadable (s : State) (phys : Nat) : s.begin.issue (unreadablePacket phys) = s.beginIssued phys :=
  State.issue_request _ rfl

/-- What PACKET_ERROR raises for a request of an endpoint that the channel knows. -/
def unreadableCause (phys lid : Nat) : Cause := { addr := phys, master := some (lid, phys), access := 1, key := phys }

/-- The channel with one more packet in RQ_PKT_ERR_COUNT. -/
def Ch.packetErrorCounted (c : Ch) : Ch := { c with rq := { c.rq with pktErr := inc c.rq.pktErr } }

/-- A request that its channel cannot read is counted, raised and answered. -/
theorem Ch.packetError_request (h : c.Quiet) (hp : phys < 2 ^ 12) (hl : c.lidOf phys = some lid)
    (hr : c.Raises e .rq 1 (unreadableCause phys lid) 2) :
    c.packetError e (unreadablePacket phys) = { c.packetErrorCounted.faulted e .rq 1 (unreadableCause phys lid) with
      raised := [⟨.rq, 1, 2, !(c.fault .rq).captured⟩], haltReq := false, errPulse := true,
      out := [.resp { endpoint := phys, chan := e.chan, opcode := 0, status := stPacketError, tag := 0xFFFF,
                      result := e.freeResult 2, final := true, first := true }] } := by
  obtain ⟨-, hout, hraised, hhalt, -⟩ := h
  have hk : ({ addr := at_ 11 0 phys, master := some ((c.lidOf phys).getD (e.freeVal 7 % 4096), phys), access := 1, key := phys } : Cause) =
      unreadableCause phys lid := by
    rw [hl, at_, Nat.mod_eq_of_lt hp, Nat.pow_zero, Nat.mul_one]; rfl
  have hraise : c.packetErrorCounted.raise e .rq 1 (unreadableCause phys lid) =
      { c.packetErrorCounted.faulted e .rq 1 (unreadableCause phys lid) with
        raised := [⟨.rq, 1, 2, !(c.fault .rq).captured⟩], haltReq := false, errPulse := true } := by
    rw [Ch.raise_faulted (c := c.packetErrorCounted) hr (by decide) hraised,
      show c.packetErrorCounted.haltReq = false from hhalt, decide_eq_true (Nat.le_refl 2), Bool.or_true]
    rfl
  have hout' : (c.packetErrorCounted.faulted e .rq 1 (unreadableCause phys lid)).out = [] := by rw [Ch.faulted_out]; exact hout
  unfold Ch.packetError
  simp only [unreadablePacket, hk]
  change Ch.respond _ _ _ _ _ _ _ _ _ (c.packetErrorCounted.raise e .rq 1 (unreadableCause phys lid)) = _
  rw [hraise]
  simp only [Ch.respond, Ch.emit, hout', List.nil_append]

/-- A port without the Scetor-1 handshake needs no acknowledgement (R366). -/
theorem State.acknowledge_srn (h : s.fabricPort p.port = false) : s.acknowledge p = s := by
  unfold State.acknowledge
  rw [h]; rfl

/-- A packet that cannot be read reaches the channel that its port belongs to. -/
theorem State.take_unreadable (hf : s.fabricPort phys = false) (ho : s.ownerOf phys = some n) :
    s.take (unreadablePacket phys) =
      (s.issue (unreadablePacket phys)).atChan n .none (fun e c => c.packetError e (unreadablePacket phys)) := by
  have hack : (s.issue (unreadablePacket phys)).acknowledge (unreadablePacket phys) = s.issue (unreadablePacket phys) :=
    State.acknowledge_srn hf
  unfold State.take
  rw [hack, show s.ownerOf (unreadablePacket phys).port = some n from ho]
  rfl

/-- Of a port of no channel, the node answers it and PT counts it. -/
theorem State.take_unreadable_unowned (hf : s.fabricPort phys = false) (ho : s.ownerOf phys = none) :
    s.take (unreadablePacket phys) = ((s.issue (unreadablePacket phys)).onPt (fun k => { k with noChan := inc k.noChan })).leave
      [.resp { endpoint := phys, chan := 15, opcode := 0, status := stPacketError, tag := 0xFFFF,
               result := s.freeVal 2 % 2 ^ 64 }] := by
  have hack : (s.issue (unreadablePacket phys)).acknowledge (unreadablePacket phys) = s.issue (unreadablePacket phys) :=
    State.acknowledge_srn hf
  unfold State.take
  rw [hack, show s.ownerOf (unreadablePacket phys).port = none from ho]
  rfl

theorem exec_packetError {q : BitVec 12} (h : s.Ready n) (hq : s.quarantined (srnCrossing q.toNat) = false)
    (hf : s.fabricPort q.toNat = false) (hroom : s.outstanding.get 0 q.toNat < 16) (ho : s.ownerOf q.toNat = some n)
    (hh : s.held n = false) (hl : (s.ch n).lidOf q.toNat = some lid)
    (hr : (s.ch n).Raises (s.seen n .none) .rq 1 (unreadableCause q.toNat lid) 2) :
    exec (.packetError q) s = .next ((((((s.beginIssued q.toNat).setCh n
      ((s.ch n).packetErrorCounted.faulted (s.seen n .none) .rq 1 (unreadableCause q.toNat lid))).errPulse (some n)).leave
        [.resp { endpoint := q.toNat, chan := n, opcode := 0, status := stPacketError, tag := 0xFFFF,
                 result := (s.seen n .none).freeResult 2, final := true, first := true }]).busyNow n)).setPll := by
  obtain ⟨htodo, hout, hraised, hhalt, herr⟩ := h.calm.quiet
  have howner : s.packetOwner (unreadablePacket q.toNat) = some n := (State.packetOwner_uncaptured rfl).trans ho
  have hpkt : s.begin.packet (unreadablePacket q.toNat) = _ :=
    (h.begin_packet (.inl ⟨howner, hh⟩) hq rfl (.inr hroom)).trans (State.take_unreadable hf ho)
  rw [State.begin_issue_unreadable] at hpkt
  refine act_powered h.por (fun s => s.unreadable q.toNat) (hpkt.trans ?_) ?_
  · rw [State.atChan_single (by exact h.single), show (s.beginIssued q.toNat).ch n = s.ch n from rfl,
      show (s.beginIssued q.toNat).env n false .none = s.seen n .none from rfl, Ch.packetError_request h.calm.quiet q.isLt hl hr,
      Ch.settle_quiet (by exact (Ch.faulted_todo ..).trans htodo) rfl]
    exact congrArg (State.busyNow n) (State.finish_error _ n (by exact (Ch.faulted_todo ..).trans htodo) rfl hraised hhalt herr
      ((Ch.faulted_out ..).trans hout))
  · rw [State.settled_busyNow, State.settled_leave]
    exact State.settled_same (a := s.beginIssued q.toNat) (c := s.ch n) h.settled h.chan rfl rfl

theorem exec_packetError_unowned {q : BitVec 12} (h : s.Ready n) (hq : s.quarantined (srnCrossing q.toNat) = false)
    (hf : s.fabricPort q.toNat = false) (hroom : s.outstanding.get 0 q.toNat < 16) (ho : s.ownerOf q.toNat = none) :
    exec (.packetError q) s = .next (({ s.beginIssued q.toNat with pt := { s.pt with noChan := inc s.pt.noChan } } : State).leave
        [.resp { endpoint := q.toNat, chan := 15, opcode := 0, status := stPacketError, tag := 0xFFFF,
                 result := s.begin.freeVal 2 % 2 ^ 64 }]).setPll := by
  have howner : s.packetOwner (unreadablePacket q.toNat) = none := (State.packetOwner_uncaptured rfl).trans ho
  have hpkt : s.begin.packet (unreadablePacket q.toNat) = _ :=
    (h.begin_packet (.inr howner) hq rfl (.inr hroom)).trans
      (State.take_unreadable_unowned hf ho)
  rw [State.begin_issue_unreadable] at hpkt
  exact act_powered h.por (fun s => s.unreadable q.toNat) hpkt h.settled

/-! ## RESPONSE_DELIVERED (R36, R37) -/

/-- The oldest response of an endpoint is the first of the list that is its own. -/
theorem takeResponse_append (h : ∀ x ∈ l₁, x.endpoint ≠ phys) (hr : r.endpoint = phys) :
    takeResponse phys (l₁ ++ r :: l₂) = some (r, l₁ ++ l₂) := by
  induction l₁ with
  | nil => simp [takeResponse, hr]
  | cons x l ih =>
    have hx : x.endpoint ≠ phys := h x List.mem_cons_self
    simp [takeResponse, hx, ih fun y hy => h y (List.mem_cons_of_mem _ hy)]

theorem takeResponse_none (h : ∀ x ∈ rs, x.endpoint ≠ phys) : takeResponse phys rs = none := by
  induction rs with
  | nil => rfl
  | cons x l ih =>
    have hx : x.endpoint ≠ phys := h x List.mem_cons_self
    simp [takeResponse, hx, ih fun y hy => h y (List.mem_cons_of_mem _ hy)]

/-- A request's first response ends it. -/
theorem State.delivered_some (hq : s.quarantined (srnCrossing phys) = false) (ht : takeResponse phys s.resp = some (r, rs)) :
    s.delivered phys = { s with
      resp := rs,
      outstanding := if r.first then s.outstanding.put 0 phys (s.outstanding.get 0 phys - 1) else s.outstanding } := by
  unfold State.delivered
  rw [hq, ht]
  cases hf : r.first <;> simp [hf]

theorem State.delivered_none (hq : s.quarantined (srnCrossing phys) = false) (ht : takeResponse phys s.resp = none) :
    s.delivered phys = s := by
  unfold State.delivered
  rw [hq, ht]
  rfl

/-- Settles O45: PACKET_ERROR by its node's take, with and without a channel; RESPONSE_DELIVERED by the list of waiting responses. -/
theorem nodeEvents : Obligations.NodeEvents := by
  intro s n lid q r l₁ l₂ h hq hf
  refine ⟨fun hroom ho hh hl hr => ⟨(s.seen n .none).freeResult 2, ?_⟩, fun hroom ho => ⟨s.begin.freeVal 2 % 2 ^ 64, ?_⟩,
    fun hresp hne hr => ?_, fun hne => ?_⟩
  · exact exec_packetError h hq hf hroom ho hh hl hr
  · exact exec_packetError_unowned h hq hf hroom ho
  · have ht : takeResponse q.toNat s.begin.resp = some (r, l₁ ++ l₂) := (congrArg _ hresp).trans (takeResponse_append hne hr)
    exact act_powered h.por (fun s => s.delivered q.toNat) (State.delivered_some hq ht) h.settled
  · exact act_nothing h.por h.settled (fun s => s.delivered q.toNat) (State.delivered_none hq (takeResponse_none hne))

end
end Sys2Proof.Machine
end

section

/-! ## Trailers (R60 to R66, R261)

A trailer that passes its checks at a calm channel is counted, taken, and performed as the request of the same op would be. -/

namespace Sys2Proof.Machine
section
variable {s : State} {n lid i op : Nat} {p : Packet} {c : Ch} {e : Env} {f : Flag} {v : Sem} {k : Os → Os} {m : MsgIn}
  {t : TrailerArg}

/-! ### At the hub -/

/-- A channel that has counted a trailer as performed and as taken. -/
def Ch.trailerCounted (p : Packet) (lid : Nat) (c : Ch) : Ch :=
  let d := c.counted p lid
  { d with rq := { d.rq with trailers := inc d.rq.trailers } }

/-- What leaves as a trailer is taken: its acknowledgement, and a remote one's credit (R63, R258). -/
def takesOf (p : Packet) : List Output := .take p.port p.opcode :: if p.remote then [.creditBack (p.port % 8)] else []

/-- On channels with these objects and waits, the op of the packet performs `k` on the objects and ends with OK. -/
def Packet.Performs (p : Packet) (lid : Nat) (c : Ch) (k : Os → Os) : Prop :=
  ∀ (e : Env) (d : Ch), e.inject = 0 → d.Sound → d.os = c.os → d.hw = c.hw →
    ∃ result rf, d.plainOp e (p.op lid) = ({ d with os := k d.os }, .done stOk result rf)

theorem Ch.takeTrailer_eq (h : c.out = []) : c.takeTrailer p = { c with out := takesOf p } := by
  unfold Ch.takeTrailer takesOf Ch.emit
  cases p.remote <;> simp [h]

theorem Ch.accept_trailer (h : c.out = []) (ht : p.trailer = true) :
    c.accept (.req p lid) = { c with rq := { c.rq with trailers := inc c.rq.trailers }, out := takesOf p } := by
  unfold Ch.accept
  simp only [ht, if_true]
  exact Ch.takeTrailer_eq h

/-- The bank's head and pointer move past the trailer, and the op is counted and performed. -/
theorem Ch.performHead_trailer (h : c.Calm) (he : e.inject = 0) (ht : p.trailer = true) (hp : p.Performs lid c k) :
    (c.accept (.req p lid)).performHead e (c.workBank (.req p lid)) (.req p lid) =
      { c.trailerCounted p lid with os := k c.os, out := takesOf p } := by
  have hb := Ch.workBank_req c p lid
  rw [Ch.accept_trailer h.quiet.2.1 ht, Ch.performHead,
    show Ch.queueRead e _ { c with rq := { c.rq with trailers := inc c.rq.trailers }, out := takesOf p } = (_, false) from
      Ch.readEcc_clean (h.unforced .rq) h.sound rfl]
  obtain ⟨result, rf, hop⟩ := hp e { c.trailerCounted p lid with out := takesOf p } he ⟨h.unforced .os, h.sound⟩ rfl rfl
  unfold Ch.trailerCounted Ch.counted at hop ⊢
  simp only [hb, if_false] at hop ⊢
  simp only [Ch.performWork, ht, if_true, Ch.performTrailer, Bool.false_eq_true, if_false, Work.ingress] at hop ⊢
  rw [hop]
  rfl

/-- A trailer on a flag or semaphore that arrives at its bank is performed at once (R63). -/
theorem Ch.toBank_trailer (h : c.Calm) (he : e.inject = 0) (ht : p.trailer = true) (hcls : p.cls < 2) (hp : p.Performs lid c k) :
    c.toBank e (.req p lid) = { c.trailerCounted p lid with os := k c.os, out := takesOf p } := by
  have hq : c.queuedAt (c.workBank (.req p lid)) = 0 := by unfold Ch.queuedAt; rw [h.banks]; rfl
  have hfollows : (Work.req p lid).follows [] = false := by simp [Work.follows]
  have hacc := Ch.accept_trailer (lid := lid) h.quiet.2.1 ht
  have hbanks : (c.accept (.req p lid)).rq.bankQ = [] := by rw [hacc]; exact h.banks
  have hstalls : (c.accept (.req p lid)).stalls (.req p lid) = false := by
    have hbar : ¬ p.cls = clBar := by unfold clBar; omega
    simp [Ch.stalls, hbar]
  unfold Ch.toBank Ch.enterBank
  simp only [Ch.workBank_req, hq, h.full, hfollows, hbanks, hstalls, List.any_nil, Bool.or_self, Bool.false_eq_true, or_self,
    if_false, show ¬ 64 ≤ 0 by omega]
  exact Ch.performHead_trailer h he ht hp

/-- A trailer on a flag or semaphore that passes checks 7 to 10 of R53: its op is one that trailers carry, sent with its own class, and
its index fits. -/
structure Packet.TrailerOk (p : Packet) : Prop where
  trailer : p.trailer = true
  carried : trailerOp p.opcode = true
  cls     : p.cls < 2
  own     : opClass p.opcode = some p.cls
  index   : p.index < 2 ^ indexWidth p.cls

theorem Packet.TrailerOk.ne (h : p.TrailerOk) (ho : opClass op ≠ some 0) (ho1 : opClass op ≠ some 1) : p.opcode ≠ op := by
  rintro rfl
  have hcls := h.cls
  have hown := h.own
  obtain h0 | h1 : p.cls = 0 ∨ p.cls = 1 := by omega
  · exact ho (by rw [hown, h0])
  · exact ho1 (by rw [hown, h1])

theorem Packet.TrailerOk.check (h : p.TrailerOk) : c.checkOp p lid = none := by
  have hwait := h.ne (op := opWaitAny) (by decide) (by decide)
  have harrive := h.ne (op := opBarReduceArrive) (by decide) (by decide)
  have hread := h.ne (op := opBarReadResult) (by decide) (by decide)
  have hrel := h.ne (op := opLockRelease) (by decide) (by decide)
  have hcls := h.cls
  have hlock : p.cls ≠ clLock := by unfold clLock; omega
  have hstr : p.cls ≠ clStr := by unfold clStr; omega
  have hbad : badOp p = false := by simp [badOp, opOk, kindOk, hwait, harrive, hread, h.own, h.carried]
  have hidx : indexOk p.opcode p.cls p.index = true := by simp [indexOk, harrive, hread, h.index]
  have hal : misaligned p = false := by simp [misaligned, hlock]
  simp [Ch.checkOp, hbad, hidx, hal, hrel, hstr]

/-- A trailer at the hub of a calm channel. -/
theorem Ch.hubPacket_trailer (h : c.Calm) (he : e.inject = 0) (hp : p.TrailerOk) (hpkt : p.pkt = .none)
    (hl : c.lidOf p.phys = some lid) (hf : p.phys ∉ c.ctl.fenced) (hk : p.Performs lid c k) :
    c.hubPacket e p = { c.trailerCounted p lid with os := k c.os, out := takesOf p } := by
  have hdead : c.deadTrain p = none := by simp [Ch.deadTrain, hp.trailer]
  unfold Ch.hubPacket
  rw [Ch.meetLower_calm h hpkt]
  dsimp only
  rw [hdead]
  dsimp only
  rw [Ch.checkPacket_calm h hl hf (hp.ne (by decide) (by decide)), hp.check]
  exact Ch.toBank_trailer h he hp.trailer hp.cls hk

/-! ### Trailers of an endpoint -/

theorem Ch.Calm.trailerCounted_same (h : c.Calm) (x : Os) : ({ c.trailerCounted p lid with os := x } : Ch).Same c := ⟨h.quiet, rfl⟩

/-- The tile's node takes an untroubled trailer for calm channel `n`, which knows its issuer as logical ID `lid`. -/
structure State.TakesTrailer (s : State) (n lid : Nat) (t : TrailerArg) : Prop where
  ready    : s.Ready n
  owner    : s.packetOwner (trailerPacket t) = some n
  openPort : s.quarantined (srnCrossing t.tile.toNat) = false
  srnPort  : s.fabricPort t.tile.toNat = false
  free     : s.held n = false
  maps     : (s.ch n).lidOf t.issuer.toNat = some lid
  unfenced : t.issuer.toNat ∉ (s.ch n).ctl.fenced
  goodPkt  : t.pkt = .none
  goodMem  : t.mem = .none
  unpoisoned : t.poisoned = false

theorem State.TakesTrailer.exec (ht : s.TakesTrailer n lid t) (hok : (trailerPacket t).TrailerOk)
    (hk : (trailerPacket t).Performs lid (s.ch n) k) :
    exec (.trailer t) s = .next (s.moved n { (s.ch n).trailerCounted (trailerPacket t) lid with os := k (s.ch n).os }
      [.take t.tile.toNat t.opcode.toNat]) := by
  obtain ⟨h, ho, hq, hf, hh, hl, hfen, hpkt, hmem, -⟩ := ht
  obtain ⟨-, hbay, -⟩ := State.settled_iff.mp h.settled
  obtain ⟨htodo, -, -, hhalt, -⟩ := h.calm.quiet
  have hroom : s.begin.hubRoom n (trailerPacket t) = true := State.hubRoom_calm (by simpa using h.calm) h.lead hbay _
  have hrun : (s.begin.ch n).ctl.st = .run := by simpa using h.calm.run
  have hread : (trailerPacket t).unreadable = false := by simp [Packet.unreadable, trailerPacket, hpkt]
  have hlead : s.begin.lead n = n := h.lead
  have htake : s.begin.trailer t =
      s.begin.atChan n .none (fun e c => (c.noteCorrected e (trailerPacket t)).packetIn e (trailerPacket t)) := by
    refine (h.begin_packet (.inl ⟨ho, hh⟩) hq hmem (.inl rfl)).trans ?_
    unfold State.take
    rw [State.issue_trailer _ rfl, State.acknowledge_srn (by exact hf), hread,
      show s.begin.packetOwner (trailerPacket t) = some n from ho]
    unfold State.forward
    simp only [hlead, hrun, hroom, Bool.not_true, Bool.and_false, Bool.false_eq_true, if_false, ne_eq, not_true_eq_false]
    rw [show (trailerPacket t).mem = .none from hmem]
  refine (act_congr (g := fun s => s.atChan n .none _) htake).trans (act_event h _ ?_ (h.calm.trailerCounted_same _))
  have hnote : (s.ch n).noteCorrected (s.seen n .none) (trailerPacket t) = s.ch n := by
    simp [Ch.noteCorrected, trailerPacket, hpkt]
  rw [hnote, Ch.packetIn, h.calm.awake', if_neg (by decide), Ch.hubPacket_trailer h.calm rfl hok hpkt hl hfen hk]
  exact Ch.settle_quiet htodo hhalt

/-! ### Remote trailers (R261) -/

/-- A remote trailer that a calm channel hears, of a link agent it knows, is noted in LA and performed. -/
theorem Ch.remoteTrailer_calm (h : c.Calm) (he : e.inject = 0) (herr : m.err = .none) (hforce : c.lalog.forceCe = false)
    (hmal : c.malformed tyTrailer m = false) (hop : remoteTrailerOp (remotePacket m).opcode = true) (hok : (remotePacket m).TrailerOk)
    (hl : c.lidOf (remotePacket m).phys = some lid) (hf : (remotePacket m).phys ∉ c.ctl.fenced)
    (hst : c.la.st = .formed ∨ c.la.st = .broken) (hk : (remotePacket m).Performs lid c k) :
    c.remoteTrailer e m = { c.trailerCounted (remotePacket m) lid with
      os := k c.os, out := takesOf (remotePacket m),
      lalog := { c.lalog with
        msgRx := inc c.lalog.msgRx, rtr := inc c.lalog.rtr,
        rtrLast := at_ 61 56 m.src.toNat + at_ 55 44 (fld (bodyWord m 3) 11 0) + at_ 43 38 (remotePacket m).opcode
          + at_ 37 35 (remotePacket m).cls + at_ 22 0 (remotePacket m).index } } := by
  have hcount : c.countMsg e m = c.heard := by
    unfold Ch.countMsg Ch.heard
    rw [if_neg (by simp [herr, hforce]), ← hforce]
  have hcalm : ∀ x : LaLog, ({ c with lalog := x } : Ch).Calm := fun x =>
    ⟨h.run, h.awake, h.quiet, h.banks, h.ingress, h.full, h.sound, h.noErr, h.unforced⟩
  have hheard : c.heard.Calm := hcalm _
  have hmal' : c.heard.malformed tyTrailer m = false := hmal
  have hst' : ¬ (c.heard.la.st ≠ .formed ∧ c.heard.la.st ≠ .broken) := fun hx => hst.elim hx.1 hx.2
  unfold Ch.remoteTrailer
  rw [hcount]
  dsimp only
  rw [hmal', if_neg (by decide), if_neg (by simp [hheard.run])]
  unfold Ch.remoteHub
  rw [Ch.meetLower_calm hheard rfl]
  simp only [hop, Bool.not_true, Bool.and_false, Bool.false_eq_true, if_false]
  rw [Ch.checkPacket_calm hheard hl hf (hok.ne (by decide) (by decide)), hok.check]
  dsimp only
  have hnoted : (c.heard.noteRemote m (remotePacket m)).Calm := hcalm _
  have hk' : (remotePacket m).Performs lid (c.heard.noteRemote m (remotePacket m)) k := hk
  rw [if_neg hst', Ch.toBank_trailer hnoted he rfl hok.cls hk']
  rfl

/-- REMOTE_TRAILER received by a calm channel, of a link agent it knows, while its accord is FORMED or BROKEN. -/
theorem exec_remoteTrailer (h : s.Hears n tyTrailer m) (hop : remoteTrailerOp (remotePacket m).opcode = true)
    (hok : (remotePacket m).TrailerOk) (hl : (s.ch n).lidOf (remotePacket m).phys = some lid)
    (hf : (remotePacket m).phys ∉ (s.ch n).ctl.fenced) (hst : (s.ch n).la.st = .formed ∨ (s.ch n).la.st = .broken)
    (hk : (remotePacket m).Performs lid (s.ch n) k) :
    exec (.remoteTrailer m) s = .next (s.moved n { (s.ch n).trailerCounted (remotePacket m) lid with
      os := k (s.ch n).os,
      lalog := { (s.ch n).lalog with
        msgRx := inc (s.ch n).lalog.msgRx, rtr := inc (s.ch n).lalog.rtr,
        rtrLast := at_ 61 56 m.src.toNat + at_ 55 44 (fld (bodyWord m 3) 11 0) + at_ 43 38 (remotePacket m).opcode
          + at_ 37 35 (remotePacket m).cls + at_ 22 0 (remotePacket m).index } } (takesOf (remotePacket m))) := by
  have hready := h.toReady
  have hheard : s.begin.message tyTrailer m = s.begin.atChan n .none (fun e c => c.messageIn e tyTrailer m) := by
    have hq : s.begin.quarantined (0x5000 + m.port.toNat) = false := h.openPort
    have ho : s.begin.portOwner m.port.toNat = some n := h.owner
    have hh : s.begin.held n = false := h.free
    unfold State.message
    simp only [hq, ho, hh, Bool.false_and, Bool.false_eq_true, if_false]
  obtain ⟨-, -, -, -, -, hedges⟩ := State.settled_iff.mp h.settled
  obtain ⟨-, hrx, -⟩ := hedges n
  obtain ⟨htodo, -, -, hhalt, -⟩ := h.calm.quiet
  have hwait : (s.ch n).trailerWaits m.port.toNat = false := by simp [Ch.trailerWaits, h.calm.full]
  have hmal : (s.ch n).malformed tyTrailer m = false := by
    simp [Ch.malformed, h.clean, h.goodLen, h.body, h.accord (by decide)]
  refine (act_congr (g := fun s => s.atChan n .none _) hheard).trans (act_event hready _ ?_ ⟨h.calm.quiet, rfl⟩)
  unfold Ch.messageIn Ch.messageNow
  simp only [h.calm.awake', hwait, hrx, List.any_nil, Bool.or_self, Bool.false_eq_true, if_false, if_true]
  rw [Ch.remoteTrailer_calm h.calm rfl h.clean h.noForce hmal hop hok hl hf hst hk]
  exact Ch.settle_quiet htodo hhalt

/-! ### The ops -/

/-- FLAG_SET of a clear flag and FLAG_CLEAR of a set one, which nobody waits for. -/
theorem Packet.performs_flag {x : Bool} (hc : p.cls = 0) (hi : p.index = i) (hp : p.poisoned = false)
    (hop : p.opcode = if x then opFlagSet else opFlagClear) (ha : c.Alone clFlag i) (hf : c.flag i = f) (hfp : f.poisoned = false)
    (hv : f.value = !x) :
    p.Performs lid c (fun os => { os with flags := os.flags.put {} i { f with value := x, last := lid } }) := by
  intro e d he hs hos hhw
  have ha' : d.Alone clFlag i := by unfold Ch.Alone Ch.waiters at ha ⊢; rw [hhw]; exact ha
  have hf' : d.flag i = f := by unfold Ch.flag; rw [hos]; exact hf
  have hstep : flagStep p.opcode lid f = ({ f with value := x, last := lid }, stOk) := by
    unfold flagStep; cases x <;> simp [hop, hfp, hv]
  have hdouble : (decide (p.opcode = opFlagSet) && f.value && !f.poisoned) = false := by cases x <;> simp [hop, hv]
  have hne : ({ f with value := x, last := lid } : Flag) ≠ f := fun hx => by
    have := congrArg Flag.value hx; rw [hv] at this; cases x <;> cases this
  refine ⟨f.record, {}, ?_⟩
  subst hi
  unfold Ch.plainOp Ch.flagOp
  simp only [Packet.op, hc, if_true, readFlag_clean hs.1 hs.2 he, hf', hstep, hdouble, hp, Bool.or_false, Bool.false_eq_true, if_false]
  rw [changeFlag_alone ha', hf', if_neg (by simpa [hfp] using hne)]
  rfl

/-- SEM_ADD of a positive amount that does not overflow, on a semaphore that nobody waits for. -/
theorem Packet.performs_semAdd {x : Nat} (hc : p.cls = 1) (hi : p.index = i) (hp : p.poisoned = false) (hop : p.opcode = opSemAdd)
    (hx : fld p.operand 31 0 = x) (ha : c.Alone clSem i) (hv : c.sem i = v) (hvp : v.poisoned = false) (hpos : 0 < x)
    (hle : v.value + x ≤ 0x7FFFFFFF) :
    p.Performs lid c (fun os => { os with sems := os.sems.put {} i { v with value := v.value + x, last := lid } }) := by
  intro e d he hs hos hhw
  have ha' : d.Alone clSem i := by unfold Ch.Alone Ch.waiters at ha ⊢; rw [hhw]; exact ha
  have hv' : d.sem i = v := by unfold Ch.sem; rw [hos]; exact hv
  have hstep : semStep p.opcode x lid v = ({ v with value := v.value + x, last := lid }, stOk) := by
    simp [semStep, hop, hvp, hle, Nat.ne_of_gt hpos]
  have hne : ({ v with value := v.value + x, last := lid } : Sem) ≠ v := fun he => by
    have := congrArg Sem.value he; dsimp only at this; omega
  subst hi
  unfold Ch.plainOp Ch.semOp
  simp only [Packet.op, hc, if_true, readSem_clean hs.1 hs.2 he, hv', hx, hstep, hp, Bool.or_false]
  refine ⟨_, _, Prod.ext ?_ rfl⟩
  exact ((changeSem_alone ha' _).trans (if_neg (by rw [hv']; exact hne)))

/-! ### The two commands together -/

/-- A packet is an unpoisoned trailer that says this. -/
structure Packet.Says (p : Packet) (op cls i x : Nat) : Prop where
  trailer : p.trailer = true
  clean   : p.poisoned = false
  opcode  : p.opcode = op
  cls     : p.cls = cls
  index   : p.index = i
  operand : p.operand = x

theorem Packet.Says.ok {cls x : Nat} (h : p.Says op cls i x) (ho : trailerOp op = true) (hc : cls < 2) (hown : opClass op = some cls)
    (hi : i < 2 ^ indexWidth cls) : p.TrailerOk := by
  obtain ⟨ht, -, rfl, rfl, rfl, -⟩ := h
  exact ⟨ht, ho, hc, hown, hi⟩

theorem trailerPacket_says (h : t.poisoned = false) :
    (trailerPacket t).Says t.opcode.toNat t.cls.toNat t.index.toNat t.operand.toNat := ⟨rfl, h, rfl, rfl, rfl, rfl⟩

/-- The body words of a TRAILER message name the op, its object and its operand (R256, R261). -/
theorem remotePacket_says (h1 : bodyWord m 1 = at_ 31 26 t.opcode.toNat + at_ 25 23 t.cls.toNat + at_ 22 0 t.index.toNat)
    (h2 : bodyWord m 2 = t.operand.toNat) :
    (remotePacket m).Says t.opcode.toNat t.cls.toNat t.index.toNat t.operand.toNat := by
  have hop := t.opcode.isLt
  have hcls := t.cls.isLt
  have hidx := t.index.isLt
  rw [at_of_lt hop, at_of_lt hcls, at_of_lt hidx] at h1
  refine ⟨rfl, rfl, ?_, ?_, ?_, h2⟩ <;>
    · simp only [remotePacket, h1, fld]
      omega

theorem takesOf_remote (m : MsgIn) :
    takesOf (remotePacket m) = [.take (remotePacket m).phys (remotePacket m).opcode, .creditBack m.port.toNat] := by
  have hport : (0x700 + m.port.toNat) % 8 = m.port.toNat := by have := m.port.isLt; omega
  simp [takesOf, remotePacket, hport]

/-- A trailer, and a remote one that says the same to a FORMED or BROKEN accord (R261), perform `k` on the objects of channel `n`:
each is counted, and its take is acknowledged; the remote one is noted in LA. -/
def State.TrailersPerform (s : State) (n lid : Nat) (t : TrailerArg) (m : MsgIn) (k : Os → Os) : Prop :=
  exec (.trailer t) s = .next (s.moved n { (s.ch n).trailerCounted (trailerPacket t) lid with os := k (s.ch n).os }
    [.take t.tile.toNat t.opcode.toNat]) ∧
  (s.Hears n tyTrailer m ∧ m.port.toNat + 0x700 = t.issuer.toNat ∧
      bodyWord m 1 = at_ 31 26 t.opcode.toNat + at_ 25 23 t.cls.toNat + at_ 22 0 t.index.toNat ∧
      bodyWord m 2 = t.operand.toNat ∧ ((s.ch n).la.st = .formed ∨ (s.ch n).la.st = .broken) →
    exec (.remoteTrailer m) s = .next (s.moved n { (s.ch n).trailerCounted (remotePacket m) lid with
      os := k (s.ch n).os,
      lalog := { (s.ch n).lalog with
        msgRx := inc (s.ch n).lalog.msgRx, rtr := inc (s.ch n).lalog.rtr,
        rtrLast := at_ 61 56 m.src.toNat + at_ 55 44 (fld (bodyWord m 3) 11 0) + at_ 43 38 t.opcode.toNat
          + at_ 37 35 t.cls.toNat + at_ 22 0 t.index.toNat } }
      [.take t.issuer.toNat t.opcode.toNat, .creditBack m.port.toNat]))

/-- What a trailer says decides what it performs, whichever way it came. -/
theorem State.TakesTrailer.perform {cls : Nat} (h : s.TakesTrailer n lid t) (hcls : t.cls.toNat = cls) (hc : cls < 2)
    (hown : opClass t.opcode.toNat = some cls) (hrem : remoteTrailerOp t.opcode.toNat = true) (hcar : trailerOp t.opcode.toNat = true)
    (hi : t.index.toNat < 2 ^ indexWidth cls)
    (hsays : ∀ p : Packet, p.Says t.opcode.toNat cls t.index.toNat t.operand.toNat → p.Performs lid (s.ch n) k) :
    s.TrailersPerform n lid t m k := by
  subst hcls
  have hp := trailerPacket_says h.unpoisoned
  refine ⟨h.exec (hp.ok hcar hc hown hi) (hsays _ hp), ?_⟩
  rintro ⟨hhears, hport, h1, h2, hst⟩
  have hphys : (remotePacket m).phys = t.issuer.toNat := (Nat.add_comm ..).trans hport
  have hr := remotePacket_says h1 h2
  rw [exec_remoteTrailer hhears (by rw [hr.opcode]; exact hrem) (hr.ok hcar hc hown hi) (by rw [hphys]; exact h.maps)
      (by rw [hphys]; exact h.unfenced) hst (hsays _ hr), takesOf_remote, hphys, hr.opcode, hr.cls, hr.index]

theorem State.TakesTrailer.flag {x : Bool} (h : s.TakesTrailer n lid t) (hcls : t.cls = 0)
    (hop : t.opcode.toNat = if x then opFlagSet else opFlagClear) (hi : t.index.toNat < 2 ^ 20)
    (ha : (s.ch n).Alone clFlag t.index.toNat) (hf : (s.ch n).flag t.index.toNat = f) (hfp : f.poisoned = false) (hv : f.value = !x) :
    s.TrailersPerform n lid t m
      (fun os => { os with flags := os.flags.put {} t.index.toNat { f with value := x, last := lid } }) := by
  refine h.perform (cls := 0) (by rw [hcls]; rfl) (by decide) ?_ ?_ ?_ hi fun p hp =>
    Packet.performs_flag hp.cls hp.index hp.clean (hp.opcode.trans hop) ha hf hfp hv <;>
    · rw [hop]; cases x <;> rfl

theorem State.TakesTrailer.semAdd (h : s.TakesTrailer n lid t) (hcls : t.cls = 1) (hop : t.opcode.toNat = opSemAdd)
    (hi : t.index.toNat < 2 ^ 18) (ha : (s.ch n).Alone clSem t.index.toNat) (hv : (s.ch n).sem t.index.toNat = v)
    (hvp : v.poisoned = false) (hpos : 0 < fld t.operand.toNat 31 0) (hle : v.value + fld t.operand.toNat 31 0 ≤ 0x7FFFFFFF) :
    s.TrailersPerform n lid t m (fun os => { os with
      sems := os.sems.put {} t.index.toNat { v with value := v.value + fld t.operand.toNat 31 0, last := lid } }) := by
  refine h.perform (cls := 1) (by rw [hcls]; rfl) (by decide) ?_ ?_ ?_ hi fun p hp =>
    Packet.performs_semAdd hp.cls hp.index hp.clean (hp.opcode.trans hop) (by rw [hp.operand]) ha hv hvp hpos hle <;>
    · rw [hop]; rfl

/-- Settles O44: the node's take, the checks and the bank by `State.TakesTrailer.perform`; each op by what it makes of an object that
nobody waits for. -/
theorem trailerOps : Obligations.TrailerOps := by
  rintro s n phys lid i op t m f v h rfl ho hq hf hh hl - hfen hpkt hmem hpois rfl rfl hflag hsem
  have ht : s.TakesTrailer n lid t := ⟨h, ho, hq, hf, hh, hl, hfen, hpkt, hmem, hpois⟩
  refine ⟨fun hcls hi ha hfp => ⟨fun hop hval => ?_, fun hop hval => ?_⟩, fun hcls hi ha hvp hop hpos hle => ?_⟩
  · exact ht.flag (x := true) hcls hop hi ha hflag hfp hval
  · exact ht.flag (x := false) hcls hop hi ha hflag hfp hval
  · exact ht.semAdd hcls hop hi ha hsem hvp hpos hle

end
end Sys2Proof.Machine
end

section

/-! ## A train that was refused and names the same object (R48, R49)

A train that has ended keeps the objects its packets named. A first packet of another train discards it where it names one of them
(R49), so the first packet leaves the sender's other endings alone only where none of them has named its flag. -/

namespace Sys2Proof.Machine

/-- The ending of logical ID 3's train with TAG 1, which named flag 0 and was then refused before its LAST packet (R48). -/
def refusedTrain : TrainEnd :=
  { lid := 3, tag := 1, done := false, status := stBadOp, slot := 0, train := 0, result := 0, flags := 0, objs := [(0, 0)] }

/-- Channel A in RUN with that ending, and endpoint 5 as logical ID 3. -/
def refusedCh : Ch :=
  { ctl := { st := .run, map := [(3, ⟨true, 5⟩)] }, clk := { st := .active }, hw := { ended := [refusedTrain] } }

/-- The powered block with that channel, its gate open, every endpoint in channel A. -/
def afterRefusal : State := { por := false, pt := { gate := .opened }, chA := refusedCh }

/-- The only packet, LAST, of endpoint 5's train with TAG 9: FLAG_WAIT_CLEAR of flag 0, which is clear. -/
def clearWait : Req :=
  { endpoint := 5, cls := 0, index := 0, tag := 9, operand := BitVec.ofNat 64 (opFlagWaitClear + 2 ^ 8), pkt := .none, mem := .none }

theorem refusedCh_calm : refusedCh.Calm :=
  ⟨rfl, rfl, ⟨rfl, rfl, rfl, rfl, rfl⟩, rfl, rfl, rfl, rfl, rfl, fun u => by cases u <;> rfl⟩

theorem afterRefusal_serves : afterRefusal.Serves 0 clearWait.endpoint.toNat 3 where
  por := rfl
  chan := by decide
  single := rfl
  settled := by decide
  calm := refusedCh_calm
  owner := by decide
  openPort := by decide
  room := by decide
  free := by decide
  maps := by decide
  inRange := by decide
  unfenced := by decide

/-- The channel after that packet: the refused train is forgotten. -/
def forgottenCh : Ch :=
  { refusedCh.counted (reqPacket opWaitAny clearWait) 3 with hw := {} }

theorem exec_clearWait : exec (.waitAny clearWait) afterRefusal = .next (afterRefusal.served 0 opWaitAny clearWait forgottenCh
    [replyTo 0 opWaitAny clearWait stOk (trainResult 0 1 0xFFE) true]) := by
  refine act_waitAny afterRefusal_serves ⟨rfl, rfl⟩ (by decide) (by decide) (by decide) ?_ ⟨⟨rfl, rfl, rfl, rfl, rfl⟩, rfl⟩
  rfl

/-- Refutes O19: it has no premise that the sender's other endings name another object. Logical ID 3's refused train with TAG 1 has named
flag 0; the packet with TAG 9 on that flag meets every premise, yet by R49 it discards that train, where the statement keeps it. The
missing premise: no ending `t` of the sender has `(0, i)` in `t.objs`. -/
theorem not_trainStarts : ¬ Obligations.TrainStarts := by
  intro h
  have hlast := (h afterRefusal 0 3 0 0 clearWait {} afterRefusal_serves ⟨rfl, rfl⟩ rfl rfl (by decide) rfl rfl (by decide) (by decide)
    ⟨by decide, rfl, fun j hj => absurd hj (Nat.not_lt_zero j)⟩ (.inr (by decide))).1 (by decide) (by decide)
  have hch := congrArg (fun t => (t.ch 0).hw.ended) (Host.Outcome.next.inj (exec_clearWait.symm.trans hlast))
  simp only [State.served, State.ch_setPll, State.ch_busyNow, State.ch_leave, State.ch_setCh_self] at hch
  have hlost : ([] : List TrainEnd) = [refusedTrain] := hch
  cases hlost

end Sys2Proof.Machine
end

section

/-! ## Flag and semaphore ops at their bank (R73 to R87)

An op that meets no array error makes of its object what `flagStep` or `semStep` says, whoever sent it: an endpoint or the host. -/

namespace Sys2Proof.Machine
section
variable {s : State} {n lid op i k st : Nat} {r : Req} {c d : Ch} {e : Env} {o : Op} {f g : Flag} {v w : Sem} {l : List Output}

/-! ### Flags -/

/-- A flag op that is no double set. -/
theorem Ch.flagOp_eq (hs : c.Sound) (he : e.inject = 0) (hp : o.poisoned = false) (hf : c.flag o.index = f)
    (hd : ¬ (o.opcode = opFlagSet ∧ f.value = true)) (hstep : flagStep o.opcode o.lid f = (g, st)) :
    c.flagOp e o = (c.changeFlag e o.index g, .done st f.record {}) := by
  have hdouble : (decide (o.opcode = opFlagSet) && f.value && !f.poisoned) = false := by
    by_cases ho : o.opcode = opFlagSet <;> simp_all
  unfold Ch.flagOp
  rw [readFlag_clean hs.1 hs.2 he]
  simp only [hf, hstep, hp, hdouble, Bool.or_false, Bool.false_eq_true, if_false]

theorem Ch.changeFlag_self : c.changeFlag e i (c.flag i) = c := if_pos rfl

/-- A flag op that leaves its flag as it is. -/
theorem Ch.flagOp_keeps (hs : c.Sound) (he : e.inject = 0) (hp : o.poisoned = false) (hf : c.flag o.index = f)
    (hd : ¬ (o.opcode = opFlagSet ∧ f.value = true)) (hstep : flagStep o.opcode o.lid f = (f, st)) :
    c.flagOp e o = (c, .done st f.record {}) := by
  rw [Ch.flagOp_eq hs he hp hf hd hstep, ← hf, Ch.changeFlag_self]

/-- A flag op that changes a flag which nobody waits for. -/
theorem Ch.flagOp_changes (hs : c.Sound) (he : e.inject = 0) (hp : o.poisoned = false) (hf : c.flag o.index = f)
    (ha : c.Alone clFlag o.index) (hd : ¬ (o.opcode = opFlagSet ∧ f.value = true))
    (hstep : flagStep o.opcode o.lid f = (g, st)) (hne : g ≠ f) :
    c.flagOp e o = (c.putFlag o.index g, .done st f.record {}) := by
  rw [Ch.flagOp_eq hs he hp hf hd hstep, changeFlag_alone ha, hf, if_neg hne]

/-- A double set of flag `i`, which is not STRICT, by `lid` is counted and recorded (R78, R108). -/
def Ch.doubleSetNoted (lid i : Nat) (c : Ch) : Ch :=
  { c with os := { c.os with dblCount := inc c.os.dblCount, dblStrict := false, dblLid := lid, dblIndex := i } }

theorem Ch.doubleSet_lenient (hst : f.strict = false) :
    c.doubleSet e o f = c.doubleSetNoted o.lid o.index := by
  unfold Ch.doubleSet
  simp only [hst, Bool.false_eq_true, if_false]
  rfl

theorem Ch.flagOp_doubleSet (hs : c.Sound) (he : e.inject = 0) (hp : o.poisoned = false) (hf : c.flag o.index = f)
    (ho : o.opcode = opFlagSet) (hv : f.value = true) (hfp : f.poisoned = false) (hst : f.strict = false) :
    c.flagOp e o = (c.doubleSetNoted o.lid o.index, .done stOk f.record {}) := by
  have hstep : flagStep o.opcode o.lid f = (f, stOk) := by simp [flagStep, ho, hv, hfp]
  have hdouble : (decide (o.opcode = opFlagSet) && f.value && !f.poisoned) = true := by simp [ho, hv, hfp]
  have hsame : (c.doubleSet e o f).flag o.index = f := by rw [Ch.doubleSet_lenient hst]; exact hf
  unfold Ch.flagOp
  rw [readFlag_clean hs.1 hs.2 he]
  simp only [hf, hstep, hdouble, hp, Bool.or_false, if_true]
  rw [← Ch.doubleSet_lenient (e := e) (c := c) hst]
  exact congrArg (·, _) (if_pos hsame.symm)

theorem flagStep_of_poisoned_false (hfp : f.poisoned = false) :
    flagStep op lid f =
      if op = opFlagSet then (if f.value then f else { f with value := true, last := lid }, stOk)
      else if op = opFlagClear then (if f.value then { f with value := false, last := lid } else f, stOk)
      else if op = opFlagTestClear then
        (if f.value then { f with value := false, last := lid } else f, if f.value then stOk else stFalse)
      else (f, if f.value then stOk else stFalse) := by
  unfold flagStep
  rw [hfp, if_neg (by decide)]

theorem Flag.ne_of_value {x : Bool} (h : f.value = !x) : ({ f with value := x, last := lid } : Flag) ≠ f := by
  intro he
  have hx : x = f.value := congrArg Flag.value he
  rw [h] at hx
  cases x <;> cases hx

/-! ### Semaphores -/

theorem Ch.changeSem_self : c.changeSem e i (c.sem i) = c := if_pos rfl

/-- A semaphore op that raises nothing: RESULT is the word after it (R82). -/
theorem Ch.semOp_eq (hs : c.Sound) (he : e.inject = 0) (hp : o.poisoned = false) (hv : c.sem o.index = v)
    (hstep : semStep o.opcode (fld o.operand 31 0) o.lid v = (w, st)) (h1 : st ≠ stOverflow) (h2 : st ≠ stUnderflow) :
    c.semOp e o = (c.changeSem e o.index w, .done st (w.word (c.waiting clSem o.index)) {}) := by
  unfold Ch.semOp
  rw [readSem_clean hs.1 hs.2 he]
  simp only [hv, hstep, hp, Bool.or_false, h1, h2, if_false]

/-- A semaphore op that leaves its word as it is. -/
theorem Ch.semOp_keeps (hs : c.Sound) (he : e.inject = 0) (hp : o.poisoned = false) (hv : c.sem o.index = v)
    (hstep : semStep o.opcode (fld o.operand 31 0) o.lid v = (v, st)) (h1 : st ≠ stOverflow) (h2 : st ≠ stUnderflow) :
    c.semOp e o = (c, .done st (v.word (c.waiting clSem o.index)) {}) := by
  rw [Ch.semOp_eq hs he hp hv hstep h1 h2, ← hv, Ch.changeSem_self]

theorem Ch.Alone.waiting {cls : Nat} (h : c.Alone cls i) : c.waiting cls i = 0 := by
  unfold Ch.waiting
  rw [h.1]
  rfl

/-- A semaphore op that changes a word which nobody waits for. -/
theorem Ch.semOp_changes (hs : c.Sound) (he : e.inject = 0) (hp : o.poisoned = false) (hv : c.sem o.index = v)
    (ha : c.Alone clSem o.index) (hstep : semStep o.opcode (fld o.operand 31 0) o.lid v = (w, st)) (hne : w ≠ v)
    (h1 : st ≠ stOverflow) (h2 : st ≠ stUnderflow) :
    c.semOp e o = (c.putSem o.index w, .done st (w.word 0) {}) := by
  rw [Ch.semOp_eq hs he hp hv hstep h1 h2, changeSem_alone ha, hv, if_neg hne, ha.waiting]

theorem Sem.ne_of_value {x : Nat} (h : x ≠ v.value) : ({ v with value := x, last := lid } : Sem) ≠ v :=
  fun he => h (congrArg Sem.value he)

/-! ### Requests -/

theorem Ch.Calm.out_nil (h : c.Calm) : c.out = [] := by
  obtain ⟨-, hout, -⟩ := h.quiet
  exact hout

theorem Ch.Same.out_nil (h : d.Same c) : ({ d with out := [] } : Ch) = d := by
  obtain ⟨-, hout, -⟩ := h.quiet
  rw [← hout]

/-- A channel with nothing left to do settles as it is, whatever it sends. -/
theorem Ch.Same.settle_out (h : d.Same c) : ({ d with out := l } : Ch).settle e = { d with out := l } := by
  obtain ⟨htodo, -, -, hhalt, -⟩ := h.quiet
  exact Ch.settle_quiet htodo hhalt

/-- A clean request of a served endpoint on object `i` of class `k`, which the class has. -/
structure State.Asks (s : State) (n lid k i : Nat) (r : Req) : Prop where
  serves : s.Serves n r.endpoint.toNat lid
  clean  : Clean r
  cls    : r.cls.toNat = k
  index  : r.index.toNat = i
  range  : i < 2 ^ indexWidth k

theorem State.Asks.taken (h : s.Asks n lid k i r) (hk : k < 2) (hop : opClass op = some k) : Taken s n lid op r :=
  taken_object h.serves h.clean h.cls (by omega) hop (h.index ▸ h.range) (fun hs => absurd hs (Nat.ne_of_lt hk))

theorem State.Asks.sound (h : s.Asks n lid k i r) : ((s.ch n).counted (reqPacket op r) lid).Sound :=
  (h.serves.calm.counted _).os

/-- FLAG_SET, FLAG_CLEAR, FLAG_TEST or FLAG_TEST_CLEAR, by what it makes of the channel. -/
theorem State.Asks.flagOp (h : s.Asks n lid clFlag i r) (hop : opClass op = some clFlag) (hk : parks op r.index.toNat = false)
    (hp : ((s.ch n).counted (reqPacket op r) lid).flagOp (s.envOf n op r) ((reqPacket op r).op lid) =
      (d, .done st f.record {})) (hd : d.Same (s.ch n)) :
    act s (fun s => s.request op r) = .next (s.served n op r d [replyTo n op r st f.record true]) := by
  refine (h.taken (by decide) hop).plain hk ?_ hd
  unfold Ch.plainOp
  exact (if_pos h.cls).trans hp

/-- SEM_ADD, SEM_SUB, SEM_TRYSUB or SEM_READ, by what it makes of the channel. -/
theorem State.Asks.semOp (h : s.Asks n lid clSem i r) (hop : opClass op = some clSem) (hk : parks op r.index.toNat = false)
    {result : Nat} (hp : ((s.ch n).counted (reqPacket op r) lid).semOp (s.envOf n op r) ((reqPacket op r).op lid) =
      (d, .done st result {})) (hd : d.Same (s.ch n)) :
    act s (fun s => s.request op r) = .next (s.served n op r d [replyTo n op r st result true]) := by
  refine (h.taken (by decide) hop).plain hk ?_ hd
  have hcls : ((reqPacket op r).op lid).cls = clSem := h.cls
  unfold Ch.plainOp
  rw [if_neg (by rw [hcls]; decide), if_pos hcls]
  exact hp

end
end Sys2Proof.Machine
end

section

/-! ## Flag ops of an endpoint (R73 to R78, R108) -/

namespace Sys2Proof.Machine
section
variable {s : State} {n lid op i st : Nat} {r : Req} {f : Flag}

theorem State.Asks.flag_keeps (h : s.Asks n lid clFlag i r) (hf : (s.ch n).flag i = f) (hop : opClass op = some clFlag)
    (hk : parks op r.index.toNat = false) (hd : ¬ (op = opFlagSet ∧ f.value = true)) (hstep : flagStep op lid f = (f, st)) :
    act s (fun s => s.request op r) =
      .next (s.served n op r ((s.ch n).counted (reqPacket op r) lid) [replyTo n op r st f.record true]) := by
  obtain rfl := h.index
  exact h.flagOp hop hk (Ch.flagOp_keeps h.sound rfl rfl hf hd hstep) ⟨h.serves.calm.quiet, rfl⟩

theorem State.Asks.flag_changes {g : Flag} (h : s.Asks n lid clFlag i r) (hf : (s.ch n).flag i = f) (ha : (s.ch n).Alone clFlag i)
    (hop : opClass op = some clFlag) (hk : parks op r.index.toNat = false) (hd : ¬ (op = opFlagSet ∧ f.value = true))
    (hstep : flagStep op lid f = (g, st)) (hne : g ≠ f) :
    act s (fun s => s.request op r) =
      .next (s.served n op r (((s.ch n).counted (reqPacket op r) lid).putFlag i g) [replyTo n op r st f.record true]) := by
  obtain rfl := h.index
  exact h.flagOp hop hk (Ch.flagOp_changes h.sound rfl rfl hf ha hd hstep hne) ⟨h.serves.calm.quiet, rfl⟩

theorem State.Asks.flag_doubleSet (h : s.Asks n lid clFlag i r) (hf : (s.ch n).flag i = f) (hv : f.value = true)
    (hfp : f.poisoned = false) (hst : f.strict = false) :
    exec (.flagSet r) s = .next (s.served n opFlagSet r (((s.ch n).counted (reqPacket opFlagSet r) lid).doubleSetNoted lid i)
      [replyTo n opFlagSet r stOk f.record true]) := by
  obtain rfl := h.index
  exact h.flagOp rfl rfl (Ch.flagOp_doubleSet h.sound rfl rfl hf rfl hv hfp hst) ⟨h.serves.calm.quiet, rfl⟩

/-- Settles O7: each op by `flagStep`, which keeps the record or gives it a new VALUE and LAST; a double set by itself. -/
theorem flagOps : Obligations.FlagOps := by
  intro s n lid i r f hs hr hcls hi hlt hf ha hp
  have h : s.Asks n lid clFlag i r := ⟨hs, hr, by rw [hcls]; rfl, hi, hlt⟩
  have hstep := fun op => flagStep_of_poisoned_false (op := op) (lid := lid) hp
  refine ⟨fun hv => ⟨?_, ?_, ?_, ?_⟩, fun hv => ⟨fun hst => h.flag_doubleSet hf hv hp hst, ?_, ?_, ?_⟩⟩
  · exact h.flag_changes hf ha rfl rfl (by simp [hv]) (by simp [hstep, hv]) (Flag.ne_of_value hv)
  · exact h.flag_keeps hf rfl rfl (by simp [hv]) (by simp [hstep, hv])
  · exact h.flag_keeps hf rfl rfl (by simp [hv]) (by simp [hstep, hv])
  · exact h.flag_keeps hf rfl rfl (by simp [hv]) (by simp [hstep, hv])
  · exact h.flag_changes hf ha rfl rfl (by simp) (by simp [hstep, hv]) (Flag.ne_of_value hv)
  · exact h.flag_keeps hf rfl rfl (by simp) (by simp [hstep, hv])
  · exact h.flag_changes hf ha rfl rfl (by simp) (by simp [hstep, hv]) (Flag.ne_of_value hv)

end
end Sys2Proof.Machine
end

section

/-! ## Flag waits (R77, R89, R91, R92) -/

namespace Sys2Proof.Machine
section
variable {s : State} {n lid op i k st : Nat} {r : Req} {c : Ch} {e : Env} {o : Op} {f g : Flag}

/-! ### Wait ops -/

theorem Ch.flagWait_holds (hs : c.Sound) (he : e.inject = 0) (hf : c.flag o.index = f) (hfp : f.poisoned = false)
    (hv : f.value = decide (op = opFlagWaitSet)) : c.flagWait e o op = .decided c stOk f.record {} := by
  unfold Ch.flagWait
  rw [readFlag_clean hs.1 hs.2 he]
  simp only [hf, hfp, Bool.false_eq_true, if_false]
  rw [if_pos hv]

theorem Ch.flagWait_parks (hs : c.Sound) (he : e.inject = 0) (hf : c.flag o.index = f) (hfp : f.poisoned = false)
    (hv : f.value ≠ decide (op = opFlagWaitSet)) :
    c.flagWait e o op = .park c f.record 0 o.index (fld o.operand 31 0) id := by
  unfold Ch.flagWait
  rw [readFlag_clean hs.1 hs.2 he]
  simp only [hf, hfp, Bool.false_eq_true, if_false]
  rw [if_neg hv]

theorem Ch.slotsFullResult_of_ne_bar (h : o.cls ≠ clBar) (found : Nat) : c.slotsFullResult e o found = found := if_neg h

theorem State.Asks.verdict_flag (h : s.Asks n lid clFlag i r) :
    c.verdict e ((reqPacket op r).op lid) op = c.flagWait e ((reqPacket op r).op lid) op := if_pos h.cls

theorem State.Asks.flagWait_holds (h : s.Asks n lid clFlag i r) (hf : (s.ch n).flag i = f) (hfp : f.poisoned = false)
    (hop : opClass op = some clFlag) (hk : parks op r.index.toNat = true) (hv : f.value = decide (op = opFlagWaitSet)) :
    act s (fun s => s.request op r) =
      .next (s.served n op r ((s.ch n).counted (reqPacket op r) lid) [replyTo n op r stOk f.record true]) := by
  obtain rfl := h.index
  exact (h.taken (by decide) hop).decided hk (h.verdict_flag.trans (Ch.flagWait_holds h.sound rfl hf hfp hv))
    ⟨h.serves.calm.quiet, rfl⟩

theorem State.Asks.flagWait_parks (h : s.Asks n lid clFlag i r) (hf : (s.ch n).flag i = f) (hfp : f.poisoned = false)
    (hop : opClass op = some clFlag) (hk : parks op r.index.toNat = true) (hv : f.value ≠ decide (op = opFlagWaitSet))
    (hfree : (s.ch n).LowestFree lid k) :
    act s (fun s => s.request op r) = .next (s.served n op r (((s.ch n).counted (reqPacket op r) lid).parkedWith
      (slotRecord (s.envOf n op r) op r lid k i (fld r.operand.toNat 31 0) 0 f.record)) [replyTo n op r stPending k false]) := by
  obtain rfl := h.index
  exact (h.taken (by decide) hop).park hk (h.verdict_flag.trans (Ch.flagWait_parks h.sound rfl hf hfp hv)) hfree rfl
    ⟨h.serves.calm.quiet, rfl⟩

theorem State.Asks.flagWait_full (h : s.Asks n lid clFlag i r) (hf : (s.ch n).flag i = f) (hfp : f.poisoned = false)
    (hop : opClass op = some clFlag) (hk : parks op r.index.toNat = true) (hv : f.value ≠ decide (op = opFlagWaitSet))
    (hfull : (s.ch n).SlotsFull lid) :
    act s (fun s => s.request op r) =
      .next (s.served n op r ((s.ch n).counted (reqPacket op r) lid) [replyTo n op r stSlotsFull f.record true]) := by
  obtain rfl := h.index
  have hfound := (h.taken (by decide) hop).full hk (h.verdict_flag.trans (Ch.flagWait_parks h.sound rfl hf hfp hv)) hfull
    ⟨h.serves.calm.quiet, rfl⟩
  rwa [Ch.slotsFullResult_of_ne_bar (o := (reqPacket op r).op lid) (fun hb => absurd (h.cls.symm.trans hb) (by decide))] at hfound

/-! ### The waits that a change ends -/

/-- The waits that a flag's new record satisfies (R77). -/
def Ch.satisfied (i : Nat) (g : Flag) (c : Ch) : List Parked :=
  (c.waiters clFlag i).filter (fun w => w.opcode = if g.value then opFlagWaitSet else opFlagWaitClear)

theorem Ch.settleFlag_eq (hg : g.poisoned = false) :
    c.settleFlag e i g = c.endWaits e stOk g.record {} (c.satisfied i g) := by
  unfold Ch.settleFlag Ch.satisfied
  rw [hg]
  cases g.value <;> rfl

/-- A flag that no enabled watch names takes a new record: the plain waits that it satisfies end, in arming order. -/
theorem Ch.changeFlag_ends (hs : c.Sound) (hn : e.chan = n) (hg : g.poisoned = false) (hne : g ≠ c.flag i)
    (hw : ∀ p ∈ c.hw.watches, p.2.enable = true → p.2.cls = clFlag → p.2.index ≠ i) (hp : c.PlainWaits (c.waiters clFlag i)) :
    c.changeFlag e i g = { (c.putFlag i g).freed (c.satisfied i g) with
      out := c.out ++ (c.satisfied i g).flatMap (fun x => endsOf n x stOk g.record) } := by
  have hsub : ∀ x ∈ c.satisfied i g, x ∈ c.waiters clFlag i := fun x hx => (List.mem_filter.mp hx).1
  have hnodup : (c.satisfied i g).Nodup := (hp.1.of_map _).filter _ |>.filter _
  have hend := Ch.endEach_plain (e := e) (n := n) (c := c.putFlag i g) (ws := c.satisfied i g) hs (fun _ => (stOk, g.record)) {}
    ⟨hp.1, fun x hx => hp.2 x (hsub x hx)⟩ (fun x hx => (List.mem_filter.mp (hsub x hx)).1) hnodup hn
  unfold Ch.changeFlag
  rw [if_neg hne, Ch.settleFlag_eq hg, show (c.putFlag i g).satisfied i g = c.satisfied i g from rfl, Ch.endWaits_eq, hend]
  exact Ch.runWatches_alone (by exact hw) _

/-- FLAG_SET or FLAG_CLEAR that changes a flag which no enabled watch names. -/
theorem State.Asks.flag_wakes (h : s.Asks n lid clFlag i r) (hf : (s.ch n).flag i = f) (hop : opClass op = some clFlag)
    (hk : parks op r.index.toNat = false) (hd : ¬ (op = opFlagSet ∧ f.value = true)) (hstep : flagStep op lid f = (g, st))
    (hg : g.poisoned = false) (hne : g ≠ f) (hw : ∀ p ∈ (s.ch n).hw.watches, p.2.enable = true → p.2.cls = clFlag → p.2.index ≠ i)
    (hp : (s.ch n).PlainWaits ((s.ch n).waiters clFlag i)) :
    act s (fun s => s.request op r) = .next (s.served n op r
      ((((s.ch n).counted (reqPacket op r) lid).putFlag i g).freed ((s.ch n).satisfied i g))
      (replyTo n op r st f.record true :: ((s.ch n).satisfied i g).flatMap (fun x => endsOf n x stOk g.record))) := by
  obtain rfl := h.index
  subst hf
  refine (h.taken (by decide) hop).plainOuts hk ?_ ⟨h.serves.calm.quiet, rfl⟩
  have hchange := Ch.changeFlag_ends (c := (s.ch n).counted (reqPacket op r) lid) (e := s.envOf n op r) (n := n) h.sound rfl hg hne
    hw hp
  rw [Ch.counted_out, h.serves.calm.out_nil, List.nil_append] at hchange
  unfold Ch.plainOp
  rw [if_pos (show ((reqPacket op r).op lid).cls = clFlag from h.cls), Ch.flagOp_eq h.sound rfl rfl rfl hd hstep]
  exact congrArg (·, _) hchange

/-- Settles O8: a wait by what the flag holds and by the sender's slots; a change by the waits it satisfies, which end in order. -/
theorem flagWaits : Obligations.FlagWaits := by
  refine ⟨?_, ?_⟩
  · intro s n lid i r f hs hr hcls hi hlt hf hp
    have h : s.Asks n lid clFlag i r := ⟨hs, hr, by rw [hcls]; rfl, hi, hlt⟩
    refine ⟨fun hv => ?_, fun hv => ?_, fun k hk => ⟨fun hv => ?_, fun hv => ?_⟩, fun hk => ⟨fun hv => ?_, fun hv => ?_⟩⟩
    · exact h.flagWait_holds hf hp rfl rfl hv
    · exact h.flagWait_holds hf hp rfl rfl hv
    · exact h.flagWait_parks hf hp rfl rfl (by simp [hv]) hk
    · exact h.flagWait_parks hf hp rfl rfl (by simp [hv]) hk
    · exact h.flagWait_full hf hp rfl rfl (by simp [hv]) hk
    · exact h.flagWait_full hf hp rfl rfl (by simp [hv]) hk
  · intro s n lid i r f hs hr hcls hi hlt hf hp hw hplain
    have h : s.Asks n lid clFlag i r := ⟨hs, hr, by rw [hcls]; rfl, hi, hlt⟩
    have hstep := fun op => flagStep_of_poisoned_false (op := op) (lid := lid) hp
    refine ⟨fun hv => ?_, fun hv => ?_⟩
    · exact h.flag_wakes hf rfl rfl (by simp [hv]) (by simp [hstep, hv]) hp (Flag.ne_of_value hv) hw hplain
    · exact h.flag_wakes hf rfl rfl (by simp) (by simp [hstep, hv]) hp (Flag.ne_of_value hv) hw hplain

end
end Sys2Proof.Machine
end

section

/-! ## Semaphore ops of an endpoint (R80 to R86, R89) -/

namespace Sys2Proof.Machine
section
variable {s : State} {n lid op i k st a : Nat} {r : Req} {c d : Ch} {e : Env} {o : Op} {v w : Sem}

/-! ### The ops that never park -/

/-- An op of amount 0 leaves the word as it is (R83). -/
theorem semStep_zero : semStep op 0 lid v = (v, if v.poisoned then stPoisoned else stOk) := by
  unfold semStep
  split <;> simp

theorem semStep_read (hp : v.poisoned = false) : semStep opSemRead a lid v = (v, stOk) := by
  simp [semStep, hp]

theorem semStep_add (hp : v.poisoned = false) (ha : 0 < a) (hle : v.value + a ≤ 0x7FFFFFFF) :
    semStep opSemAdd a lid v = ({ v with value := v.value + a, last := lid }, stOk) := by
  simp [semStep, hp, Nat.ne_of_gt ha, hle]

theorem semStep_take (hop : op = opSemSub ∨ op = opSemTrysub) (hp : v.poisoned = false) (ha : 0 < a) (hle : a ≤ v.value) :
    semStep op a lid v = ({ v with value := v.value - a, last := lid }, stOk) := by
  rcases hop with rfl | rfl <;> simp [semStep, hp, Nat.ne_of_gt ha, hle]

theorem semStep_trysub_false (hp : v.poisoned = false) (hlt : v.value < a) : semStep opSemTrysub a lid v = (v, stFalse) := by
  simp [semStep, hp, Nat.ne_of_gt (Nat.zero_lt_of_lt hlt), Nat.not_le.2 hlt]

theorem State.Asks.sem_keeps (h : s.Asks n lid clSem i r) (hv : (s.ch n).sem i = v) (hop : opClass op = some clSem)
    (hk : parks op r.index.toNat = false) (hstep : semStep op (fld r.operand.toNat 31 0) lid v = (v, st)) (h1 : st ≠ stOverflow)
    (h2 : st ≠ stUnderflow) :
    act s (fun s => s.request op r) = .next (s.served n op r ((s.ch n).counted (reqPacket op r) lid)
      [replyTo n op r st (v.word ((s.ch n).waiting clSem i)) true]) := by
  obtain rfl := h.index
  exact h.semOp hop hk (Ch.semOp_keeps h.sound rfl rfl hv hstep h1 h2) ⟨h.serves.calm.quiet, rfl⟩

theorem State.Asks.sem_changes (h : s.Asks n lid clSem i r) (hv : (s.ch n).sem i = v) (ha : (s.ch n).Alone clSem i)
    (hop : opClass op = some clSem) (hk : parks op r.index.toNat = false)
    (hstep : semStep op (fld r.operand.toNat 31 0) lid v = (w, stOk)) (hne : w ≠ v) :
    act s (fun s => s.request op r) = .next (s.served n op r (((s.ch n).counted (reqPacket op r) lid).putSem i w)
      [replyTo n op r stOk (w.word 0) true]) := by
  obtain rfl := h.index
  exact h.semOp hop hk (Ch.semOp_changes h.sound rfl rfl hv ha hstep hne (by decide) (by decide)) ⟨h.serves.calm.quiet, rfl⟩

/-! ### SEM_WAITSUB -/

theorem Ch.semWait_poisoned (hs : c.Sound) (he : e.inject = 0) (hv : c.sem o.index = v) (hp : v.poisoned = true) :
    c.semWait e o = .decided c stPoisoned (v.word (c.waiting clSem o.index)) {} := by
  unfold Ch.semWait Ch.semWordNow
  rw [readSem_clean hs.1 hs.2 he]
  simp only [hv, hp, if_true]

/-- The cases of SEM_WAITSUB in order (R83 to R85). -/
theorem Ch.semWait_eq (hs : c.Sound) (he : e.inject = 0) (hv : c.sem o.index = v) (hp : v.poisoned = false)
    (ha : fld o.operand 31 0 = a) :
    c.semWait e o =
      if a = 0 then .decided c stOk (v.word (c.waiting clSem o.index)) {}
      else if 0x7FFFFFFF < a then .decided c stFalse (v.word (c.waiting clSem o.index)) {}
      else if a ≤ v.value ∧ (v.firstFit = true ∨ c.waiting clSem o.index = 0) then
        let w := { v with value := v.value - a, last := o.lid }
        .decided ((c.putSem o.index w).watchSem o.index v) stOk (w.word (c.waiting clSem o.index)) {}
      else .park c (v.word (c.waiting clSem o.index)) 0 o.index a id := by
  unfold Ch.semWait Ch.semWordNow
  rw [readSem_clean hs.1 hs.2 he]
  simp only [hv, hp, ha, Bool.false_eq_true, if_false]

/-- A word that no enabled watch names is watched by nobody. -/
theorem Ch.watchSem_putSem (h : ∀ p ∈ c.hw.watches, p.2.enable = true → p.2.cls = clSem → p.2.index ≠ i) :
    (c.putSem i w).watchSem i v = c.putSem i w := Ch.runWatches_alone (c := c.putSem i w) h _

theorem State.Asks.verdict_sem (h : s.Asks n lid clSem i r) :
    c.verdict e ((reqPacket op r).op lid) op = c.semWait e ((reqPacket op r).op lid) := by
  have hcls : ((reqPacket op r).op lid).cls = clSem := h.cls
  unfold Ch.verdict
  rw [if_neg (by rw [hcls]; decide), if_pos hcls]

theorem State.Asks.semWait_eq (h : s.Asks n lid clSem i r) (hv : (s.ch n).sem i = v) (hp : v.poisoned = false)
    (ha : fld r.operand.toNat 31 0 = a) (hc : (s.ch n).counted (reqPacket opSemWaitsub r) lid = c) :
    c.semWait (s.envOf n opSemWaitsub r) ((reqPacket opSemWaitsub r).op lid) =
      if a = 0 then .decided c stOk (v.word (c.waiting clSem i)) {}
      else if 0x7FFFFFFF < a then .decided c stFalse (v.word (c.waiting clSem i)) {}
      else if a ≤ v.value ∧ (v.firstFit = true ∨ c.waiting clSem i = 0) then
        let w := { v with value := v.value - a, last := lid }
        .decided ((c.putSem i w).watchSem i v) stOk (w.word (c.waiting clSem i)) {}
      else .park c (v.word (c.waiting clSem i)) 0 i a id := by
  obtain rfl := h.index
  subst hc
  exact Ch.semWait_eq (o := (reqPacket opSemWaitsub r).op lid) h.sound rfl hv hp ha

theorem State.Asks.semWait_decided {result : Nat} (h : s.Asks n lid clSem i r)
    (hw : ((s.ch n).counted (reqPacket opSemWaitsub r) lid).semWait (s.envOf n opSemWaitsub r) ((reqPacket opSemWaitsub r).op lid) =
      .decided d st result {}) (hd : d.Same (s.ch n)) :
    exec (.semWaitsub r) s = .next (s.served n opSemWaitsub r d [replyTo n opSemWaitsub r st result true]) :=
  (h.taken (by decide) rfl).decided rfl (h.verdict_sem.trans hw) hd

theorem State.Asks.semWait_full {found : Nat} (h : s.Asks n lid clSem i r)
    (hw : ((s.ch n).counted (reqPacket opSemWaitsub r) lid).semWait (s.envOf n opSemWaitsub r) ((reqPacket opSemWaitsub r).op lid) =
      .park ((s.ch n).counted (reqPacket opSemWaitsub r) lid) found 0 i a id) (hfull : (s.ch n).SlotsFull lid) :
    exec (.semWaitsub r) s = .next (s.served n opSemWaitsub r ((s.ch n).counted (reqPacket opSemWaitsub r) lid)
      [replyTo n opSemWaitsub r stSlotsFull found true]) := by
  have hfound := (h.taken (by decide) rfl).full rfl (h.verdict_sem.trans hw) hfull ⟨h.serves.calm.quiet, rfl⟩
  rwa [Ch.slotsFullResult_of_ne_bar (o := (reqPacket opSemWaitsub r).op lid)
    (fun hb => absurd (h.cls.symm.trans hb) (by decide))] at hfound

/-! ### The statements -/

/-- Settles O9: the ops by `semStep`; SEM_WAITSUB by the order of its cases. -/
theorem semOps : Obligations.SemOps := by
  refine ⟨?_, ?_⟩
  · intro s n lid i a r v hs hr hcls hi hlt hv ha hp hx
    subst hx
    have h : s.Asks n lid clSem i r := ⟨hs, hr, by rw [hcls]; rfl, hi, hlt⟩
    have hword : v.word 0 = v.word ((s.ch n).waiting clSem i) := by rw [ha.waiting]
    dsimp only
    simp only [if_true, hword]
    refine ⟨fun h0 hle => ?_, fun h0 hle => ?_, fun hlt => ?_, fun h0 => ?_, ?_⟩
    · have hne := Sem.ne_of_value (lid := lid) (v := v) (Nat.ne_of_gt (Nat.lt_add_of_pos_right (n := v.value) h0))
      rw [if_neg hne]
      exact h.sem_changes hv ha rfl rfl (semStep_add hp h0 hle) hne
    · have hne := Sem.ne_of_value (lid := lid) (v := v) (Nat.ne_of_lt (Nat.sub_lt (Nat.lt_of_lt_of_le h0 hle) h0))
      rw [if_neg hne, if_neg hne]
      exact ⟨h.sem_changes hv ha rfl rfl (semStep_take (.inl rfl) hp h0 hle) hne,
        h.sem_changes hv ha rfl rfl (semStep_take (.inr rfl) hp h0 hle) hne⟩
    · exact h.sem_keeps hv rfl rfl (semStep_trysub_false hp hlt) (by decide) (by decide)
    · have hstep : ∀ op, semStep op (fld r.operand.toNat 31 0) lid v = (v, stOk) := fun op => by rw [h0, semStep_zero, hp]; rfl
      exact ⟨h.sem_keeps hv rfl rfl (hstep _) (by decide) (by decide), h.sem_keeps hv rfl rfl (hstep _) (by decide) (by decide),
        h.sem_keeps hv rfl rfl (hstep _) (by decide) (by decide)⟩
    · exact h.sem_keeps hv rfl rfl (semStep_read hp) (by decide) (by decide)
  · intro s n lid i a r v hs hr hcls hi hlt hv hp ha
    have h : s.Asks n lid clSem i r := ⟨hs, hr, by rw [hcls]; rfl, hi, hlt⟩
    have hw := h.semWait_eq hv hp ha rfl
    refine ⟨fun h0 => ?_, fun hbig => ?_, fun h0 hle hfit hwatch => ?_, fun h0 hle hfit => ?_⟩
    · rw [if_pos h0] at hw
      exact h.semWait_decided hw ⟨hs.calm.quiet, rfl⟩
    · rw [if_neg (by omega), if_pos hbig] at hw
      exact h.semWait_decided hw ⟨hs.calm.quiet, rfl⟩
    · rw [if_neg (Nat.ne_of_gt h0), if_neg (Nat.not_lt.2 hle), if_pos (by exact hfit)] at hw
      dsimp only at hw
      rw [Ch.watchSem_putSem hwatch] at hw
      exact h.semWait_decided hw ⟨hs.calm.quiet, rfl⟩
    · rw [if_neg (Nat.ne_of_gt h0), if_neg (Nat.not_lt.2 hle), if_neg (by exact hfit)] at hw
      exact ⟨fun k hk => (h.taken (by decide) rfl).park rfl (h.verdict_sem.trans hw) hk rfl ⟨hs.calm.quiet, rfl⟩,
        fun hfull => h.semWait_full hw hfull⟩

/-- Settles O11: an amount of 0 leaves the word as it is, and parks nobody, whether the word is poisoned or not. -/
theorem semZeroAmount : Obligations.SemZeroAmount := by
  intro s n lid i r v hs hr hcls hi hlt hv h0
  have h : s.Asks n lid clSem i r := ⟨hs, hr, by rw [hcls]; rfl, hi, hlt⟩
  have hplain : ∀ op, opClass op = some clSem → parks op r.index.toNat = false →
      act s (fun s => s.request op r) = .next (s.served n op r ((s.ch n).counted (reqPacket op r) lid)
        [replyTo n op r (if v.poisoned then stPoisoned else stOk) (v.word ((s.ch n).waiting clSem i)) true]) :=
    fun op hop hk => h.sem_keeps hv hop hk (by rw [h0, semStep_zero]) (by split <;> decide) (by split <;> decide)
  refine ⟨hplain _ rfl rfl, hplain _ rfl rfl, hplain _ rfl rfl, ?_⟩
  refine h.semWait_decided ?_ ⟨hs.calm.quiet, rfl⟩
  cases hp : v.poisoned with
  | false => exact (h.semWait_eq hv hp h0 rfl).trans (if_pos rfl)
  | true =>
    subst hi
    exact Ch.semWait_poisoned (o := (reqPacket opSemWaitsub r).op lid) h.sound rfl hv hp

end
end Sys2Proof.Machine
end

section

/-! ## Cancelled slots (R99, R107) -/

namespace Sys2Proof.Machine
section
variable {s : State} {n lid k : Nat} {r : Req} {c d : Ch} {e : Env} {w : Parked} {l : List Output}

theorem Ch.unmetWord_flag (h : w.cls = clFlag) : c.unmetWord [] w = (c.flag w.index).record := if_pos h

theorem Ch.unmetWord_found (h1 : w.cls ≠ clFlag) (h2 : w.cls ≠ clLock) : c.unmetWord [] w = w.found := by
  unfold Ch.unmetWord
  rw [if_neg h1, if_neg h2]

/-- The armed plain slot of a logical ID is the one record found under its number. -/
theorem Ch.find_slot (hw : w ∈ c.hw.parked) (hl : w.lid = lid) (hk : w.slot = k) (hwon : w.won = false) (hp : c.PlainWaits [w]) :
    c.hw.parked.find? (fun v => v.lid = lid && v.slot = k && !v.won) = some w := by
  subst hl hk
  obtain ⟨v, hv⟩ := Option.isSome_iff_exists.mp
    (List.find?_isSome.mpr ⟨w, hw, by simp [hwon]⟩ :
      (c.hw.parked.find? (fun v => v.lid = w.lid && v.slot = w.slot && !v.won)).isSome)
  have hsame := List.find?_some hv
  simp only [Bool.and_eq_true, decide_eq_true_eq] at hsame
  rw [hv, List.inj_on_of_nodup_map hp.1 (List.mem_of_find?_eq_some hv) hw (Prod.ext hsame.1.1 hsame.1.2)]

/-- An armed plain wait ends with CANCELLED. -/
theorem Ch.cancelSlot_armed (hs : c.Sound) (he : e.inject = 0) (hn : e.chan = n) (hw : w ∈ c.hw.parked) (hl : w.lid = lid)
    (hk : w.slot = k) (hwon : w.won = false) (hp : c.PlainWaits [w]) :
    c.cancelSlot e lid k =
      ({ c.freed [w] with out := c.out ++ endsOf n w stCancelled (c.unmetWord [] w) }, true) := by
  unfold Ch.cancelSlot
  rw [Ch.find_slot hw hl hk hwon hp]
  dsimp only
  rw [Ch.readEcc_clean hs.1 hs.2 he]
  exact congrArg (·, true) (Ch.endWait_plain hs _ _ hp hw hn {})

/-- A slot that is not armed has no wait to end. -/
theorem Ch.cancelSlot_free (h : c.slotArmed lid k = false) : c.cancelSlot e lid k = (c, false) := by
  have hnone : c.hw.parked.find? (fun v => v.lid = lid && v.slot = k && !v.won) = none := by
    rw [List.find?_eq_none]
    intro v hv hx
    simp only [Bool.and_eq_true, decide_eq_true_eq] at hx
    have hany : c.slotArmed lid k = true := List.any_eq_true.mpr ⟨v, hv, by simp [hx.1]⟩
    rw [h] at hany
    cases hany
  unfold Ch.cancelSlot
  rw [hnone]

/-! ### SLOT_CANCEL (R99) -/

theorem Ch.slotCancelOp_eq (hq : c.out = []) (hn : e.chan = n) {b : Bool}
    (hc : c.cancelSlot e lid r.index.toNat = ({ d with out := l }, b)) :
    c.slotCancelOp e ((reqPacket opSlotCancel r).op lid) =
      { d with out := replyTo n opSlotCancel r (if b then stOk else stFalse) (e.freeResult 0) true :: l } := by
  have hlen : c.out.length = 0 := by rw [hq]; rfl
  unfold Ch.slotCancelOp
  rw [hlen]
  dsimp only
  rw [show ((reqPacket opSlotCancel r).op lid).lid = lid from rfl,
    show ((reqPacket opSlotCancel r).op lid).index = r.index.toNat from rfl, hc]
  exact Ch.answer_quiet _ _ _ _ _ hn

/-- A SLOT_CANCEL that its node takes is performed at once. -/
theorem exec_slotCancel (h : s.Serves n r.endpoint.toNat lid) (hr : Clean r) (hcls : r.cls = 6) (hi : r.index.toNat < 4) {b : Bool}
    {st : Nat}
    (hc : ((s.ch n).counted (reqPacket opSlotCancel r) lid).cancelSlot (s.envOf n opSlotCancel r) lid r.index.toNat =
      ({ d with out := l }, b)) (hst : (if b then stOk else stFalse) = st) (hd : d.Same (s.ch n)) :
    exec (.slotCancel r) s = .next (s.served n opSlotCancel r d
      (replyTo n opSlotCancel r st ((s.envOf n opSlotCancel r).freeResult 0) true :: l)) := by
  have hcl : r.cls.toNat = clSlot := by rw [hcls]; rfl
  have hcheck : (s.ch n).checkOp (reqPacket opSlotCancel r) lid = none := by
    refine Ch.checkOp_none ?_ ?_ ?_ (fun _ => ?_) ?_ ?_ ?_
    case refine_1 => rw [hcl]; rfl
    case refine_4 => rw [if_neg (by decide), hcl]; exact hi
    all_goals simp [hcl]
  subst hst
  refine act_served h hr ?_ hd
  rw [Ch.hubPacket_calm h.calm rfl hr.1 h.maps h.unfenced (show opSlotCancel ≠ opSeqSelect by decide)
    (show opSlotCancel ≠ opWaitAny by decide) hcheck (Ch.workBank_req _ _ _) (Ch.stalls_of_cls (by rw [hcl]; decide))]
  unfold Ch.performReq
  rw [Ch.counted_passed]
  exact Ch.slotCancelOp_eq (c := (s.ch n).counted (reqPacket opSlotCancel r) lid) h.calm.out_nil rfl hc

/-- Settles O20: the slot's one record is found and its plain wait ends, or there is none. -/
theorem slotCancels : Obligations.SlotCancels := by
  intro s n lid k r hs hr hcls hi hk
  subst hi
  refine ⟨fun w hw hl hslot hwon hp => ⟨(s.envOf n opSlotCancel r).freeResult 0,
    ((s.ch n).counted (reqPacket opSlotCancel r) lid).unmetWord [] w, ?_,
    fun hf => Ch.unmetWord_flag hf, fun hf hlock => Ch.unmetWord_found hf hlock⟩,
    fun hfree => ⟨(s.envOf n opSlotCancel r).freeResult 0, ?_⟩⟩
  · have hcancel := Ch.cancelSlot_armed (e := s.envOf n opSlotCancel r) (hs.calm.counted _).os rfl rfl hw hl hslot hwon hp
    rw [Ch.counted_out, hs.calm.out_nil, List.nil_append] at hcancel
    exact exec_slotCancel hs hr hcls hk hcancel rfl ⟨hs.calm.quiet, rfl⟩
  · have hsame := hs.calm.same (lid := lid) (reqPacket opSlotCancel r)
    exact exec_slotCancel hs hr hcls hk ((Ch.cancelSlot_free hfree).trans (by rw [hsame.out_nil])) rfl hsame

end
end Sys2Proof.Machine
end

section

/-! ## Host operations (R103, R104) -/

namespace Sys2Proof.Machine
section
variable {s : State} {n k i op st x result : Nat} {fn : BitVec 8} {cls : BitVec 3} {index : BitVec 23} {c d : Ch} {e : Env} {f g : Flag}
  {v w : Sem} {os : Os}

/-! ### From the command register to the bank -/

theorem hostOp_lt (h : hostOp op = true) : op < 0x10 := by
  simp only [hostOp, List.contains_eq_mem, List.mem_cons, List.not_mem_nil, or_false, decide_eq_true_eq] at h
  rcases h with rfl | rfl | rfl | rfl | rfl | rfl | rfl | rfl <;> decide

/-- The fields of the word that a host operation writes to HW_OP_CMD. -/
theorem hostOpWord_fields (hop : op < 64) :
    fld (hostOpWord op cls index) 5 0 = op ∧ fld (hostOpWord op cls index) 10 8 = cls.toNat ∧
      fld (hostOpWord op cls index) 38 16 = index.toNat := by
  have hc := cls.isLt
  have hi := index.isLt
  unfold hostOpWord
  rw [at_of_lt hi, at_of_lt hc]
  unfold fld
  omega

theorem hostCheck_none (ho : hostOp op = true) (hop : opClass op = some k) (hi : i < 2 ^ indexWidth k) : hostCheck op k i = none := by
  have hlt := hostOp_lt ho
  have h1 : op ≠ opBarReduceArrive := Nat.ne_of_lt (hlt.trans (by decide))
  have h2 : op ≠ opBarReadResult := Nat.ne_of_lt (hlt.trans (by decide))
  simp [hostCheck, ho, hop, indexOk, h1, h2, hi]

/-- A host operation's bank has moved past it, and it is counted. -/
def Ch.hostOpCounted (i : Nat) (c : Ch) : Ch :=
  let b := c.hostWorked (i % 8)
  { b with rq := { b.rq with ops := inc b.rq.ops } }

/-- The same while the operation is performed. -/
def Ch.hostOpStarted (i : Nat) (c : Ch) : Ch :=
  { c.hostOpCounted i with hw := { c.hw with busy := true } }

/-- The channel `c` with the result of a host operation. -/
def Ch.hostOpResult (op st result : Nat) (c : Ch) : Ch :=
  { c with hw := { c.hw with count := (c.hw.count + 1) % 65536, opcode := op, status := st, data := result } }

theorem Ch.Calm.hostOpResult_same (h : c.Calm) : (({ c.hostOpCounted i with os := os } : Ch).hostOpResult op st result).Same c :=
  ⟨h.quiet, rfl⟩

/-- Work of the host on an object that is no lock, at a bank with nothing before it. -/
theorem Ch.toBank_hostOp (h : c.Calm) (hk : k ≠ clLock) :
    c.toBank e (.hostOp op k i x) = (c.hostWorked (i % 8)).performHost e op k i x := by
  have hbank : c.workBank (.hostOp op k i x) = i % 8 := if_neg hk
  have hlt : i % 8 < 8 := Nat.mod_lt _ (by decide)
  rw [Ch.toBank_calm h _ (by rw [hbank]; omega) rfl rfl, hbank]
  rfl

/-- A calm channel performs a host operation that passes its checks, when none is in progress. -/
theorem Ch.hostCmd_calm (h : c.Calm) (hb : c.hw.busy = false) (ho : hostOp op = true) (hop : opClass op = some cls.toNat)
    (hk : cls.toNat ≠ clLock) (hi : index.toNat < 2 ^ indexWidth cls.toNat)
    (hp : (c.hostOpStarted index.toNat).plainOp e ((hostReq op cls.toNat index.toNat c.hw.operand).op 0xFFF) =
      ({ c.hostOpStarted index.toNat with os := os }, .done st result {})) :
    c.hostCmd e (hostOpWord op cls index) =
      ({ c.hostOpCounted index.toNat with os := os } : Ch).hostOpResult op st result := by
  obtain ⟨hop', hcls, hindex⟩ := hostOpWord_fields (op := op) (cls := cls) (index := index) (by have := hostOp_lt ho; omega)
  have hbusy : ({ c with hw := { c.hw with busy := true } } : Ch).Calm :=
    ⟨h.run, h.awake, h.quiet, h.banks, h.ingress, h.full, h.sound, h.noErr, h.unforced⟩
  unfold Ch.hostCmd
  rw [if_neg (by simp [hb]), if_neg (by simp [h.run]), hop', hcls, hindex, hostCheck_none ho hop hi]
  dsimp only
  rw [Ch.toBank_hostOp hbusy hk]
  have hperform : Ch.performHost e op cls.toNat index.toNat c.hw.operand
      (({ c with hw := { c.hw with busy := true } } : Ch).hostWorked (index.toNat % 8)) =
      ({ c.hostOpStarted index.toNat with os := os } : Ch).hostDone op st result := by
    unfold Ch.performHost
    exact (congrArg (fun r : Ch × Reply => match r.2 with
      | .done status result _ => r.1.hostDone op status result
      | .later => r.1.hostDone op stOk 0) hp)
  rw [hperform]
  unfold Ch.hostDone Ch.hostOpResult
  rw [← hb]
  rfl

/-- A write of a register outside page 0 in the window of a calm channel, after which the channel has nothing left to do or to send. -/
theorem act_write_silent {page o word : Nat} (h : s.Ready n) (ha : s.Admits fn (chanOff n page o) word) (hp : page < 0x100) (ho : o < 0xF00)
    (h0 : page ≠ 0) (hf : (s.ch n).writePage (s.seen n .none) page o word = d) (hd : d.Same (s.ch n)) :
    act s (fun s => s.hostWrite (.host fn) (chanOff n page o) word) = .next (s.wroteChan fn (chanOff n page o) word n d []) := by
  refine act_write_page h ha hp ho (fun hx => h0 hx.1) (fun hx => h0 hx.1) ?_ hd
  rw [hf]
  conv_lhs => rw [← hd.out_nil]
  exact hd.settle_out

/-- A host function's operation on object `i` of class `k`, which the class has, when none is in progress. -/
structure State.HostAsks (s : State) (n k i : Nat) (fn : BitVec 8) (cls : BitVec 3) (index : BitVec 23) : Prop where
  ready  : s.Ready n
  idle   : (s.ch n).hw.busy = false
  admits : ∀ w, s.Admits fn (chanOff n 0xC 0x308) w
  cls    : cls.toNat = k
  index  : index.toNat = i
  range  : i < 2 ^ indexWidth k

theorem State.HostAsks.sound (h : s.HostAsks n k i fn cls index) : ((s.ch n).hostOpStarted i).Sound := h.ready.calm.os

/-- The command, by what the op makes of the object store. -/
theorem State.HostAsks.perform (h : s.HostAsks n k i fn cls index) (hk : k ≠ clLock) (ho : hostOp op = true) (hop : opClass op = some k)
    (hp : ((s.ch n).hostOpStarted i).plainOp (s.seen n .none) ((hostReq op k i (s.ch n).hw.operand).op 0xFFF) =
      ({ (s.ch n).hostOpStarted i with os := os }, .done st result {})) :
    act s (fun s => s.hostWrite (.host fn) (chanOff n 0xC 0x308) (hostOpWord op cls index)) =
      .next (s.wroteChan fn (chanOff n 0xC 0x308) (hostOpWord op cls index) n
        (({ (s.ch n).hostOpCounted i with os := os } : Ch).hostOpResult op st result) []) := by
  obtain rfl := h.cls
  obtain rfl := h.index
  have hwrite : (s.ch n).writePage (s.seen n .none) 0xC 0x308 (hostOpWord op cls index) =
      (s.ch n).hostCmd (s.seen n .none) (hostOpWord op cls index) := rfl
  exact act_write_silent h.ready (h.admits _) (by decide) (by decide) (by decide)
    (hwrite.trans (Ch.hostCmd_calm h.ready.calm h.idle ho hop hk h.range hp)) h.ready.calm.hostOpResult_same

/-! ### Flags -/

theorem State.HostAsks.flag_keeps (h : s.HostAsks n clFlag i fn cls index) (hf : (s.ch n).flag i = f) (ho : hostOp op = true)
    (hop : opClass op = some clFlag) (hd : ¬ (op = opFlagSet ∧ f.value = true)) (hstep : flagStep op 0xFFF f = (f, st)) :
    act s (fun s => s.hostWrite (.host fn) (chanOff n 0xC 0x308) (hostOpWord op cls index)) =
      .next (s.wroteChan fn (chanOff n 0xC 0x308) (hostOpWord op cls index) n
        (((s.ch n).hostOpCounted i).hostOpResult op st f.record) []) :=
  h.perform (by decide) ho hop (Ch.flagOp_keeps (o := (hostReq op clFlag i (s.ch n).hw.operand).op 0xFFF) h.sound rfl rfl hf hd hstep)

theorem State.HostAsks.flag_changes (h : s.HostAsks n clFlag i fn cls index) (hf : (s.ch n).flag i = f) (ha : (s.ch n).Alone clFlag i)
    (ho : hostOp op = true) (hop : opClass op = some clFlag) (hd : ¬ (op = opFlagSet ∧ f.value = true))
    (hstep : flagStep op 0xFFF f = (g, st)) (hne : g ≠ f) :
    act s (fun s => s.hostWrite (.host fn) (chanOff n 0xC 0x308) (hostOpWord op cls index)) =
      .next (s.wroteChan fn (chanOff n 0xC 0x308) (hostOpWord op cls index) n
        ((((s.ch n).hostOpCounted i).putFlag i g).hostOpResult op st f.record) []) :=
  h.perform (by decide) ho hop
    (Ch.flagOp_changes (o := (hostReq op clFlag i (s.ch n).hw.operand).op 0xFFF) h.sound rfl rfl hf ha hd hstep hne)

theorem State.HostAsks.flag_doubleSet (h : s.HostAsks n clFlag i fn cls index) (hf : (s.ch n).flag i = f) (hv : f.value = true)
    (hfp : f.poisoned = false) (hst : f.strict = false) :
    act s (fun s => s.hostWrite (.host fn) (chanOff n 0xC 0x308) (hostOpWord opFlagSet cls index)) =
      .next (s.wroteChan fn (chanOff n 0xC 0x308) (hostOpWord opFlagSet cls index) n
        ((((s.ch n).hostOpCounted i).doubleSetNoted 0xFFF i).hostOpResult opFlagSet stOk f.record) []) :=
  h.perform (by decide) rfl rfl
    (Ch.flagOp_doubleSet (o := (hostReq opFlagSet clFlag i (s.ch n).hw.operand).op 0xFFF) h.sound rfl rfl hf rfl hv hfp hst)

/-! ### Semaphores -/

theorem State.HostAsks.sem_keeps (h : s.HostAsks n clSem i fn cls index) (hv : (s.ch n).sem i = v) (ha : (s.ch n).Alone clSem i)
    (ho : hostOp op = true) (hop : opClass op = some clSem)
    (hstep : semStep op (fld (s.ch n).hw.operand 31 0) 0xFFF v = (v, st)) (h1 : st ≠ stOverflow) (h2 : st ≠ stUnderflow) :
    act s (fun s => s.hostWrite (.host fn) (chanOff n 0xC 0x308) (hostOpWord op cls index)) =
      .next (s.wroteChan fn (chanOff n 0xC 0x308) (hostOpWord op cls index) n
        (((s.ch n).hostOpCounted i).hostOpResult op st (v.word 0)) []) :=
  h.perform (by decide) ho hop
    ((Ch.semOp_keeps (o := (hostReq op clSem i (s.ch n).hw.operand).op 0xFFF) h.sound rfl rfl hv hstep h1 h2).trans
      (congrArg (fun m => ((s.ch n).hostOpStarted i, Reply.done st (v.word m) {})) ha.waiting))

theorem State.HostAsks.sem_changes (h : s.HostAsks n clSem i fn cls index) (hv : (s.ch n).sem i = v) (ha : (s.ch n).Alone clSem i)
    (ho : hostOp op = true) (hop : opClass op = some clSem)
    (hstep : semStep op (fld (s.ch n).hw.operand 31 0) 0xFFF v = (w, stOk)) (hne : w ≠ v) :
    act s (fun s => s.hostWrite (.host fn) (chanOff n 0xC 0x308) (hostOpWord op cls index)) =
      .next (s.wroteChan fn (chanOff n 0xC 0x308) (hostOpWord op cls index) n
        ((((s.ch n).hostOpCounted i).putSem i w).hostOpResult op stOk (w.word 0)) []) :=
  h.perform (by decide) ho hop
    (Ch.semOp_changes (o := (hostReq op clSem i (s.ch n).hw.operand).op 0xFFF) h.sound rfl rfl hv ha hstep hne (by decide) (by decide))

/-- Settles O57: each operation is its op at the bank, performed for logical ID 0xFFF. -/
theorem hostOperations : Obligations.HostOperations := by
  intro s n cls index fn i a f v hready hi hadmits hf hv hidle hx
  subst hi hx
  refine ⟨fun hcls hlt ha hp => ?_, fun hcls hlt ha hp => ?_⟩
  · have h : s.HostAsks n.val clFlag index.toNat fn cls index := ⟨hready, hidle, hadmits, by rw [hcls]; rfl, rfl, hlt⟩
    have hstep := fun op => flagStep_of_poisoned_false (op := op) (lid := 0xFFF) hp
    refine ⟨fun hval => ⟨?_, ?_, ?_, ?_⟩, fun hval => ⟨fun hst => h.flag_doubleSet hf hval hp hst, ?_, ?_, ?_⟩⟩
    · exact h.flag_changes hf ha rfl rfl (by simp [hval]) (by simp [hstep, hval]) (Flag.ne_of_value hval)
    · exact h.flag_keeps hf rfl rfl (by simp [hval]) (by simp [hstep, hval])
    · exact h.flag_keeps hf rfl rfl (by simp [hval]) (by simp [hstep, hval])
    · exact h.flag_keeps hf rfl rfl (by simp [hval]) (by simp [hstep, hval])
    · exact h.flag_changes hf ha rfl rfl (by simp) (by simp [hstep, hval]) (Flag.ne_of_value hval)
    · exact h.flag_keeps hf rfl rfl (by simp) (by simp [hstep, hval])
    · exact h.flag_changes hf ha rfl rfl (by simp) (by simp [hstep, hval]) (Flag.ne_of_value hval)
  · have h : s.HostAsks n.val clSem index.toNat fn cls index := ⟨hready, hidle, hadmits, by rw [hcls]; rfl, rfl, hlt⟩
    refine ⟨fun h0 hle => ?_, fun h0 hle => ?_, fun hlt => ?_, fun h0 => ?_, ?_⟩
    · exact h.sem_changes hv ha rfl rfl (semStep_add hp h0 hle) (Sem.ne_of_value (by omega))
    · exact ⟨h.sem_changes hv ha rfl rfl (semStep_take (.inl rfl) hp h0 hle) (Sem.ne_of_value (by omega)),
        h.sem_changes hv ha rfl rfl (semStep_take (.inr rfl) hp h0 hle) (Sem.ne_of_value (by omega))⟩
    · exact h.sem_keeps hv ha rfl rfl (semStep_trysub_false hp hlt) (by decide) (by decide)
    · have hstep : ∀ op, semStep op (fld (s.ch n.val).hw.operand 31 0) 0xFFF v = (v, stOk) := fun op => by
        rw [h0, semStep_zero, hp]; rfl
      exact ⟨h.sem_keeps hv ha rfl rfl (hstep _) (by decide) (by decide), h.sem_keeps hv ha rfl rfl (hstep _) (by decide) (by decide),
        h.sem_keeps hv ha rfl rfl (hstep _) (by decide) (by decide)⟩
    · exact h.sem_keeps hv ha rfl rfl (semStep_read hp) (by decide) (by decide)

end
end Sys2Proof.Machine
end

section

/-! ## Watches, slot cancels and forced releases of the host (R105, R107, R220, R221) -/

namespace Sys2Proof.Machine
section
variable {s : State} {n i m word obj cond status entry addr : Nat} {fn : BitVec 8} {c d : Ch} {e : Env} {f : Flag} {v : Sem}
  {x : LockEntry} {w : Parked} {u : Watch} {l : List Output}

/-! ### HW_WATCH (R105) -/

theorem watchOk_iff : watchOk m obj cond = true ↔
    (m = clFlag ∧ obj < 2 ^ 20 ∧ (cond = 0 ∨ cond = 1 ∨ cond = 4)) ∨ (m = clSem ∧ obj < 2 ^ 18 ∧ (cond = 2 ∨ cond = 3 ∨ cond = 4)) := by
  simp [watchOk, and_assoc, or_assoc]

theorem Watch.flagHolds_iff : u.flagHolds f false = true ↔
    f.poisoned = false ∧ (u.cond = 0 ∧ f.value = true ∨ u.cond = 1 ∧ f.value = false) := by
  unfold Watch.flagHolds
  split <;> simp_all [and_comm]

theorem Watch.semHolds_iff : u.semHolds v false = true ↔
    v.poisoned = false ∧ (u.cond = 2 ∧ u.threshold ≤ v.value ∨ u.cond = 3 ∧ v.value ≤ u.threshold) := by
  unfold Watch.semHolds
  split <;> simp_all [and_comm]

/-- The watch that a write of HW_WATCH_n stores. -/
def watchOf (word : Nat) (on : Bool) : Watch :=
  { threshold := fld word 63 32, cond := fld word 30 28, cls := fld word 26 24, index := fld word 19 0, enable := on }

/-- R105 lets the watch that a word stores arm. -/
def watchArms (word : Nat) : Bool := word.testBit 31 && watchOk (fld word 26 24) (fld word 19 0) (fld word 30 28)

/-- The condition of the watch that a word stores holds as it is written. -/
def Ch.watchHits (word : Nat) (c : Ch) : Bool :=
  if fld word 26 24 = clFlag then (watchOf word true).flagHolds (c.flag (fld word 19 0)) false
  else (watchOf word true).semHolds (c.sem (fld word 19 0)) false

/-- The channel with watch `m` stored. -/
def Ch.watchStored (m word : Nat) (on : Bool) (c : Ch) : Ch :=
  { c with hw := { c.hw with watches := c.hw.watches.put {} m (watchOf word on) } }

theorem Ch.writeWatch_off (h : watchArms word = false) : c.writeWatch m word = c.watchStored m word false := by
  unfold Ch.writeWatch
  simp only [show (bit word 31 && watchOk (fld word 26 24) (fld word 19 0) (fld word 30 28)) = false from h, Bool.false_and,
    Bool.false_eq_true, if_false]
  rfl

theorem Ch.writeWatch_waits (h : watchArms word = true) (hh : c.watchHits word = false) :
    c.writeWatch m word = c.watchStored m word true := by
  unfold Ch.writeWatch
  simp only [show (bit word 31 && watchOk (fld word 26 24) (fld word 19 0) (fld word 30 28)) = true from h, Bool.true_and]
  have hh' := hh
  unfold Ch.watchHits watchOf at hh'
  simp only [hh', Bool.false_eq_true, if_false]
  rfl

/-- A watch whose condition holds as it is written sets its bit, and is left disabled. -/
theorem Ch.writeWatch_hits (h : watchArms word = true) (hh : c.watchHits word = true) :
    c.writeWatch m word =
      { c.watchStored m word false with hw := { (c.watchStored m word false).hw with hit := setBit c.hw.hit m } } := by
  unfold Ch.writeWatch
  simp only [show (bit word 31 && watchOk (fld word 26 24) (fld word 19 0) (fld word 30 28)) = true from h, Bool.true_and]
  have hh' := hh
  unfold Ch.watchHits watchOf at hh'
  simp only [hh', if_true]
  rfl

/-- No selector stands in page 0xC. -/
theorem Ch.writeSel_hw (o : Nat) : c.writeSel e 0xC o word = none := by
  unfold Ch.writeSel
  split <;> simp_all

theorem Ch.writePage_hw (o : Nat) : c.writePage e 0xC o word = c.writeHw e o word := by
  unfold Ch.writePage
  rw [Ch.writeSel_hw]
  rfl

theorem Ch.writeHw_watch (hm : m < 64) : c.writeHw e (8 * m) word = c.writeWatch m word := by
  have hno : regNo (8 * m) 0x000 64 = some m := by
    unfold regNo
    rw [if_pos (by omega)]
    congr 1
    omega
  unfold Ch.writeHw
  split
  case h_6 => rw [hno]
  all_goals omega

/-- HW_WATCH, by what its write makes of the channel. -/
theorem exec_hwWatch {k : ChanId} {j : BitVec 6} {y : Word} (h : s.Ready k.val) (ha : s.Admits fn (chanOff k.val 0xC (8 * j.toNat)) y.toNat)
    (hw : (s.ch k.val).writeWatch j.toNat y.toNat = d) (hd : d.Same (s.ch k.val)) :
    exec (.hwWatch (.host fn) k j y) s = .next (s.wroteChan fn (chanOff k.val 0xC (8 * j.toNat)) y.toNat k.val d []) := by
  have hj := j.isLt
  exact act_write_silent h ha (by decide) (by omega) (by decide) ((Ch.writePage_hw _).trans ((Ch.writeHw_watch hj).trans hw)) hd

/-! ### HW_SLOT_CANCEL (R107) -/

theorem Ch.hostCancel_reserved (h : 0xFFE ≤ fld word 11 0) : c.hostCancel e word = c := if_pos h

theorem Ch.hostCancel_slot (h : fld word 11 0 < 0xFFE) :
    c.hostCancel e word = (c.cancelSlot e (fld word 11 0) (fld word 17 16)).1 := if_neg (Nat.not_le.2 h)

/-- HW_SLOT_CANCEL, by what its write makes of the channel. -/
theorem exec_hwSlotCancel {k : ChanId} {y : Word} (h : s.Ready k.val) (ha : s.Admits fn (chanOff k.val 0xC 0x320) y.toNat)
    (hc : (s.ch k.val).hostCancel (s.seen k.val .none) y.toNat = { d with out := l }) (hd : d.Same (s.ch k.val)) :
    exec (.hwSlotCancel (.host fn) k y) s = .next (s.wroteChan fn (chanOff k.val 0xC 0x320) y.toNat k.val d l) := by
  refine act_write_page h ha (by decide) (by decide) (by decide) (by decide) ?_ hd
  rw [Ch.writePage_hw, show (s.ch k.val).writeHw (s.seen k.val .none) 0x320 y.toNat = _ from hc]
  exact hd.settle_out

/-! ### LT_FORCE (R220, R221) -/

theorem Ch.forceLock_none (h : c.findLock addr = none) :
    c.forceLock e addr false = ({ c with lt := { c.lt with forces := inc c.lt.forces } }, stFalse, 0) := by
  have h0 : ({ c with lt := { c.lt with forces := inc c.lt.forces } } : Ch).findLock addr = none := h
  unfold Ch.forceLock
  dsimp only
  rw [h0]

/-- A held word that nobody waits for is left free and abandoned. -/
theorem Ch.forceLock_free (h : c.findLock addr = some i) (hx : c.lockEntry i = x) (hh : x.held = true) (hp : x.poisoned = false)
    (hw : c.lockWaiters i = []) :
    c.forceLock e addr false =
      (({ c with lt := { c.lt with forces := inc c.lt.forces } } : Ch).putLock i
        { x with held := false, owner := 0, context := 0, abandoned := true }, stOk, i) := by
  have h0 : ({ c with lt := { c.lt with forces := inc c.lt.forces } } : Ch).findLock addr = some i := h
  have hx0 : ({ c with lt := { c.lt with forces := inc c.lt.forces } } : Ch).lockEntry i = x := hx
  have hw0 : ({ c with lt := { c.lt with forces := inc c.lt.forces } } : Ch).lockWaiters i = [] := hw
  unfold Ch.forceLock
  dsimp only
  rw [h0]
  dsimp only
  rw [hx0, hw0, if_neg (by simp [hh, hp])]
  rfl

theorem Ch.readLock_clean {o : Op} (hf : (c.fault .lt).pendForce = none) (hu : c.upsets = []) (he : e.inject = 0) (j : Nat) :
    c.readLock e o j = c := by
  unfold Ch.readLock
  rw [Ch.readEcc_clean hf hu he]
  rfl

theorem Ch.performForce_eq (hf : (c.fault .lt).pendForce = none) (hu : c.upsets = []) (he : e.inject = 0)
    (hl : c.forceLock e addr false = (d, status, entry)) : c.performForce e addr = d.forceDone status entry := by
  unfold Ch.performForce
  cases hfind : c.findLock addr with
  | none => simp only [hl]
  | some j => simp only [Ch.readLock_clean hf hu he, hl]

/-- The channel as the bank of a word performs a forced release of it. -/
def Ch.forceStarted (addr : Nat) (c : Ch) : Ch :=
  ({ c with lt := { c.lt with forceAddr := addr, busy := true } } : Ch).hostWorked (lockBank addr)

theorem Ch.toBank_force (h : c.Calm) : c.toBank e (.force addr) = (c.hostWorked (lockBank addr)).performForce e addr := by
  have hbank : c.workBank (.force addr) ≠ 8 := Nat.ne_of_lt (lockBank_lt addr)
  rw [Ch.toBank_calm h _ hbank rfl rfl]
  rfl

/-- Without GO only the address is taken. -/
theorem Ch.forceCmd_address (h : word.testBit 48 = false) :
    c.forceCmd e word = { c with lt := { c.lt with forceAddr := 8 * fld word 47 3 } } := if_pos (by simp [bit, h])

/-- With GO a calm channel performs the release, when none is in progress. -/
theorem Ch.forceCmd_go (h : c.Calm) (he : e.inject = 0) (hb : c.lt.busy = false) (hgo : word.testBit 48 = true)
    (hl : (c.forceStarted (8 * fld word 47 3)).forceLock e (8 * fld word 47 3) false = (d, status, entry)) :
    c.forceCmd e word = d.forceDone status entry := by
  have hbusy : ({ c with lt := { c.lt with forceAddr := 8 * fld word 47 3, busy := true } } : Ch).Calm :=
    ⟨h.run, h.awake, h.quiet, h.banks, h.ingress, h.full, h.sound, h.noErr, h.unforced⟩
  unfold Ch.forceCmd
  dsimp only
  rw [if_neg (by simp [bit, hgo]), if_neg (by simp [hb]), if_neg (by simp [h.run]), Ch.toBank_force hbusy]
  exact Ch.performForce_eq (h.unforced .lt) h.sound he hl

/-- LT_FORCE, by what its write makes of the channel. -/
theorem exec_ltForce {k : ChanId} {y : Word} (h : s.Ready k.val) (ha : s.Admits fn (chanOff k.val 4 0x100) y.toNat)
    (hf : (s.ch k.val).forceCmd (s.seen k.val .none) y.toNat = d) (hd : d.Same (s.ch k.val)) :
    exec (.ltForce (.host fn) k y) s = .next (s.wroteChan fn (chanOff k.val 4 0x100) y.toNat k.val d []) :=
  act_write_silent h ha (by decide) (by decide) (by decide) hf hd

/-! ### The statement -/

/-- Settles O58: a watch by whether it arms and holds; a cancelled slot as SLOT_CANCEL finds it; a forced release by its entry. -/
theorem hostControls : Obligations.HostControls := by
  intro s n m v fn w i x h c off ends cond isFlag obj arms holds watch stored lid addr forced
  have hq := h.calm.quiet
  have harms : watchArms v.toNat = true ↔ arms := by
    have hobj : obj < 2 ^ 20 := Nat.mod_lt _ (by decide)
    simp only [watchArms, Bool.and_eq_true, watchOk_iff, show fld v.toNat 19 0 < 2 ^ 20 from hobj, true_and]
    rfl
  have hholds : arms → (c.watchHits v.toNat = true ↔ holds) := by
    intro ha
    unfold Ch.watchHits
    by_cases hf : isFlag
    · rw [if_pos hf, Watch.flagHolds_iff]
      simp only [holds, hf, true_and, not_true_eq_false, false_and, or_false]
      rfl
    · rw [if_neg hf, Watch.semHolds_iff]
      simp only [holds, hf, not_false_eq_true, true_and, false_and, false_or]
      rfl
  refine ⟨fun hn ha => ?_, fun hy hn ha => ?_, fun hy hh ha => ?_, fun hl hw hlid hslot hwon hp => ?_, fun hn ha => ?_, fun hgo ha => ?_,
    fun hgo hb => ⟨fun hnone ha => ?_, fun hfind hx hheld hpois hwait ha => ?_⟩⟩
  · exact exec_hwWatch h ha (Ch.writeWatch_off (by simpa using mt harms.mp hn)) ⟨hq, rfl⟩
  · exact exec_hwWatch h ha (Ch.writeWatch_waits (harms.mpr hy) (by simpa using mt (hholds hy).mp hn)) ⟨hq, rfl⟩
  · exact exec_hwWatch h ha (Ch.writeWatch_hits (harms.mpr hy) ((hholds hy).mpr hh)) ⟨hq, rfl⟩
  · refine ⟨c.unmetWord [] w, fun ha => ?_, fun hf => Ch.unmetWord_flag hf, fun hf hlock => Ch.unmetWord_found hf hlock⟩
    have hcancel := Ch.cancelSlot_armed (e := s.seen n.val .none) h.calm.os rfl rfl hw hlid hslot hwon hp
    rw [h.calm.out_nil, List.nil_append] at hcancel
    exact exec_hwSlotCancel h ha ((Ch.hostCancel_slot hl).trans (congrArg Prod.fst hcancel)) ⟨hq, rfl⟩
  · have hkeep : c.hostCancel (s.seen n.val .none) v.toNat = c := by
      rcases Nat.lt_or_ge lid 0xFFE with hl | hl
      · rw [Ch.hostCancel_slot hl, Ch.cancelSlot_free (hn.resolve_left (Nat.not_le.2 hl))]
      · exact Ch.hostCancel_reserved hl
    exact exec_hwSlotCancel h ha (hkeep.trans h.calm.refl.out_nil.symm) h.calm.refl
  · exact exec_ltForce h ha (Ch.forceCmd_address hgo) ⟨hq, rfl⟩
  · refine exec_ltForce h ha ((Ch.forceCmd_go h.calm rfl hb hgo (Ch.forceLock_none hnone)).trans ?_) ⟨hq, rfl⟩
    unfold Ch.forceDone
    rw [← hb]
    rfl
  · refine exec_ltForce h ha ((Ch.forceCmd_go h.calm rfl hb hgo (Ch.forceLock_free hfind hx hheld hpois hwait)).trans ?_) ⟨hq, rfl⟩
    unfold Ch.forceDone
    rw [← hb]
    rfl

end
end Sys2Proof.Machine
end

section

/-! ## Stream pairs of an endpoint (R109 to R113, R89)

An op on a stream pair below the connections that meets no array error: `strStep` says what it makes of the pair. -/

namespace Sys2Proof.Machine
section
variable {s : State} {n lid op i a avail result : Nat} {r : Req} {c d : Ch} {e : Env} {o : Op} {v w : Stream}

/-! ### At the bank -/

theorem strStep_zero (hp : v.poisoned = false) : strStep op 0 lid v = (v, stOk) := by
  simp [strStep, hp]

theorem strStep_read (hp : v.poisoned = false) : strStep opStrRead a lid v = (v, stOk) := by
  simp [strStep, hp]

theorem strStep_produce (hp : v.poisoned = false) (ha : 0 < a) (hfill : v.p - v.c + a ≤ v.k) (hmax : v.p + a ≤ 2 ^ 64 - 1) :
    strStep opStrProduce a lid v = ({ v with p := v.p + a, lastProd := lid }, stOk) := by
  have hroom : v.fill + a ≤ v.k ∧ v.p + a ≤ 2 ^ 64 - 1 := ⟨hfill, hmax⟩
  unfold strStep
  rw [hp, if_neg (by decide), if_pos rfl, if_neg (Nat.ne_of_gt ha), if_pos hroom]

theorem strStep_consume (hp : v.poisoned = false) (ha : 0 < a) (hfill : a ≤ v.p - v.c) :
    strStep opStrConsume a lid v = ({ v with c := v.c + a, lastCons := lid }, stOk) := by
  have hdata : a ≤ v.fill := hfill
  unfold strStep
  rw [hp, if_neg (by decide), if_neg (by decide), if_pos rfl, if_neg (Nat.ne_of_gt ha), if_pos hdata]

theorem Stream.ne_of_p {x : Nat} (h : x ≠ v.p) : ({ v with p := x, lastProd := lid } : Stream) ≠ v :=
  fun he => h (congrArg Stream.p he)

theorem Stream.ne_of_c {x : Nat} (h : x ≠ v.c) : ({ v with c := x, lastCons := lid } : Stream) ≠ v :=
  fun he => h (congrArg Stream.c he)

theorem Ch.changeStr_self : c.changeStr e i (c.str i) = c := if_pos rfl

/-- A stream op that ends with OK: RESULT is taken from the pair after it (R111). -/
theorem Ch.strOp_eq (hs : c.Sound) (he : e.inject = 0) (hp : o.poisoned = false) (hv : c.str o.index = v)
    (hstep : strStep o.opcode (fld o.operand 31 0) o.lid v = (w, stOk)) :
    c.strOp e o = (c.changeStr e o.index w, .done stOk (strResult o.opcode o.operand o.index w) {}) := by
  have h8 : stOk ≠ stOverflow := by decide
  have h9 : stOk ≠ stUnderflow := by decide
  unfold Ch.strOp
  rw [readStr_clean hs.1 hs.2 he]
  simp only [hv, hstep, hp, Bool.or_false, h8, h9, if_false]

theorem Ch.strOp_keeps (hs : c.Sound) (he : e.inject = 0) (hp : o.poisoned = false) (hv : c.str o.index = v)
    (hstep : strStep o.opcode (fld o.operand 31 0) o.lid v = (v, stOk)) :
    c.strOp e o = (c, .done stOk (strResult o.opcode o.operand o.index v) {}) := by
  rw [Ch.strOp_eq hs he hp hv hstep, ← hv, Ch.changeStr_self]

/-- A stream op that changes a pair which nobody waits for. -/
theorem Ch.strOp_changes (hs : c.Sound) (he : e.inject = 0) (hp : o.poisoned = false) (hv : c.str o.index = v)
    (hw : c.PairAlone o.index) (hstep : strStep o.opcode (fld o.operand 31 0) o.lid v = (w, stOk)) (hne : w ≠ v) :
    c.strOp e o = (c.putStr o.index w, .done stOk (strResult o.opcode o.operand o.index w) {}) := by
  rw [Ch.strOp_eq hs he hp hv hstep, changeStr_alone hw, hv, if_neg hne]

/-- The cases of a stream wait in order, on a pair of no connection (R112). -/
theorem Ch.strWait_eq (hs : c.Sound) (he : e.inject = 0) (hv : c.str o.index = v) (hp : v.poisoned = false) (hi : o.index < 0xC000) :
    c.strWait e o op =
      if fld o.operand 31 0 = 0 then .decided c stOk (strResult op 0 o.index v) {}
      else if v.k < fld o.operand 31 0 then .decided c stFalse (strResult op 0 o.index v) {}
      else if strHolds op (fld o.operand 31 0) v then .decided c stOk (strResult op 0 o.index v) {}
      else .park c (strResult op 0 o.index v) 0 o.index (fld o.operand 31 0) id := by
  have hconn : ¬ (op = opStrWaitData ∧ 0xC000 ≤ o.index ∧ (c.conn (o.index - 0xC000)).st = .senderClosed) :=
    fun h => Nat.not_le.2 hi h.2.1
  unfold Ch.strWait
  rw [readStr_clean hs.1 hs.2 he]
  simp only [hv, hp, hconn, Bool.false_eq_true, if_false]

/-! ### Requests -/

theorem State.Asks.takenStr (h : s.Asks n lid clStr i r) (hi : i < 0xC000) (hop : opClass op = some clStr) : Taken s n lid op r :=
  taken_object h.serves h.clean h.cls (by decide) hop (h.index ▸ h.range) (fun _ => h.index ▸ hi)

/-- STR_PRODUCE, STR_CONSUME or STR_READ, by what it makes of the channel. -/
theorem State.Asks.strOp (h : s.Asks n lid clStr i r) (hi : i < 0xC000) (hop : opClass op = some clStr)
    (hk : parks op r.index.toNat = false)
    (hp : ((s.ch n).counted (reqPacket op r) lid).strOp (s.envOf n op r) ((reqPacket op r).op lid) = (d, .done stOk result {}))
    (hd : d.Same (s.ch n)) :
    act s (fun s => s.request op r) = .next (s.served n op r d [replyTo n op r stOk result true]) := by
  have hcls : ((reqPacket op r).op lid).cls = clStr := h.cls
  refine (h.takenStr hi hop).plain hk ?_ hd
  unfold Ch.plainOp
  rw [if_neg (by rw [hcls]; decide), if_neg (by rw [hcls]; decide), if_pos hcls]
  exact hp

theorem State.Asks.str_keeps (h : s.Asks n lid clStr i r) (hi : i < 0xC000) (hv : (s.ch n).str i = v)
    (hop : opClass op = some clStr) (hk : parks op r.index.toNat = false)
    (hstep : strStep op (fld r.operand.toNat 31 0) lid v = (v, stOk)) (hr : strResult op r.operand.toNat i v = result) :
    act s (fun s => s.request op r) =
      .next (s.served n op r ((s.ch n).counted (reqPacket op r) lid) [replyTo n op r stOk result true]) := by
  obtain rfl := h.index
  subst hr
  exact h.strOp hi hop hk (Ch.strOp_keeps h.sound rfl rfl hv hstep) ⟨h.serves.calm.quiet, rfl⟩

theorem State.Asks.str_changes (h : s.Asks n lid clStr i r) (hi : i < 0xC000) (hv : (s.ch n).str i = v) (hw : (s.ch n).PairAlone i)
    (hop : opClass op = some clStr) (hk : parks op r.index.toNat = false)
    (hstep : strStep op (fld r.operand.toNat 31 0) lid v = (w, stOk)) (hne : w ≠ v)
    (hr : strResult op r.operand.toNat i w = result) :
    act s (fun s => s.request op r) = .next (s.served n op r (((s.ch n).counted (reqPacket op r) lid).putStr i w)
      [replyTo n op r stOk result true]) := by
  obtain rfl := h.index
  subst hr
  exact h.strOp hi hop hk (Ch.strOp_changes h.sound rfl rfl hv hw hstep hne) ⟨h.serves.calm.quiet, rfl⟩

theorem State.Asks.verdict_str (h : s.Asks n lid clStr i r) :
    c.verdict e ((reqPacket op r).op lid) op = c.strWait e ((reqPacket op r).op lid) op := by
  have hcls : ((reqPacket op r).op lid).cls = clStr := h.cls
  unfold Ch.verdict
  rw [if_neg (by rw [hcls]; decide), if_neg (by rw [hcls]; decide), if_pos hcls]

/-- A stream wait for `a` where the ring has `avail` of what it waits for (R112, R89). -/
theorem State.Asks.strWait (h : s.Asks n lid clStr i r) (hi : i < 0xC000) (hv : (s.ch n).str i = v) (hp : v.poisoned = false)
    (ha : fld r.operand.toNat 31 0 = a) (hop : opClass op = some clStr) (hk : parks op r.index.toNat = true)
    (hholds : strHolds op a v = decide (a ≤ avail)) (hr : strResult op 0 i v = result) :
    let c := (s.ch n).counted (reqPacket op r) lid
    let ends := fun (c : Ch) status result final =>
      act s (fun s => s.request op r) = .next (s.served n op r c [replyTo n op r status result final])
    (a ≤ v.k → a ≤ avail → ends c stOk result true) ∧
    (v.k < a → ends c stFalse result true) ∧
    (a ≤ v.k → avail < a →
      (∀ k, c.LowestFree lid k → ends (c.parkedWith (slotRecord (s.envOf n op r) op r lid k i a 0 result)) stPending k false) ∧
      (c.SlotsFull lid → ends c stSlotsFull result true)) := by
  intro c ends
  obtain rfl := h.index
  subst ha hr
  have ht := h.takenStr hi hop
  have hsame : c.Same (s.ch n) := ⟨h.serves.calm.quiet, rfl⟩
  have hcases := h.verdict_str.trans
    (Ch.strWait_eq (c := c) (op := op) (e := s.envOf n op r) (o := (reqPacket op r).op lid) h.sound rfl hv hp hi)
  rw [show ((reqPacket op r).op lid).operand = r.operand.toNat from rfl, hholds] at hcases
  refine ⟨fun hk' hle => ?_, fun hlt => ?_, fun hk' hlt => ?_⟩
  · rw [if_neg (Nat.not_lt.2 hk'), if_pos (decide_eq_true hle), ite_self] at hcases
    exact ht.decided hk hcases hsame
  · rw [if_neg (Nat.ne_of_gt (Nat.zero_lt_of_lt hlt)), if_pos hlt] at hcases
    exact ht.decided hk hcases hsame
  · rw [if_neg (Nat.ne_of_gt (Nat.zero_lt_of_lt hlt)), if_neg (Nat.not_lt.2 hk'), if_neg (by simpa using hlt)] at hcases
    refine ⟨fun k hfree => ht.park hk hcases hfree rfl ⟨h.serves.calm.quiet, rfl⟩, fun hfull => ?_⟩
    have hfound := ht.full hk hcases hfull hsame
    rwa [Ch.slotsFullResult_of_ne_bar (o := (reqPacket op r).op lid) (fun hb => absurd (h.cls.symm.trans hb) (by decide))] at hfound

/-- Settles O10: the ops by `strStep`; the waits by the order of their cases. -/
theorem streamOps : Obligations.StreamOps := by
  refine ⟨?_, ?_⟩
  · intro s n lid i a r v hs hr hcls hidx hi hv hw hp ha
    subst ha
    have h : s.Asks n lid clStr i r := ⟨hs, hr, by rw [hcls]; rfl, hidx, hi.trans (by decide)⟩
    refine ⟨fun h0 hfill hmax => ?_, fun h0 hfill => ?_, fun h0 => ?_, fun hsel => ?_, fun hsel => ?_, fun hsel => ?_, fun hsel => ?_⟩
    · exact h.str_changes hi hv hw rfl rfl (strStep_produce hp h0 hfill hmax) (Stream.ne_of_p (by omega)) rfl
    · exact h.str_changes hi hv hw rfl rfl (strStep_consume hp h0 hfill) (Stream.ne_of_c (by omega)) rfl
    · have hstep := fun op => (congrArg (strStep op · lid v) h0).trans (strStep_zero hp)
      exact ⟨h.str_keeps hi hv rfl rfl (hstep _) rfl, h.str_keeps hi hv rfl rfl (hstep _) rfl⟩
    all_goals exact h.str_keeps hi hv rfl rfl (strStep_read hp) (by simp [strResult, hsel, Stream.fill])
  · intro s n lid i a r v hs hr hcls hidx hi hv hp ha wait
    have h : s.Asks n lid clStr i r := ⟨hs, hr, by rw [hcls]; rfl, hidx, hi.trans (by decide)⟩
    exact ⟨h.strWait hi hv hp ha rfl rfl rfl rfl, h.strWait hi hv hp ha rfl rfl rfl rfl⟩

end
end Sys2Proof.Machine
end

section

/-! ## Connections: what their ops share, and how they begin (R115 to R119) -/

namespace Sys2Proof.Machine
section
variable {s : State} {n lid op i j k m port : Nat} {r : Req} {c : Ch} {e : Env} {o : Op} {v : Conn}

/-! ### Requests on a connection -/

theorem State.Asks.takenConn (h : s.Asks n lid clConn i r) (hop : opClass op = some clConn) : Taken s n lid op r := by
  have ne : ∀ o, opClass o ≠ some clConn → op ≠ o := fun o ho he => ho (he ▸ hop)
  have hcls := h.cls
  refine ⟨h.serves, h.clean, ⟨ne _ (by decide), ne _ (by decide), ne _ (by decide)⟩,
    Ch.checkOp_none (by rw [hcls, hop]) (ne _ (by decide)) (fun hb => ?_) (fun _ => ?_) (fun hl => ?_) (fun hl => ?_) (fun hs => ?_),
    Ch.stalls_of_cls (by rw [hcls]; decide)⟩
  · rcases hb with hb | hb <;> exact absurd hb (ne _ (by decide))
  · rw [if_neg (ne _ (by decide)), hcls]
    exact h.index ▸ h.range
  · exact absurd (hcls.symm.trans hl) (by decide)
  · exact absurd hl (ne _ (by decide))
  · exact absurd (hcls.symm.trans hs) (by decide)

theorem Ch.plainOp_conn (h : o.cls = clConn) :
    c.plainOp e o =
      if o.opcode = opConnAccept then c.connAccept e o
      else if o.opcode = opConnOpen then c.connOpen e o
      else c.connOp e o := by
  unfold Ch.plainOp
  simp [h]

theorem Ch.plainOp_connAccept (h : o.cls = clConn) (ho : o.opcode = opConnAccept) : c.plainOp e o = c.connAccept e o := by
  rw [Ch.plainOp_conn h, if_pos ho]

theorem Ch.plainOp_connOpen (h : o.cls = clConn) (ho : o.opcode = opConnOpen) : c.plainOp e o = c.connOpen e o := by
  rw [Ch.plainOp_conn h, ho, if_neg (by decide), if_pos rfl]

theorem Ch.plainOp_connOp (h : o.cls = clConn) (ha : o.opcode ≠ opConnAccept) (ho : o.opcode ≠ opConnOpen) :
    c.plainOp e o = c.connOp e o := by
  rw [Ch.plainOp_conn h, if_neg ha, if_neg ho]

/-- A port list that no error concerns is read well. -/
theorem Ch.readPort_clean (hf : (c.fault .cu).pendForce = none) (hu : c.upsets = []) : c.readPort e o m = c := by
  unfold Ch.readPort
  rw [Ch.readEcc_clean hf hu rfl]

theorem Ch.scanNew_unfenced (h : o.phys ∉ c.ctl.fenced) : c.scanNew o m = c := by
  unfold Ch.scanNew
  rw [if_neg (by simpa using h)]

/-- The port that the index of a request names. -/
theorem port_of_index (h : port < 2 ^ 14) : fld port 13 0 = port := by
  unfold fld
  omega

/-! ### CONN_ACCEPT (R118) -/

/-- An accept takes connection `m`: it is FREE and not poisoned. -/
def Ch.Acceptable (c : Ch) (m : Nat) : Prop := (c.conn m).st = .free ∧ (c.str (connPair m)).poisoned = false

theorem Ch.not_acceptable_iff : ¬ c.Acceptable m ↔ (c.conn m).st ≠ .free ∨ (c.str (connPair m)).poisoned = true := by
  rw [Ch.Acceptable, not_and_or, Bool.not_eq_false]

theorem Ch.freeConn_succ (h : ¬ c.Acceptable j) : c.freeConn (k + 1) j = c.freeConn k (j + 1) :=
  if_neg (by simpa [Ch.Acceptable] using h)

theorem Ch.freeConn_lowest (hm : c.Acceptable m) (hj : j ≤ m) (hk : m < j + k) (hl : ∀ x, j ≤ x → x < m → ¬ c.Acceptable x) :
    c.freeConn k j = some m := by
  induction k generalizing j with
  | zero => omega
  | succ k ih =>
    rcases Nat.eq_or_lt_of_le hj with rfl | hlt
    · exact if_pos (by simpa [Ch.Acceptable] using hm)
    · rw [Ch.freeConn_succ (hl j (Nat.le_refl j) hlt)]
      exact ih hlt (by omega) (fun x hx => hl x (Nat.le_of_succ_le hx))

theorem Ch.freeConn_none (hl : ∀ x, j ≤ x → x < j + k → ¬ c.Acceptable x) : c.freeConn k j = none := by
  induction k generalizing j with
  | zero => rfl
  | succ k ih =>
    rw [Ch.freeConn_succ (hl j (Nat.le_refl j) (by omega))]
    exact ih fun x hx hlt => hl x (Nat.le_of_succ_le hx) (by omega)

/-- Connection `m` listens as `v`, last in the list of its port, with an empty ring (R118). -/
def Ch.listens (m lid : Nat) (v : Conn) (c : Ch) : Ch :=
  let c1 := (c.putConn m v).putStr (connPair m) { k := 2 ^ v.log2, lastProd := lid, lastCons := lid }
  { c1 with cu := { c1.cu with listening := c1.cu.listening ++ [m] } }

theorem Ch.connAccept_takes (hf : (c.fault .cu).pendForce = none) (hu : c.upsets = []) (hfence : o.phys ∉ c.ctl.fenced)
    (h4 : 4 ≤ fld o.operand 52 48) (h24 : fld o.operand 52 48 ≤ 24) (hm : c.freeConn 0x4000 0 = some m) :
    c.connAccept e o =
      (c.listens m o.lid { st := .listening, receiver := o.lid, port := fld o.index 13 0, base := fld o.operand 47 6 * 64,
                           log2 := fld o.operand 52 48 }, .done stOk m {}) := by
  unfold Ch.connAccept
  dsimp only
  rw [if_neg (by omega), hm]
  dsimp only
  rw [Ch.readPort_clean (by exact hf) (by exact hu), Ch.scanNew_unfenced (by exact hfence)]
  rfl

theorem Ch.connAccept_full (h4 : 4 ≤ fld o.operand 52 48) (h24 : fld o.operand 52 48 ≤ 24) (hm : c.freeConn 0x4000 0 = none) :
    c.connAccept e o = (c, .done stTableFull (e.freeResult 0) {}) := by
  unfold Ch.connAccept
  dsimp only
  rw [if_neg (by omega), hm]

theorem Ch.connAccept_badSize (h : fld o.operand 52 48 < 4 ∨ 24 < fld o.operand 52 48) :
    c.connAccept e o = (c, .done stBadOp (e.freeResult 0) {}) := if_pos h

/-! ### CONN_OPEN (R119) -/

theorem Ch.connOpen_takes (hf : (c.fault .cu).pendForce = none) (hu : c.upsets = []) (hfence : o.phys ∉ c.ctl.fenced)
    (hm : c.cu.listening.find? (fun x => (c.conn x).port = fld o.index 13 0) = some m) (hv : c.conn m = v) :
    c.connOpen e o =
      (c.putConn m { v with st := .opened, sender := o.lid },
        .done stOk (at_ 13 0 m + at_ 18 14 v.log2 + at_ 60 19 (v.base / 64)) {}) := by
  unfold Ch.connOpen
  rw [hm]
  dsimp only
  rw [Ch.readPort_clean hf hu, Ch.scanNew_unfenced (by exact hfence), hv]

theorem Ch.connOpen_none (hm : c.cu.listening.find? (fun x => (c.conn x).port = fld o.index 13 0) = none) :
    c.connOpen e o = (c, .done stFalse (e.freeResult 0) {}) := by
  unfold Ch.connOpen
  rw [hm]

/-- Settles O16: an accept by the search for the lowest connection it may take; an open by the search of the listening order. -/
theorem connSetup : Obligations.ConnSetup := by
  intro s n lid port log2 r hs hr hcls hidx hport hlog c ends
  have h : s.Asks n lid clConn port r := ⟨hs, hr, by rw [hcls]; rfl, hidx, hport⟩
  have hcu : ∀ op, (((s.ch n).counted (reqPacket op r) lid).fault .cu).pendForce = none := fun _ => hs.calm.unforced .cu
  have hsame : ∀ op, ((s.ch n).counted (reqPacket op r) lid).Same (s.ch n) := fun _ => ⟨hs.calm.quiet, rfl⟩
  have hfld : fld r.index.toNat 13 0 = port := by rw [hidx, port_of_index hport]
  subst hlog
  refine ⟨fun h4 h24 => ⟨fun m hm hfree hpois hlow => ?_, fun hall => ?_⟩, fun hbad => ?_, fun m before after v hl hv hp hb => ?_,
    fun hall => ?_⟩
  · have hfind : ((s.ch n).counted (reqPacket opConnAccept r) lid).freeConn 0x4000 0 = some m :=
      Ch.freeConn_lowest ⟨hfree, hpois⟩ (Nat.zero_le m) (by omega) fun x _ hx => Ch.not_acceptable_iff.mpr (hlow x hx)
    have hacc := Ch.connAccept_takes (c := (s.ch n).counted (reqPacket opConnAccept r) lid) (e := s.envOf n opConnAccept r)
      (o := (reqPacket opConnAccept r).op lid) (hcu _) hs.calm.sound hs.unfenced h4 h24 hfind
    rw [show fld ((reqPacket opConnAccept r).op lid).index 13 0 = port from hfld] at hacc
    exact (h.takenConn rfl).plain rfl ((Ch.plainOp_connAccept h.cls rfl).trans hacc) ⟨hs.calm.quiet, rfl⟩
  · have hfind : ((s.ch n).counted (reqPacket opConnAccept r) lid).freeConn 0x4000 0 = none :=
      Ch.freeConn_none fun x _ hx => Ch.not_acceptable_iff.mpr (hall x (by omega))
    exact ⟨_, (h.takenConn rfl).plain rfl ((Ch.plainOp_connAccept h.cls rfl).trans (Ch.connAccept_full h4 h24 hfind)) (hsame _)⟩
  · exact ⟨_, (h.takenConn rfl).plain rfl ((Ch.plainOp_connAccept h.cls rfl).trans (Ch.connAccept_badSize hbad)) (hsame _)⟩
  · have hfind : c.cu.listening.find? (fun x => (c.conn x).port = fld r.index.toNat 13 0) = some m :=
      List.find?_eq_some_iff_append.mpr
        ⟨by simp [hv, hp, hfld], before, after, hl, fun x hx => by simp [hfld, hb x hx]⟩
    exact (h.takenConn rfl).plain rfl ((Ch.plainOp_connOpen h.cls rfl).trans
      (Ch.connOpen_takes (hcu _) hs.calm.sound hs.unfenced hfind hv)) ⟨hs.calm.quiet, rfl⟩
  · have hfind : c.cu.listening.find? (fun x => (c.conn x).port = fld r.index.toNat 13 0) = none :=
      List.find?_eq_none.mpr fun x hx => by simp [hfld, hall x hx]
    exact ⟨_, (h.takenConn rfl).plain rfl ((Ch.plainOp_connOpen h.cls rfl).trans (Ch.connOpen_none hfind)) (hsame _)⟩

end
end Sys2Proof.Machine
end

section

/-! ## What the ends of an OPEN connection do (R121 to R129) -/

namespace Sys2Proof.Machine
section
variable {s : State} {n lid op i k len : Nat} {r : Req} {c : Ch} {e : Env} {o : Op} {v : Conn} {p : Stream}

/-! ### Connections that nobody waits for -/

theorem Ch.PairAlone.conn (h : c.PairAlone (connPair i)) : c.waiters clConn i = [] := by
  have hwaits := (List.append_eq_nil_iff.mp h).2
  rwa [if_pos (Nat.le_add_right _ _), Nat.add_sub_cancel_left] at hwaits

theorem Ch.PairAlone.resParked (h : c.PairAlone (connPair i)) : c.resParked i = false := by
  unfold Ch.resParked Ch.waiting
  rw [h.conn]
  rfl

theorem Ch.PairAlone.sendWaits (h : c.PairAlone (connPair i)) : c.sendWaits i = [] := by
  unfold Ch.sendWaits
  rw [h.conn, h.str]
  rfl

/-- No reservation is parked that a consume could let in. -/
theorem Ch.retryRes_alone (h : c.PairAlone (connPair i)) : c.retryRes e i = c := by
  unfold Ch.retryRes
  rw [h.conn]
  rfl

/-- The pair of a connection, whose record may have changed too, takes a new value. -/
theorem Ch.changeStr_putConn {j : Nat} {w : Conn} {q : Stream} (h : c.PairAlone (connPair i)) (hp : c.str (connPair i) = p)
    (hq : q ≠ p) : (c.putConn j w).changeStr e (connPair i) q = (c.putConn j w).putStr (connPair i) q :=
  (changeStr_alone (c := c.putConn j w) h q).trans (if_neg fun he => hq (he.trans hp))

/-! ### CONN_RESERVE (R121 to R124) -/

theorem resFits_contiguous (ht : len ≤ p.k - p.p % p.k) (hs : len ≤ p.k - (p.p - p.c)) : resFits len p = some 0 := if_pos ⟨ht, hs⟩

theorem resFits_wraps (ht : p.k - p.p % p.k < len) (hs : p.k - p.p % p.k + len ≤ p.k - (p.p - p.c)) :
    resFits len p = some (p.k - p.p % p.k) := by
  unfold resFits
  dsimp only
  rw [if_neg (fun h => Nat.not_le.2 ht h.1)]
  exact if_pos ⟨ht, hs⟩

theorem resFits_full
    (hs : p.k - (p.p - p.c) < if len ≤ p.k - p.p % p.k then len else p.k - p.p % p.k + len) : resFits len p = none := by
  unfold resFits Stream.space
  dsimp only
  split at hs <;> rw [if_neg (by omega), if_neg (by omega)]

/-- A reservation by the sender of OPEN connection `v`, which has none yet, on a pair `p` that nobody waits for. -/
structure Ch.MayReserve (c : Ch) (o : Op) (v : Conn) (p : Stream) : Prop where
  op     : o.opcode = opConnReserve
  conn   : c.conn o.index = v
  pair   : c.str (connPair o.index) = p
  opened : v.st = .opened
  sender : v.sender = o.lid
  sound  : p.poisoned = false
  free   : v.resValid = false
  alone  : c.PairAlone (connPair o.index)
  size   : 0 < fld o.operand 4 0 ∧ fld o.operand 4 0 ≤ 16 ∧ fld o.operand 4 0 ≤ p.k / 2

/-- It passes the checks of R133. -/
theorem Ch.MayReserve.bound (h : c.MayReserve o v p) (hs : c.Sound) (he : e.inject = 0) : c.connReserveOp e o = c.connReserve e o := by
  have hbound : connBound o.opcode o.lid v = true := by simp [connBound, h.op, h.opened, h.sender]
  unfold Ch.connReserveOp
  rw [Ch.readConn_clean hs he]
  simp only [h.conn, h.pair, hbound, h.sound, Bool.not_true, Bool.false_eq_true, if_false]

theorem Ch.MayReserve.not_badSize (h : c.MayReserve o v p) :
    ¬ (fld o.operand 4 0 = 0 ∨ 16 < fld o.operand 4 0 ∨ p.k / 2 < fld o.operand 4 0) := by
  have hsize := h.size
  omega

theorem Ch.MayReserve.fits (h : c.MayReserve o v p) (hs : c.Sound) (he : e.inject = 0) (hk : resFits (fld o.operand 4 0) p = some k) :
    c.connReserveOp e o =
      .decided (c.takeRes o.index (fld o.operand 4 0) k) stOk (resResult (fld o.operand 4 0) k v p) {} := by
  rw [h.bound hs he]
  unfold Ch.connReserve
  simp only [h.conn, h.pair, h.not_badSize, h.opened, h.free, h.alone.resParked, hk, Bool.or_self, Bool.false_eq_true, if_false]

theorem Ch.MayReserve.full (h : c.MayReserve o v p) (hs : c.Sound) (he : e.inject = 0) (hk : resFits (fld o.operand 4 0) p = none) :
    c.connReserveOp e o =
      if bit o.operand 8 then
        .park c (e.freeResult 0) 0 o.index (fld o.operand 31 0) (fun c => { c with cu := { c.cu with parks := inc c.cu.parks } })
      else .decided { c with cu := { c.cu with ringFull := inc c.cu.ringFull } } stRingFull (e.freeResult 0) {} := by
  rw [h.bound hs he]
  unfold Ch.connReserve
  simp only [h.conn, h.pair, h.not_badSize, h.opened, h.free, h.alone.resParked, hk, Bool.or_self, Bool.false_eq_true, if_false]

theorem Ch.takeRes_contiguous (hv : c.conn i = v) :
    c.takeRes i len 0 = c.putConn i { v with resValid := true, resPad := 0, resLen := len } := by
  subst hv
  rfl

/-- A reservation that skips the ring's tail is counted in CU_PAD_COUNT. -/
theorem Ch.takeRes_padded (hv : c.conn i = v) (hk : 0 < k) :
    c.takeRes i len k =
      (let c1 := c.putConn i { v with resValid := true, resPad := k, resLen := len }
       { c1 with cu := { c1.cu with pads := inc c1.cu.pads } }) := by
  subst hv
  exact if_pos hk

theorem resResult_padded (hk : 0 < k) : resResult len k v p = at_ 47 0 v.base + at_ 51 48 k + at_ 56 52 len := by
  unfold resResult
  rw [if_neg (Nat.ne_of_gt hk)]

/-! ### CONN_COMMIT, CONN_CONSUME and CONN_CLOSE -/

/-- The checks of R133 let an op pass that is bound and finds its pair not poisoned; a close passes on a poisoned pair too. -/
theorem Ch.connOp_bound (hs : c.Sound) (he : e.inject = 0) (ho : o.poisoned = false)
    (hb : connBound o.opcode o.lid (c.conn o.index) = true)
    (hp : (c.str (connPair o.index)).poisoned = false ∨ o.opcode = opConnClose) :
    c.connOp e o =
      if o.opcode = opConnCommit then c.connCommit e o
      else if o.opcode = opConnConsume then c.connConsume e o
      else c.connClose e o := by
  have hpass : ¬ ((c.str (connPair o.index)).poisoned = true ∧ o.opcode ≠ opConnClose) := by
    rintro ⟨hpois, hne⟩
    exact hp.elim (fun h => by rw [h] at hpois; cases hpois) hne
  unfold Ch.connOp
  rw [Ch.readConn_clean hs he]
  simp only [hb, hpass, ho, Bool.not_true, Bool.false_eq_true, if_false]

/-- A commit ends the reservation and moves P past it and what it skipped (R125). -/
theorem Ch.connCommit_open (hv : c.conn o.index = v) (hp : c.str (connPair o.index) = p) (hopen : v.st = .opened)
    (hres : v.resValid = true) (hlen : 0 < v.resPad + v.resLen) (hwait : c.PairAlone (connPair o.index)) :
    c.connCommit e o =
      (let c1 := (c.putConn o.index { v with resValid := false, resPad := 0, resLen := 0 }).putStr (connPair o.index)
         { p with p := p.p + v.resPad + v.resLen, lastProd := o.lid }
       ({ c1 with cu := { c1.cu with commits := inc c1.cu.commits } }, .done stOk (p.p + v.resPad + v.resLen) {})) := by
  have hne : ({ p with p := p.p + v.resPad + v.resLen, lastProd := o.lid } : Stream) ≠ p := Stream.ne_of_p (by omega)
  unfold Ch.connCommit
  simp only [hv, hp, hopen, hres, if_true, Ch.changeStr_putConn hwait hp hne]

/-- A consume moves C up where the ring has the data (R126). -/
theorem Ch.connConsume_open (hp : c.str (connPair o.index) = p) (h0 : 0 < fld o.operand 24 0) (hfill : fld o.operand 24 0 ≤ p.p - p.c)
    (hwait : c.PairAlone (connPair o.index)) :
    c.connConsume e o =
      (c.putStr (connPair o.index) { p with c := p.c + fld o.operand 24 0, lastCons := o.lid },
        .done stOk (p.c + fld o.operand 24 0) {}) := by
  have hdata : fld o.operand 24 0 ≤ p.fill := hfill
  have hne : ({ p with c := p.c + fld o.operand 24 0, lastCons := o.lid } : Stream) ≠ p := Stream.ne_of_c (by omega)
  unfold Ch.connConsume
  simp only [hp, Nat.ne_of_gt h0, hdata, if_false, if_true]
  rw [changeStr_alone hwait, hp, if_neg hne, Ch.retryRes_alone (by exact hwait)]

/-! ### Requests -/

theorem State.Asks.verdict_conn (h : s.Asks n lid clConn i r) :
    c.verdict e ((reqPacket op r).op lid) op = c.connReserveOp e ((reqPacket op r).op lid) := by
  have hcls : ((reqPacket op r).op lid).cls = clConn := h.cls
  unfold Ch.verdict
  simp [hcls]

/-- CONN_COMMIT, CONN_CONSUME or CONN_CLOSE by an end that it binds. -/
theorem State.Asks.connOp_bound (h : s.Asks n lid clConn i r) (ha : op ≠ opConnAccept) (ho : op ≠ opConnOpen)
    (hv : (s.ch n).conn i = v) (hp : (s.ch n).str (connPair i) = p) (hb : connBound op lid v = true)
    (hpois : p.poisoned = false ∨ op = opConnClose) (hc : (s.ch n).counted (reqPacket op r) lid = c) :
    c.plainOp (s.envOf n op r) ((reqPacket op r).op lid) =
      if op = opConnCommit then c.connCommit (s.envOf n op r) ((reqPacket op r).op lid)
      else if op = opConnConsume then c.connConsume (s.envOf n op r) ((reqPacket op r).op lid)
      else c.connClose (s.envOf n op r) ((reqPacket op r).op lid) := by
  obtain rfl := h.index
  subst hv hp hc
  exact (Ch.plainOp_connOp h.cls ha ho).trans (Ch.connOp_bound (o := (reqPacket op r).op lid) h.sound rfl rfl hb hpois)

/-- Settles O17: a reservation by whether it fits; a commit and a consume by what they make of the pair. -/
theorem connTransfers : Obligations.ConnTransfers := by
  intro s n lid i r v p hs hr hcls hidx hi hv hp hpois hopen hwait c ends len tail space
  obtain rfl := hidx
  have h : s.Asks n lid clConn r.index.toNat r := ⟨hs, hr, by rw [hcls]; rfl, rfl, hi⟩
  refine ⟨fun hsend h0 h16 hhalf hres => ?_, fun hsend hres hlen => ?_, fun hrecv h0 hfill => ?_⟩
  · have ht := h.takenConn (op := opConnReserve) rfl
    have hmay : ((s.ch n).counted (reqPacket opConnReserve r) lid).MayReserve ((reqPacket opConnReserve r).op lid) v p :=
      ⟨rfl, hv, hp, hopen, hsend, hpois, hres, hwait, h0, h16, hhalf⟩
    refine ⟨fun htail hspace => ?_, fun htail hspace => ?_, fun hfull => ?_⟩
    · have hop := hmay.fits (e := s.envOf n opConnReserve r) h.sound rfl (resFits_contiguous htail hspace)
      rw [Ch.takeRes_contiguous (by exact hv)] at hop
      exact ht.decided rfl (h.verdict_conn.trans hop) ⟨hs.calm.quiet, rfl⟩
    · have hpad : 0 < tail := Nat.sub_pos_of_lt (Nat.mod_lt _ (by omega))
      have hop := hmay.fits (e := s.envOf n opConnReserve r) h.sound rfl (resFits_wraps htail hspace)
      rw [Ch.takeRes_padded (by exact hv) hpad, resResult_padded hpad] at hop
      exact ht.decided rfl (h.verdict_conn.trans hop) ⟨hs.calm.quiet, rfl⟩
    · refine ⟨fun hblock => ⟨(s.envOf n opConnReserve r).freeResult 0, ?_⟩,
        fun hblock k hk => ⟨(s.envOf n opConnReserve r).freeResult 0, ?_⟩⟩
      · exact ht.decided rfl (h.verdict_conn.trans
          ((hmay.full h.sound rfl (resFits_full hfull)).trans (if_neg (ne_true_of_eq_false hblock)))) ⟨hs.calm.quiet, rfl⟩
      · exact ht.park rfl (h.verdict_conn.trans
          ((hmay.full h.sound rfl (resFits_full hfull)).trans (if_pos hblock))) hk rfl ⟨hs.calm.quiet, rfl⟩
  · have hbound : connBound opConnCommit lid v = true := by simp [connBound, hopen, hsend]
    have hop := h.connOp_bound (by decide) (by decide) hv hp hbound (.inl hpois) rfl
    exact (h.takenConn rfl).plain rfl (hop.trans ((if_pos rfl).trans
      (Ch.connCommit_open (o := (reqPacket opConnCommit r).op lid) hv hp hopen hres hlen hwait))) ⟨hs.calm.quiet, rfl⟩
  · have hbound : connBound opConnConsume lid v = true := by simp [connBound, hopen, hrecv]
    have hop := h.connOp_bound (by decide) (by decide) hv hp hbound (.inl hpois) rfl
    exact (h.takenConn rfl).plain rfl (hop.trans ((if_neg (by decide)).trans ((if_pos rfl).trans
      (Ch.connConsume_open (o := (reqPacket opConnConsume r).op lid) hp h0 hfill hwait)))) ⟨hs.calm.quiet, rfl⟩

end
end Sys2Proof.Machine
end

section

/-! ## The close of an OPEN connection (R129) -/

namespace Sys2Proof.Machine
section
variable {s : State} {n lid i st result : Nat} {r : Req} {c d : Ch} {e : Env} {o : Op} {v : Conn} {p : Stream}

theorem Ch.conn_putConn (h : SMap.wf {} c.os.conns = true) : (c.putConn i v).conn i = v :=
  (SMap.get_put h i i v).trans (if_pos rfl)

/-- A close by one that is both ends frees the connection: its ring has no entries left. -/
theorem Ch.freeUp_alone (hw : c.PairAlone (connPair i)) (hp : c.str (connPair i) = p) (hk : p.k ≠ 0) :
    c.freeUp e i = (c.putConn i {}).putStr (connPair i) { p with k := 0 } := by
  have hne : ({ p with k := 0 } : Stream) ≠ p := fun h => hk (congrArg Stream.k h).symm
  unfold Ch.freeUp
  rw [hp]
  exact Ch.changeStr_putConn hw hp hne

theorem Ch.endUnmet_nil {ws : List Parked} (h : ws = []) : c.endUnmet e st ws = c := by
  rw [h]
  rfl

theorem Ch.readerCloses_alone (hw : c.PairAlone (connPair i)) (hv : c.conn i = v) :
    c.readerCloses e i = c.putConn i { v with st := .readerClosed } := by
  subst hv
  exact Ch.endUnmet_nil (Ch.PairAlone.sendWaits (c := c.putConn i { c.conn i with st := .readerClosed }) hw)

theorem Ch.senderCloses_alone (hw : c.PairAlone (connPair i)) (hv : c.conn i = v) :
    c.senderCloses e i = c.putConn i { v with st := .senderClosed, resValid := false, resPad := 0, resLen := 0 } := by
  subst hv
  exact Ch.endUnmet_nil (by exact hw)

/-- The close of an OPEN connection by which of its ends asks for it; RESULT is the new STATE. -/
theorem Ch.connClose_open (hf : (c.fault .cu).pendForce = none) (hu : c.upsets = []) (hw : c.PairAlone (connPair o.index))
    (hv : c.conn o.index = v) (hopen : v.st = .opened) :
    c.connClose e o =
      (let d :=
        if v.receiver = o.lid ∧ v.sender = o.lid then c.freeUp e o.index
        else if v.receiver = o.lid then c.readerCloses e o.index
        else c.senderCloses e o.index
       (d, .done stOk (d.conn o.index).st.code {})) := by
  have hwaits : c.pairWaits (connPair o.index) = [] := hw
  unfold Ch.connClose
  simp only [Ch.readPort_clean hf hu, hv, hopen, if_true, hwaits, Ch.endUnmet]

/-- CONN_CLOSE by an end of an OPEN connection, by what it makes of the channel. -/
theorem State.Asks.connClose (h : s.Asks n lid clConn i r) (hv : (s.ch n).conn i = v) (hopen : v.st = .opened)
    (hw : (s.ch n).PairAlone (connPair i)) (hend : v.receiver = lid ∨ v.sender = lid)
    (hc : (s.ch n).counted (reqPacket opConnClose r) lid = c)
    (hd : (if v.receiver = lid ∧ v.sender = lid then c.freeUp (s.envOf n opConnClose r) i
      else if v.receiver = lid then c.readerCloses (s.envOf n opConnClose r) i
      else c.senderCloses (s.envOf n opConnClose r) i) = d)
    (hst : (d.conn i).st.code = result) (hsame : d.Same (s.ch n)) :
    exec (.connClose r) s = .next (s.served n opConnClose r d [replyTo n opConnClose r stOk result true]) := by
  obtain rfl := h.index
  subst hst hd hc
  have hbound : connBound opConnClose lid v = true := by simpa [connBound, hopen] using hend
  exact (h.takenConn rfl).plain rfl ((h.connOp_bound (by decide) (by decide) hv rfl hbound (.inr rfl) rfl).trans
    (Ch.connClose_open (o := (reqPacket opConnClose r).op lid) (h.serves.calm.unforced .cu) h.serves.calm.sound hw hv hopen)) hsame

/-- Settles O18: by which ends ask for it; no wait of the pair is there to cancel. -/
theorem connCloses : Obligations.ConnCloses := by
  intro s n lid i r v p hs hr hcls hidx hi hv hp hopen hw hwf c ends
  have h : s.Asks n lid clConn i r := ⟨hs, hr, by rw [hcls]; rfl, hidx, hi⟩
  refine ⟨fun hrecv hsend => ?_, fun hrecv hsend => ?_, fun hrecv hsend hk => ?_⟩
  · refine h.connClose hv hopen hw (.inl hrecv) rfl ?_ (congrArg (·.st.code) (Ch.conn_putConn hwf)) ⟨hs.calm.quiet, rfl⟩
    rw [if_neg (fun hb => hsend hb.2), if_pos hrecv]
    exact Ch.readerCloses_alone hw hv
  · refine h.connClose hv hopen hw (.inr hsend) rfl ?_ (congrArg (·.st.code) (Ch.conn_putConn hwf)) ⟨hs.calm.quiet, rfl⟩
    rw [if_neg (fun hb => hrecv hb.1), if_neg hrecv]
    exact Ch.senderCloses_alone hw hv
  · refine h.connClose hv hopen hw (.inl hrecv) rfl ?_ (congrArg (·.st.code) (Ch.conn_putConn (v := {}) hwf)) ⟨hs.calm.quiet, rfl⟩
    rw [if_pos ⟨hrecv, hsend⟩]
    exact Ch.freeUp_alone hw hp hk

end
end Sys2Proof.Machine
end

section

/-! ## Counted arrivals at a barrier (R156, R157, R159, R162, R164, R178) -/

namespace Sys2Proof.Machine
section
variable {s : State} {n lid op i k : Nat} {r : Req} {c : Ch} {e : Env} {o : Op} {b b' : Bar} {g : BitVec 32} {early : Bool}

/-! ### Records and their store -/

theorem barIndex_of_lt (h : i < 2 ^ 15) : barIndex i = i := by
  unfold barIndex fld
  rw [pow_zero, Nat.div_one]
  exact Nat.mod_eq_of_lt h

/-- A record whose last arrival has a sender's logical ID is not that of a barrier never used. -/
theorem Bar.ne_of_last (h : b.last < 0xFFE) : b ≠ {} := by
  rintro rfl
  exact absurd h (by decide)

theorem Ch.bar_putBar (h : b ≠ {}) : (c.putBar i b).bar i = b := SMap.get_put_self h

theorem Ch.putBar_putBar (h : b ≠ {}) (h' : b' ≠ {}) : (c.putBar i b).putBar i b' = c.putBar i b' := by
  unfold Ch.putBar
  dsimp only
  rw [SMap.put_put h h']

theorem Bar.take_last (strict : Bool) (stamp : Nat) : (b.take strict lid stamp early).last = lid := by
  cases early <;> rfl

theorem Bar.take_counted (stamp : Nat) : b.take (barStrict i) lid stamp false =
    { b with count := b.count + 1, last := lid, cur := if i < 0x400 then insertId lid b.cur else b.cur,
             start := if b.count = 0 then fld stamp 39 8 else b.start } := by
  simp [Bar.take, barStrict, startOf]

theorem Bar.take_early (stamp : Nat) : b.take (barStrict i) lid stamp true =
    { b with early := b.early + 1, last := lid, nxt := if i < 0x400 then insertId lid b.nxt else b.nxt } := by
  simp [Bar.take, barStrict]

/-- RESULT does not show who arrived. -/
theorem Bar.take_result (strict released : Bool) (stamp : Nat) :
    (b.take false 0 stamp early).result early released = (b.take strict lid stamp early).result early released := by
  cases early <;> rfl

/-! ### What R159 decides -/

theorem arrival_counted {strict member : Bool} (hp : b.poisoned = false) (hm : strict = true → member = true) (hg : b.gated = false)
    (hr : b.ruPending = false) (hc : strict = true → lid ∉ b.cur) : arrival b strict member lid 0 = .counted := by
  unfold arrival
  cases strict <;> simp_all

theorem arrival_early {strict member : Bool} (hp : b.poisoned = false) (hm : strict = true → member = true) (he : b.early ≠ b.target)
    (hc : strict = true → lid ∉ b.nxt ∧ lid ∈ b.cur) : arrival b strict member lid 1 = .early := by
  unfold arrival
  cases strict <;> simp_all

/-- What R159 decides of an arrival that counts. -/
def countsAs (early : Bool) : Arrival := if early then .early else .counted

/-! ### At the bank -/

/-- The channel once an arrival that does not complete its generation has left record `b'`. -/
def Ch.arrived (i : Nat) (b' : Bar) (g : BitVec 32) (phys lid : Nat) (c : Ch) : Ch :=
  let c1 := c.putBar i b'
  if i < 0x2000 then { c1 with ru := { c1.ru with queue := c1.ru.queue ++ [⟨i, g, [], phys, lid, false⟩] } } else c1

theorem Ch.arrived_bar (h : b' ≠ {}) (phys : Nat) : (c.arrived i b' g phys lid).bar i = b' := by
  unfold Ch.arrived
  split
  · exact Ch.bar_putBar h
  · exact Ch.bar_putBar h

theorem Ch.Quiet.arrived (h : c.Quiet) (phys : Nat) : (c.arrived i b' g phys lid).Quiet := by
  unfold Ch.arrived
  split
  · exact h
  · exact h

theorem Ch.arrived_edge (phys : Nat) : (c.arrived i b' g phys lid).edge = c.edge := by
  unfold Ch.arrived
  split <;> rfl

/-- An op that is no poisoned trailer arrives at a barrier whose record is `b`, which neither it nor the RU is completing. -/
structure Ch.Counts (c : Ch) (o : Op) (i : Nat) (b : Bar) (early : Bool) : Prop where
  index    : barIndex o.index = i
  record   : c.bar i = b
  goodMask : barStrict i = true → b.mask ∉ c.os.badMasks
  verdict  : c.arrivalAt o i (BitVec.ofNat 32 o.operand - b.gen) = countsAs early
  sound    : o.poisoned = false
  noRu     : b.ruPending = false
  more     : early = false → b.count + 1 ≠ b.target

theorem Ch.Counts.of_bank {d : Ch} (h : c.Counts o i b early) (hbars : d.os.bars = c.os.bars) (hmasks : d.os.badMasks = c.os.badMasks)
    (himg : d.img = c.img) (hla : d.la = c.la) : d.Counts o i b early where
  index    := h.index
  record   := by unfold Ch.bar; rw [hbars]; exact h.record
  goodMask := by rw [hmasks]; exact h.goodMask
  verdict  := by
    have hv := h.verdict
    unfold Ch.arrivalAt Ch.accFenced Ch.accObj Ch.isMember Ch.mask Ch.bar at hv ⊢
    rw [hbars, himg, hla]
    exact hv
  sound    := h.sound
  noRu     := h.noRu
  more     := h.more

theorem Ch.Counts.acceptBar (h : c.Counts o i b early) :
    c.acceptBar e o i early [] = c.arrived i (b.take (barStrict i) o.lid e.stamp early) (if early then b.gen + 1 else b.gen)
      o.phys o.lid := by
  rw [Ch.acceptBar_open h.record h.sound h.noRu h.more]
  unfold Ch.arrived barReduce
  simp only [decide_eq_true_eq]

theorem Ch.Counts.not_done (h : c.Counts o i b early) : (!early && c.wouldComplete i) = false := by
  cases early with
  | true => rfl
  | false =>
    have := h.more rfl
    simp [Ch.wouldComplete, h.record, this]

theorem Ch.Counts.readBar (h : c.Counts o i b early) (hs : c.Sound) (he : e.inject = 0) : c.readBar e o i = c :=
  Ch.readBar_clean hs he o (h.record ▸ h.goodMask)

theorem Ch.Counts.arrivedResult (h : c.Counts o i b early) :
    c.arrivedResult e i early = (b.take (barStrict i) o.lid e.stamp early).result early false := by
  unfold Ch.arrivedResult
  simp only [h.not_done, h.record, Bool.false_and, Bool.false_eq_true, if_false]
  exact Bar.take_result ..

theorem Ch.Counts.barArrive (h : c.Counts o i b early) (hs : c.Sound) (he : e.inject = 0) :
    c.barArrive e o = (c.acceptBar e o i early [], .done stOk ((b.take (barStrict i) o.lid e.stamp early).result early false) {}) := by
  have hv := h.verdict
  unfold Ch.barArrive
  simp only [h.index, h.readBar hs he, h.record]
  cases early with
  | false => simp only [hv, countsAs, h.arrivedResult, Bool.false_eq_true, if_false, reduceCtorEq, decide_false, h.not_done, Bool.false_and]
  | true => simp [hv, countsAs, h.arrivedResult]

theorem Ch.Counts.barWait (h : c.Counts o i b early) (hs : c.Sound) (he : e.inject = 0) (hl : o.lid < 0xFFE) :
    c.barWait e o = .park c ((b.take (barStrict i) o.lid e.stamp early).result early false) (BitVec.ofNat 32 o.operand) i
      (BitVec.ofNat 32 o.operand).toNat (fun c => c.acceptBar e o i early []) := by
  have hv := h.verdict
  have hbar : (c.acceptBar e o i early []).bar i = b.take (barStrict i) o.lid e.stamp early := by
    rw [h.acceptBar]
    exact Ch.arrived_bar (Bar.ne_of_last (by rwa [Bar.take_last])) _
  unfold Ch.barWait
  simp only [h.index, h.readBar hs he, h.record]
  cases early with
  | false => simp only [hv, countsAs, hbar, Bool.false_eq_true, if_false, reduceCtorEq, decide_false, h.not_done, Bool.false_and]
  | true => simp [hv, countsAs, hbar]

/-! ### Requests -/

/-- BAR_ARRIVE or BAR_ARRIVE_WAIT of a served endpoint at barrier `i`, whose record is `b`: R159 counts it, for GEN or early for
GEN + 1, and it does not complete its generation. -/
structure State.Arrives (s : State) (n lid i : Nat) (r : Req) (b : Bar) (early : Bool) : Prop where
  serves : s.Serves n r.endpoint.toNat lid
  clean  : Clean r
  cls    : r.cls = 3
  index  : r.index.toNat = i
  range  : i < 2 ^ 15
  room   : i < 0x2000 → (s.ch n).ru.queue.length < 512
  counts : ∀ op, (s.ch n).Counts ((reqPacket op r).op lid) i b early

theorem State.Arrives.taken (h : s.Arrives n lid i r b early) (hop : op = opBarArrive ∨ op = opBarArriveWait) : Taken s n lid op r := by
  obtain rfl := h.index
  exact taken_bar h.serves h.clean h.cls hop h.range h.room

theorem State.Arrives.counted (h : s.Arrives n lid i r b early) (op : Nat) :
    ((s.ch n).counted (reqPacket op r) lid).Counts ((reqPacket op r).op lid) i b early :=
  (h.counts op).of_bank rfl rfl rfl rfl

/-- The generation that the arrival counts for. -/
def Bar.genFor (b : Bar) (early : Bool) : BitVec 32 := if early then b.gen + 1 else b.gen

theorem Ch.plainOp_barArrive (hc : o.cls = clBar) (ho : o.opcode = opBarArrive) : c.plainOp e o = c.barArrive e o := by
  unfold Ch.plainOp
  simp [hc, ho]

theorem Ch.verdict_barWait (hc : o.cls = clBar) : c.verdict e o opBarArriveWait = c.barWait e o := by
  unfold Ch.verdict
  simp [hc]

theorem Ch.Same.arrived {d : Ch} (h : d.Same c) (phys : Nat) : (d.arrived i b' g phys lid).Same c :=
  ⟨h.quiet.arrived phys, (Ch.arrived_edge phys).trans h.edge⟩

/-- Every request of an endpoint finds the same time. -/
theorem State.envOf_stamp (op : Nat) : (s.envOf n op r).stamp = (s.seen n .none).stamp := by
  simp only [State.envOf, State.seen, State.env, State.asked, State.ch_acknowledge, State.ch_issue, State.acknowledge_time,
    State.issue_time, State.stamp, State.acknowledge_coreK, State.issue_coreK]

theorem State.Arrives.cls_eq (h : s.Arrives n lid i r b early) : ((reqPacket op r).op lid).cls = clBar :=
  congrArg BitVec.toNat h.cls

theorem State.Arrives.arrive (h : s.Arrives n lid i r b early)
    (hb : b.take (barStrict i) lid (s.envOf n opBarArrive r).stamp early = b') :
    exec (.barArrive r) s = .next (s.served n opBarArrive r
      (((s.ch n).counted (reqPacket opBarArrive r) lid).arrived i b' (b.genFor early) r.endpoint.toNat lid)
      [replyTo n opBarArrive r stOk (b'.result early false) true]) := by
  subst hb
  refine (h.taken (.inl rfl)).plain rfl ?_ ((h.serves.calm.same _).arrived _)
  rw [Ch.plainOp_barArrive h.cls_eq rfl, (h.counted opBarArrive).barArrive (h.serves.calm.counted _).os rfl,
    (h.counted opBarArrive).acceptBar]
  rfl

theorem State.Arrives.verdict_wait (h : s.Arrives n lid i r b early)
    (hb : b.take (barStrict i) lid (s.envOf n opBarArrive r).stamp early = b') (hg : BitVec.ofNat 32 r.operand.toNat = b.genFor early) :
    ((s.ch n).counted (reqPacket opBarArriveWait r) lid).verdict (s.envOf n opBarArriveWait r) ((reqPacket opBarArriveWait r).op lid)
        opBarArriveWait =
      .park ((s.ch n).counted (reqPacket opBarArriveWait r) lid) (b'.result early false) (b.genFor early) i (b.genFor early).toNat
        (fun c => c.acceptBar (s.envOf n opBarArriveWait r) ((reqPacket opBarArriveWait r).op lid) i early []) := by
  subst hb
  rw [Ch.verdict_barWait h.cls_eq, (h.counted opBarArriveWait).barWait (h.serves.calm.counted _).os rfl h.serves.inRange,
    State.envOf_stamp opBarArrive, ← State.envOf_stamp opBarArriveWait]
  show Verdict.park _ _ (BitVec.ofNat 32 r.operand.toNat) _ (BitVec.ofNat 32 r.operand.toNat).toNat _ = _
  rw [hg]
  rfl

theorem State.Arrives.wait_parks (h : s.Arrives n lid i r b early)
    (hb : b.take (barStrict i) lid (s.envOf n opBarArrive r).stamp early = b') (hg : BitVec.ofNat 32 r.operand.toNat = b.genFor early)
    (hk : (s.ch n).LowestFree lid k) :
    exec (.barArriveWait r) s = .next (s.served n opBarArriveWait r
      ((((s.ch n).counted (reqPacket opBarArriveWait r) lid).parkedWith (slotRecord (s.envOf n opBarArriveWait r) opBarArriveWait r lid
        k i (b.genFor early).toNat (b.genFor early) (b'.result early false))).arrived i b' (b.genFor early) r.endpoint.toNat lid)
      [replyTo n opBarArriveWait r stPending k false]) := by
  refine (h.taken (.inr rfl)).park rfl (h.verdict_wait hb hg) hk ?_ ((h.serves.calm.same_parked _ _).arrived _)
  subst hb
  rw [State.envOf_stamp opBarArrive, ← State.envOf_stamp opBarArriveWait]
  exact Ch.Counts.acceptBar ((h.counts opBarArriveWait).of_bank rfl rfl rfl rfl)

/-- RESULT of a BAR_ARRIVE_WAIT that finds no free slot is the record without it (log entry 40). -/
theorem Ch.slotsFullResult_barWait (hc : o.cls = clBar) (ho : o.opcode = opBarArriveWait) (hi : barIndex o.index = i) (hb : c.bar i = b)
    (found : Nat) : c.slotsFullResult e o found = b.result false false := by
  unfold Ch.slotsFullResult
  rw [if_pos hc, if_neg (by rw [ho]; decide), hi, hb]

theorem State.Arrives.wait_full (h : s.Arrives n lid i r b early) (hg : BitVec.ofNat 32 r.operand.toNat = b.genFor early)
    (hk : (s.ch n).SlotsFull lid) :
    exec (.barArriveWait r) s = .next (s.served n opBarArriveWait r ((s.ch n).counted (reqPacket opBarArriveWait r) lid)
      [replyTo n opBarArriveWait r stSlotsFull (b.result false false) true]) := by
  have hfull := (h.taken (.inr rfl)).full rfl (h.verdict_wait rfl hg) hk (h.serves.calm.same _)
  rwa [Ch.slotsFullResult_barWait h.cls_eq rfl (h.counted opBarArriveWait).index (h.counted opBarArriveWait).record] at hfull

/-- Settles O12: R159 decides that the arrival counts; its record then gives the response, or its sender's slots the wait. -/
theorem barArrivals : Obligations.BarArrivals := by
  intro s n lid i r b hs hr hcls hidx hi hb hpois hru hfence hmask hroom
  have harrives : ∀ early, arrival b (barStrict i) ((s.ch n).isMember i lid) lid (BitVec.ofNat 32 r.operand.toNat - b.gen) =
      countsAs early → (early = false → b.count + 1 ≠ b.target) → s.Arrives n lid i r b early := by
    intro early ha hmore
    refine ⟨hs, hr, hcls, hidx, hi, hroom, fun op => ⟨?_, hb, ?_, ?_, rfl, hru, hmore⟩⟩
    · subst hidx
      exact barIndex_of_lt hi
    · intro hstrict
      exact (hmask (of_decide_eq_true hstrict)).1
    · unfold Ch.arrivalAt
      rw [hfence, hb]
      exact ha
  have hmember : barStrict i = true → (s.ch n).isMember i lid = true := by
    intro hstrict
    obtain ⟨-, hlt, hbit⟩ := hmask (of_decide_eq_true hstrict)
    simp [Ch.isMember, hb, hlt, hbit]
  refine ⟨fun hg hgate hcur hmore => ?_, fun hg hearly hcur => ?_⟩
  · have h := harrives false
      (by rw [hg, sub_self]; exact arrival_counted hpois hmember hgate hru (fun hx => hcur (of_decide_eq_true hx)))
      (fun _ => hmore)
    exact ⟨h.arrive (Bar.take_counted _), fun k hk => h.wait_parks (Bar.take_counted _) hg hk, h.wait_full hg⟩
  · have h := harrives true
      (by rw [hg, add_sub_cancel_left]; exact arrival_early hpois hmember hearly (fun hx => hcur (of_decide_eq_true hx)))
      (fun hx => absurd hx (by decide))
    exact ⟨h.arrive (Bar.take_early _), fun k hk => h.wait_parks (Bar.take_early _) hg hk, h.wait_full hg⟩

end
end Sys2Proof.Machine
end

section

/-! ## The release of a plain barrier (R161 to R164) -/

namespace Sys2Proof.Machine
section
variable {s : State} {n lid op i : Nat} {r : Req} {c d : Ch} {e : Env} {o : Op} {b : Bar} {obj : EndObj} {ws : List Parked}

/-! ### Completions that pass freely -/

/-- Where no sequence ends at an object and no accord binds it, its completion releases it at once. -/
theorem Ch.complete_free (ha : c.accObj obj = none) (hs : c.seqEnding obj = none) :
    c.complete e obj = c.releaseObj e obj false .nothing := by
  unfold Ch.complete Ch.completeAt Ch.passFree
  simp only [ha, hs]

/-! ### The release -/

/-- Plain waits for a generation of a barrier end with what the release makes of its record. -/
theorem Ch.releaseWaits_plain (hs : c.Sound) (he : e.chan = n) (hb : c.bar i = b) (hp : c.PlainWaits ws)
    (hmem : ∀ w ∈ ws, w ∈ c.hw.parked) (hnd : ws.Nodup) (hop : ∀ w ∈ ws, w.opcode = opBarArriveWait) (item : Nat) :
    c.releaseWaits e i stOk item {} ws =
      { c.freed ws with out := c.out ++ ws.flatMap (fun w => endsOf n w stOk (b.result (bit w.found 58) (bit w.found 59))) } := by
  have hend : ∀ w ∈ ws, endWith n (fun w => (stOk, if w.opcode = opBarReduceArrive then item else barWaitResult b w)) {} w =
      endsOf n w stOk (b.result (bit w.found 58) (bit w.found 59)) := by
    intro w hw
    have hne : ¬ w.opcode = opBarReduceArrive := by rw [hop w hw]; decide
    rw [endWith_plain]
    simp only [barWaitResult, hne, if_false]
  rw [Ch.releaseWaits_eq e i stOk item {} ws hs, Ch.endEach_plain hs _ {} hp hmem hnd he, hb, List.flatMap_congr hend]

/-- A generation that is not complete completes nothing as it begins. -/
theorem Ch.chainBar_incomplete (h : (c.bar i).count ≠ (c.bar i).target) : c.chainBar i = c := by
  unfold Ch.chainBar
  exact if_neg (fun hx => h hx.1)

theorem Ch.genWaits_parked {w : Parked} (h : w ∈ c.genWaits i b.gen) : w ∈ c.hw.parked :=
  (List.mem_filter.mp (List.mem_filter.mp h).1).1

theorem Ch.PlainWaits.genWaits_nodup (h : c.PlainWaits ws) (i : Nat) (g : BitVec 32) : (c.genWaits i g).Nodup :=
  ((h.1.of_map _).filter _).filter _

/-- What leaves as the plain waits for generation `g` of barrier `i` end with a release that leaves record `b'`. -/
def Ch.releaseEnds (n i : Nat) (g : BitVec 32) (b' : Bar) (c : Ch) : List Output :=
  (c.genWaits i g).flatMap (fun w => endsOf n w stOk (b'.result (bit w.found 58) (bit w.found 59)))

/-- The release of a complete generation of a plain barrier, whose next one is not complete yet. -/
theorem Ch.releaseBar_plain (hs : c.Sound) (he : e.chan = n) (hi : 0x2000 ≤ i) (hb : c.bar i = b) (hl : b.last < 0xFFE)
    (hmore : b.early ≠ b.target) (hp : c.PlainWaits (c.genWaits i b.gen))
    (hop : ∀ w ∈ c.genWaits i b.gen, w.opcode = opBarArriveWait) :
    c.releaseBar e i false =
      { (c.putBar i (b.advance e.stamp false)).freed (c.genWaits i b.gen) with
        out := c.out ++ c.releaseEnds n i b.gen (b.advance e.stamp false) } := by
  have hbar : (c.putBar i (b.advance e.stamp false)).bar i = b.advance e.stamp false := Ch.bar_putBar (Bar.ne_of_last hl)
  have hwaits := Ch.releaseWaits_plain (c := c.putBar i (b.advance e.stamp false)) (e := e) hs he hbar (ws := c.genWaits i b.gen) hp
    (fun w hw => Ch.genWaits_parked hw) (hp.genWaits_nodup i b.gen) hop 0
  have hplain : barReduce i = false := by simpa [barReduce] using hi
  unfold Ch.releaseBar
  simp only [hb, hplain, Bool.false_eq_true, if_false]
  rw [show (c.putBar i (b.advance e.stamp false)).genWaits i b.gen = c.genWaits i b.gen from rfl, hwaits]
  refine Ch.chainBar_incomplete ?_
  show ((c.putBar i (b.advance e.stamp false)).bar i).count ≠ ((c.putBar i (b.advance e.stamp false)).bar i).target
  rw [hbar]
  exact hmore

/-! ### The arrival that completes a generation -/

/-- An op that is no poisoned trailer arrives at a plain barrier whose record is `b`, which no sequence and no accord waits for, and
completes its generation. -/
structure Ch.Completes (c : Ch) (o : Op) (i : Nat) (b : Bar) : Prop where
  index   : barIndex o.index = i
  plain   : 0x2000 ≤ i
  record  : c.bar i = b
  verdict : c.arrivalAt o i (BitVec.ofNat 32 o.operand - b.gen) = .counted
  sound   : o.poisoned = false
  noRu    : b.ruPending = false
  unbound : c.accObj (.bar i) = none
  noSeq   : c.seqEnding (.bar i) = none
  last    : b.count + 1 = b.target

/-- The record after the arrival and the release. -/
def Bar.released (b : Bar) (lid stamp : Nat) : Bar := (b.take false lid stamp false).advance stamp false

/-- The channel as the arrival leaves it, its completion still to come. -/
def Ch.completing (i : Nat) (b' : Bar) (c : Ch) : Ch := { c.putBar i b' with todo := c.todo ++ [.complete (.bar i)] }

/-- The channel with record `b'` of barrier `i`, a response to send, and nothing to do but what follows a free release. -/
def Ch.releasing (i : Nat) (reply : Output) (b' : Bar) (c : Ch) : Ch :=
  { c.putBar i b' with out := [reply], todo := [.next .nothing] }

theorem Ch.Completes.not_strict (h : c.Completes o i b) : barStrict i = false := by
  have := h.plain
  simp [barStrict]
  omega

theorem Ch.Completes.not_reduce (h : c.Completes o i b) : barReduce i = false := by
  have := h.plain
  simp [barReduce]
  omega

theorem Ch.Completes.wouldComplete (h : c.Completes o i b) : c.wouldComplete i = true := by
  simp [Ch.wouldComplete, h.record, h.last]

theorem Ch.Completes.acceptBar (h : c.Completes o i b) :
    c.acceptBar e o i false [] = c.completing i (b.take false o.lid e.stamp false) := by
  have hru : (b.take false o.lid e.stamp false).ruPending = false := h.noRu
  unfold Ch.acceptBar Ch.completing
  simp only [h.record, h.wouldComplete, h.sound, h.noRu, h.not_strict, h.not_reduce, Bool.not_false, Bool.and_true, Bool.and_false,
    Bool.or_false, Bool.false_eq_true, if_true, if_false]
  generalize b.take false o.lid e.stamp false = t at hru
  cases t
  subst hru
  rfl

theorem Ch.Completes.readBar (h : c.Completes o i b) (hs : c.Sound) (he : e.inject = 0) : c.readBar e o i = c :=
  Ch.readBar_clean hs he o (fun hx => absurd (h.not_strict.symm.trans hx) (by decide))

/-- Its response shows the record after the release (R164). -/
theorem Ch.Completes.arrivedResult (h : c.Completes o i b) :
    c.arrivedResult e i false = (b.released o.lid e.stamp).result false true := by
  have hnow : c.releasesNow e i = true := by
    unfold Ch.releasesNow
    simp only [h.unbound, h.noSeq, Option.isSome_none, Bool.false_eq_true, if_false]
  unfold Ch.arrivedResult
  simp only [h.record, h.wouldComplete, h.not_reduce, hnow, Bool.not_false, Bool.and_true, if_true]
  rfl

theorem Ch.Completes.barArrive (h : c.Completes o i b) (hs : c.Sound) (he : e.inject = 0) :
    c.barArrive e o =
      (c.completing i (b.take false o.lid e.stamp false), .done stOk ((b.released o.lid e.stamp).result false true) {}) := by
  have hv := h.verdict
  unfold Ch.barArrive
  simp only [h.index, h.readBar hs he, h.record, hv, h.not_reduce, reduceCtorEq, decide_false, h.arrivedResult, h.acceptBar,
    Bool.and_false, Bool.false_and, Bool.false_eq_true, if_false]

theorem Ch.Completes.barWait (h : c.Completes o i b) (hs : c.Sound) (he : e.inject = 0) :
    c.barWait e o =
      .decided (c.completing i (b.take false o.lid e.stamp false)) stOk ((b.released o.lid e.stamp).result false true) {} := by
  have hv := h.verdict
  have hgate : c.gatedEnd i = false := by
    unfold Ch.gatedEnd
    rw [h.noSeq]
  unfold Ch.barWait
  simp only [h.index, h.readBar hs he, h.record, hv, h.wouldComplete, h.not_reduce, hgate, h.unbound, Option.isNone_none, reduceCtorEq,
    decide_false, Bool.not_false, Bool.and_true, if_true, h.arrivedResult, h.acceptBar]

/-- The completion that the arrival leaves to do releases the barrier (R161). -/
theorem Ch.Completes.settle {reply : Output} (h : c.Completes o i b) (hs : c.Sound) (he : e.chan = n) (hl : o.lid < 0xFFE)
    (hq : c.Quiet) (hmore : b.early ≠ b.target) (hp : c.PlainWaits (c.genWaits i b.gen))
    (hop : ∀ w ∈ c.genWaits i b.gen, w.opcode = opBarArriveWait) :
    ({ c.completing i (b.take false o.lid e.stamp false) with out := [reply] } : Ch).settle e =
      { (c.putBar i (b.released o.lid e.stamp)).freed (c.genWaits i b.gen) with
        out := reply :: c.releaseEnds n i b.gen (b.released o.lid e.stamp) } := by
  obtain ⟨htodo, hout, -, hhalt, -⟩ := hq
  have htake : b.take false o.lid e.stamp false ≠ {} := Bar.ne_of_last hl
  have hrel : b.released o.lid e.stamp ≠ {} := Bar.ne_of_last hl
  have hput : (c.releasing i reply (b.take false o.lid e.stamp false)).putBar i (b.released o.lid e.stamp) =
      c.releasing i reply (b.released o.lid e.stamp) :=
    congrArg (fun d : Ch => { d with out := [reply], todo := [.next .nothing] }) (Ch.putBar_putBar htake hrel)
  have hdo : ({ c.putBar i (b.take false o.lid e.stamp false) with out := [reply], todo := [] } : Ch).doTodo e (.complete (.bar i)) =
      { (c.putBar i (b.released o.lid e.stamp)).freed (c.genWaits i b.gen) with
        out := reply :: c.releaseEnds n i b.gen (b.released o.lid e.stamp), todo := [.next .nothing] } :=
    calc
      _ = (c.releasing i reply (b.take false o.lid e.stamp false)).releaseBar e i false :=
        Ch.complete_free (c := { c.releasing i reply (b.take false o.lid e.stamp false) with todo := [] }) (obj := .bar i)
          h.unbound h.noSeq
      _ = { ((c.releasing i reply (b.take false o.lid e.stamp false)).putBar i (b.released o.lid e.stamp)).freed (c.genWaits i b.gen) with
            out := reply :: c.releaseEnds n i b.gen (b.released o.lid e.stamp) } :=
        Ch.releaseBar_plain (c := c.releasing i reply (b.take false o.lid e.stamp false)) (b := b.take false o.lid e.stamp false)
          hs he h.plain (Ch.bar_putBar htake) hl hmore hp hop
      _ = _ := congrArg (fun d : Ch => { d.freed (c.genWaits i b.gen) with
          out := reply :: c.releaseEnds n i b.gen (b.released o.lid e.stamp) }) hput
  refine Ch.settle_two (t := .complete (.bar i)) (u := .next .nothing) ?_ hdo rfl ?_ htodo hhalt
  · show c.todo ++ _ = _
    rw [htodo]
    rfl
  · show ({ (c.putBar i (b.released o.lid e.stamp)).freed (c.genWaits i b.gen) with
      out := reply :: c.releaseEnds n i b.gen (b.released o.lid e.stamp), todo := [] } : Ch) = _
    rw [← htodo]
    rfl

/-! ### Requests -/

theorem Bar.released_eq (hg : b.gated = false) (hr : b.ruPending = false) (stamp : Nat) : b.released lid stamp =
    { b with gen := b.gen + 1, count := b.early, early := 0, prevTmo := false, holding := false, last := lid, cur := b.nxt, nxt := [],
             start := if b.early ≠ 0 ∨ b.count = 0 then fld stamp 39 8 else b.start } := by
  unfold Bar.released Bar.take Bar.advance startOf
  by_cases he : b.early = 0 <;> simp [he, hg, hr]

/-- BAR_ARRIVE or BAR_ARRIVE_WAIT of a served endpoint completes plain barrier `i`, whose record is `b`, for plain waits only. -/
structure State.CompletesBar (s : State) (n lid i : Nat) (r : Req) (b : Bar) : Prop where
  serves    : s.Serves n r.endpoint.toNat lid
  clean     : Clean r
  cls       : r.cls = 3
  range     : r.index.toNat < 2 ^ 15
  completes : ∀ op, (s.ch n).Completes ((reqPacket op r).op lid) i b
  more      : b.early ≠ b.target
  plain     : (s.ch n).PlainWaits ((s.ch n).genWaits i b.gen)
  waits     : ∀ w ∈ (s.ch n).genWaits i b.gen, w.opcode = opBarArriveWait

theorem State.CompletesBar.taken (h : s.CompletesBar n lid i r b) (hop : op = opBarArrive ∨ op = opBarArriveWait) :
    Taken s n lid op r := by
  have hi : r.index.toNat = i := (barIndex_of_lt h.range).symm.trans (h.completes op).index
  exact taken_bar h.serves h.clean h.cls hop h.range (fun hlt => absurd (h.completes op).plain (by omega))

theorem State.CompletesBar.counted (h : s.CompletesBar n lid i r b) (op : Nat) :
    ((s.ch n).counted (reqPacket op r) lid).Completes ((reqPacket op r).op lid) i b :=
  { h.completes op with }

/-- The channel as the arrival leaves it, its completion still to come. -/
def State.completingCh (s : State) (n op lid i : Nat) (r : Req) (b : Bar) : Ch :=
  ((s.ch n).counted (reqPacket op r) lid).completing i (b.take false lid (s.envOf n op r).stamp false)

/-- The channel after the release. -/
def State.releasedCh (s : State) (n op lid i : Nat) (r : Req) (b : Bar) : Ch :=
  (((s.ch n).counted (reqPacket op r) lid).putBar i (b.released lid (s.envOf n op r).stamp)).freed ((s.ch n).genWaits i b.gen)

theorem State.CompletesBar.settle (h : s.CompletesBar n lid i r b) (op : Nat) (reply : Output) :
    ({ s.completingCh n op lid i r b with out := reply :: (s.completingCh n op lid i r b).out } : Ch).settle (s.envOf n op r) =
      { s.releasedCh n op lid i r b with out := reply :: (s.ch n).releaseEnds n i b.gen (b.released lid (s.envOf n op r).stamp) } := by
  have hout : (s.completingCh n op lid i r b).out = [] := h.serves.calm.out_nil
  rw [hout]
  exact (h.counted op).settle (h.serves.calm.counted _).os rfl h.serves.inRange h.serves.calm.quiet h.more h.plain h.waits

/-- What leaves: the op's own response, which shows the record after the release (R164), then those of the waits. -/
def State.releasedOuts (s : State) (n op lid i : Nat) (r : Req) (b : Bar) : List Output :=
  replyTo n op r stOk ((b.released lid (s.envOf n op r).stamp).result false true) true ::
    (s.ch n).releaseEnds n i b.gen (b.released lid (s.envOf n op r).stamp)

theorem State.CompletesBar.arrive (h : s.CompletesBar n lid i r b) :
    exec (.barArrive r) s = .next (s.served n opBarArrive r (s.releasedCh n opBarArrive lid i r b)
      (s.releasedOuts n opBarArrive lid i r b)) := by
  have hop := (Ch.plainOp_barArrive (congrArg BitVec.toNat h.cls) rfl).trans
    ((h.counted opBarArrive).barArrive (e := s.envOf n opBarArrive r) (h.serves.calm.counted _).os rfl)
  exact (h.taken (.inl rfl)).plainSettled rfl hop (h.settle opBarArrive _) ⟨h.serves.calm.quiet, rfl⟩

theorem State.CompletesBar.arriveWait (h : s.CompletesBar n lid i r b) :
    exec (.barArriveWait r) s = .next (s.served n opBarArriveWait r (s.releasedCh n opBarArriveWait lid i r b)
      (s.releasedOuts n opBarArriveWait lid i r b)) := by
  have hv := (Ch.verdict_barWait (congrArg BitVec.toNat h.cls)).trans
    ((h.counted opBarArriveWait).barWait (e := s.envOf n opBarArriveWait r) (h.serves.calm.counted _).os rfl)
  have hop := Ch.waitOp_decided (n := n) (c := (s.ch n).counted (reqPacket opBarArriveWait r) lid) h.serves.calm.out_nil rfl hv
  exact (h.taken (.inr rfl)).waitSettled rfl ((congrArg (Ch.settle _) hop).trans (h.settle opBarArriveWait _))
    ⟨h.serves.calm.quiet, rfl⟩

/-- Settles O13: the arrival's completion passes freely, and its release ends the waits for the generation. -/
theorem barReleases : Obligations.BarReleases := by
  intro s n lid i r b hs hr hcls hidx hplain hi hb hpois hgate hru hacc hseq hg hlast hearly ws hwaits hop
  have hverdict : (s.ch n).arrivalAt ((reqPacket opBarArrive r).op lid) i (BitVec.ofNat 32 r.operand.toNat - b.gen) = .counted := by
    have hstrict : barStrict i = true → False := fun hx => absurd (of_decide_eq_true hx) (by omega)
    unfold Ch.arrivalAt Ch.accFenced
    rw [hacc, hb, hg, sub_self]
    exact arrival_counted hpois (fun hx => (hstrict hx).elim) hgate hru (fun hx => (hstrict hx).elim)
  have hindex : barIndex r.index.toNat = i := by rw [hidx, barIndex_of_lt hi]
  have h : s.CompletesBar n lid i r b :=
    ⟨hs, hr, hcls, hidx ▸ hi, fun op => ⟨hindex, hplain, hb, hverdict, rfl, hru, hacc, hseq, hlast⟩,
      Nat.ne_of_lt hearly, hwaits, hop⟩
  have harrive := h.arrive
  have hwait := h.arriveWait
  unfold State.releasedCh State.releasedOuts Ch.releaseEnds at harrive hwait
  rw [State.envOf_stamp opBarArriveWait, ← State.envOf_stamp opBarArrive, Bar.released_eq hgate hru] at hwait
  rw [Bar.released_eq hgate hru] at harrive
  exact ⟨harrive, hwait⟩

end
end Sys2Proof.Machine
end

section

/-! ## Wired lanes: their store, their wires, and the release of a round (R138, R143 to R149) -/

namespace Sys2Proof.Machine
section
variable {l : Nat} {c d : Ch} {e : Env} {v w : Lane} {obj : EndObj} {st : LaneSt}

/-- A channel with nothing left to do or to send settles as it is. -/
theorem Ch.Same.settle_silent (h : d.Same c) : d.settle e = { d with out := [] } := by
  obtain ⟨htodo, -, -, hhalt, -⟩ := h.quiet
  exact (Ch.settle_quiet htodo hhalt).trans h.out_nil.symm

/-! ### The store of the lanes -/

theorem Ch.lane_putLane (h : SMap.wf {} c.bw.lanes = true) : (c.putLane l v).lane l = v :=
  (SMap.get_put h l l v).trans (if_pos rfl)

theorem Ch.putLane_putLane (h : SMap.wf {} c.bw.lanes = true) : (c.putLane l v).putLane l w = c.putLane l w := by
  unfold Ch.putLane
  dsimp only
  rw [SMap.put_put_wf h]

/-! ### The wires -/

/-- No error is pending or stands where the lanes' trees are read. -/
def Ch.TreeSound (c : Ch) : Prop := (c.fault .bw).pendForce = none ∧ c.upsets = []

theorem Ch.Calm.treeSound (h : c.Calm) : c.TreeSound := ⟨h.unforced .bw, h.sound⟩

theorem Ch.treeRead_clean (h : c.TreeSound) : c.treeRead e l = c := by
  obtain ⟨hforce, hups⟩ := h
  have hup : c.upsetIn .bw 15 0 l 1 = none := by
    unfold Ch.upsetIn
    rw [hups]
    rfl
  unfold Ch.treeRead Ch.readArray
  simp [hforce, hup, Env.quiet]

theorem Ch.laneLeaves_clean (h : c.TreeSound) (gen : BitVec 32) (tmo : Bool) (risen : List Nat) :
    c.laneLeaves e l gen tmo risen = { c with out := c.out ++ [.laneRelease e.chan l gen.toNat tmo (c.coresOf risen)] } := by
  unfold Ch.laneLeaves
  rw [Ch.treeRead_clean h]
  rfl

/-! ### Releases -/

theorem Lane.complete_iff : v.complete = true ↔ v.members ≠ [] ∧ ∀ m ∈ v.members, v.p m ≠ v.rp := by
  simp [Lane.complete]

/-- A lane after the release of its complete round (R143, R148). -/
def Lane.released (v : Lane) : Lane :=
  let v1 : Lane := { v with gen := v.gen + 1, tmo := false, st := .active, gated := false, timer := none, stalled := none,
                            roundUs := v.timeoutUs }
  if v.swapPending then v1.swap ((v.gen + 1).getLsbD 0) else v1

/-- A lane after a forced release (R151, R152). -/
def Lane.forced (v : Lane) (st : LaneSt) : Lane :=
  { v with gen := v.gen + 1, tmo := true, st := st, gated := false, timer := none, stalled := none, roundUs := v.timeoutUs,
           parity := setParity ((v.gen + 1).getLsbD 0) v.members v.parity }

theorem Ch.releaseLane_clean (h : c.TreeSound) (hv : c.lane l = v) :
    c.releaseLane e l = { c.putLane l v.released with
      out := c.out ++ [.laneRelease e.chan l (v.gen + 1).toNat false (c.coresOf v.members)] } := by
  subst hv
  exact Ch.laneLeaves_clean (c := c.putLane l (c.lane l).released) h _ _ _

theorem Ch.forceLane_clean (h : c.TreeSound) (hv : c.lane l = v) (st : LaneSt) :
    c.forceLane e l st = { c.putLane l (v.forced st) with
      out := c.out ++ [.laneRelease e.chan l (v.gen + 1).toNat true (c.coresOf (v.members.filter (fun m => v.p m != v.rp)))] } := by
  subst hv
  exact Ch.laneLeaves_clean (c := c.putLane l ((c.lane l).forced st)) h _ _ _

theorem Ch.seqEnding_none (h : ∀ q < 16, (c.seq q).st = .run → (c.entry (c.seq q).entry).endObj ≠ obj) : c.seqEnding obj = none := by
  unfold Ch.seqEnding
  rw [List.find?_eq_none]
  intro q hq
  simpa using h q (List.mem_range.mp hq)

/-- A complete round at which no sequence ends and no accord is bound releases as its lane is found complete. -/
theorem Ch.laneComplete_free (hv : c.lane l = v) (hc : v.complete = true) (hg : v.gated = false) (hst : v.stalled = none)
    (hb : v.preloadBusy = false) (ha : c.accObj (.lane l) = none) (hs : c.seqEnding (.lane l) = none) :
    c.laneComplete l e = { c.releaseLane e l with todo := (c.releaseLane e l).todo ++ [.next .nothing] } := by
  have hfree := (Ch.complete_free (e := e) ha hs).trans
    (show c.releaseObj e (.lane l) false .nothing = c.releaseLaneThen e l .nothing from rfl)
  unfold Ch.laneComplete
  simp only [hv, hc, hg, hst, ha, hfree, Option.isNone_none, Bool.not_false, Bool.and_true, if_true]
  unfold Ch.releaseLaneThen
  rw [hv, hb]
  rfl
end
end Sys2Proof.Machine
end

section

/-! ## LANE_RELEASE and PRELOAD_COMPLETE (R138, R143 to R149) -/

namespace Sys2Proof.Machine
section
variable {s : State} {n l : Nat} {c : Ch} {e : Env} {v : Lane}

/-! ### The release -/

theorem Lane.released_eq (hs : v.stalled = none) : v.released =
    (let v1 : Lane := { v with gen := v.gen + 1, tmo := false, st := .active, gated := false, timer := none, roundUs := v.timeoutUs }
     if v.swapPending then
       { v1 with members := v.next, activeMask := v.nextMask, swapPending := false, next := v.members, nextMask := v.activeMask,
                 parity := setParity ((v.gen + 1).getLsbD 0) (v.next.filter (fun m => !v.members.contains m)) v.parity }
     else v1) := by
  unfold Lane.released Lane.swap
  rw [← hs]

/-- A free release of a quiet channel's lane is all that its command does. -/
theorem Ch.laneComplete_settle (hq : c.Quiet) (ht : c.TreeSound) (hv : c.lane l = v)
    (hf : c.laneComplete l e = { c.releaseLane e l with todo := (c.releaseLane e l).todo ++ [.next .nothing] }) :
    (c.laneComplete l e).settle e = { c.putLane l v.released with
      out := [.laneRelease e.chan l (v.gen + 1).toNat false (c.coresOf v.members)] } := by
  obtain ⟨htodo, hout, -, hhalt, -⟩ := hq
  rw [hf, Ch.releaseLane_clean ht hv, hout]
  refine Ch.settle_one (t := .next .nothing) ?_ rfl htodo hhalt
  show c.todo ++ _ = _
  rw [htodo]
  rfl

theorem exec_laneRelease {n : ChanId} {l : BitVec 5} (h : s.Ready n.val) (hv : (s.ch n.val).lane l.toNat = v) (hc : v.complete = true)
    (hg : v.gated = false) (hst : v.stalled = none) (hb : v.preloadBusy = false) (ha : (s.ch n.val).accObj (.lane l.toNat) = none)
    (hs : (s.ch n.val).seqEnding (.lane l.toNat) = none) :
    exec (.laneRelease n l) s = .next (s.moved n.val ((s.ch n.val).putLane l.toNat v.released)
      [.laneRelease n.val l.toNat (v.gen + 1).toNat false ((s.ch n.val).coresOf v.members)]) :=
  actLive_event h _ (Ch.laneComplete_settle h.calm.quiet h.calm.treeSound hv (Ch.laneComplete_free hv hc hg hst hb ha hs))
    ⟨h.calm.quiet, rfl⟩

/-! ### A translation completes -/

/-- A lane whose NEXT is the translated mask, not yet swapped (R147). -/
def Lane.preloaded (v : Lane) (ids : List Nat) : Lane := { v with preloadBusy := false, swapPending := true, next := ids }

theorem Ch.preloadDone_eq (hv : c.lane l = v) (hb : v.preloadBusy = true) (hs : v.stalled = none) :
    c.preloadDone e l = c.putLane l (v.preloaded (c.translate v.nextMask)).enable := by
  unfold Ch.preloadDone Lane.preloaded
  simp only [hv, hb, hs, if_true]

theorem Lane.enable_members (h : v.members ≠ []) : v.enable = v := by
  unfold Lane.enable
  rw [List.isEmpty_eq_false_iff.mpr h]
  rfl

/-- A disabled lane takes its translated mask at once, every member at rest (log entry 71). -/
theorem Lane.enable_preloaded {ids : List Nat} (h : v.members = []) : (v.preloaded ids).enable =
    { v with preloadBusy := false, members := ids, next := [], activeMask := v.nextMask, nextMask := v.activeMask, swapPending := false,
             parity := setParity v.rp ids v.parity } := by
  have hall : ids.filter (fun m => !v.members.contains m) = ids := by simp [h]
  unfold Lane.enable Lane.preloaded Lane.swap
  simp only [h, List.isEmpty_nil, Bool.and_true, if_true]
  rw [← h, hall]
  rfl

theorem exec_preloadComplete {n : ChanId} {l : BitVec 5} (h : s.Ready n.val) (hv : (s.ch n.val).lane l.toNat = v)
    (hb : v.preloadBusy = true) (hst : v.stalled = none) :
    exec (.preloadComplete n l) s = .next (s.moved n.val ((s.ch n.val).putLane l.toNat
      (v.preloaded ((s.ch n.val).translate v.nextMask)).enable) []) := by
  have hdone : (s.ch n.val).preloadEnds l.toNat (s.seen n.val .none) =
      (s.ch n.val).putLane l.toNat (v.preloaded ((s.ch n.val).translate v.nextMask)).enable := by
    unfold Ch.preloadEnds
    rw [h.calm.awake', h.calm.live]
    exact Ch.preloadDone_eq hv hb hst
  have hsame : ((s.ch n.val).putLane l.toNat (v.preloaded ((s.ch n.val).translate v.nextMask)).enable).Same (s.ch n.val) :=
    ⟨h.calm.quiet, rfl⟩
  exact act_event h _ ((congrArg (Ch.settle _) hdone).trans hsame.settle_silent) hsame

/-- Settles O23: a complete lane passes freely and releases; a translated mask waits for the swap, or enables a disabled lane. -/
theorem laneReleases : Obligations.LaneReleases := by
  intro s n l v hready hv hst c gen v1 swapped
  refine ⟨fun hmem hall hg hb ha hseq => ?_, fun hb hmem => ?_, fun hb hmem => ?_⟩
  · have hrel := exec_laneRelease hready hv (Lane.complete_iff.mpr ⟨hmem, hall⟩) hg hst hb ha (Ch.seqEnding_none hseq)
    rwa [Lane.released_eq hst] at hrel
  · have hpre := exec_preloadComplete hready hv hb hst
    rwa [Lane.enable_members (v := v.preloaded _) hmem] at hpre
  · have hpre := exec_preloadComplete hready hv hb hst
    rwa [Lane.enable_preloaded hmem] at hpre

end
end Sys2Proof.Machine
end

section

/-! ## The writes of BW_LANE_CTL_l (R147, R152) -/

namespace Sys2Proof.Machine
section
variable {s : State} {l m word : Nat} {c d : Ch} {e : Env} {v : Lane} {fn : BitVec 8} {outs : List Output}

/-- What every write of BW_LANE_CTL_l stores. -/
def Lane.controlled (v : Lane) (word : Nat) : Lane :=
  { v with timeoutUs := fld word 51 32, action := word.testBit 29, maskSel := fld word 11 0 }

/-! ### PRELOAD -/

theorem Ch.preloadLane_starts (hs : c.Sound) (hv : c.lane l = v) (hb : v.preloadBusy = false) (hp : v.swapPending = false)
    (hm : m ∉ c.os.badMasks) : c.preloadLane e l m = c.putLane l { v with preloadBusy := true, nextMask := m } := by
  unfold Ch.preloadLane
  simp only [hv, hb, hp, Ch.readMask_clean hs hm, Bool.or_self, Bool.false_eq_true, if_false]

theorem Ch.preloadLane_refused (hv : c.lane l = v) (hb : v.preloadBusy = true ∨ v.swapPending = true) :
    c.preloadLane e l m = c.putLane l { v with refused := true } := by
  unfold Ch.preloadLane
  rw [hv]
  exact if_pos (by simpa using hb)

theorem Ch.laneCtl_preload (hv : c.lane l = v) (h28 : word.testBit 28 = true) (h27 : word.testBit 27 = false) :
    c.laneCtl e l word = (c.putLane l (v.controlled word)).preloadLane e l (fld word 11 0) := by
  subst hv
  unfold Ch.laneCtl bit
  rw [h28, h27]
  rfl

/-! ### REARM -/

/-- A write with REARM and no PRELOAD, after what every write stores. -/
theorem Ch.laneCtl_rearm (hv : c.lane l = v) (h28 : word.testBit 28 = false) (h27 : word.testBit 27 = true) :
    c.laneCtl e l word =
      (let d := c.putLane l (v.controlled word)
       if (d.lane l).gated then d.putLane l { d.lane l with refused := true }
       else if (d.lane l).members.isEmpty then d
       else (d.breakIfBound e (.lane l)).rearmLane e l) := by
  subst hv
  unfold Ch.laneCtl bit
  rw [h28, h27]
  rfl

theorem Ch.laneCtl_gated (hw : SMap.wf {} c.bw.lanes = true) (hv : c.lane l = v) (h28 : word.testBit 28 = false)
    (h27 : word.testBit 27 = true) (hg : v.gated = true) :
    c.laneCtl e l word = c.putLane l { v.controlled word with refused := true } := by
  rw [Ch.laneCtl_rearm hv h28 h27]
  dsimp only
  rw [Ch.lane_putLane hw, if_pos (show (v.controlled word).gated = true from hg)]
  exact Ch.putLane_putLane hw

theorem Ch.breakIfBound_unbound {obj : EndObj} (h : c.accObj obj = none) : c.breakIfBound e obj = c := by
  unfold Ch.breakIfBound
  rw [h]

/-- A re-arm of a lane with members that waits at no gate and that no accord binds. -/
theorem Ch.laneCtl_forced (hw : SMap.wf {} c.bw.lanes = true) (hv : c.lane l = v) (h28 : word.testBit 28 = false)
    (h27 : word.testBit 27 = true) (hg : v.gated = false) (hm : v.members ≠ []) (ha : c.accObj (.lane l) = none) :
    c.laneCtl e l word = (c.putLane l (v.controlled word)).forceLane e l .active := by
  have hbound : (c.putLane l (v.controlled word)).breakIfBound e (.lane l) = c.putLane l (v.controlled word) :=
    Ch.breakIfBound_unbound ha
  have hgate : (v.controlled word).gated = false := hg
  have hmem : (v.controlled word).members.isEmpty = false := List.isEmpty_eq_false_iff.mpr hm
  rw [Ch.laneCtl_rearm hv h28 h27]
  unfold Ch.rearmLane
  simp only [hbound, Ch.lane_putLane hw, hgate, hmem, Bool.false_eq_true, if_false]

theorem Lane.forced_ungated (hg : v.gated = false) (st : LaneSt) : v.forced st =
    { v with gen := v.gen + 1, tmo := true, st := st, timer := none, stalled := none, roundUs := v.timeoutUs,
             parity := setParity ((v.gen + 1).getLsbD 0) v.members v.parity } := by
  unfold Lane.forced
  rw [← hg]

/-- A quiet channel with a forced release has nothing more to do. -/
theorem Ch.forceLane_settle (hq : c.Quiet) (ht : c.TreeSound) (hv : c.lane l = v) (st : LaneSt) :
    (c.forceLane e l st).settle e = { c.putLane l (v.forced st) with
      out := [.laneRelease e.chan l (v.gen + 1).toNat true (c.coresOf (v.members.filter (fun m => v.p m != v.rp)))] } := by
  obtain ⟨htodo, hout, -, hhalt, -⟩ := hq
  rw [Ch.forceLane_clean ht hv, hout]
  exact Ch.settle_quiet htodo hhalt

/-! ### The command -/

theorem Ch.writePage_lane (hl : l < 32) : c.writePage e 3 (0x100 + 8 * l) word = c.laneCtl e l word := by
  have hsel : c.writeSel e 3 (0x100 + 8 * l) word = none := by
    unfold Ch.writeSel
    split <;> simp_all
    omega
  have hreg : regNo (0x100 + 8 * l) 0x100 32 = some l := by
    unfold regNo
    rw [if_pos (by omega)]
    congr 1
    omega
  unfold Ch.writePage
  rw [hsel]
  show (match regNo (0x100 + 8 * l) 0x100 32 with | some l => c.laneCtl e l word | none => c) = _
  rw [hreg]

/-- A host function's write of BW_LANE_CTL_l after which the channel settles. -/
theorem act_laneCtl {n : ChanId} {l : BitVec 5} (h : s.Ready n.val) (ha : s.Admits fn (chanOff n.val 3 (0x100 + 8 * l.toNat)) word)
    (hf : ((s.ch n.val).laneCtl (s.seen n.val .none) l.toNat word).settle (s.seen n.val .none) = { d with out := outs })
    (hd : d.Same (s.ch n.val)) :
    act s (fun s => s.hostWrite (.host fn) (chanOff n.val 3 (0x100 + 8 * l.toNat)) word) =
      .next (s.wroteChan fn (chanOff n.val 3 (0x100 + 8 * l.toNat)) word n.val d outs) := by
  have hl : l.toNat < 32 := l.isLt
  refine act_write_page h ha (by decide) (by omega) (fun hx => absurd hx.1 (by decide)) (fun hx => absurd hx.1 (by decide)) ?_ hd
  rw [Ch.writePage_lane hl]
  exact hf

/-- Settles O25: a write of the control register stores its fields; then a preload starts or is refused, and a re-arm is refused at
the gate or forces a release. -/
theorem laneControls : Obligations.LaneControls := by
  intro s n l w fn v hready hadm hv hwf c m v1 ends
  have hsame : ∀ x : Lane, (c.putLane l.toNat x).Same c := fun x => ⟨hready.calm.quiet, rfl⟩
  have hput : (c.putLane l.toNat (v.controlled w.toNat)).lane l.toNat = v.controlled w.toNat := Ch.lane_putLane hwf
  have hput2 : ∀ x, (c.putLane l.toNat (v.controlled w.toNat)).putLane l.toNat x = c.putLane l.toNat x :=
    fun x => Ch.putLane_putLane hwf
  refine ⟨fun h28 h27 => ⟨fun hb hp hm => ?_, fun hb => ?_⟩, fun h28 h27 => ⟨fun hg => ?_, fun hg hmem ha => ?_⟩⟩
  · refine act_laneCtl hready hadm ?_ (hsame _)
    rw [Ch.laneCtl_preload hv h28 h27, Ch.preloadLane_starts (c := c.putLane l.toNat _) hready.calm.os hput hb hp hm, hput2]
    exact (hsame _).settle_silent
  · refine act_laneCtl hready hadm ?_ (hsame _)
    rw [Ch.laneCtl_preload hv h28 h27, Ch.preloadLane_refused hput hb, hput2]
    exact (hsame _).settle_silent
  · refine act_laneCtl hready hadm ?_ (hsame _)
    rw [Ch.laneCtl_gated hwf hv h28 h27 hg]
    exact (hsame _).settle_silent
  · refine act_laneCtl hready hadm ?_ (hsame _)
    rw [Ch.laneCtl_forced hwf hv h28 h27 hg hmem ha,
      Ch.forceLane_settle (c := c.putLane l.toNat _) hready.calm.quiet hready.calm.treeSound hput, hput2,
      Lane.forced_ungated (v := v.controlled _) hg]
    rfl

end
end Sys2Proof.Machine
end

section

/-! ## Lane timeouts (R151, R153) -/

namespace Sys2Proof.Machine
section
variable {s : State} {n l t0 : Nat} {c d : Ch} {e : Env} {u v w : Lane} {k : Cause} {obj : EndObj}
  {raised : List RaisedNow} {db : Db} {outs : List Output}

/-! ### Events that raise a fault at U -/

theorem raiseOn_pendForce (time stamp : Nat) (fresh : Bool) (cls src : Nat) (k : Cause) (fs : FaultSet) :
    (raiseOn time stamp fresh cls src k fs).1.pendForce = fs.pendForce := by
  have hstate : ∀ (r : Nat) (g : FaultSet), (faultState time r g).pendForce = g.pendForce := by
    intro r g
    unfold faultState
    split
    · rfl
    · split <;> rfl
  unfold raiseOn
  dsimp only
  rw [hstate]
  (repeat' split) <;> rfl

/-- A fault at U that a quiet channel raises: its fault set takes it, and SCE_ERR_N is to start. -/
theorem Ch.raise_atU {u : Sub} {src : Nat} (hq : c.Quiet) (hr : c.Raises e u src k 2) (hw : isWear u src = false) :
    ∃ raised, c.raise e u src k = { c.faulted e u src k with raised := raised, errPulse := true } := by
  obtain ⟨-, -, hraised, hhalt, herr⟩ := hq
  have hkeep : (c.faulted e u src k).haltReq = false := by cases u <;> exact hhalt
  refine ⟨[⟨u, src, 2, !(c.fault u).captured⟩], (Ch.raise_faulted hr hw hraised).trans ?_⟩
  rw [hhalt, herr]
  generalize c.faulted e u src k = d at hkeep
  cases d
  subst hkeep
  rfl

/-- An event of a unit of a calm channel that raises a fault at U: what the command saw raised goes, SCE_ERR_N starts. -/
theorem actLive_event_error (h : s.Ready n) (f : Env → Ch → Ch)
    (hf : (f (s.seen n .none) (s.ch n)).settle (s.seen n .none) = { c with raised := raised, errPulse := true, out := outs })
    (hd : c.Same (s.ch n)) : actLive s n .none f = .next (s.movedWithError n c outs) := by
  obtain ⟨htodo, hout, hraised, hhalt, herr⟩ := hd.quiet
  have hfin : s.begin.finish n ({ c with raised := raised, errPulse := true, out := outs } : Ch) outs =
      ((s.begin.setCh n c).errPulse (some n)).leave outs := State.finish_error s.begin n htodo rfl hraised hhalt herr hout
  rw [actLive_event_finish h f hf hd.edge]
  show Host.Outcome.next ((s.begin.finish n _ outs).busyNow n).setPll = _
  rw [hfin]
  rfl

/-! ### The timeout but for its ACTION -/

theorem Ch.blotTrigger_db (e : Env) (cause detail : Nat) (c : Ch) : ∃ db, c.blotTrigger e cause detail = { c with db := db } := by
  unfold Ch.blotTrigger Ch.blotStart
  dsimp only
  (repeat' split) <;> exact ⟨_, rfl⟩

/-- A lane with its missing members latched at CORE stamp `stamp` (R153). -/
def Ch.latchOf (stamp : Nat) (v : Lane) (c : Ch) : Lane :=
  let missing := v.members.filter (fun m => v.p m = v.rp)
  let phys := missing.filterMap c.physOf
  { v with nam := missing, namTime := stamp,
           namClusters := maskOf ((phys.filter isCore).map (fun p => 8 * fld p 9 7 + fld p 6 4)),
           namBays := maskOf ((phys.filter (fun p => !isCore p)).map bayOf) }

/-- What BW_TIMEOUT of lane `l` is captured with. -/
def laneTimeoutCause (l : Nat) (v : Lane) : Cause := { addr := v.addr l, access := 5, key := l }

/-- A channel with the timeout of lane `l` raised, counted and in the blotter, and the lane as `w`. -/
def Ch.laneTimedOut (e : Env) (l : Nat) (k : Cause) (w : Lane) (db : Db) (c : Ch) : Ch :=
  { c.faulted e .bw 1 k with bw := { c.bw with tmo := inc c.bw.tmo, lanes := c.bw.lanes.put {} l w }, db := db }

theorem Ch.Calm.laneTimedOut_same (h : c.Calm) : (c.laneTimedOut e l k w db).Same c := ⟨h.quiet, rfl⟩

/-- The count, the latch and the blotter leave everything else alone. -/
theorem Ch.noteLaneTimeout_eq (e : Env) (l : Nat) (c : Ch) : ∃ db, c.noteLaneTimeout e l =
    { c with bw := { c.bw with tmo := inc c.bw.tmo, lanes := c.bw.lanes.put {} l (c.latchOf e.stamp (c.lane l)) }, db := db } :=
  Ch.blotTrigger_db e 2 _ (({ c with bw := { c.bw with tmo := inc c.bw.tmo } } : Ch).latchLane e l)

theorem Ch.laneTimesOut_eq (hq : c.Quiet) (hv : c.lane l = v) (hr : c.Raises e .bw 1 (laneTimeoutCause l v) 2) :
    ∃ raised db, c.laneTimesOut e l =
      { c.laneTimedOut e l (laneTimeoutCause l v) (c.latchOf e.stamp v) db with raised := raised, errPulse := true } := by
  subst hv
  obtain ⟨raised, hraise⟩ := Ch.raise_atU hq hr rfl
  obtain ⟨db, hnote⟩ := Ch.noteLaneTimeout_eq e l
    { c.faulted e .bw 1 (laneTimeoutCause l (c.lane l)) with raised := raised, errPulse := true }
  exact ⟨raised, db, (congrArg (Ch.noteLaneTimeout e l) hraise).trans hnote⟩

theorem Ch.laneTimedOut_lane (h : SMap.wf {} c.bw.lanes = true) : (c.laneTimedOut e l k w db).lane l = w :=
  (SMap.get_put h l l w).trans (if_pos rfl)

theorem Ch.laneTimedOut_putLane (h : SMap.wf {} c.bw.lanes = true) :
    (c.laneTimedOut e l k w db).putLane l u = c.laneTimedOut e l k u db := by
  unfold Ch.laneTimedOut Ch.putLane
  dsimp only
  rw [SMap.put_put_wf h]

theorem Ch.laneTimedOut_treeSound (h : c.TreeSound) : (c.laneTimedOut e l k w db).TreeSound :=
  ⟨(raiseOn_pendForce ..).trans h.1, h.2⟩

/-! ### Its ACTION -/

theorem Lane.expired_of_timer {time : Nat} (ht : v.timer = some t0) (hst : v.st = .active) (hm : v.members ≠ [])
    (hc : v.complete = false) (hr : v.roundUs ≠ 0) (hle : t0 + 1000 * v.roundUs ≤ time) : v.expired time = true := by
  unfold Lane.expired
  simp [ht, hst, hm, hc, hr, hle]

/-- No sequence stops where none ends. -/
theorem Ch.stopEnding_none (h : ∀ q < 16, ((c.seq q).st = .run ∨ (c.seq q).st = .held) → (c.entry (c.seq q).entry).endObj ≠ obj) :
    c.stopEnding obj = c := by
  unfold Ch.stopEnding
  refine List.foldlRecOn (motive := (· = c)) _ _ rfl ?_
  rintro d rfl q hq
  have hq' := h q (List.mem_range.mp hq)
  dsimp only
  rw [if_neg]
  simpa using hq'

/-- Nothing is left to settle where no sequence of the channel as it was ends. -/
theorem Ch.settle_stopEnding (hps : d.ps = c.ps) (himg : d.img = c.img) (ht : d.todo = []) (hh : d.haltReq = false)
    (h : ∀ q < 16, ((c.seq q).st = .run ∨ (c.seq q).st = .held) → (c.entry (c.seq q).entry).endObj ≠ obj) :
    (d.stopEnding obj).settle e = d := by
  have hd : ∀ q < 16, ((d.seq q).st = .run ∨ (d.seq q).st = .held) → (d.entry (d.seq q).entry).endObj ≠ obj := by
    unfold Ch.seq Ch.entry
    rw [hps, himg]
    exact h
  rw [Ch.stopEnding_none hd, Ch.settle_quiet ht hh]

/-- The timeout, then its ACTION. -/
theorem Ch.laneTimeout_eq (hq : c.Quiet) (hw : SMap.wf {} c.bw.lanes = true) (hv : c.lane l = v)
    (hr : c.Raises e .bw 1 (laneTimeoutCause l v) 2) (hx : v.expired e.time = true) :
    ∃ raised db, c.laneTimeout l e =
      (let d : Ch := { c.laneTimedOut e l (laneTimeoutCause l v) (c.latchOf e.stamp v) db with raised := raised, errPulse := true }
       if v.action then d.putLane l { c.latchOf e.stamp v with st := .holding }
       else (d.forceLane e l .timedOut).stopEnding (.lane l)) := by
  obtain ⟨raised, db, hout⟩ := Ch.laneTimesOut_eq hq hv hr
  have hlane : (c.laneTimesOut e l).lane l = c.latchOf e.stamp v := by
    rw [hout]
    exact Ch.laneTimedOut_lane (e := e) (k := laneTimeoutCause l v) (db := db) hw
  refine ⟨raised, db, ?_⟩
  unfold Ch.laneTimeout
  rw [hv, hx, ← hout]
  dsimp only
  rw [hlane]
  rfl

/-- The lane as its timeout leaves it (R151): held, or released with every member at rest. -/
def Ch.laneAfter (stamp : Nat) (v : Lane) (c : Ch) : Lane :=
  if v.action then { c.latchOf stamp v with st := .holding } else (c.latchOf stamp v).forced .timedOut

/-- What a lane timeout lets leave: nothing where the lane holds. -/
def Ch.laneTimeoutOuts (n l : Nat) (v : Lane) (c : Ch) : List Output :=
  if v.action then []
  else [.laneRelease n l (v.gen + 1).toNat true (c.coresOf (v.members.filter (fun m => v.p m != v.rp)))]

theorem Ch.marked_out (h : d.out = []) :
    ({ d with raised := raised, errPulse := true } : Ch) = { d with raised := raised, errPulse := true, out := [] } := by
  rw [← h]

theorem Ch.laneTimeout_settle (hq : c.Quiet) (ht : c.TreeSound) (hw : SMap.wf {} c.bw.lanes = true) (hv : c.lane l = v)
    (hr : c.Raises e .bw 1 (laneTimeoutCause l v) 2) (hx : v.expired e.time = true)
    (hs : ∀ q < 16, ((c.seq q).st = .run ∨ (c.seq q).st = .held) → (c.entry (c.seq q).entry).endObj ≠ .lane l) :
    ∃ raised db, (c.laneTimeout l e).settle e =
      { c.laneTimedOut e l (laneTimeoutCause l v) (c.laneAfter e.stamp v) db with
        raised := raised, errPulse := true, out := c.laneTimeoutOuts e.chan l v } := by
  obtain ⟨raised, db, hout⟩ := Ch.laneTimeout_eq hq hw hv hr hx
  obtain ⟨htodo, hnone, -, hhalt, -⟩ := hq
  refine ⟨raised, db, ?_⟩
  have hput : ∀ w, ({ c.laneTimedOut e l (laneTimeoutCause l v) (c.latchOf e.stamp v) db with
      raised := raised, errPulse := true } : Ch).putLane l w =
        { c.laneTimedOut e l (laneTimeoutCause l v) w db with raised := raised, errPulse := true } :=
    fun w => congrArg (fun d : Ch => { d with raised := raised, errPulse := true }) (Ch.laneTimedOut_putLane hw)
  rw [hout]
  unfold Ch.laneAfter Ch.laneTimeoutOuts
  cases v.action with
  | true =>
    simp only [if_true]
    rw [hput]
    have hmark := Ch.marked_out (raised := raised)
      (d := c.laneTimedOut e l (laneTimeoutCause l v) { c.latchOf e.stamp v with st := .holding } db) hnone
    rw [← hmark]
    exact Ch.settle_quiet htodo hhalt
  | false =>
    simp only [Bool.false_eq_true, if_false]
    have htree : (c.laneTimedOut e l (laneTimeoutCause l v) (c.latchOf e.stamp v) db).TreeSound := Ch.laneTimedOut_treeSound ht
    have hlane : (c.laneTimedOut e l (laneTimeoutCause l v) (c.latchOf e.stamp v) db).lane l = c.latchOf e.stamp v :=
      Ch.laneTimedOut_lane hw
    have hforce := Ch.forceLane_clean (e := e)
      (c := { c.laneTimedOut e l (laneTimeoutCause l v) (c.latchOf e.stamp v) db with raised := raised, errPulse := true })
      htree hlane .timedOut
    rw [hput] at hforce
    have hout' : (c.laneTimedOut e l (laneTimeoutCause l v) (c.latchOf e.stamp v) db).out = [] := hnone
    rw [hforce, hout']
    rw [Ch.settle_stopEnding ?ps ?img ?todo ?halt hs]
    case ps => rfl
    case img => rfl
    case todo => exact htodo
    case halt => exact hhalt
    rfl

theorem exec_laneTimeout {n : ChanId} {l : BitVec 5} (h : s.Ready n.val) (hw : SMap.wf {} (s.ch n.val).bw.lanes = true)
    (hv : (s.ch n.val).lane l.toNat = v) (hr : (s.ch n.val).Raises (s.seen n.val .none) .bw 1 (laneTimeoutCause l.toNat v) 2)
    (hx : v.expired s.time = true) (hs : ∀ q < 16, (((s.ch n.val).seq q).st = .run ∨ ((s.ch n.val).seq q).st = .held) →
      ((s.ch n.val).entry ((s.ch n.val).seq q).entry).endObj ≠ .lane l.toNat) :
    ∃ db, exec (.laneTimeout n l) s = .next (s.movedWithError n.val
      ((s.ch n.val).laneTimedOut (s.seen n.val .none) l.toNat (laneTimeoutCause l.toNat v)
        ((s.ch n.val).laneAfter (s.seen n.val .none).stamp v) db) ((s.ch n.val).laneTimeoutOuts n.val l.toNat v)) := by
  obtain ⟨raised, db, hset⟩ := Ch.laneTimeout_settle h.calm.quiet h.calm.treeSound hw hv hr hx hs
  exact ⟨db, actLive_event_error h _ hset h.calm.laneTimedOut_same⟩

/-! ### What it leaves -/

theorem State.ch_movedWithError_self (s : State) (n : Nat) (c : Ch) (l : List Output) : (s.movedWithError n c l).ch n = c := by
  unfold State.movedWithError
  rw [State.ch_setPll, State.ch_busyNow, State.ch_leave, State.ch_errPulse, State.ch_setCh_self]

theorem State.ch_movedWithError_of_ne {m : Nat} (hn : n < 4) (hm : m < 4) (h : m ≠ n) (l : List Output) :
    (s.movedWithError n c l).ch m = s.ch m := by
  unfold State.movedWithError
  rw [State.ch_setPll, State.ch_busyNow, State.ch_leave, State.ch_errPulse, State.ch_setCh_of_ne _ _ hn hm h, State.ch_begin]

theorem State.emitted_movedWithError (s : State) (n : Nat) (c : Ch) (l : List Output) : (s.movedWithError n c l).emitted = l := by
  unfold State.movedWithError
  simp [State.begin]

/-- Settles O24: the timeout raises its fault, is counted, latched and in the blotter; then the lane holds or is released. -/
theorem laneTimeouts : Obligations.LaneTimeouts := by
  intro s n l v t0 hready hv ht hst hmem hc hr hle hw hs c e k hraises missing phys latched gen
  obtain ⟨db, hexec⟩ := exec_laneTimeout hready hw hv hraises (Lane.expired_of_timer ht hst hmem hc hr hle) hs
  refine ⟨_, hexec, ?_⟩
  rw [State.ch_movedWithError_self, State.emitted_movedWithError]
  refine ⟨fun ha => ?_, fun ha => ?_, rfl, rfl, ?_, rfl, rfl, rfl, rfl, rfl, rfl, fun m hm hne =>
    State.ch_movedWithError_of_ne hready.chan hm hne _⟩
  · exact ⟨(Ch.laneTimedOut_lane hw).trans (if_pos ha), if_pos ha⟩
  · have hrel : ¬ (v.action = true) := by simp [ha]
    exact ⟨(Ch.laneTimedOut_lane hw).trans (if_neg hrel), if_neg hrel⟩
  · exact fun m _ hne => SMap.get_put_of_ne _ hne

end
end Sys2Proof.Machine
end

section

/-! ## Strobes of a lane member in its round (R140) -/

namespace Sys2Proof.Machine
section
variable {s : State} {n lid : Nat} {p : BitVec 12} {l : BitVec 5} {v : Lane}

/-- The lane with the arrival of member `lid` in its round at CORE stamp `stamp`: the first arrival starts the timer, the one that
completes the round stops it (R140, R151). -/
def Lane.arrived (stamp lid : Nat) (v : Lane) : Lane :=
  let start := if v.timer.isNone && v.st = .active then some stamp else v.timer
  ({ v with parity := v.parity.put false lid !v.rp, timer := start } : Lane).stopTimer

theorem Lane.stopTimer_incomplete (hm : v.members.isEmpty = false) (hc : v.complete = false) : v.stopTimer = v := by
  unfold Lane.stopTimer
  rw [hm, hc]
  rfl

/-- A strobe at a channel that stands alone, of an endpoint whose takes no quarantine stops. -/
theorem exec_arriveStrobe (h : s.Ready n) (ho : s.ownerOf p.toNat = some n) (hq : s.quarantined (0x3000 + p.toNat) = false) {c : Ch}
    {outs : List Output} (hf : (s.ch n).strobe (s.seen n .none) p.toNat l.toNat = { c with out := outs }) (hc : c.Same (s.ch n)) :
    exec (.arriveStrobe p l) s = .next (s.moved n c outs) := by
  obtain ⟨htodo, -, -, hhalt, -⟩ := hc.quiet
  have howner : s.begin.ownerOf p.toNat = some n := ho
  have htaken : s.begin.quarantined (0x3000 + p.toNat) = false := hq
  have hstrobe : s.begin.strobe p.toNat l.toNat = s.begin.atChan n .none (fun e c =>
      if c.asleep then ({ c with bw := { c.bw with strobes := c.bw.strobes ++ [(p.toNat, l.toNat)] } }).wakeUp e.time
      else c.strobe e p.toNat l.toNat) := by
    unfold State.strobe
    rw [htaken, howner]
    rfl
  refine (act_congr hstrobe).trans (act_event h _ ?_ hc)
  rw [h.calm.awake', ← hf]
  refine Ch.settle_quiet ?_ ?_
  · rw [if_neg Bool.false_ne_true, hf]
    exact htodo
  · rw [if_neg Bool.false_ne_true, hf]
    exact hhalt

theorem exec_arriveStrobe_inRound (h : s.Ready n) (ho : s.ownerOf p.toNat = some n) (hq : s.quarantined (0x3000 + p.toNat) = false)
    (hlid : (s.ch n).lidOf p.toNat = some lid) (hf : p.toNat ∉ (s.ch n).ctl.fenced) (hv : (s.ch n).lane l.toNat = v)
    (hm : lid ∈ v.members) (hst : v.st ≠ .timedOut) (hp : v.p lid = v.rp) :
    exec (.arriveStrobe p l) s =
      .next (s.moved n ((s.ch n).putLane l.toNat (v.arrived (s.seen n .none).stamp lid)) [.ack p.toNat l.toNat 0]) := by
  refine exec_arriveStrobe h ho hq ?_ ⟨h.calm.quiet, rfl⟩
  obtain ⟨-, hout, -⟩ := h.calm.quiet
  unfold Ch.strobe
  simp [hf, hv, hlid, hm, hst, hp, h.calm.run, Ch.emit, Ch.putLane, hout, Lane.arrived]

end

/-! ### A parity that is listed twice -/

/-- A lane in its second round whose only member, logical ID 3, has its parity listed twice: a store outside the canonical form. -/
def twiceParity : Lane := { gen := 1, st := .active, members := [3], parity := [(3, true), (3, true)] }

/-- The powered block with that lane 0 of channel A, endpoint 5 being logical ID 3, every endpoint in channel A. -/
def twiceParityState : State :=
  { por := false, pt := { gate := .opened },
    chA := { ctl := { st := .run, map := [(3, ⟨true, 5⟩)] }, clk := { st := .active }, bw := { lanes := [(0, twiceParity)] } } }

theorem twiceParityState_ready : twiceParityState.Ready 0 where
  por := rfl
  chan := by decide
  single := rfl
  settled := by decide
  calm := ⟨rfl, rfl, ⟨rfl, rfl, rfl, rfl, rfl⟩, rfl, rfl, rfl, rfl, rfl, fun u => by cases u <;> rfl⟩

/-- Its member's strobe changes the first entry only, so the round stays incomplete. -/
theorem twiceParity_incomplete (t : Option Nat) :
    ({ twiceParity with parity := twiceParity.parity.put false 3 !twiceParity.rp, timer := t } : Lane).complete = false := by
  simp [twiceParity, Lane.complete, Lane.p, Lane.rp, SMap.put, SMap.drop, SMap.get]

theorem twiceParity_arrived_timer (stamp : Nat) : (twiceParity.arrived stamp 3).timer = some stamp :=
  congrArg Lane.timer (Lane.stopTimer_incomplete rfl (twiceParity_incomplete (some stamp)))

/-- Refutes O22: its clause of an arrival in the round has no premise that the lane's parities are listed in canonical form. Where
the only member's parity is listed twice, its strobe changes the first entry only, so the round is not complete and its timer starts,
where the statement has it stopped. The stores' writes keep the canonical form (`SMap.wf_put`), so a premise
`SMap.wf false v.parity = true` is what the clause lacks. -/
theorem not_laneArrivals : ¬ Obligations.LaneArrivals := by
  intro h
  obtain ⟨-, -, hround, -⟩ :=
    h twiceParityState 0 3 5 0 twiceParity twiceParityState_ready (by decide) (by decide) (by decide) (by decide) rfl
  have hstated := hround (by decide) (by decide) (by decide)
  have hdone := exec_arriveStrobe_inRound (p := 5) (l := 0) twiceParityState_ready (by decide) (by decide)
    (show (twiceParityState.ch 0).lidOf 5 = some 3 by decide) (by decide) (v := twiceParity) rfl (by decide) (by decide) (by decide)
  have htimer := congrArg (fun t => ((t.ch 0).lane 0).timer) (Host.Outcome.next.inj (hdone.symm.trans hstated))
  simp only [State.moved, State.ch_setPll, State.ch_busyNow, State.ch_leave, State.ch_setCh_self] at htimer
  rw [if_pos (by decide)] at htimer
  have hnone : (twiceParity.arrived (twiceParityState.seen 0 .none).stamp 3).timer = none := htimer
  rw [twiceParity_arrived_timer] at hnone
  cases hnone

end Sys2Proof.Machine
end

section

/-! ## A barrier timeout that answers a late arrival -/

namespace Sys2Proof.Machine

/-- The response owed to endpoint 5, whose BAR_ARRIVE completed generation 5 of barrier 0x2005: only a reduction-capable barrier owes
such responses (R195), and 0x2005 is none. -/
def owedResponse : LateResp := { bar := 0x2005, gen := 5, phys := 5, tag := 9, early := false }

/-- Barrier 0x2005 in an incomplete generation, its timeout of 10 us long past, its ACTION being to move on. -/
def lapsedBar : Bar := { gen := 5, count := 2, early := 1, target := 4, timeoutUs := 10, start := 3 }

/-- The powered block, 10 ms after its release, with that barrier and that response in channel A. -/
def owingState : State :=
  { por := false, time := 10000000,
    chA := { ctl := { st := .run }, clk := { st := .active }, os := { bars := [(0x2005, lapsedBar)] }, ru := { late := [owedResponse] } } }

theorem owingState_ready : owingState.Ready 0 where
  por := rfl
  chan := by decide
  single := rfl
  settled := by decide
  calm := ⟨rfl, rfl, ⟨rfl, rfl, rfl, rfl, rfl⟩, rfl, rfl, rfl, rfl, rfl, fun u => by cases u <;> rfl⟩

/-- BARRIER_TIMEOUT of that barrier lets the owed response leave. -/
theorem owingState_answers : ∃ t, exec (.barrierTimeout 0 0x2005) owingState = .next t ∧ t.emitted.isEmpty = false :=
  ⟨(owingState.begin.atChan 0 .none (whenLive (Ch.barTimeout 0x2005))).afterwards, rfl, by decide +kernel⟩

/-- Refutes O26: its clause of a barrier that moves on has no premise that the RU owes no response for the barrier. The generation's
end answers every late arrival of the barrier, whatever its number, so with one listed for barrier 0x2005 a response leaves, where the
statement has only those of the plain waits, of which there are none. A late arrival is listed for a reduction-capable barrier only
(R195), so a premise `∀ a ∈ c.ru.late, a.bar ≠ i.toNat` is what the clause lacks. -/
theorem not_barrierTimeouts : ¬ Obligations.BarrierTimeouts := by
  intro h
  obtain ⟨t, ht, -, hmoves, -⟩ := h owingState 0 0x2005 lapsedBar [] owingState_ready rfl rfl rfl rfl rfl (by decide) (by decide)
    (by decide) rfl (by decide) rfl ⟨by decide, by decide⟩ ⟨by decide, by decide, by decide, by decide⟩
  obtain ⟨-, hsilent, -⟩ := hmoves rfl (by decide) (by decide)
  obtain ⟨u, hu, hanswer⟩ := owingState_answers
  obtain rfl := Host.Outcome.next.inj (ht.symm.trans hu)
  rw [hsilent] at hanswer
  cases hanswer

end Sys2Proof.Machine
end

section

/-! ## A combination step of the reduction unit (R178, R180, R187, R201) -/

namespace Sys2Proof.Machine
section
variable {s : State} {i k w word : Nat} {c d : Ch} {e : Env} {o : Op} {a : RuArrival} {rest : List RuArrival} {fn : BitVec 8}

/-! ### The RU's arrays -/

/-- The RU's arrays have no error and no force pending. -/
def Ch.RuSound (c : Ch) : Prop := (c.fault .ru).pendForce = none ∧ c.upsets = []

theorem Ch.Calm.ruSound (h : c.Calm) : c.RuSound := ⟨h.unforced .ru, h.sound⟩

theorem Ch.readPay_clean (h : c.RuSound) (he : e.inject = 0) : c.readPay e o i = c := by
  unfold Ch.readPay
  rw [Ch.readEcc_clean h.1 h.2 he]
  rfl

/-! ### The ingress queue -/

/-- The oldest arrival, at barrier `i`, has left the ingress queue, which now holds `rest`: it is counted, and its barrier's words occupy
the combine lanes (R178, R201). -/
def Ch.dequeued (i : Nat) (rest : List RuArrival) (c : Ch) : Ch :=
  { c with ru := { c.ru with queue := rest, head := (c.ru.head + 1) % 512, arrivals := inc c.ru.arrivals,
                             cycles := sat64 (c.ru.cycles + ceilDiv (c.combined i) 2) } }

/-- An arrival that does not complete its generation leaves nothing more to do once its words are folded. -/
theorem Ch.combineNext_head (h : c.RuSound) (he : e.inject = 0) (hq : c.ru.queue = a :: rest) (ha : a.completes = false) :
    c.combineNext e = (c.dequeued a.bar rest).combineWords e a a.words := by
  have hd : (c.dequeued a.bar rest).RuSound := h
  have hread := fun z => Ch.readEccAs_clean (c := c.dequeued a.bar rest) (e := e.quiet) (u := .ru) (ue := 4) (array := 3) (bank := 0)
    (word := c.ru.head) (k := 1) (z := z) hd.1 hd.2 rfl
  unfold Ch.dequeued at hread hd ⊢
  unfold Ch.combineNext
  rw [hq]
  simp only [hread, Ch.readPay_clean hd he, ha, Bool.false_eq_true, if_false]

/-- A finite value of a word with an operation is folded into the accumulator of its arrival's generation. -/
theorem Ch.combineWord_finite (hop : cfgOp (c.cfg a.bar) k ≠ opNone) (hcnt : cfgOp (c.cfg a.bar) k ≠ opNfcnt)
    (hfin : nonFinite (cfgFmt (c.cfg a.bar) k) w = none) :
    c.combineWord e a k w = c.putPay a.bar ((c.pay a.bar).setAcc a.gen (((c.pay a.bar).acc a.gen).fold (cfgOp (c.cfg a.bar) k)
      (cfgFmt (c.cfg a.bar) k) k (accForm (cfgOp (c.cfg a.bar) k) (cfgFmt (c.cfg a.bar) k) w))) := by
  unfold Ch.combineWord
  simp only [hop, hcnt, hfin, if_false]

/-! ### The commands -/

/-- A step of the RU in a calm channel, where combination leaves nothing to do. -/
theorem Ch.ruStep_quiet (hd : c.combineNext e = d) (hs : d.settle e = d) (hb : d.rq.bankQ = []) (hf : d.rq.full = []) :
    c.ruStep e = d := by
  unfold Ch.ruStep
  dsimp only
  rw [hd, hs, hb, hf]
  rfl

/-- RU_COMBINE, by what combination makes of the channel. -/
theorem exec_ruCombine {n : ChanId} (h : s.Ready n.val) (hd : (s.ch n.val).combineNext (s.seen n.val .none) = d)
    (hb : d.rq = (s.ch n.val).rq) (hs : d.Same (s.ch n.val)) : exec (.ruCombine n .none) s = .next (s.moved n.val d []) := by
  have hsettle : d.settle (s.seen n.val .none) = d := Ch.settle_quiet hs.quiet.1 hs.quiet.2.2.2.1
  have hstep : (s.ch n.val).ruStep (s.seen n.val .none) = d :=
    Ch.ruStep_quiet hd hsettle (by rw [hb]; exact h.calm.banks) (by rw [hb]; exact h.calm.full)
  refine actLive_event h Ch.ruStep ?_ hs
  rw [hstep, hsettle, hs.out_nil]

/-- A write of RU_NF_INFO with bit 31 frees the record of R187. -/
theorem Ch.writePage_nfInfo :
    c.writePage e 5 0x200 word = if word.testBit 31 then { c with ru := { c.ru with nfValid := false } } else c := by
  show (if 0x200 = 0x200 ∧ bit word 31 = true then _ else c) = _
  simp only [true_and]
  rfl

/-- RU_NF_INFO_CLEAR, by what its write makes of the channel. -/
theorem exec_ruNfInfoClear {n : ChanId} {v : Word} (h : s.Ready n.val) (ha : s.Admits fn (chanOff n.val 5 0x200) v.toNat)
    (hd : (s.ch n.val).writePage (s.seen n.val .none) 5 0x200 v.toNat = d) (hs : d.Same (s.ch n.val)) :
    exec (.ruNfInfoClear (.host fn) n v) s = .next (s.wroteChan fn (chanOff n.val 5 0x200) v.toNat n.val d []) :=
  act_write_silent h ha (by decide) (by decide) (by decide) hd hs

/-- Settles O27: the step takes the oldest arrival and folds its word; the write frees the record where bit 31 is set. -/
theorem reductionSteps : Obligations.ReductionSteps := by
  intro s n i k w g phys lid rest fn v hs c op fmt words
  refine ⟨fun hq hop hcnt hfin => ?_, fun ha => ?_⟩
  · intro p a form combined a' c1
    have hnext : c.combineNext (s.seen n.val .none) = (c.dequeued i rest).combineWord (s.seen n.val .none) _ k w :=
      Ch.combineNext_head hs.calm.ruSound rfl hq rfl
    rw [Ch.combineWord_finite (c := c.dequeued i rest) (a := ⟨i, g, [(k, w)], phys, lid, false⟩) hop hcnt hfin] at hnext
    exact exec_ruCombine hs hnext rfl ⟨hs.calm.quiet, rfl⟩
  · refine exec_ruNfInfoClear hs ha Ch.writePage_nfInfo ?_
    split
    · exact ⟨hs.calm.quiet, rfl⟩
    · exact hs.calm.refl

end
end Sys2Proof.Machine
end

section

/-! ## Trains of BAR_REDUCE_ARRIVE, and BAR_READ_RESULT (R175 to R178, R198) -/

namespace Sys2Proof.Machine
section
variable {s : State} {n lid op i k : Nat} {r : Req} {c d : Ch} {e : Env} {o : Op} {b : Bar} {gen : BitVec 32} {words : SMap Nat}

/-! ### Staged trains (R175) -/

/-- What the sender has staged is the train that the op names: it has no train for another barrier or TAG. -/
def Ch.OwnTrain (c : Ch) (o : Op) (i : Nat) : Prop := ∀ t ∈ c.ru.staged, t.lid = o.lid → t.bar = i ∧ t.tag = o.tag

theorem Ch.OwnTrain.discardOther (h : c.OwnTrain o i) : c.discardOther o i = c := by
  have hnone : c.ru.staged.any (fun t => t.lid = o.lid && !(t.bar = i && t.tag = o.tag)) = false := by
    rw [List.any_eq_false]
    intro t ht hx
    simp only [Bool.and_eq_true, decide_eq_true_eq, Bool.not_eq_true', Bool.and_eq_false_iff, decide_eq_false_iff_not] at hx
    obtain ⟨hbar, htag⟩ := h t ht hx.1
    exact hx.2.elim (fun hne => hne hbar) (fun hne => hne htag)
  unfold Ch.discardOther
  rw [hnone]
  rfl

/-- The words of the op's train, with the pair that the op brings. -/
def Ch.trainWords (c : Ch) (o : Op) (i : Nat) : SMap Nat :=
  pairWords (pairField o.index) o.operand (((c.stagedFor o i).map (·.pairs)).getD [])

/-- Nothing of a sender is staged any more. -/
def Ch.unstaged (lid : Nat) (c : Ch) : Ch := { c with ru := { c.ru with staged := c.ru.staged.filter (fun t => t.lid ≠ lid) } }

theorem Ch.stagePair_own (h : c.OwnTrain o (barIndex o.index)) :
    c.stagePair o =
      ({ c with ru := { c.ru with staged := c.ru.staged.filter (fun t => t.lid ≠ o.lid) ++
          [⟨o.lid, barIndex o.index, o.tag, c.trainWords o (barIndex o.index)⟩] } }, .done stOk 0 {}) := by
  unfold Ch.stagePair
  dsimp only
  rw [h.discardOther]
  rfl

/-! ### The LAST packet (R176, R177) -/

/-- G5 that holds the low bits of GEN names GEN. -/
theorem g5Ahead_same {g5 : Nat} (h : g5 = gen.toNat % 32) : g5Ahead g5 gen = 0 := by
  have hzero : (g5 + 32 - gen.toNat % 32) % 32 = 0 := by omega
  unfold g5Ahead
  dsimp only
  rw [if_pos hzero]

/-- The last packet of a train at a reduction-capable barrier whose record is `b`: R159 counts it for GEN. -/
structure Ch.Reduces (c : Ch) (o : Op) (i : Nat) (b : Bar) : Prop where
  index    : barIndex o.index = i
  range    : i < 0x2000
  record   : c.bar i = b
  goodMask : barStrict i = true → b.mask ∉ c.os.badMasks
  names    : g5Field o.index = b.gen.toNat % 32
  verdict  : c.arrivalAt o i 0 = .counted
  sound    : o.poisoned = false
  noRu     : b.ruPending = false

theorem Ch.Reduces.of_bank (h : c.Reduces o i b) (hos : d.os = c.os) (himg : d.img = c.img) (hla : d.la = c.la) :
    d.Reduces o i b where
  index    := h.index
  range    := h.range
  record   := by unfold Ch.bar; rw [hos]; exact h.record
  goodMask := by rw [hos]; exact h.goodMask
  names    := h.names
  verdict  := by
    have hv := h.verdict
    unfold Ch.arrivalAt Ch.accFenced Ch.accObj Ch.isMember Ch.mask Ch.bar at hv ⊢
    rw [hos, himg, hla]
    exact hv
  sound    := h.sound
  noRu     := h.noRu

/-- The train is unstaged, and the arrival parks for GEN. -/
theorem Ch.Reduces.reduceWait (h : c.Reduces o i b) (hown : c.OwnTrain o i) (hs : c.Sound) (he : e.inject = 0) :
    c.reduceWait e o = .park (c.unstaged o.lid) b.gen.toNat b.gen i b.gen.toNat
      (fun d => d.acceptBar e o i false (c.trainWords o i)) := by
  have hread : (c.unstaged o.lid).readBar e o i = c.unstaged o.lid :=
    Ch.readBar_clean (c := c.unstaged o.lid) hs he o (fun hx => h.record ▸ h.goodMask hx)
  have hbar : (c.unstaged o.lid).bar i = b := h.record
  have hverdict : (c.unstaged o.lid).arrivalAt o i (g5Ahead (g5Field o.index) b.gen) = .counted := by
    rw [g5Ahead_same h.names]
    exact h.verdict
  unfold Ch.unstaged at hread hbar hverdict ⊢
  unfold Ch.reduceWait
  simp only [h.index, hown.discardOther, hread, hbar, hverdict]
  rfl

/-- The channel once an arrival for GEN has left record `b'` of a reduction-capable barrier and its words in the RU's ingress queue. -/
def Ch.contributed (i : Nat) (b' : Bar) (gen : BitVec 32) (words : SMap Nat) (phys lid : Nat) (done : Bool) (c : Ch) : Ch :=
  let c1 := c.putBar i b'
  { c1 with ru := { c1.ru with queue := c1.ru.queue ++ [⟨i, gen, words, phys, lid, done⟩] } }

/-- The arrival enters the RU's queue, and where it brings COUNT to TARGET, its generation waits for the RU. -/
theorem Ch.Reduces.acceptBar (h : c.Reduces o i b) :
    c.acceptBar e o i false words =
      c.contributed i { b.take (barStrict i) o.lid e.stamp false with ruPending := decide (b.count + 1 = b.target) } b.gen words
        o.phys o.lid (decide (b.count + 1 = b.target)) := by
  have hreduce : barReduce i = true := decide_eq_true h.range
  unfold Ch.acceptBar Ch.wouldComplete Ch.contributed
  simp only [h.record, h.sound, h.noRu, hreduce, Bool.not_false, Bool.and_true, Bool.true_and, Bool.false_or, Bool.false_eq_true, if_true,
    if_false]

/-! ### BAR_READ_RESULT (R198) -/

/-- What it answers of payload record `p` of a barrier that is not poisoned; AUX with PAIR 2 or 3 has no value. -/
def readReply (e : Env) (index : Nat) (p : Payload) : Reply :=
  if lastField index then
    if 2 ≤ pairField index then .done stBadIndex (e.freeResult 0) {}
    else .done stOk (if pairField index = 0 then p.scales else p.header) {}
  else .done stOk (p.res.get 0 (pairField index)) {}

theorem readReply_pair {index : Nat} {p : Payload} (hl : lastField index = false) :
    readReply e index p = .done stOk (p.res.get 0 (pairField index)) {} := if_neg (ne_true_of_eq_false hl)

theorem readReply_scales {index : Nat} {p : Payload} (hl : lastField index = true) (hp : pairField index = 0) :
    readReply e index p = .done stOk p.scales {} := by
  unfold readReply
  rw [hl, hp]
  rfl

theorem readReply_header {index : Nat} {p : Payload} (hl : lastField index = true) (hp : pairField index = 1) :
    readReply e index p = .done stOk p.header {} := by
  unfold readReply
  rw [hl, hp]
  rfl

theorem readReply_badIndex {index : Nat} {p : Payload} (hl : lastField index = true) (hp : 2 ≤ pairField index) :
    readReply e index p = .done stBadIndex (e.freeResult 0) {} := (if_pos hl).trans (if_pos hp)

theorem Ch.readResult_eq (hs : c.Sound) (hr : c.RuSound) (he : e.inject = 0) (hi : barIndex o.index = i)
    (hm : barStrict i = true → (c.bar i).mask ∉ c.os.badMasks) (hp : (c.bar i).poisoned = false) :
    c.readResult e o = (c, readReply e o.index (c.pay i)) := by
  subst hi
  unfold Ch.readResult
  simp only [Ch.readBar_clean (e := e.quiet) hs rfl o hm, Ch.readPay_clean hr he, hp, Bool.false_eq_true, if_false]
  unfold readReply
  split
  · split <;> rfl
  · rfl

/-! ### Requests -/

/-- A reduction op of a served endpoint at reduction-capable barrier `i`, which is not poisoned and whose mask, where it has one, can
be read. -/
structure State.AsksReduction (s : State) (n lid i : Nat) (r : Req) (b : Bar) : Prop where
  serves   : s.Serves n r.endpoint.toNat lid
  clean    : Clean r
  cls      : r.cls = 3
  index    : barIndex r.index.toNat = i
  range    : i < 0x2000
  record   : (s.ch n).bar i = b
  sound    : b.poisoned = false
  goodMask : barStrict i = true → b.mask ∉ (s.ch n).os.badMasks

theorem State.AsksReduction.cls_eq (h : s.AsksReduction n lid i r b) : ((reqPacket op r).op lid).cls = clBar :=
  congrArg BitVec.toNat h.cls

theorem State.AsksReduction.checkOp (h : s.AsksReduction n lid i r b)
    (hop : op = opBarReduceArrive ∨ op = opBarReadResult ∧ g5Field r.index.toNat = 0) :
    (s.ch n).checkOp (reqPacket op r) lid = none := by
  refine Ch.checkOp_none ?_ ?_ (fun _ => h.index ▸ h.range) (fun hne => ?_) (fun hl => ?_) (fun hl => ?_) (fun hs => ?_)
  · rw [h.cls]
    rcases hop with rfl | ⟨rfl, -⟩ <;> rfl
  · rcases hop with rfl | ⟨rfl, -⟩ <;> decide
  · obtain ⟨rfl, hg5⟩ := hop.resolve_left hne
    rwa [if_pos rfl]
  · rw [h.cls] at hl
    exact absurd hl (by decide)
  · rcases hop with rfl | ⟨rfl, -⟩ <;> exact absurd hl (by decide)
  · rw [h.cls] at hs
    exact absurd hs (by decide)

/-- Only a LAST packet waits for room in the RU's ingress queue (R178, R201). -/
theorem Ch.stalls_reduction (hop : op = opBarReduceArrive ∨ op = opBarReadResult)
    (hroom : op = opBarReduceArrive → lastField r.index.toNat = true → c.ru.queue.length < 512) :
    c.stalls (.req (reqPacket op r) lid) = false := by
  have hi : (reqPacket op r).index = r.index.toNat := rfl
  have ho : (reqPacket op r).opcode = op := rfl
  unfold Ch.stalls
  rcases hop with rfl | rfl
  · by_cases hl : lastField r.index.toNat = true
    · have hfull : ¬ 512 ≤ c.ru.queue.length := Nat.not_le.2 (hroom rfl hl)
      simp [hfull]
    · simp [hi, ho, hl, opBarReduceArrive, opBarArrive, opBarArriveWait, opWaitAny]
  · simp [ho, opBarReadResult, opBarReduceArrive, opBarArrive, opBarArriveWait, opWaitAny]

theorem State.AsksReduction.taken (h : s.AsksReduction n lid i r b)
    (hop : op = opBarReduceArrive ∨ op = opBarReadResult ∧ g5Field r.index.toNat = 0)
    (hroom : op = opBarReduceArrive → lastField r.index.toNat = true → (s.ch n).ru.queue.length < 512) : Taken s n lid op r where
  serves := h.serves
  clean  := h.clean
  ne     := by rcases hop with rfl | ⟨rfl, -⟩ <;> decide
  check  := h.checkOp hop
  moves  := Ch.stalls_reduction (hop.imp_right And.left) hroom

theorem parks_barReduceArrive (index : Nat) : parks opBarReduceArrive index = lastField index := rfl

theorem parks_barReadResult (index : Nat) : parks opBarReadResult index = false := rfl

theorem Ch.plainOp_barReduceArrive (hc : o.cls = clBar) (ho : o.opcode = opBarReduceArrive) : c.plainOp e o = c.stagePair o := by
  unfold Ch.plainOp
  simp [hc, ho]

theorem Ch.plainOp_barReadResult (hc : o.cls = clBar) (ho : o.opcode = opBarReadResult) : c.plainOp e o = c.readResult e o := by
  unfold Ch.plainOp
  simp [hc, ho]

theorem Ch.verdict_reduceWait (hc : o.cls = clBar) : c.verdict e o opBarReduceArrive = c.reduceWait e o := by
  unfold Ch.verdict
  simp [hc]

/-- A packet with LAST = 0, by the channel that staging leaves. -/
theorem State.AsksReduction.stages (h : s.AsksReduction n lid i r b) (hl : lastField r.index.toNat = false)
    (hown : (s.ch n).OwnTrain ((reqPacket opBarReduceArrive r).op lid) i)
    (hc : (s.ch n).counted (reqPacket opBarReduceArrive r) lid = c) :
    exec (.barReduceArrive r) s = .next (s.served n opBarReduceArrive r
      { c with ru := { c.ru with staged := c.ru.staged.filter (fun t => t.lid ≠ lid) ++
          [⟨lid, i, r.tag.toNat, c.trainWords ((reqPacket opBarReduceArrive r).op lid) i⟩] } }
      [replyTo n opBarReduceArrive r stOk 0 true]) := by
  obtain rfl := h.index
  subst hc
  have htaken := h.taken (.inl rfl) (fun _ hx => by rw [hl] at hx; cases hx)
  refine htaken.plain ((parks_barReduceArrive _).trans hl) ?_ ⟨h.serves.calm.quiet, rfl⟩
  exact (Ch.plainOp_barReduceArrive h.cls_eq rfl).trans (Ch.stagePair_own hown)

/-- The LAST packet of a train, by the record that it leaves. -/
theorem State.AsksReduction.contributes {b' : Bar} (h : s.AsksReduction n lid i r b) (hl : lastField r.index.toNat = true)
    (hown : (s.ch n).OwnTrain ((reqPacket opBarReduceArrive r).op lid) i)
    (hred : (s.ch n).Reduces ((reqPacket opBarReduceArrive r).op lid) i b) (hroom : (s.ch n).ru.queue.length < 512)
    (hk : (s.ch n).LowestFree lid k) (hc : (s.ch n).counted (reqPacket opBarReduceArrive r) lid = c)
    (hb : { b.take (barStrict i) lid (s.envOf n opBarReduceArrive r).stamp false with ruPending := decide (b.count + 1 = b.target) } = b') :
    exec (.barReduceArrive r) s = .next (s.served n opBarReduceArrive r
      (((c.unstaged lid).parkedWith (slotRecord (s.envOf n opBarReduceArrive r) opBarReduceArrive r lid k i b.gen.toNat b.gen
        b.gen.toNat)).contributed i b' b.gen (c.trainWords ((reqPacket opBarReduceArrive r).op lid) i) r.endpoint.toNat lid
        (decide (b.count + 1 = b.target)))
      [replyTo n opBarReduceArrive r stPending k false]) := by
  subst hc hb
  have hcounted : ((s.ch n).counted (reqPacket opBarReduceArrive r) lid).Reduces ((reqPacket opBarReduceArrive r).op lid) i b :=
    hred.of_bank rfl rfl rfl
  have hverdict := (Ch.verdict_reduceWait h.cls_eq).trans
    (hcounted.reduceWait (e := s.envOf n opBarReduceArrive r) hown (h.serves.calm.counted _).os rfl)
  refine (h.taken (.inl rfl) (fun _ _ => hroom)).park ((parks_barReduceArrive _).trans hl) hverdict hk ?_ ⟨h.serves.calm.quiet, rfl⟩
  exact Ch.Reduces.acceptBar (hred.of_bank rfl rfl rfl)

/-- BAR_READ_RESULT, by what it answers of the payload record. -/
theorem State.AsksReduction.reads {status result : Nat} (h : s.AsksReduction n lid i r b) (hg5 : g5Field r.index.toNat = 0)
    (hreply : readReply (s.envOf n opBarReadResult r) r.index.toNat ((s.ch n).pay i) = .done status result {}) :
    exec (.barReadResult r) s = .next (s.served n opBarReadResult r ((s.ch n).counted (reqPacket opBarReadResult r) lid)
      [replyTo n opBarReadResult r status result true]) := by
  have hcalm := h.serves.calm.counted (lid := lid) (reqPacket opBarReadResult r)
  have hrecord : ((s.ch n).counted (reqPacket opBarReadResult r) lid).bar i = b := h.record
  have hread := Ch.readResult_eq (o := (reqPacket opBarReadResult r).op lid) (e := s.envOf n opBarReadResult r) hcalm.os hcalm.ruSound rfl
    h.index (hrecord ▸ h.goodMask) (hrecord ▸ h.sound)
  refine (h.taken (.inr ⟨rfl, hg5⟩) (fun hx => absurd hx (by decide))).plain (parks_barReadResult _) ?_ (h.serves.calm.same _)
  rw [Ch.plainOp_barReadResult h.cls_eq rfl, hread]
  exact congrArg _ hreply

/-- Settles O14: a packet stages its pair; the LAST one is counted by R159 and contributes the train's words; a read answers by its
fields. -/
theorem barReduction : Obligations.BarReduction := by
  intro s n lid i r b hs hr hcls hidx hi hb hpois hmask c pair mine words rest
  have h : s.AsksReduction n lid i r b := ⟨hs, hr, hcls, hidx, hi, hb, hpois, fun hx => (hmask (of_decide_eq_true hx)).1⟩
  refine ⟨fun hown => ⟨fun hl => h.stages hl hown rfl, fun hl hg5 hgate hru hfence hcur hroom k hk => ?_⟩, fun hg5 => ?_⟩
  · have hmember : barStrict i = true → (s.ch n).isMember i lid = true := by
      intro hstrict
      obtain ⟨-, hlt, hbit⟩ := hmask (of_decide_eq_true hstrict)
      simp [Ch.isMember, hb, hlt, hbit]
    have hverdict : (s.ch n).arrivalAt ((reqPacket opBarReduceArrive r).op lid) i 0 = .counted := by
      unfold Ch.arrivalAt
      rw [hfence, hb]
      exact arrival_counted hpois hmember hgate hru (fun hx => hcur (of_decide_eq_true hx))
    have hred : (s.ch n).Reduces ((reqPacket opBarReduceArrive r).op lid) i b :=
      ⟨hidx, hi, hb, h.goodMask, hg5, hverdict, rfl, hru⟩
    intro done c1 c2
    have hcontributes := h.contributes hl hown hred hroom hk rfl
      (congrArg (fun t : Bar => { t with ruPending := done }) (Bar.take_counted (s.envOf n opBarReduceArrive r).stamp))
    exact hcontributes
  · intro c reads
    exact ⟨fun hl => h.reads hg5 (readReply_pair hl), fun hl h0 => h.reads hg5 (readReply_scales hl h0),
      fun hl h1 => h.reads hg5 (readReply_header hl h1), fun hl h2 => ⟨_, h.reads hg5 (readReply_badIndex hl h2)⟩⟩

end
end Sys2Proof.Machine
end

section

/-! ## Locks of an endpoint (R205 to R214)

A claim and a wait make the same of a word, but for one that another holds. With no array error in the way the entry's record and the
table decide it, and a release frees the entry or hands it to the first slot parked on it. -/

namespace Sys2Proof.Machine
section
variable {s : State} {n lid addr cx m st word op j b k : Nat} {r : Req} {c d : Ch} {e : Env} {o : Op} {v : LockEntry} {w : Parked}
  {ws : List Parked}

/-! ### The table -/

theorem LockEntry.ne_default (hv : v.valid = true) : v ≠ {} := fun he => by
  rw [he] at hv
  cases hv

theorem Ch.lockEntry_putLock (hv : v.valid = true) : (c.putLock m v).lockEntry m = v := SMap.get_put_self (LockEntry.ne_default hv)

theorem Ch.lockEntry_putLock_wf (h : SMap.wf {} c.lt.entries = true) (v : LockEntry) : (c.putLock m v).lockEntry m = v :=
  (SMap.get_put h m m v).trans (if_pos rfl)

theorem Ch.putLock_putLock {x : LockEntry} (hv : v.valid = true) (hx : x.valid = true) :
    (c.putLock m v).putLock m x = c.putLock m x :=
  congrArg (fun l => { c with lt := { c.lt with entries := l } } : SMap LockEntry → Ch)
    (SMap.put_put (LockEntry.ne_default hv) (LockEntry.ne_default hx))

theorem Ch.lockResult_valid (hx : c.lockEntry m = v) (hv : v.valid = true) : c.lockResult m = v.result m (c.lockWaiting m) := by
  unfold Ch.lockResult
  rw [hx, if_pos hv]

theorem Ch.lockResult_free (hv : (c.lockEntry m).valid = false) : c.lockResult m = 0 := if_neg (by simp [hv])

/-- The search of a share finds its lowest free entry (R207). -/
theorem Ch.freeLock_lowest {i : Nat} (hj : j < k) (hfree : (c.lockEntry (8 * (i + j) + b)).valid = false)
    (hlow : ∀ x < j, (c.lockEntry (8 * (i + x) + b)).valid = true) : c.freeLock b k i = some (8 * (i + j) + b) := by
  induction k generalizing i j with
  | zero => exact absurd hj (Nat.not_lt_zero _)
  | succ k ih =>
    unfold Ch.freeLock
    cases j with
    | zero => exact if_neg (by simpa using hfree)
    | succ j =>
      have hshift : ∀ x, i + (x + 1) = i + 1 + x := fun x => by omega
      have hfirst : (c.lockEntry (8 * i + b)).valid = true := hlow 0 (Nat.succ_pos j)
      rw [if_pos hfirst, hshift j]
      exact ih (Nat.lt_of_succ_lt_succ hj) (hshift j ▸ hfree) (fun x hx => hshift x ▸ hlow (x + 1) (Nat.succ_lt_succ hx))

theorem Ch.freeLock_none {i : Nat} (hall : ∀ x < k, (c.lockEntry (8 * (i + x) + b)).valid = true) : c.freeLock b k i = none := by
  induction k generalizing i with
  | zero => rfl
  | succ k ih =>
    have hshift : ∀ x, i + (x + 1) = i + 1 + x := fun x => by omega
    have hfirst : (c.lockEntry (8 * i + b)).valid = true := hall 0 (Nat.succ_pos k)
    unfold Ch.freeLock
    rw [if_pos hfirst]
    exact ih fun x hx => hshift x ▸ hall (x + 1) (Nat.succ_lt_succ hx)

theorem Ch.readWord_calm (h : c.Calm) (he : e.inject = 0) : c.readWord e o = c := by
  unfold Ch.readWord
  split
  · exact Ch.readLock_clean (h.unforced .lt) h.sound he _
  · rfl

/-! ### What a claim or wait meets at a word (R207, R208, R211) -/

/-- Entry `m` is taken with record `v`. -/
def Ch.claimed (m : Nat) (v : LockEntry) (c : Ch) : Ch :=
  { c.putLock m v with lt := { (c.putLock m v).lt with claims := inc c.lt.claims } }

/-- A claim or wait that found its share full is counted (R208). -/
def Ch.fullMet (c : Ch) : Ch := { c with lt := { c.lt with fulls := inc c.lt.fulls } }

/-- A word with no entry takes the lowest free one of its share, with the next SEQ. -/
theorem Ch.claimWord_allocates (hnone : c.findLock addr = none) (hj : j < 8192)
    (hfree : (c.lockEntry (8 * j + lockBank addr)).valid = false)
    (hlow : ∀ x < j, (c.lockEntry (8 * x + lockBank addr)).valid = true) (hm : 8 * j + lockBank addr = m) :
    c.claimWord e addr lid cx =
      .taken (c.claimed m { valid := true, held := true, seq := (c.lockEntry m).seq + 1, addr := addr, time := startOf e.stamp,
                            owner := lid, context := cx }) stOk m := by
  have hfound : c.freeLock (lockBank addr) 8192 0 = some m := by
    have hlowest := Ch.freeLock_lowest (i := 0) hj (by simpa using hfree) (by simpa using hlow)
    rwa [Nat.zero_add, hm] at hlowest
  unfold Ch.claimWord
  rw [hnone]
  dsimp only
  rw [hfound]
  dsimp only [Ch.allocLock, Ch.takeLock]
  rw [Ch.lockEntry_putLock rfl, Ch.putLock_putLock rfl rfl]
  rfl

theorem Ch.claimWord_full (hnone : c.findLock addr = none) (hall : ∀ x < 8192, (c.lockEntry (8 * x + lockBank addr)).valid = true) :
    c.claimWord e addr lid cx = .full c.fullMet := by
  unfold Ch.claimWord
  rw [hnone]
  dsimp only
  rw [Ch.freeLock_none (i := 0) (by simpa using hall)]
  rfl

/-- A word with an entry that is not poisoned, by who holds it. -/
theorem Ch.claimWord_entry (hfind : c.findLock addr = some m) (hx : c.lockEntry m = v) (hp : v.poisoned = false) :
    c.claimWord e addr lid cx =
      if v.held = false then
        .taken (c.claimed m { v with held := true, owner := lid, context := cx, time := startOf e.stamp }) stAbandoned m
      else if v.owner = lid ∧ v.context = cx then .taken c (if v.abandoned then stAbandoned else stOk) m
      else .other m := by
  subst hx
  unfold Ch.claimWord
  rw [hfind]
  unfold Ch.claimEntry
  dsimp only
  rw [if_neg (by simp [hp])]
  simp only [Bool.not_eq_true']
  rfl

/-- How a claim and a wait alike are answered on channel `c`: the channel after it, the status and RESULT; none where another holds
the word. -/
def LockMet.answer (c : Ch) : LockMet → Option (Ch × Nat × Nat)
  | .taken d status m => some (d, status, d.lockResult m)
  | .full d => some (d, stTableFull, 0)
  | .poisoned m => some (c, stPoisoned, c.lockResult m)
  | .other _ => none

theorem Ch.lockClaim_answer (h : c.Calm) (he : e.inject = 0)
    (ha : (c.claimWord e (lockAddr o.operand) o.lid (lockContext o.operand)).answer c = some (d, st, word)) :
    c.lockClaim e o = (d, .done st word {}) := by
  unfold Ch.lockClaim
  rw [Ch.readWord_calm h he]
  dsimp only
  cases hmet : c.claimWord e (lockAddr o.operand) o.lid (lockContext o.operand) <;> rw [hmet] at ha <;> cases ha <;> rfl

theorem Ch.lockWait_answer (h : c.Calm) (he : e.inject = 0)
    (ha : (c.claimWord e (lockAddr o.operand) o.lid (lockContext o.operand)).answer c = some (d, st, word)) :
    c.lockWait e o = .decided d st word {} := by
  unfold Ch.lockWait
  rw [Ch.readWord_calm h he]
  dsimp only
  cases hmet : c.claimWord e (lockAddr o.operand) o.lid (lockContext o.operand) <;> rw [hmet] at ha <;> cases ha <;> rfl

/-- A claim of a word that another holds is counted (R211). -/
theorem Ch.lockClaim_other (h : c.Calm) (he : e.inject = 0)
    (hmet : c.claimWord e (lockAddr o.operand) o.lid (lockContext o.operand) = .other m) :
    c.lockClaim e o = ({ c with lt := { c.lt with helds := inc c.lt.helds } }, .done stHeld (c.lockResult m) {}) := by
  unfold Ch.lockClaim
  rw [Ch.readWord_calm h he]
  dsimp only
  rw [hmet]

/-- A wait for a word that another holds parks on the entry (R214). -/
theorem Ch.lockWait_other (h : c.Calm) (he : e.inject = 0)
    (hmet : c.claimWord e (lockAddr o.operand) o.lid (lockContext o.operand) = .other m) :
    c.lockWait e o =
      .park c (c.lockResult m) 0 0 (lockSlotOperand m (lockContext o.operand) (c.lockEntry m).seq) id := by
  unfold Ch.lockWait
  rw [Ch.readWord_calm h he]
  dsimp only
  rw [hmet]

theorem Ch.lockQuery_none (h : c.Calm) (he : e.inject = 0) (hnone : c.findLock (lockAddr o.operand) = none) :
    c.lockQuery e o = (c, .done stFalse 0 {}) := by
  unfold Ch.lockQuery
  rw [Ch.readWord_calm h he]
  dsimp only
  rw [hnone]

theorem Ch.lockQuery_entry (h : c.Calm) (he : e.inject = 0) (hfind : c.findLock (lockAddr o.operand) = some m) (hx : c.lockEntry m = v)
    (hv : v.valid = true) (hp : v.poisoned = false) :
    c.lockQuery e o =
      (c, .done (if v.held = false then stFalse else if v.abandoned then stAbandoned else stOk) (v.result m (c.lockWaiting m)) {}) := by
  unfold Ch.lockQuery
  rw [Ch.readWord_calm h he]
  dsimp only
  rw [hfind]
  dsimp only
  rw [Ch.lockResult_valid hx hv, hx]
  simp only [hp, Bool.not_eq_true', Bool.false_eq_true, if_false]

/-! ### Releases by the owner (R211, R212) -/

/-- An owner's release of a word. -/
theorem Ch.lockRelease_own (h : c.Calm) (he : e.inject = 0) (hop : o.poisoned = false) (hfind : c.findLock (lockAddr o.operand) = some m)
    (hx : c.lockEntry m = v) (hp : v.poisoned = false) (hheld : v.held = true) (hown : v.owner = o.lid)
    (hcx : v.context = lockContext o.operand) (hd : c.releaseEntry e m false = d) :
    c.lockRelease e o = (d, .done stOk (d.lockResult m) {}) := by
  subst hd
  unfold Ch.lockRelease
  rw [Ch.readWord_calm h he]
  dsimp only
  rw [hfind]
  dsimp only
  simp only [hx, hp, hheld, hown, hcx, hop, decide_true, Bool.and_self, Bool.false_eq_true, if_false, if_true]

theorem Ch.releaseEntry_free (hx : c.lockEntry m = v) (hw : c.lockWaiters m = []) :
    c.releaseEntry e m false = c.putLock m { seq := v.seq } := by
  subst hx
  unfold Ch.releaseEntry
  rw [hw]
  rfl

/-- The slots parked on an entry are armed. -/
theorem Ch.armed_of_mem_lockWaiters (h : w ∈ c.lockWaiters m) : w ∈ c.hw.parked := List.mem_of_mem_filter h

/-- The first of the waiters, whose slot record is sound, is the next owner. -/
theorem Ch.nextOwner_cons (hs : c.Sound) (hw : w ∈ c.hw.parked) : c.nextOwner e (w :: ws) = (c, some w) := by
  unfold Ch.nextOwner
  rw [if_neg (by simpa using hw), Ch.readSlot_clean hs]
  rfl

/-- The record of an entry handed to the first of its waiters, with nothing of its last owner (R212). -/
def LockEntry.handedTo (w : Parked) (time : Nat) (v : LockEntry) : LockEntry :=
  { v with owner := w.lid, context := fld w.operand 19 16, abandoned := false, time := time }

/-- Entry `m` is handed over, with record `v` from then on. -/
def Ch.handed (m : Nat) (v : LockEntry) (c : Ch) : Ch :=
  { c.putLock m v with lt := { (c.putLock m v).lt with handoffs := inc c.lt.handoffs } }

/-- A hand-off to a plain wait, which ends with OK and the record as it then stands. -/
theorem Ch.releaseEntry_hands (hs : c.Sound) (hn : e.chan = n) (hq : c.out = []) (hx : c.lockEntry m = v) (hheld : v.held = true)
    (hw : c.lockWaiters m = w :: ws) (hp : c.PlainWaits [w]) :
    c.releaseEntry e m false =
      { (c.handed m (v.handedTo w (startOf e.stamp))).freed [w] with
        out := endsOf n w stOk ((v.handedTo w (startOf e.stamp)).result m ws.length) } := by
  have harmed : w ∈ c.hw.parked := Ch.armed_of_mem_lockWaiters (m := m) (by rw [hw]; exact List.mem_cons_self)
  have hrecord : ({ c.lockEntry m with held := true, owner := w.lid, context := fld w.operand 19 16, time := startOf e.stamp,
                                       abandoned := false } : LockEntry) = v.handedTo w (startOf e.stamp) := by
    rw [hx, ← hheld]
    rfl
  have hleft : c.lockWaiting m - 1 = ws.length := by
    unfold Ch.lockWaiting
    rw [hw]
    rfl
  unfold Ch.releaseEntry
  rw [hw, Ch.nextOwner_cons hs harmed]
  unfold Ch.handLock
  dsimp only
  rw [hrecord, hleft]
  refine (Ch.endWait_plain (n := n) (c := c.handed m (v.handedTo w (startOf e.stamp))) hs _ _ hp harmed hn {}).trans ?_
  rw [show (c.handed m (v.handedTo w (startOf e.stamp))).out = [] from hq]
  rfl

/-- The waiters that are left once the first has its word. -/
theorem Ch.lockWaiters_freed (hw : c.lockWaiters m = w :: ws) (hnodup : c.hw.parked.Nodup) : (c.freed [w]).lockWaiters m = ws := by
  have hnot : w ∉ ws := (List.nodup_cons.mp (hw ▸ hnodup.filter _)).1
  have hcomm : (c.freed [w]).lockWaiters m = (c.lockWaiters m).filter (fun x => x ∉ [w]) := List.filter_comm ..
  rw [hcomm, hw, List.filter_cons_of_neg (by simp), List.filter_eq_self]
  intro x hx
  have hne : x ≠ w := fun h => hnot (h ▸ hx)
  simpa using hne

theorem Ch.lockResult_handed (hv : v.valid = true) (hw : c.lockWaiters m = w :: ws) (hp : c.PlainWaits [w]) :
    ((c.handed m v).freed [w]).lockResult m = v.result m ws.length := by
  have hleft : ((c.handed m v).freed [w]).lockWaiters m = ws := Ch.lockWaiters_freed hw (hp.1.of_map _)
  have hentry : ((c.handed m v).freed [w]).lockEntry m = v := Ch.lockEntry_putLock (c := c) hv
  rw [Ch.lockResult_valid hentry hv]
  unfold Ch.lockWaiting
  rw [hleft]

/-! ### Requests -/

/-- A clean request of a served endpoint on the aligned word at `addr`, in context `cx` (R46). -/
structure State.AsksWord (s : State) (n lid addr cx : Nat) (r : Req) : Prop extends s.Asks n lid clLock 0 r where
  word    : lockAddr r.operand.toNat = addr
  aligned : addr % 8 = 0
  context : lockContext r.operand.toNat = cx

theorem State.AsksWord.taken (h : s.AsksWord n lid addr cx r) (hop : opClass op = some clLock)
    (hforce : op = opLockRelease → lockForce r.operand.toNat = false) : Taken s n lid op r := by
  have hother : ∀ {o}, opClass o ≠ some clLock → op ≠ o := fun ho heq => ho (heq ▸ hop)
  have hlow : fld r.operand.toNat 2 0 = 0 := by
    have hword := h.word
    have haligned := h.aligned
    simp only [lockAddr, fld] at hword ⊢
    omega
  refine ⟨h.serves, h.clean, ⟨hother (by decide), hother (by decide), hother (by decide)⟩,
    Ch.checkOp_none (h.cls ▸ hop) (hother (by decide)) ?_ (fun _ => ?_) (fun _ => hlow) (fun hr hf => ?_) (fun hstr => ?_),
    Ch.stalls_of_cls (by rw [h.cls]; decide)⟩
  · rintro (hr | hr)
    · exact absurd hr (hother (by decide))
    · exact absurd hr (hother (by decide))
  · rw [if_neg (hother (by decide)), h.index, h.cls]
    decide
  · rw [hforce hr] at hf
    cases hf
  · rw [h.cls] at hstr
    cases hstr

theorem State.AsksWord.calm (h : s.AsksWord n lid addr cx r) : ((s.ch n).counted (reqPacket op r) lid).Calm := h.serves.calm.counted _

theorem State.AsksWord.verdict (h : s.AsksWord n lid addr cx r) :
    c.verdict e ((reqPacket opLockWait r).op lid) opLockWait = c.lockWait e ((reqPacket opLockWait r).op lid) := by
  have hcls : ((reqPacket opLockWait r).op lid).cls = clLock := h.cls
  unfold Ch.verdict
  rw [hcls]
  rfl

theorem State.AsksWord.plainOp (h : s.AsksWord n lid addr cx r) :
    c.plainOp e ((reqPacket op r).op lid) =
      if op = opLockClaim then c.lockClaim e ((reqPacket op r).op lid)
      else if op = opLockQuery then c.lockQuery e ((reqPacket op r).op lid)
      else if lockForce r.operand.toNat then c.lockForced e ((reqPacket op r).op lid)
      else c.lockRelease e ((reqPacket op r).op lid) := by
  have hcls : ((reqPacket op r).op lid).cls = clLock := h.cls
  unfold Ch.plainOp
  rw [hcls]
  rfl

/-- LOCK_CLAIM, by what it makes of the channel. -/
theorem State.AsksWord.claim (h : s.AsksWord n lid addr cx r)
    (hc : ((s.ch n).counted (reqPacket opLockClaim r) lid).lockClaim (s.envOf n opLockClaim r) ((reqPacket opLockClaim r).op lid) =
      (d, .done st word {})) (hd : d.Same (s.ch n)) :
    exec (.lockClaim r) s = .next (s.served n opLockClaim r d [replyTo n opLockClaim r st word true]) :=
  (h.taken rfl (fun hop => absurd hop (by decide))).plain rfl ((h.plainOp.trans (if_pos rfl)).trans hc) hd

/-- LOCK_QUERY, which leaves the channel as it is. -/
theorem State.AsksWord.query (h : s.AsksWord n lid addr cx r)
    (hc : ((s.ch n).counted (reqPacket opLockQuery r) lid).lockQuery (s.envOf n opLockQuery r) ((reqPacket opLockQuery r).op lid) =
      ((s.ch n).counted (reqPacket opLockQuery r) lid, .done st word {})) :
    exec (.lockQuery r) s = .next (s.served n opLockQuery r ((s.ch n).counted (reqPacket opLockQuery r) lid)
      [replyTo n opLockQuery r st word true]) :=
  (h.taken rfl (fun hop => absurd hop (by decide))).plain rfl ((h.plainOp.trans (if_neg (by decide))).trans hc) (h.serves.calm.same _)

/-- A claim and a wait of one word alike, by what each meets there. -/
theorem State.AsksWord.both (h : s.AsksWord n lid addr cx r) {g : Ch → Ch}
    (ha : ∀ op, (((s.ch n).counted (reqPacket op r) lid).claimWord (s.envOf n op r) addr lid cx).answer
      ((s.ch n).counted (reqPacket op r) lid) = some (g ((s.ch n).counted (reqPacket op r) lid), st, word))
    (hg : ∀ op, (g ((s.ch n).counted (reqPacket op r) lid)).Same (s.ch n)) :
    exec (.lockClaim r) s = .next (s.served n opLockClaim r (g ((s.ch n).counted (reqPacket opLockClaim r) lid))
      [replyTo n opLockClaim r st word true]) ∧
    exec (.lockWait r) s = .next (s.served n opLockWait r (g ((s.ch n).counted (reqPacket opLockWait r) lid))
      [replyTo n opLockWait r st word true]) := by
  obtain rfl := h.word
  obtain rfl := h.context
  exact ⟨h.claim (Ch.lockClaim_answer h.calm rfl (ha _)) (hg _),
    (h.taken rfl (fun hop => absurd hop (by decide))).decided rfl
      (h.verdict.trans (Ch.lockWait_answer h.calm rfl (ha _))) (hg _)⟩

/-- A claim or wait that takes an entry. -/
theorem State.AsksWord.takes (h : s.AsksWord n lid addr cx r) (hv : v.valid = true)
    (hmet : ∀ op, ((s.ch n).counted (reqPacket op r) lid).claimWord (s.envOf n op r) addr lid cx =
      .taken (((s.ch n).counted (reqPacket op r) lid).claimed m v) st m) :
    exec (.lockClaim r) s = .next (s.served n opLockClaim r (((s.ch n).counted (reqPacket opLockClaim r) lid).claimed m v)
      [replyTo n opLockClaim r st (v.result m ((s.ch n).lockWaiting m)) true]) ∧
    exec (.lockWait r) s = .next (s.served n opLockWait r (((s.ch n).counted (reqPacket opLockWait r) lid).claimed m v)
      [replyTo n opLockWait r st (v.result m ((s.ch n).lockWaiting m)) true]) := by
  refine h.both (g := Ch.claimed m v) (fun op => ?_) (fun op => ⟨h.serves.calm.quiet, rfl⟩)
  have hresult : (((s.ch n).counted (reqPacket op r) lid).claimed m v).lockResult m = v.result m ((s.ch n).lockWaiting m) :=
    Ch.lockResult_valid (Ch.lockEntry_putLock (c := (s.ch n).counted (reqPacket op r) lid) hv) hv
  rw [hmet, LockMet.answer, hresult]

/-- A claim and a wait of a word that another holds: HELD, or the wait parks, or finds no free slot. -/
theorem State.AsksWord.other (h : s.AsksWord n lid addr cx r) (hx : (s.ch n).lockEntry m = v) (hv : v.valid = true)
    (hmet : ∀ op, ((s.ch n).counted (reqPacket op r) lid).claimWord (s.envOf n op r) addr lid cx = .other m)
    (hword : v.result m ((s.ch n).lockWaiting m) = word) :
    exec (.lockClaim r) s = .next (s.served n opLockClaim r
      { (s.ch n).counted (reqPacket opLockClaim r) lid with lt := { (s.ch n).lt with helds := inc (s.ch n).lt.helds } }
      [replyTo n opLockClaim r stHeld word true]) ∧
    (∀ k, (s.ch n).LowestFree lid k → exec (.lockWait r) s = .next (s.served n opLockWait r
      (((s.ch n).counted (reqPacket opLockWait r) lid).parkedWith
        (slotRecord (s.envOf n opLockWait r) opLockWait r lid k 0 (lockSlotOperand m cx v.seq) 0 word))
      [replyTo n opLockWait r stPending k false])) ∧
    ((s.ch n).SlotsFull lid → exec (.lockWait r) s = .next (s.served n opLockWait r ((s.ch n).counted (reqPacket opLockWait r) lid)
      [replyTo n opLockWait r stSlotsFull word true])) := by
  obtain rfl := h.word
  obtain rfl := h.context
  have ht := h.taken (op := opLockWait) rfl (fun hop => absurd hop (by decide))
  have hresult : ∀ op, ((s.ch n).counted (reqPacket op r) lid).lockResult m = word := fun op =>
    (Ch.lockResult_valid (c := (s.ch n).counted (reqPacket op r) lid) hx hv).trans hword
  have hclaim := Ch.lockClaim_other (o := (reqPacket opLockClaim r).op lid) h.calm rfl (hmet opLockClaim)
  have hwait := h.verdict.trans (Ch.lockWait_other (o := (reqPacket opLockWait r).op lid) h.calm rfl (hmet opLockWait))
  have hentry : ((s.ch n).counted (reqPacket opLockWait r) lid).lockEntry m = v := hx
  rw [hresult] at hclaim
  rw [hresult, hentry] at hwait
  refine ⟨h.claim hclaim ⟨h.serves.calm.quiet, rfl⟩, fun k hk => ht.park rfl hwait hk rfl (h.serves.calm.same_parked _ _),
    fun hfull => ?_⟩
  have hfound := ht.full rfl hwait hfull (h.serves.calm.same _)
  rwa [Ch.slotsFullResult_of_ne_bar (o := (reqPacket opLockWait r).op lid)
    (fun hb => absurd (h.cls.symm.trans hb) (by decide))] at hfound

/-- Such a request without FORCE, of the identity that holds the word in this context; its entry `m` has record `v` and is not poisoned. -/
structure State.OwnsWord (s : State) (n lid addr cx m : Nat) (v : LockEntry) (r : Req) : Prop extends s.AsksWord n lid addr cx r where
  force  : lockForce r.operand.toNat = false
  found  : (s.ch n).findLock addr = some m
  record : (s.ch n).lockEntry m = v
  valid  : v.valid = true
  sound  : v.poisoned = false
  held   : v.held = true
  owner  : v.owner = lid
  inside : v.context = cx

/-- Its release, by what that makes of the entry. -/
theorem State.OwnsWord.release {l : List Output} (h : s.OwnsWord n lid addr cx m v r)
    (he : ((s.ch n).counted (reqPacket opLockRelease r) lid).releaseEntry (s.envOf n opLockRelease r) m false = { d with out := l })
    (hword : d.lockResult m = word) (hd : d.Same (s.ch n)) :
    exec (.lockRelease r) s = .next (s.served n opLockRelease r d (replyTo n opLockRelease r stOk word true :: l)) := by
  obtain rfl := h.word
  obtain rfl := h.context
  have hrelease := Ch.lockRelease_own (o := (reqPacket opLockRelease r).op lid) h.calm rfl rfl h.found h.record h.sound h.held h.owner
    h.inside he
  have hplain := h.plainOp (c := (s.ch n).counted (reqPacket opLockRelease r) lid) (e := s.envOf n opLockRelease r) (op := opLockRelease)
  rw [if_neg (by decide), if_neg (by decide), h.force, if_neg (by decide), hrelease] at hplain
  exact (h.taken rfl (fun _ => h.force)).plainOuts rfl
    (hplain.trans (congrArg (fun x => (_, Reply.done stOk x {})) hword)) hd

/-- With nobody parked the entry is freed, its SEQ kept. -/
theorem State.OwnsWord.release_frees (h : s.OwnsWord n lid addr cx m v r) (hwf : SMap.wf {} (s.ch n).lt.entries = true)
    (hw : (s.ch n).lockWaiters m = []) :
    exec (.lockRelease r) s = .next (s.served n opLockRelease r
      (((s.ch n).counted (reqPacket opLockRelease r) lid).putLock m { seq := v.seq }) [replyTo n opLockRelease r stOk 0 true]) := by
  have hsame : (((s.ch n).counted (reqPacket opLockRelease r) lid).putLock m { seq := v.seq }).Same (s.ch n) :=
    ⟨h.serves.calm.quiet, rfl⟩
  have hfree : (((s.ch n).counted (reqPacket opLockRelease r) lid).putLock m { seq := v.seq }).lockEntry m = { seq := v.seq } :=
    Ch.lockEntry_putLock_wf hwf _
  exact h.release ((Ch.releaseEntry_free (c := (s.ch n).counted (reqPacket opLockRelease r) lid) h.record hw).trans hsame.out_nil.symm)
    (Ch.lockResult_free (congrArg LockEntry.valid hfree)) hsame

/-- With a plain wait first in arming order the word passes to it. -/
theorem State.OwnsWord.release_hands (h : s.OwnsWord n lid addr cx m v r) (hw : (s.ch n).lockWaiters m = w :: ws)
    (hp : (s.ch n).PlainWaits [w]) {x : LockEntry} (hx : v.handedTo w (startOf (s.envOf n opLockRelease r).stamp) = x) :
    exec (.lockRelease r) s = .next (s.served n opLockRelease r
      ((((s.ch n).counted (reqPacket opLockRelease r) lid).handed m x).freed [w])
      (replyTo n opLockRelease r stOk (x.result m ws.length) true :: endsOf n w stOk (x.result m ws.length))) := by
  subst hx
  exact h.release (Ch.releaseEntry_hands h.calm.os rfl h.calm.out_nil h.record h.held hw hp)
    (Ch.lockResult_handed (c := (s.ch n).counted (reqPacket opLockRelease r) lid) (v := v.handedTo w _) h.valid hw hp)
    ⟨h.serves.calm.quiet, rfl⟩

/-! ### The statement -/

/-- Settles O15: a claim and a wait by what they meet at the word, a query by its entry; a release by the first slot parked on it. -/
theorem locks : Obligations.Locks := by
  refine ⟨?_, ?_⟩
  · intro s n lid addr cx r hs hr hcls hidx hword hal hcx c time ends both takes
    have h : s.AsksWord n lid addr cx r := ⟨⟨hs, hr, by rw [hcls]; rfl, by rw [hidx]; rfl, by decide⟩, hword, hal, hcx⟩
    have htime : ∀ op, startOf (s.envOf n op r).stamp = time := fun op =>
      congrArg startOf ((State.envOf_stamp op).trans (State.envOf_stamp opLockClaim).symm)
    obtain rfl := h.word
    refine ⟨fun hnone => ⟨fun j hj hfree hlow => ?_, fun hall => ?_, ?_⟩, fun m v hfind hx hv hp => ?_⟩
    · intro m
      refine h.takes rfl fun op => ?_
      rw [← htime op]
      exact Ch.claimWord_allocates hnone hj hfree hlow rfl
    · exact h.both (g := Ch.fullMet) (fun op => congrArg (LockMet.answer _)
        (Ch.claimWord_full (c := (s.ch n).counted (reqPacket op r) lid) hnone hall)) (fun op => ⟨hs.calm.quiet, rfl⟩)
    · exact h.query (Ch.lockQuery_none h.calm rfl hnone)
    · intro word mine
      have hmet := fun op => Ch.claimWord_entry (c := (s.ch n).counted (reqPacket op r) lid) (e := s.envOf n op r)
        (lid := lid) (cx := cx) hfind hx hp
      refine ⟨fun hheld => ?_, fun hheld hmine => ?_, fun hheld hmine => ?_, ?_⟩
      · refine h.takes hv fun op => ?_
        rw [← htime op, hmet, if_pos hheld]
      · refine h.both (g := id) (fun op => ?_) (fun op => hs.calm.same _)
        rw [hmet, if_neg (by simp [hheld]), if_pos hmine]
        exact congrArg (fun x => some (_, _, x)) (Ch.lockResult_valid (c := (s.ch n).counted (reqPacket op r) lid) hx hv)
      · exact h.other hx hv (fun op => by rw [hmet, if_neg (by simp [hheld]), if_neg hmine]) rfl
      · exact h.query (Ch.lockQuery_entry (o := (reqPacket opLockQuery r).op lid) h.calm rfl hfind hx hv hp)
  · intro s n lid addr cx m r v hs hr hcls hidx hword hal hcx hforce hfind hx hv hp hheld hown hvcx hwf c
    have h : s.OwnsWord n lid addr cx m v r :=
      ⟨⟨⟨hs, hr, by rw [hcls]; rfl, by rw [hidx]; rfl, by decide⟩, hword, hal, hcx⟩, hforce, hfind, hx, hv, hp, hheld, hown, hvcx⟩
    exact ⟨h.release_frees hwf, fun w ws hw hplain => h.release_hands hw hplain rfl⟩

end
end Sys2Proof.Machine
end

section

/-! ## The sequencer and the phase tables (R225 to R236) -/

namespace Sys2Proof.Machine
section
variable {s : State} {c d : Ch} {e : Env} {q n x : Nat} {a b : Seq} {lean : Bool}

/-! ### Sequences -/

theorem Ch.seq_putSeq (hw : SMap.wf {} c.ps.seqs = true) : (c.putSeq q a).seq q = a := by
  unfold Ch.putSeq Ch.seq
  exact (SMap.get_put hw q q a).trans (if_pos rfl)

theorem Ch.seq_putSeq_of_ne (hw : SMap.wf {} c.ps.seqs = true) (h : x ≠ q) : (c.putSeq q a).seq x = c.seq x := by
  unfold Ch.putSeq Ch.seq
  exact (SMap.get_put hw q x a).trans (if_neg h)

theorem Ch.putSeq_putSeq (hw : SMap.wf {} c.ps.seqs = true) : (c.putSeq q a).putSeq q b = c.putSeq q b := by
  unfold Ch.putSeq
  rw [SMap.put_put_wf hw]

theorem Ch.wf_putSeq (hw : SMap.wf {} c.ps.seqs = true) : SMap.wf {} (c.putSeq q a).ps.seqs = true := SMap.wf_put hw q a

@[simp] theorem Ch.entry_putSeq : (c.putSeq q a).entry n = c.entry n := rfl

/-! ### Reads of the phase tables (R313) -/

/-- No word of the channel's phase tables is bad, and no error meets a read of one. -/
def Ch.TablesSound (c : Ch) : Prop := (c.fault .ps).pendForce = none ∧ c.upsets = [] ∧ c.ps.badWords = []

theorem Ch.Calm.tablesSound (h : c.Calm) (hb : c.ps.badWords = []) : c.TablesSound := ⟨h.unforced .ps, h.sound, hb⟩

theorem Ch.TablesSound.putSeq (h : c.TablesSound) : (c.putSeq q a).TablesSound := h

theorem Ch.readPs_clean {bank word k : Nat} (h : c.TablesSound) : c.readPs e bank word k = (c, false) := by
  obtain ⟨hf, hu, hb⟩ := h
  have hr : c.readEcc e.quiet .ps 4 bank word k { access := 4 } = (c, false) := Ch.readEcc_clean hf hu rfl
  unfold Ch.readPs
  simp [hb, hr]

/-- An entry with an empty reset list resets nothing. -/
theorem Ch.resetList_empty (h : c.TablesSound) (h0 : fld (c.entry n).w2 26 17 = 0) : c.resetList e q n = (c, false) := by
  unfold Ch.resetList
  rw [Ch.readPs_clean h, show (c.entry n).resetLen = 0 from h0]
  rfl

/-! ### The start of a phase (R231, R236) -/

/-- A sequence as it enters entry `n` at `stamp` (R236). -/
def Seq.started (a : Seq) (n stamp : Nat) (lean : Bool) : Seq :=
  { a with st := .run, entry := n, start := stamp, deadlineOn := true, missed := false, lean := lean }

/-- Sequence `q` has become `a`, and one more phase has started. -/
def Ch.phaseStarted (q : Nat) (a : Seq) (c : Ch) : Ch :=
  let c1 := c.putSeq q a
  { c1 with ps := { c1.ps with phases := inc c1.ps.phases } }

theorem Ch.seq_phaseStarted (hw : SMap.wf {} c.ps.seqs = true) : (c.phaseStarted q a).seq q = a := Ch.seq_putSeq hw

theorem Ch.seq_phaseStarted_of_ne (hw : SMap.wf {} c.ps.seqs = true) (h : x ≠ q) : (c.phaseStarted q a).seq x = c.seq x :=
  Ch.seq_putSeq_of_ne hw h

/-- The start actions of an entry without preloads, and without a LEAN_FLAG where the phase starts lean. -/
theorem Ch.startActions_plain (h45 : (c.entry n).w3.testBit 45 = false) (h63 : (c.entry n).w3.testBit 63 = false)
    (h20 : lean = true → (c.entry n).w3.testBit 20 = false) :
    c.startActions e q n lean = c.phaseStarted q ((c.seq q).started n e.stamp lean) := by
  have hflag : (lean && (c.entry n).w3.testBit 20) = false := by
    cases lean with
    | false => rfl
    | true => exact h20 rfl
  unfold Ch.startActions Ch.phasePreloads bit
  simp only [h45, h63, Bool.false_eq_true, if_false]
  rw [hflag]
  rfl

theorem Ch.conflicts_eq_false {o : EndObj}
    (h : ∀ x < 16, x ≠ q → (c.seq x).st = .run ∨ (c.seq x).st = .held → (c.entry (c.seq x).entry).endObj ≠ o) :
    c.conflicts q o = false := by
  unfold Ch.conflicts
  rw [List.any_eq_false]
  intro x hx hc
  simp only [Bool.and_eq_true, Bool.or_eq_true, decide_eq_true_eq] at hc
  obtain ⟨⟨hne, hst⟩, ho⟩ := hc
  exact h x (List.mem_range.mp hx) hne hst ho

/-- A sequence enters an entry without preloads whose end object no other sequence's phase has. -/
theorem Ch.startPhase_plain (hs : c.TablesSound) (h45 : (c.entry n).w3.testBit 45 = false)
    (h63 : (c.entry n).w3.testBit 63 = false) (h20 : lean = true → (c.entry n).w3.testBit 20 = false)
    (ho : ∀ x < 16, x ≠ q → (c.seq x).st = .run ∨ (c.seq x).st = .held → (c.entry (c.seq x).entry).endObj ≠ (c.entry n).endObj) :
    c.startPhase e q n lean = c.phaseStarted q ((c.seq q).started n e.stamp lean) := by
  unfold Ch.startPhase
  rw [Ch.readPs_clean hs]
  dsimp only
  rw [if_neg Bool.false_ne_true, Ch.conflicts_eq_false ho, if_neg Bool.false_ne_true]
  exact Ch.startActions_plain h45 h63 h20

/-! ### The choice of a score (R227) -/

theorem Ch.selectScore_invalid {score : Nat} (hs : c.TablesSound) (hv : (c.img.scores.get 0 score).testBit 63 = false) :
    c.selectScore e q score = (c, stBadIndex) := by
  unfold Ch.selectScore bit
  rw [Ch.readPs_clean hs, hv]
  rfl

theorem Ch.selectScore_running {score : Nat} (hs : c.TablesSound) (hv : (c.img.scores.get 0 score).testBit 63 = true)
    (hst : (c.seq q).st = .run ∨ (c.seq q).st = .held ∨ (c.seq q).st = .audit) :
    c.selectScore e q score = (c, stFalse) := by
  unfold Ch.selectScore bit
  rw [Ch.readPs_clean hs, hv]
  dsimp only
  rw [if_neg (by decide), if_pos hst]

/-- A valid score starts a sequence that is IDLE or STOPPED, at a first entry that resets and preloads nothing and ends at an object
no other sequence ends at. -/
theorem Ch.selectScore_starts {score : Nat} (hs : c.TablesSound) (hw : SMap.wf {} c.ps.seqs = true)
    (hv : (c.img.scores.get 0 score).testBit 63 = true) (hst : (c.seq q).st = .idle ∨ (c.seq q).st = .stopped)
    (hn : fld (c.img.scores.get 0 score) 15 0 = n) (h0 : fld (c.entry n).w2 26 17 = 0)
    (h45 : (c.entry n).w3.testBit 45 = false) (h63 : (c.entry n).w3.testBit 63 = false)
    (ho : ∀ x < 16, x ≠ q → (c.seq x).st = .run ∨ (c.seq x).st = .held → (c.entry (c.seq x).entry).endObj ≠ (c.entry n).endObj) :
    c.selectScore e q score =
      (c.phaseStarted q ({ c.seq q with score := score }.started n e.stamp false), stOk) := by
  subst hn
  have hst' : ¬ ((c.seq q).st = .run ∨ (c.seq q).st = .held ∨ (c.seq q).st = .audit) := by
    rcases hst with h | h <;> rw [h] <;> decide
  unfold Ch.selectScore bit
  rw [Ch.readPs_clean hs, hv]
  dsimp only
  rw [if_neg (by decide), if_neg hst', if_neg Bool.false_ne_true, Ch.resetList_empty hs.putSeq h0, if_neg Bool.false_ne_true,
    Ch.startPhase_plain hs.putSeq h45 h63 (fun h => absurd h Bool.false_ne_true), Ch.seq_putSeq hw]
  · unfold Ch.phaseStarted
    rw [Ch.putSeq_putSeq hw]
    rfl
  · intro x hx hne
    rw [Ch.seq_putSeq_of_ne hw hne]
    exact ho x hx hne

end
end Sys2Proof.Machine
end

section

/-! ## SEQ_SELECT (R227, R236) -/

namespace Sys2Proof.Machine
section
variable {s : State} {n lid : Nat} {r : Req} {c d : Ch} {e : Env} {q score : Nat}

/-- The mask of the selectors is readable, and it names this logical ID (R227). -/
structure Ch.Selects (c : Ch) (lid : Nat) : Prop where
  enabled  : c.img.selEn = true
  readable : c.img.selMask ∉ c.os.badMasks
  inMask   : lid < 2048
  member   : (c.mask c.img.selMask).testBit lid = true

theorem Ch.selectorOk_member (hs : c.Sound) (h : c.Selects lid) : c.selectorOk e lid = (c, true) := by
  unfold Ch.selectorOk
  rw [Ch.readMask_clean hs h.readable]
  simp [h.enabled, h.inMask, h.member]

/-- A SEQ_SELECT names a sequence, which its index can only do when it is below 16. -/
theorem Ch.checkOp_seqSelect (hcls : r.cls = 7) (hi : r.index.toNat < 16) : c.checkOp (reqPacket opSeqSelect r) lid = none := by
  have hcl : r.cls.toNat = clSeq := by rw [hcls]; rfl
  refine Ch.checkOp_none ?_ ?_ ?_ (fun _ => ?_) ?_ ?_ ?_
  case refine_1 => rw [hcl]; rfl
  case refine_4 => rw [if_neg (by decide), hcl]; exact hi
  all_goals simp [hcl]

/-- A selector's SEQ_SELECT passes the checks at the hub. -/
theorem Ch.checkPacket_seqSelect (h : c.Calm) (hl : c.lidOf r.endpoint.toNat = some lid) (hf : r.endpoint.toNat ∉ c.ctl.fenced)
    (hcls : r.cls = 7) (hi : r.index.toNat < 16) (hsel : c.Selects lid) :
    c.checkPacket e (reqPacket opSeqSelect r) none = (c, .passed lid) := by
  have hl' : c.lidOf (reqPacket opSeqSelect r).phys = some lid := hl
  have hf' : (reqPacket opSeqSelect r).phys ∉ c.ctl.fenced := hf
  unfold Ch.checkPacket
  simp only [hl', List.contains_eq_mem, decide_eq_true_eq, hf', if_false]
  rw [Ch.readEcc_clean (h.unforced .rq) h.sound rfl]
  dsimp only
  rw [Ch.checkOp_seqSelect hcls hi]
  dsimp only
  rw [if_neg Bool.false_ne_true, if_pos (show (reqPacket opSeqSelect r).opcode = opSeqSelect from rfl),
    Ch.selectorOk_member h.os hsel]
  rfl

/-- A selector's SEQ_SELECT is performed at once by a calm channel. -/
theorem Ch.hubPacket_seqSelect (h : c.Calm) (hr : Clean r) (hl : c.lidOf r.endpoint.toNat = some lid)
    (hf : r.endpoint.toNat ∉ c.ctl.fenced) (hcls : r.cls = 7) (hi : r.index.toNat < 16) (hsel : c.Selects lid) :
    c.hubPacket e (reqPacket opSeqSelect r) =
      (c.passed (c.workBank (.req (reqPacket opSeqSelect r) lid)) (reqPacket opSeqSelect r).ingress).performReq e
        ((reqPacket opSeqSelect r).op lid) := by
  have hcl : r.cls.toNat = clSeq := by rw [hcls]; rfl
  unfold Ch.hubPacket
  rw [Ch.meetLower_calm h hr.1]
  unfold Ch.deadTrain
  simp only [show (reqPacket opSeqSelect r).trailer = false from rfl,
    show (reqPacket opSeqSelect r).opcode = opSeqSelect from rfl,
    show opSeqSelect ≠ opWaitAny by decide, Bool.false_or, ne_eq, not_false_eq_true, decide_true, if_true]
  rw [Ch.checkPacket_seqSelect h hl hf hcls hi hsel]
  dsimp only
  rw [Ch.toBank_calm h _ (Ch.workBank_req _ _ _) rfl (Ch.stalls_of_cls (by rw [hcl]; decide))]
  rfl

theorem Ch.seqSelectOp_eq (hq : c.out = []) (hn : e.chan = n) (hcls : r.cls = 7) {status : Nat}
    (hc : (c.counted (reqPacket opSeqSelect r) lid).selectScore e r.index.toNat (fld r.operand.toNat 7 0) = (d, status))
    (hd : d.out = []) :
    (c.passed (c.workBank (.req (reqPacket opSeqSelect r) lid)) (reqPacket opSeqSelect r).ingress).performReq e
      ((reqPacket opSeqSelect r).op lid) =
      { d with out := [replyTo n opSeqSelect r status (d.seq r.index.toNat).result true] } := by
  have hcl : ((reqPacket opSeqSelect r).op lid).cls = clSeq := by
    show r.cls.toNat = clSeq
    rw [hcls]
    rfl
  have hop : ∀ b : Ch, b.plainOp e ((reqPacket opSeqSelect r).op lid) = b.seqSelect e ((reqPacket opSeqSelect r).op lid) := by
    intro b
    unfold Ch.plainOp
    simp only [hcl]
    rfl
  have hlen : (c.counted (reqPacket opSeqSelect r) lid).out.length = 0 := by rw [Ch.counted_out, hq]; rfl
  unfold Ch.performReq
  rw [Ch.counted_passed]
  dsimp only
  rw [show ((reqPacket opSeqSelect r).op lid).opcode = opSeqSelect from rfl, if_neg (by decide), if_neg (by decide),
    show parks opSeqSelect ((reqPacket opSeqSelect r).op lid).index = false from rfl, if_neg Bool.false_ne_true, hop, hlen]
  unfold Ch.seqSelect
  rw [show ((reqPacket opSeqSelect r).op lid).index = r.index.toNat from rfl,
    show ((reqPacket opSeqSelect r).op lid).operand = r.operand.toNat from rfl, hc]
  exact (Ch.answer_quiet _ _ _ _ _ hn).trans (by rw [hd]; rfl)

/-- A selector's SEQ_SELECT that its node takes answers what the choice of its score leaves. -/
theorem exec_seqSelect (h : s.Serves n r.endpoint.toNat lid) (hr : Clean r) (hcls : r.cls = 7) (hi : r.index.toNat < 16)
    (hsel : (s.ch n).Selects lid) {status : Nat}
    (hc : ((s.ch n).counted (reqPacket opSeqSelect r) lid).selectScore (s.envOf n opSeqSelect r) r.index.toNat
      (fld r.operand.toNat 7 0) = (d, status)) (hd : d.Same (s.ch n)) :
    exec (.seqSelect r) s = .next (s.served n opSeqSelect r d
      [replyTo n opSeqSelect r status (d.seq r.index.toNat).result true]) := by
  refine act_served h hr ?_ hd
  rw [Ch.hubPacket_seqSelect h.calm hr h.maps h.unfenced hcls hi hsel]
  exact Ch.seqSelectOp_eq h.calm.out_nil rfl hcls hc hd.quiet.2.1

/-- Settles O21: the selector passes the hub's checks, and its op is the choice of a score, whose outcome is answered. -/
theorem seqSelects : Obligations.SeqSelects := by
  intro s n lid q score r hs hr hcls hi hq hscore hen hmask hlid hbit hbad hwf c word first en st ends
  subst hi hscore
  have hsel : (s.ch n).Selects lid := ⟨hen, hmask, hlid, hbit⟩
  have htab : c.TablesSound := (hs.calm.counted _).tablesSound hbad
  have hsame : c.Same (s.ch n) := hs.calm.same _
  refine ⟨fun hv => ?_, fun hv hst => ?_, fun hv hst h0 h45 h63 ho => ?_⟩
  · exact exec_seqSelect hs hr hcls hq hsel (Ch.selectScore_invalid htab hv) hsame
  · exact exec_seqSelect hs hr hcls hq hsel (Ch.selectScore_running htab hv hst) hsame
  · have hput : ∀ a, (c.phaseStarted r.index.toNat a).seq r.index.toNat = a := fun a => Ch.seq_phaseStarted hwf
    have hexec := exec_seqSelect hs hr hcls hq hsel (Ch.selectScore_starts htab hwf hv hst rfl h0 h45 h63 ho)
      (d := c.phaseStarted r.index.toNat _) ⟨hsame.quiet, hsame.edge⟩
    rw [hput] at hexec
    exact hexec

end
end Sys2Proof.Machine
end

section

/-! ## Writes of PS_SEQ_CTL_s (R227, R241, R242) -/

namespace Sys2Proof.Machine
section
variable {s : State} {c d : Ch} {e : Env} {q n l word score : Nat} {v : Seq} {b : Lane} {fn : BitVec 8} {outs : List Output}

/-! ### The command bits -/

theorem testBit_fld_low (k : Nat) (hk : k < 3) : (fld word 2 0).testBit k = word.testBit k := by
  unfold fld
  rw [Nat.pow_zero, Nat.div_one, Nat.testBit_mod_two_pow]
  simp [show k < 2 + 1 - 0 from hk]

theorem command_select (h : fld word 2 0 = 1) :
    word.testBit 0 = true ∧ word.testBit 1 = false ∧ word.testBit 2 = false := by
  refine ⟨?_, ?_, ?_⟩ <;> rw [← testBit_fld_low _ (by decide), h] <;> rfl

theorem command_restart (h : fld word 2 0 = 2) :
    word.testBit 0 = false ∧ word.testBit 1 = true ∧ word.testBit 2 = false := by
  refine ⟨?_, ?_, ?_⟩ <;> rw [← testBit_fld_low _ (by decide), h] <;> rfl

theorem command_stop (h : fld word 2 0 = 4) : word.testBit 2 = true := by
  rw [← testBit_fld_low _ (by decide), h]
  rfl

/-! ### The commands, of a channel in RUN -/

/-- The sequence as every write of its control register leaves it: SCORE is stored (R430). -/
def Seq.scored (v : Seq) (word : Nat) : Seq := { v with ctlScore := fld word 15 8 }

/-- STATUS of a sequence's last command. -/
def Ch.seqStatus (q status : Nat) (c : Ch) : Ch := c.putSeq q { c.seq q with ctlStatus := status }

theorem Ch.seqStatus_putSeq (hw : SMap.wf {} c.ps.seqs = true) {status : Nat} :
    (c.putSeq q v).seqStatus q status = c.putSeq q { v with ctlStatus := status } := by
  unfold Ch.seqStatus
  rw [Ch.seq_putSeq hw, Ch.putSeq_putSeq hw]

theorem Ch.phaseStarted_putSeq (hw : SMap.wf {} c.ps.seqs = true) {a : Seq} :
    (c.putSeq q v).phaseStarted q a = c.phaseStarted q a := by
  unfold Ch.phaseStarted
  rw [Ch.putSeq_putSeq hw]

theorem Ch.seqStatus_phaseStarted (hw : SMap.wf {} c.ps.seqs = true) {status : Nat} :
    (c.phaseStarted q v).seqStatus q status = c.phaseStarted q { v with ctlStatus := status } :=
  congrArg (fun d : Ch => ({ d with ps := { d.ps with phases := inc c.ps.phases } } : Ch)) (Ch.seqStatus_putSeq hw)

theorem Ch.seqCommand_select (hr : c.ctl.st = .run) (hv : c.seq q = v) (h : fld word 2 0 = 1) :
    c.seqCommand e q word =
      ((c.putSeq q (v.scored word)).selectScore e q (fld word 15 8)).1.seqStatus q
        ((c.putSeq q (v.scored word)).selectScore e q (fld word 15 8)).2 := by
  subst hv
  obtain ⟨h0, h1, h2⟩ := command_select h
  unfold Ch.seqCommand bit
  simp only [h0, h1, h2, Bool.or_false, Bool.not_true, Bool.false_and, Bool.false_eq_true, if_false]
  exact if_neg (fun hx => hx hr)

theorem Ch.seqCommand_restart (hr : c.ctl.st = .run) (hv : c.seq q = v) (h : fld word 2 0 = 2) :
    c.seqCommand e q word =
      (if ((c.putSeq q (v.scored word)).seq q).st = .run then ((c.putSeq q (v.scored word)).restartPhase e q).seqStatus q stOk
       else (c.putSeq q (v.scored word)).seqStatus q stFalse) := by
  subst hv
  obtain ⟨h0, h1, h2⟩ := command_restart h
  unfold Ch.seqCommand bit
  simp only [h0, h1, h2, Bool.or_false, Bool.false_or, Bool.not_true, Bool.not_false, Bool.true_or, Bool.and_self,
    Bool.false_eq_true, if_false, if_true]
  exact if_neg (fun hx => hx hr)

theorem Ch.seqCommand_stop (hr : c.ctl.st = .run) (hv : c.seq q = v) (h : fld word 2 0 = 4) :
    c.seqCommand e q word = ((c.putSeq q (v.scored word)).stopCommand e q).seqStatus q stOk := by
  subst hv
  unfold Ch.seqCommand bit
  simp only [command_stop h, Bool.or_true, Bool.not_true, Bool.false_eq_true, if_false, if_true]
  exact if_neg (fun hx => hx hr)

/-! ### RESTART of a phase that ends at a lane (R241) -/

/-- What a sequence stores of itself makes no entry less plain to it. -/
theorem Ch.PlainEntry.putSeq (h : c.PlainEntry q n) (hw : SMap.wf {} c.ps.seqs = true) : (c.putSeq q v).PlainEntry q n := by
  obtain ⟨h0, h45, h63, h20, ho⟩ := h
  refine ⟨h0, h45, h63, h20, fun x hx hne => ?_⟩
  rw [Ch.seq_putSeq_of_ne hw hne]
  exact ho x hx hne

/-- A sequence in RUN that starts its phase again keeps its entry and its lean mode. -/
theorem Seq.started_again (hst : v.st = .run) (stamp : Nat) :
    v.started v.entry stamp v.lean = { v with start := stamp, deadlineOn := true, missed := false } := by
  unfold Seq.started
  rw [← hst]

/-- The round of a lane that no accord binds is given up with TMO 1, and the phase starts again. -/
theorem Ch.restartPhase_lane (hs : c.TablesSound) (ht : c.TreeSound) (hv : c.seq q = v) (hst : v.st = .run)
    (hp : c.PlainEntry q v.entry) (ho : (c.entry v.entry).endObj = .lane l) (hb : c.lane l = b) (hm : b.members ≠ [])
    (ha : c.accObj (.lane l) = none) (hout : c.out = []) :
    c.restartPhase e q =
      { (c.phaseStarted q { v with start := e.stamp, deadlineOn := true, missed := false }).putLane l (b.forced .active) with
        out := [.laneRelease e.chan l (b.gen + 1).toNat true (c.coresOf (b.members.filter (fun i => b.p i != b.rp)))] } := by
  subst hv
  obtain ⟨h0, h45, h63, h20, -⟩ := hp
  have hround : c.endRound e (.lane l) = { c.putLane l (b.forced .active) with
      out := [.laneRelease e.chan l (b.gen + 1).toNat true (c.coresOf (b.members.filter (fun i => b.p i != b.rp)))] } := by
    have hmem : (c.lane l).members.isEmpty = false := by rw [hb]; exact List.isEmpty_eq_false_iff.mpr hm
    show c.rearmLane e l = _
    unfold Ch.rearmLane
    rw [hmem, if_neg Bool.false_ne_true, Ch.forceLane_clean ht hb, hout]
    rfl
  unfold Ch.restartPhase
  dsimp only
  rw [Ch.resetList_empty hs h0]
  dsimp only
  rw [if_neg Bool.false_ne_true, ho, Ch.breakIfBound_unbound ha, hround, ← Seq.started_again hst]
  exact (if_pos hst).trans (Ch.startActions_plain h45 h63 (fun _ => h20))

/-! ### STOP (R242) -/

theorem Ch.stopCommand_audit (hst : (c.seq q).st = .audit) : c.stopCommand e q = c.putSeq q { c.seq q with stopping := true } := by
  unfold Ch.stopCommand
  dsimp only
  rw [hst]

theorem Ch.stopCommand_atOnce (hst : (c.seq q).st ≠ .audit) (hh : (c.seq q).st ≠ .held) : c.stopCommand e q = c.stopSeq q := by
  unfold Ch.stopCommand
  dsimp only
  split
  case h_1 h => exact absurd h hst
  case h_2 h => exact absurd h hh
  case h_3 => rfl

/-- STATUS is stored beside what the lanes hold and what has left. -/
theorem Ch.seqStatus_putLane (status : Nat) : ({ c.putLane l b with out := outs } : Ch).seqStatus q status =
    { (c.seqStatus q status).putLane l b with out := outs } := rfl

/-! ### The command -/

theorem Ch.writePage_seq (hq : q < 16) : c.writePage e 7 (0x100 + 8 * q) word = c.seqCommand e q word := by
  have hsel : c.writeSel e 7 (0x100 + 8 * q) word = none := by
    unfold Ch.writeSel
    split <;> simp_all <;> omega
  have hreg : regNo (0x100 + 8 * q) 0x100 16 = some q := by
    unfold regNo
    rw [if_pos (by omega)]
    congr 1
    omega
  have hne : ¬ (0x100 + 8 * q = 0x400 ∧ bit word 63 = true) := fun h => absurd h.1 (by omega)
  unfold Ch.writePage
  rw [hsel]
  show (if 0x100 + 8 * q = 0x400 ∧ bit word 63 then _ else
    match regNo (0x100 + 8 * q) 0x100 16 with | some l => c.seqCommand e l word | none => c) = _
  rw [if_neg hne, hreg]

/-- A host function's write of PS_SEQ_CTL_s after which the channel settles. -/
theorem act_seqCtl {n : ChanId} {q : BitVec 4} (h : s.Ready n.val) (ha : s.Admits fn (chanOff n.val 7 (0x100 + 8 * q.toNat)) word)
    (hf : (s.ch n.val).seqCommand (s.seen n.val .none) q.toNat word = { d with out := outs }) (hd : d.Same (s.ch n.val)) :
    act s (fun s => s.hostWrite (.host fn) (chanOff n.val 7 (0x100 + 8 * q.toNat)) word) =
      .next (s.wroteChan fn (chanOff n.val 7 (0x100 + 8 * q.toNat)) word n.val d outs) := by
  have hq : q.toNat < 16 := q.isLt
  refine act_write_page h ha (by decide) (by omega) (fun hx => absurd hx.1 (by decide)) (fun hx => absurd hx.1 (by decide)) ?_ hd
  rw [Ch.writePage_seq hq, hf]
  exact Ch.settle_quiet hd.quiet.1 hd.quiet.2.2.2.1

/-- Settles O33: every write stores SCORE, then its one command acts on the sequence, and STATUS tells how it ended. -/
theorem sequenceWrites : Obligations.SequenceWrites := by
  intro s n q w fn v l b hready hadm hv hbad hwf hwl hb c e score ends word
  have hq : c.Quiet := hready.calm.quiet
  have hrun : c.ctl.st = .run := hready.calm.run
  have htab : c.TablesSound := hready.calm.tablesSound hbad
  have hseq : (c.putSeq q.toNat (v.scored w.toNat)).seq q.toNat = v.scored w.toNat := Ch.seq_putSeq hwf
  have hput : ∀ x, (c.putSeq q.toNat (v.scored w.toNat)).putSeq q.toNat x = c.putSeq q.toNat x := fun x => Ch.putSeq_putSeq hwf
  have hstatus : ∀ x st, (c.putSeq q.toNat x).seqStatus q.toNat st = c.putSeq q.toNat { x with ctlStatus := st } :=
    fun x st => Ch.seqStatus_putSeq hwf
  have hsame : ∀ x, (c.putSeq q.toNat x).Same c := fun x => ⟨hq, rfl⟩
  have hstored : ∀ x, (s.ch n.val).seqCommand (s.seen n.val .none) q.toNat w.toNat = c.putSeq q.toNat x →
      act s (fun s => s.hostWrite (.host fn) (chanOff n.val 7 (0x100 + 8 * q.toNat)) w.toNat) =
        .next (s.wroteChan fn (chanOff n.val 7 (0x100 + 8 * q.toNat)) w.toNat n.val (c.putSeq q.toNat x) []) :=
    fun x h => act_seqCtl hready hadm (h.trans (hsame x).out_nil.symm) (hsame x)
  refine ⟨fun hcmd => ⟨fun hval => ?_, fun hval hst => ?_, fun hval hst hplain => ?_⟩,
    fun hcmd => ⟨fun hst => ?_, fun hst hplain ho hm ha => ?_⟩, fun hcmd => ⟨fun hst => ?_, fun hst hheld => ?_⟩⟩
  · refine hstored _ ?_
    rw [Ch.seqCommand_select hrun hv hcmd, Ch.selectScore_invalid htab.putSeq hval, hstatus]
    rfl
  · refine hstored _ ?_
    rw [Ch.seqCommand_select hrun hv hcmd, Ch.selectScore_running htab.putSeq hval (by rw [hseq]; exact hst), hstatus]
    rfl
  · obtain ⟨h0, h45, h63, -, ho⟩ := hplain.putSeq (v := v.scored w.toNat) hwf
    have hd : ∀ x, (c.phaseStarted q.toNat x).Same c := fun x => ⟨hq, rfl⟩
    refine act_seqCtl (d := c.phaseStarted q.toNat _) hready hadm ?_ (hd _)
    rw [Ch.seqCommand_select hrun hv hcmd,
      Ch.selectScore_starts htab.putSeq (Ch.wf_putSeq hwf) hval (by rw [hseq]; exact hst) rfl h0 h45 h63 ho, hseq,
      Ch.phaseStarted_putSeq hwf, Ch.seqStatus_phaseStarted hwf]
    exact (hd _).out_nil.symm
  · refine hstored _ ?_
    rw [Ch.seqCommand_restart hrun hv hcmd, hseq, if_neg (show ¬ (v.scored w.toNat).st = .run from hst), hstatus]
    rfl
  · refine act_seqCtl (d := (c.putLane l (b.forced .active)).phaseStarted q.toNat { v with
      start := e.stamp, deadlineOn := true, missed := false, ctlScore := score, ctlStatus := stOk }) hready hadm ?_ ⟨hq, rfl⟩
    rw [Ch.seqCommand_restart hrun hv hcmd, hseq, if_pos (show (v.scored w.toNat).st = .run from hst),
      Ch.restartPhase_lane htab.putSeq hready.calm.treeSound hseq hst (hplain.putSeq hwf) ho hb hm ha hq.2.1,
      Ch.phaseStarted_putSeq hwf, Ch.seqStatus_putLane, Ch.seqStatus_phaseStarted hwf]
    rfl
  · refine hstored _ ?_
    rw [Ch.seqCommand_stop hrun hv hcmd, Ch.stopCommand_audit (by rw [hseq]; exact hst), hseq, hput, hstatus]
    rfl
  · refine hstored _ ?_
    rw [Ch.seqCommand_stop hrun hv hcmd, Ch.stopCommand_atOnce (by rw [hseq]; exact hst) (by rw [hseq]; exact hheld)]
    unfold Ch.stopSeq
    rw [hseq, hput, hstatus]
    rfl

end
end Sys2Proof.Machine
end

section

/-! ## Passes of the budget gate (R243, R247 to R249) -/

namespace Sys2Proof.Machine
section
variable {s : State} {c d : Ch} {e : Env} {q n l x : Nat} {h : Held} {rest : List Held} {a : Seq} {v : Lane} {lean : Bool}

/-! ### A release that passes -/

theorem Ch.lane_putLane_of_ne (hw : SMap.wf {} c.bw.lanes = true) (hne : x ≠ l) : (c.putLane l v).lane x = c.lane x :=
  (SMap.get_put hw l x v).trans (if_neg hne)

theorem Lane.released_kept (hs : v.swapPending = false) : v.released =
    { v with gen := v.gen + 1, tmo := false, st := .active, gated := false, timer := none, stalled := none,
             roundUs := v.timeoutUs } := by
  unfold Lane.released
  rw [hs]
  rfl

/-- Nothing is left to do, so nothing is lost where the work that is left is taken away. -/
theorem Ch.with_todo_nil (h : c.todo = []) : ({ c with todo := [] } : Ch) = c := by rw [← h]

/-- One thing that is left to do, which leaves one thing more. -/
theorem Ch.settle_chain {t u : Todo} {b : Ch} (hc : c.todo = []) (h1 : c.doTodo e t = { b with todo := [u] }) (hb : b.todo = [])
    (h2 : b.doTodo e u = d) (hd : d.todo = []) (hh : d.haltReq = false) : ({ c with todo := [t] } : Ch).settle e = d := by
  have hc' : ({ { c with todo := [t] } with todo := [] } : Ch) = c := Ch.with_todo_nil hc
  have hb' : ({ { b with todo := [u] } with todo := [] } : Ch) = b := Ch.with_todo_nil hb
  exact Ch.settle_two rfl ((congrArg (Ch.doTodo e t) hc').trans h1) rfl ((congrArg (Ch.doTodo e u) hb').trans h2) hd hh

/-- The channel with a lane released, and the release on its way. -/
def Ch.laneSent (e : Env) (l : Nat) (v : Lane) (c : Ch) : Ch :=
  { c.putLane l v.released with out := [.laneRelease e.chan l (v.gen + 1).toNat false (c.coresOf v.members)] }

/-- A release passes at a lane that no accord binds, into an entry that resets nothing: the lane releases, and what follows waits
to be done. -/
theorem Ch.passRelease_lane (hs : c.TablesSound) (ht : c.TreeSound) (ho : h.obj = .lane l) (hv : c.lane l = v)
    (hb : v.preloadBusy = false) (ha : c.accObj (.lane l) = none) (h0 : fld (c.entry h.succ).w2 26 17 = 0) (hout : c.out = [])
    (htodo : c.todo = []) :
    c.passRelease e h lean = { c.laneSent e l v with todo := [.next (.phase h.seq h.succ h.chosen lean)] } := by
  subst hv
  unfold Ch.passRelease
  rw [ho, ha]
  unfold Ch.moveOn
  rw [Ch.resetList_empty hs h0]
  show c.releaseLaneThen e l _ = _
  unfold Ch.releaseLaneThen
  rw [hb, if_neg Bool.false_ne_true, Ch.releaseLane_clean ht rfl, hout]
  exact congrArg (fun w => ({ c.laneSent e l (c.lane l) with todo := w ++ [.next (.phase h.seq h.succ h.chosen lean)] } : Ch)) htodo

/-- A release that passed is all that is left to do: the lane releases, and the sequence runs the successor's phase. -/
theorem Ch.settle_pass (hq : c.Quiet) (hr : c.ctl.st = .run) (hs : c.TablesSound) (ht : c.TreeSound) (ho : h.obj = .lane l)
    (hv : c.lane l = v) (hb : v.preloadBusy = false) (ha : c.accObj (.lane l) = none) (hseq : h.seq = q)
    (hst : (c.seq q).st = .held) (hp : c.PlainEntry q h.succ) :
    ({ c with todo := [.pass h lean] } : Ch).settle e =
      (c.laneSent e l v).phaseStarted q ((c.seq q).started h.succ e.stamp lean) := by
  subst hseq
  obtain ⟨htodo, hout, -, hhalt, -⟩ := hq
  obtain ⟨h0, h45, h63, h20, hends⟩ := hp
  have hnext : (c.laneSent e l v).doAfter e (.phase h.seq h.succ h.chosen lean) =
      (c.laneSent e l v).phaseStarted h.seq ((c.seq h.seq).started h.succ e.stamp lean) := by
    unfold Ch.doAfter
    exact (if_pos (.inr hst)).trans ((if_pos hr).trans
      (Ch.startPhase_plain (c := c.laneSent e l v) hs h45 h63 (fun _ => h20) hends))
  exact Ch.settle_chain htodo (Ch.passRelease_lane hs ht ho hv hb ha h0 hout htodo) htodo hnext htodo hhalt

/-! ### The gate's decisions -/

/-- The oldest held release has left the gate, and is charged (R243). -/
def Ch.gateCharged (h : Held) (rest : List Held) (c : Ch) : Ch :=
  Ch.charge h.succ { c with bg := { c.bg with holdQ := rest } }

theorem Ch.headPasses_iff (hq : c.bg.holdQ = h :: rest) : c.headPasses e = true ↔
    c.gateOk e (c.entry (c.seq h.seq).entry) h.succ = true ∧ ∀ x ∈ h :: rest, x.cause = none := by
  unfold Ch.headPasses
  rw [hq]
  simp [← Bool.not_eq_true, Option.isSome_iff_ne_none]

theorem Ch.gateOk_iff (ht : e.trip = false) {entry : Entry} {succ : Nat} : c.gateOk e entry succ = true ↔
    (1000 * (c.entry succ).cost : Int) ≤ c.bg.bucket ∧ e.phaseClass entry < c.img.therm := by
  unfold Ch.gateOk Ch.covers Ch.cool
  simp [ht]

theorem Ch.gatePass_passes (hq : c.bg.holdQ = h :: rest) (htodo : c.todo = []) (hp : c.headPasses e = true) :
    c.gatePass e = { c.gateCharged h rest with todo := [.pass h false] } := by
  unfold Ch.gatePass
  rw [hq]
  dsimp only
  rw [if_pos hp, htodo]
  rfl

theorem Ch.gatePass_waits (hp : c.headPasses e = false) : c.gatePass e = c := by
  unfold Ch.gatePass
  split
  · rfl
  · rw [hp, if_neg Bool.false_ne_true]

/-- The oldest held release has left the gate in lean mode, is recorded with what was unmet, and is charged (R248). -/
def Ch.leanCharged (stamp cause : Nat) (h : Held) (rest : List Held) (c : Ch) : Ch :=
  Ch.charge h.succ { c with bg := { c.bg with
    holdQ := rest, leans := inc c.bg.leans, leanBucket := c.bg.bucket, leanSeq := h.seq, leanCause := cause,
    leanEntry := (c.seq h.seq).entry, leanTime := stamp } }

theorem Ch.leanRelease_head (hq : c.bg.holdQ = h :: rest) (htodo : c.todo = []) :
    c.leanRelease e h = { c.leanCharged e.stamp (h.cause.getD (c.leanCause e h)) h rest with todo := [.pass h true] } := by
  have herase : c.bg.holdQ.erase h = rest := by rw [hq, List.erase_cons_head]
  unfold Ch.leanRelease
  rw [herase]
  exact congrArg (fun w => ({ c.leanCharged e.stamp (h.cause.getD (c.leanCause e h)) h rest with
    todo := w ++ [.pass h true] } : Ch)) htodo

/-- The hold of the oldest release is over: it passes lean where the gate does not let it pass. -/
theorem Ch.leanPass_head (hq : c.bg.holdQ = h :: rest) (ht : e.trip = false)
    (hover : h.since + 1000 * c.img.maxHold ≤ e.time) (hfirst : h.cause.isSome = true ∨ ∀ x ∈ h :: rest, x.cause = none)
    (hno : h.cause.isSome = true ∨ c.headPasses e = false) : c.leanPass e h.seq = c.leanRelease e h := by
  have hfind : c.bg.holdQ.find? (fun x => x.seq = h.seq) = some h := by rw [hq]; simp
  have hover' : c.holdOver e.time h = true := by unfold Ch.holdOver; simpa using hover
  have hhead : (c.bg.holdQ.find? (fun x => x.cause.isSome)).getD h = h := by
    rw [hq]
    rcases hfirst with hs | hall
    · rw [List.find?_cons_of_pos (p := fun x : Held => x.cause.isSome) hs]
      rfl
    · rw [List.find?_eq_none.mpr (fun x hx => by simp [hall x hx])]
      rfl
  have hgate : (h.cause.isNone && decide (c.bg.holdQ.head? = some h) && c.headPasses e) = false := by
    rcases hno with hs | hp
    · rw [Option.isNone_eq_false_iff.mpr hs]
      rfl
    · rw [hp, Bool.and_false]
  unfold Ch.leanPass
  rw [hfind]
  dsimp only
  rw [ht, hover', hhead, hgate]
  simp

/-! ### What an event leaves -/

theorem State.ch_moved_self (s : State) (n : Nat) (c : Ch) (outs : List Output) : (s.moved n c outs).ch n = c := by
  unfold State.moved
  rw [State.ch_setPll, State.ch_busyNow, State.ch_leave, State.ch_setCh_self]

theorem State.ch_moved_of_ne {m : Nat} (hn : n < 4) (hm : m < 4) (hne : m ≠ n) (outs : List Output) :
    (s.moved n c outs).ch m = s.ch m := by
  unfold State.moved
  rw [State.ch_setPll, State.ch_busyNow, State.ch_leave, State.ch_setCh_of_ne _ _ hn hm hne, State.ch_begin]

theorem State.emitted_moved (s : State) (n : Nat) (c : Ch) (outs : List Output) : (s.moved n c outs).emitted = outs := by
  unfold State.moved
  simp [State.begin]

/-- The cause of a lean pass that the gate records now: 0 the budget, 1 the heat, 2 both (R248). -/
theorem Ch.leanCause_eq (h1 : ¬ ((1000 * (c.entry h.succ).cost : Int) ≤ c.bg.bucket ∧
      e.phaseClass (c.entry (c.seq h.seq).entry) < c.img.therm)) :
    c.leanCause e h = if (1000 * (c.entry h.succ).cost : Int) ≤ c.bg.bucket then 1
      else if e.phaseClass (c.entry (c.seq h.seq).entry) < c.img.therm then 0 else 2 := by
  unfold Ch.leanCause Ch.covers Ch.cool
  dsimp only
  by_cases hb : (1000 * (c.entry h.succ).cost : Int) ≤ c.bg.bucket
  · rw [decide_eq_true hb, decide_eq_false (fun hc => h1 ⟨hb, hc⟩), if_pos hb]
  · rw [decide_eq_false hb, if_neg hb]
    by_cases hc : e.phaseClass (c.entry (c.seq h.seq).entry) < c.img.therm
    · rw [decide_eq_true hc, if_pos hc]
    · rw [decide_eq_false hc, if_neg hc]

/-- Settles O31: the oldest held release leaves the gate when it may, or lean when its hold is over; its lane releases, and its
sequence runs the successor's phase. -/
theorem gatePasses : Obligations.GatePasses := by
  intro s n h rest l v q hready hqueue ho hseq hv hb hswap ha hst htrip hbad hplain hwl hws c e cost now covered cool goes fresh leans
  have hpasses : c.headPasses e = true ↔ fresh ∧ covered ∧ cool := by
    rw [Ch.headPasses_iff hqueue, Ch.gateOk_iff htrip, hseq]
    exact and_comm
  have hgo : ∀ (cmd : Instr) (lean : Bool) (b : Bg) (more : State → Prop) (f : Env → Ch → Ch),
      exec cmd s = actLive s n.val .none f → f e c = { c with bg := b, todo := [.pass h lean] } → b.holdQ = rest →
      b.bucket = max (c.bg.bucket - 1000 * cost) (-(1000 * c.img.capUj : Int)) → b.passes = inc c.bg.passes →
      b.chargedUj = sat64 (c.bg.chargedUj + cost) → (∀ t : State, (t.ch n.val).bg = b → more t) → goes cmd lean more := by
    intro cmd lean b more f hcmd hf h1 h2 h3 h4 hmore
    let c1 : Ch := { c with bg := b }
    have hset := Ch.settle_pass (c := c1) (e := e) (lean := lean) hready.calm.quiet hready.calm.run (hready.calm.tablesSound hbad)
      hready.calm.treeSound ho hv hb ha hseq hst hplain
    have hfin : exec cmd s = .next (s.moved n.val ((c1.putLane l v.released).phaseStarted q.toNat
        ((c.seq q.toNat).started h.succ e.stamp lean)) [.laneRelease n.val l (v.gen + 1).toNat false (c.coresOf v.members)]) :=
      hcmd.trans (actLive_event hready f ((congrArg (Ch.settle e) hf).trans hset) ⟨hready.calm.quiet, rfl⟩)
    refine ⟨_, hfin, ?_⟩
    rw [State.ch_moved_self, State.emitted_moved]
    exact ⟨h1, h2, h3, h4, (Ch.lane_putLane (c := c1) hwl).trans (Lane.released_kept hswap), rfl, Ch.seq_phaseStarted (c := c1.putLane l v.released) hws,
      fun m _ hm => Ch.lane_putLane_of_ne (c := c1) hwl hm, fun x _ hx => Ch.seq_phaseStarted_of_ne (c := c1.putLane l v.released) hws hx, rfl, rfl, rfl, rfl,
      rfl, fun m hm hne => State.ch_moved_of_ne n.isLt hm hne _, hmore _ (by rw [State.ch_moved_self]; rfl)⟩
  have hlean : ∀ cause, h.cause.getD (c.leanCause e h) = cause → h.since + 1000 * c.img.maxHold ≤ s.time →
      (h.cause.isSome = true ∨ fresh) → (h.cause.isSome = true ∨ c.headPasses e = false) → leans cause := by
    intro cause hcause hover hfirst hno
    refine hgo _ _ (c.leanCharged e.stamp cause h rest).bg _ (fun e c => c.leanPass e q.toNat) rfl ?_ rfl rfl rfl rfl
      (fun t ht => ?_)
    · show c.leanPass e q.toNat = _
      rw [← hseq, Ch.leanPass_head hqueue htrip hover hfirst hno, Ch.leanRelease_head hqueue hready.calm.quiet.1, hcause]
      rfl
    · rw [ht]
      exact ⟨rfl, rfl, hseq, congrArg (fun x => (c.seq x).entry) hseq, rfl, rfl⟩
  refine ⟨fun hf hcov hcool => ?_, fun hno => ?_, fun hf hno hover => ?_, fun x hx hover => ?_⟩
  · refine hgo _ _ (c.gateCharged h rest).bg _ Ch.gatePass rfl ?_ rfl rfl rfl rfl (fun t ht => by rw [ht]; rfl)
    exact Ch.gatePass_passes hqueue hready.calm.quiet.1 (hpasses.mpr ⟨hf, hcov, hcool⟩)
  · have hp : c.headPasses e = false := Bool.eq_false_iff.mpr (fun hp => hno (hpasses.mp hp))
    exact exec_live hready Ch.gatePass (Ch.gatePass_waits hp) hready.calm.refl
  · have hp : c.headPasses e = false := Bool.eq_false_iff.mpr (fun hp => hno (hpasses.mp hp).2)
    refine hlean _ ?_ hover (.inr hf) (.inr hp)
    rw [hf h (List.mem_cons_self ..)]
    exact (Ch.leanCause_eq (by rw [hseq]; exact hno)).trans (by rw [hseq])
  · exact hlean x (by rw [hx]; rfl) hover (.inl (by rw [hx]; rfl)) (.inl (by rw [hx]; rfl))

end
end Sys2Proof.Machine
end

section

/-! ## An audit that meets a poisoned membership mask -/

namespace Sys2Proof.Machine

/-- Channel A with sequence 0 in AUDIT. Its score 0 lists one object: strict barrier 0, at rest, whose membership mask 0 is poisoned. -/
def maskedAudit : Ch :=
  { ctl := { st := .run }, clk := { st := .active }, os := { badMasks := [0] }, ps := { seqs := [(0, { st := .audit })] },
    img := { scores := [(0, 2 ^ 33)], lists := [(0, 3 * 2 ^ 61)] } }

/-- The powered block with that channel. -/
def maskedAuditState : State := { por := false, chA := maskedAudit }

theorem maskedAuditState_ready : maskedAuditState.Ready 0 where
  por := rfl
  chan := by decide
  single := rfl
  settled := by decide
  calm := ⟨rfl, rfl, ⟨rfl, rfl, rfl, rfl, rfl⟩, rfl, rfl, rfl, rfl, rfl, fun u => by cases u <;> rfl⟩

/-- The audit's list is barrier 0, and it is at rest. -/
theorem maskedAudit_atRest : ∀ x ∈ runObjects (maskedAudit.img.lists.get 0 0),
    maskedAudit.atRest (runKind (maskedAudit.img.lists.get 0 0)) x = true := by
  decide

/-- AUDIT_COMPLETE reads the barrier with its mask, and so poisons it. -/
theorem maskedAuditState_mismatch : ∃ t, exec (.auditComplete 0 0) maskedAuditState = .next t ∧
    (t.ch (0 : ChanId).val).ps.mismatches = 1 :=
  ⟨(maskedAuditState.begin.atChan 0 .none (fun e c => c.auditComplete e 0)).afterwards, rfl, by decide +kernel⟩

/-- Refutes O32: its clause of an audit that finds every object at rest has no premise about the masks of strict barriers. The
audit reads a strict barrier together with its membership mask, and a mask that is poisoned poisons the barrier (R309): barrier 0 is
at rest as the audit begins, is poisoned by its read, and counts as a mismatch, where the statement has only the audit count change.
A premise that no listed strict barrier has its mask in `c.os.badMasks` is what the clause lacks. -/
theorem not_phaseChecks : ¬ Obligations.PhaseChecks := by
  intro h
  have hstated := (h.2 maskedAuditState 0 0 { st := .audit } 0 maskedAuditState_ready rfl rfl rfl).1
    (fun j hj x hx => by
      obtain rfl : j = 0 := Nat.lt_one_iff.mp hj
      exact maskedAudit_atRest x hx)
  obtain ⟨t, ht, hmiss⟩ := maskedAuditState_mismatch
  obtain rfl := Host.Outcome.next.inj (ht.symm.trans hstated)
  rw [State.ch_moved_self] at hmiss
  cases hmiss

end Sys2Proof.Machine
end

section

/-! ## What an event leaves at the block (R306, R348, R368, R391)

Whatever an event does with the channels, and whatever is served behind it, the load gate, the quarantined crossings, the PLLs and what
waits at the block's edges stay as the event's own steps left them; a shared fault can halt the block besides. -/

namespace Sys2Proof.Machine
section
variable {s a b : State} {n : Nat} {α : Type}

/-- What waits at the edges of the block. -/
def State.waits (s : State) := (s.nodeWait, s.bayQ, s.resetWait, s.hp.queues, s.hp.atPort)

/-- The load gate, the quarantined crossings, the PLLs, and what waits at the edges. -/
def State.gates (s : State) := (s.pt.gate, s.ck.quar, s.ck.pll, s.waits)

/-- What no channel's work changes: those, and whether the block has halted. -/
def State.shell (s : State) := (s.blockHalted, s.gates)

/-- Nothing waits at the edges of the block. -/
def State.Unattended (s : State) : Prop := s.waits = ([], [], [], [], [])

theorem State.gates_of_shell (h : b.shell = a.shell) : b.gates = a.gates := congrArg Prod.snd h

theorem State.Unattended.of_gates (h : a.Unattended) (hb : b.gates = a.gates) : b.Unattended := by
  simp only [State.gates, Prod.mk.injEq] at hb
  obtain ⟨-, -, -, hwaits⟩ := hb
  exact hwaits.trans h

theorem State.unattended_of_settled (h : s.settled = true) : s.Unattended := by
  obtain ⟨hnode, hbay, hreset, hqueues, hport, -⟩ := State.settled_iff.1 h
  unfold State.Unattended State.waits
  rw [hnode, hbay, hreset, hqueues, hport]

/-! ### Plain steps -/

@[simp] theorem State.shell_setCh (s : State) (n : Nat) (c : Ch) : (s.setCh n c).shell = s.shell := by
  simp [State.shell, State.gates, State.waits]

@[simp] theorem State.shell_setPair (s : State) (n : Nat) (p : Pair) : (s.setPair n p).shell = s.shell := by
  simp [State.shell, State.gates, State.waits]

@[simp] theorem State.shell_setShared (s : State) (u : SharedSub) (f : FaultSet) : (s.setShared u f).shell = s.shell := by
  simp [State.shell, State.gates, State.waits]

@[simp] theorem State.shell_leave (s : State) (l : List Output) : (s.leave l).shell = s.shell := rfl
@[simp] theorem State.shell_errPulse (s : State) (n : Option Nat) : (s.errPulse n).shell = s.shell := rfl
@[simp] theorem State.shell_busyNow (s : State) (n : Nat) : (s.busyNow n).shell = s.shell := rfl
@[simp] theorem State.shell_renew (s : State) : s.renew.shell = s.shell := rfl
@[simp] theorem State.shell_begin (s : State) : s.begin.shell = s.shell := rfl
@[simp] theorem State.shell_onCl (s : State) (f : Cl → Cl) : (s.onCl f).shell = s.shell := rfl

@[simp] theorem State.shell_finish (s : State) (n : Nat) (c : Ch) (l : List Output) : (s.finish n c l).shell = s.shell := by
  unfold State.finish
  dsimp only
  split <;> simp

theorem State.shell_foldl {f : State → α → State} (hf : ∀ t x, (f t x).shell = t.shell) (l : List α) (s : State) :
    (l.foldl f s).shell = s.shell := by
  induction l generalizing s with
  | nil => rfl
  | cons x l ih => exact (ih _).trans (hf s x)

/-! ### Channels and pairs -/

@[simp] theorem State.shell_diverge (s : State) (n : Nat) (ea eb : Env) (x y : Ch) (d : Option (Nat × Option Output × Option Output))
    (pass : List Output) : (s.diverge n ea eb x y d pass).shell = s.shell := by
  unfold State.diverge
  simp

@[simp] theorem State.shell_dropSide (s : State) (n : Nat) (second : Bool) (r : RaisedNow) (e : Env) (x y : Ch) :
    (s.dropSide n second r e x y).shell = s.shell := by
  unfold State.dropSide
  simp

@[simp] theorem State.shell_compare (s : State) (n : Nat) (ea eb : Env) (x y : Ch) : (s.compare n ea eb x y).shell = s.shell := by
  unfold State.compare
  dsimp only
  split <;> simp

@[simp] theorem State.shell_runAlone (s : State) (n k : Nat) (m : MemErr) (f : Env → Ch → Ch) :
    (s.runAlone n k m f).shell = s.shell := State.shell_finish ..

@[simp] theorem State.shell_runPair (s : State) (n : Nat) (m : MemErr) (f : Env → Ch → Ch) : (s.runPair n m f).shell = s.shell := by
  unfold State.runPair
  dsimp only
  split <;> simp

@[simp] theorem State.shell_onChan (s : State) (n : Nat) (m : MemErr) (f : Env → Ch → Ch) : (s.onChan n m f).shell = s.shell := by
  unfold State.onChan State.runHalted
  split <;> simp

@[simp] theorem State.shell_atChan (s : State) (n : Nat) (m : MemErr) (f : Env → Ch → Ch) : (s.atChan n m f).shell = s.shell := by
  unfold State.atChan
  split <;> simp

@[simp] theorem State.shell_onOwn (s : State) (n : Nat) (f : Env → Ch → Ch) : (s.onOwn n f).shell = s.shell := by
  unfold State.onOwn
  split <;> simp

@[simp] theorem State.shell_onList (s : State) (f : Env → Ch → Ch) (l : List Nat) : (s.onList f l).shell = s.shell :=
  State.shell_foldl (fun t n => t.shell_onOwn n f) l s

@[simp] theorem State.shell_onClks (s : State) (q n : Nat) (f : Clk → Clk) : (s.onClks q n f).shell = s.shell :=
  State.shell_foldl (fun t k => t.shell_setCh k _) _ s

/-! ### What is served at the end of a command -/

@[simp] theorem State.shell_takeReset (s : State) (phys : Nat) : (s.takeReset phys).shell = s.shell := by
  unfold State.takeReset
  split
  · rfl
  · dsimp only
    (repeat' split) <;> simp

@[simp] theorem State.shell_serveResets (s : State) (k : Nat) : (s.serveResets k).shell = s.shell := by
  unfold State.serveResets
  dsimp only
  split
  · rfl
  · refine (State.shell_foldl (fun t p => (t.renew.shell_takeReset p).trans t.shell_renew) _ _).trans ?_
    split <;> simp

@[simp] theorem State.shell_serveChan (s : State) (n : Nat) : (s.serveChan n).shell = s.shell := by
  unfold State.serveChan
  dsimp only
  (repeat' split) <;> simp

@[simp] theorem State.shell_gateIdle (s : State) (n : Nat) : (s.gateIdle n).shell = s.shell := by
  unfold State.gateIdle
  split <;> simp

theorem State.Unattended.serveWaiting (h : s.Unattended) :
    s.serveWaiting = [0, 1, 2, 3].foldl State.gateIdle ([0, 1, 2, 3].foldl State.serveChan s) := by
  have hb := h.of_gates (State.gates_of_shell (State.shell_foldl State.shell_serveChan [0, 1, 2, 3] s))
  unfold State.serveWaiting
  generalize [0, 1, 2, 3].foldl State.serveChan s = t at hb
  simp only [State.Unattended, State.waits, Prod.mk.injEq] at hb
  obtain ⟨hnode, hbay, hreset, hqueues, hport⟩ := hb
  have hreset' : ∀ f : State → Nat → State, t.resetWait.foldl f { t with resetWait := [] } = t := fun f => by
    rw [hreset, List.foldl_nil, ← hreset]
  have hbay' : ∀ f : State → Packet → State, t.bayQ.foldl f { t with bayQ := [] } = t := fun f => by
    rw [hbay, List.foldl_nil, ← hbay]
  have hnode' : ∀ f : State → Packet → State, t.nodeWait.foldl f { t with nodeWait := [] } = t := fun f => by
    rw [hnode, List.foldl_nil, ← hnode]
  dsimp only
  rw [hreset', hbay', hnode', State.serveHost_empty hqueues hport]

/-- The part of the shell that the PLLs' following the block leaves as well. -/
theorem State.Unattended.afterwards_shell (h : s.Unattended) : s.afterwards.blockHalted = s.blockHalted ∧
    s.afterwards.pt.gate = s.pt.gate ∧ s.afterwards.ck.quar = s.ck.quar ∧ (s.ck.pll ≠ .locked → s.afterwards.ck.pll ≠ .locked) := by
  have hpll : ∀ t : State, t.setPll.ck.quar = t.ck.quar ∧ (t.ck.pll ≠ .locked → t.setPll.ck.pll ≠ .locked) := by
    intro t
    unfold State.setPll
    split
    · exact ⟨rfl, id⟩
    · refine ⟨rfl, fun _ => ?_⟩
      dsimp only
      split <;> decide
  have hserved : (if s.settled then s else s.serveWaiting).shell = s.shell := by
    split
    · rfl
    · rw [h.serveWaiting]
      exact (State.shell_foldl State.shell_gateIdle _ _).trans (State.shell_foldl State.shell_serveChan _ s)
  unfold State.afterwards
  generalize (if s.settled then s else s.serveWaiting) = t at hserved
  simp only [State.shell, State.gates, Prod.mk.injEq] at hserved
  obtain ⟨hhalt, hgate, hquar, hlock, -⟩ := hserved
  rw [State.setPll_blockHalted, State.setPll_pt, (hpll t).1]
  exact ⟨hhalt, hgate, hquar, fun hne => (hpll t).2 (hlock ▸ hne)⟩

end
end Sys2Proof.Machine
end

section

/-! ## Events of the whole block complete (R306, R348, R368, R369, R391) -/

namespace Sys2Proof.Machine
section
variable {s : State} {n q v : Nat}

/-- A command of a powered block. -/
theorem act_on (h : s.por = false) (f : State → State) : act s f = .next (f s.begin).afterwards := by
  unfold act
  rw [h]
  rfl

/-! ### Shared faults -/

theorem State.shell_haltOne (s : State) (d n : Nat) : (State.haltOne d s n).shell = s.shell := State.shell_finish ..

@[simp] theorem State.gates_blockHalt (s : State) (u : SharedSub) (src : Nat) : (s.blockHalt u src).gates = s.gates := by
  have hchans : ∀ d, ([0, 1, 2, 3].foldl (State.haltOne d) s).gates = s.gates :=
    fun d => State.gates_of_shell (State.shell_foldl (fun t n => t.shell_haltOne d n) _ s)
  have h := hchans (at_ 31 31 1 + at_ 30 27 (sharedSubCode u) + at_ 26 22 src)
  unfold State.blockHalt
  dsimp only
  generalize [0, 1, 2, 3].foldl (State.haltOne (at_ 31 31 1 + at_ 30 27 (sharedSubCode u) + at_ 26 22 src)) s = t at h
  exact h

theorem State.gates_ite {p : Prop} [Decidable p] {a b : State} (ha : a.gates = s.gates) (hb : b.gates = s.gates) :
    (if p then a else b).gates = s.gates := by
  split
  · exact ha
  · exact hb

@[simp] theorem State.gates_setShared (s : State) (u : SharedSub) (f : FaultSet) : (s.setShared u f).gates = s.gates :=
  State.gates_of_shell (s.shell_setShared u f)

@[simp] theorem State.gates_errPulse (s : State) (n : Option Nat) : (s.errPulse n).gates = s.gates := rfl

@[simp] theorem State.gates_onList (s : State) (f : Env → Ch → Ch) (l : List Nat) : (s.onList f l).gates = s.gates :=
  State.gates_of_shell (s.shell_onList f l)

/-- A shared fault can halt the block; the gate, the crossings, the PLLs and what waits stay. -/
@[simp] theorem State.gates_raiseShared (s : State) (u : SharedSub) (src : Nat) (k : Cause) :
    (s.raiseShared u src k).gates = s.gates := by
  unfold State.raiseShared State.raiseSharedAs
  dsimp only
  split
  · rfl
  · refine State.gates_ite rfl ?_
    refine State.gates_ite ((State.gates_blockHalt ..).trans ?_) ?_ <;>
      exact State.gates_ite (State.gates_setShared ..) (State.gates_setShared ..)

/-- A shared source of class F that is enabled and that nothing shadows halts the block. -/
theorem State.raiseShared_halts {u : SharedSub} {src : Nat} {k : Cause} (hsh : s.sharedShadow u src k.key = none)
    (hcls : sharedSrcClass u src = 3) (hen : bit (s.sharedFault u).disabled src = false) (hcl : ¬ (u = .cl ∧ 4 ≤ src))
    (hrun : s.blockHalted = false) : (s.raiseShared u src k).blockHalted = true := by
  have hclass : ∀ fs, (raiseOn s.time s.stamp false 3 src k fs).2 = 3 := fun fs => by
    show escalate _ 3 = 3
    unfold escalate
    simp
  have hsh' : (if k.forced then none else s.sharedShadow u src k.key) = none := by rw [hsh, ite_self]
  unfold State.raiseShared State.raiseSharedAs
  dsimp only
  rw [hsh']
  dsimp only
  rw [hcls, hen, if_neg (show ¬ ((3 : Nat) = 0 ∨ false = true) by decide), if_neg hcl, hclass, if_pos (show (2 : Nat) ≤ 3 by decide)]
  exact congrArg State.blockHalted (if_pos ⟨rfl, by simp [hrun]⟩)

/-! ### The events -/

theorem State.pll_of_gates {a b : State} (h : b.gates = a.gates) : b.ck.pll = a.ck.pll := congrArg (fun g => g.2.2.1) h
theorem State.quar_of_gates {a b : State} (h : b.gates = a.gates) : b.ck.quar = a.ck.quar := congrArg (fun g => g.2.1) h
theorem State.gate_of_gates {a b : State} (h : b.gates = a.gates) : b.pt.gate = a.pt.gate := congrArg (fun g => g.1) h

/-- The PLLs that have lost lock are locking. -/
theorem State.lockLost_gates (h : s.ck.pll = .locked) :
    s.lockLost.gates = ({ s with ck := { s.ck with pll := .locking } } : State).gates := by
  unfold State.lockLost
  rw [if_neg (fun hne => hne h)]
  exact State.gates_ite (State.gates_raiseShared ..) rfl

/-- What a quarantine makes the shared sub-blocks' shadows leaves the crossings and the PLLs. -/
theorem Ck.startShadow_quar (row key : Nat) (k : Ck) : (k.startShadow row key).quar = k.quar ∧ (k.startShadow row key).pll = k.pll := by
  unfold Ck.startShadow
  split <;> exact ⟨rfl, rfl⟩

/-- Where nothing waits at the block's edges, nothing is dropped there. -/
theorem State.Unattended.dropTransfers (h : s.Unattended) : (s.dropTransfers q).1.gates = s.gates := by
  simp only [State.Unattended, State.waits, Prod.mk.injEq] at h
  obtain ⟨hnode, -, -, -, hport⟩ := h
  unfold State.dropTransfers
  dsimp only
  split
  · simp [State.gates, State.waits, hnode]
  · split
    · exact State.gates_onList ..
    · simp [State.gates, State.waits, hport]

theorem State.gates_noteQuarantine (s : State) (lost : Nat) : (s.noteQuarantine q lost).gates = s.gates := by
  unfold State.noteQuarantine
  split
  · rfl
  · exact State.gates_of_shell (State.shell_onClks ..)

/-- A crossing of R365 enters quarantine, and nothing that waits is lost. -/
theorem State.Unattended.quarantine (h : s.Unattended) (hq : crossingOk q = true) (dropped : Nat) :
    (s.quarantine q dropped).quarantined q = true ∧ (s.quarantine q dropped).Unattended := by
  let qs := s.ck.quar.filter (fun x => x.number ≠ q) ++ [⟨q, s.time, s.time + 20 * s.freeVal 3, s.goodTime q, false⟩]
  let s1 : State := { s with ck := { s.ck with quar := qs }.startShadow 1 q }
  let s2 := s1.onList (fun _ c => c.startShadow 1 q []) (s1.quarChans q)
  have hs2 : s2.gates = s1.gates := State.gates_onList ..
  have hun2 : s2.Unattended := State.Unattended.of_gates (a := s1) h hs2
  have hgates : (s.quarantine q dropped).gates = s1.gates := by
    have hnoted : ∀ lost, ((s2.dropTransfers q).1.noteQuarantine q lost).gates = s1.gates :=
      fun lost => ((State.gates_noteQuarantine _ _).trans hun2.dropTransfers).trans hs2
    have hraised : ∀ lost k, (if lost = 0 then (s2.dropTransfers q).1.noteQuarantine q lost
        else ((s2.dropTransfers q).1.noteQuarantine q lost).raiseShared .ck 3 k).gates = s1.gates :=
      fun lost k => State.gates_ite (hnoted lost) ((State.gates_raiseShared ..).trans (hnoted lost))
    unfold State.quarantine
    rw [hq, if_neg (by decide)]
    exact State.gates_ite ((State.gates_onList ..).trans (hraised _ _)) (hraised _ _)
  have hquar : (s.quarantine q dropped).ck.quar = qs := (State.quar_of_gates hgates).trans (Ck.startShadow_quar ..).1
  refine ⟨?_, State.Unattended.of_gates (a := s1) h hgates⟩
  unfold State.quarantined
  rw [hquar]
  simp [qs]

/-- A crossing leaves quarantine. -/
theorem State.exchangeDone_gates (h : s.quarantined q = true) : (s.exchangeDone q).gates =
    ({ s with ck := { s.ck with quar := s.ck.quar.filter (fun x => x.number ≠ q) } } : State).gates := by
  unfold State.exchangeDone
  rw [h, if_neg (by decide)]
  exact State.gates_onList ..

/-- An exchange that is late is raised. -/
theorem State.exchangeLate_gates (h : ∃ x ∈ s.ck.quar, x.number = q ∧ x.raised = false ∧ x.left + 20480 ≤ s.time) :
    (s.exchangeLate q).gates = ({ s with ck := { s.ck with
      quar := s.ck.quar.map (fun x => if x.number = q then { x with raised := true } else x) } } : State).gates := by
  obtain ⟨x, hx, hnum, hraised, hleft⟩ := h
  unfold State.exchangeLate
  split
  case h_1 hnone => exact absurd (List.find?_eq_none.mp hnone x hx) (by simp [hnum, hraised, hleft])
  case h_2 => exact State.gates_raiseShared ..

theorem State.shell_runImage (s : State) (n : Nat) (m : Img) : (s.runImage n m).shell = s.shell := by
  unfold State.runImage
  simp

/-- The gate opens, whatever the channels make of their images. -/
theorem State.openGate_gate (s : State) : s.openGate.pt.gate = .opened ∧ s.openGate.waits = s.waits := by
  let s1 : State := { s with
    pt := { s.pt with gate := .opened, table := s.cl.prot, tableCrc := crcWords (tblWords s.cl.prot) },
    pairAB := pairOf s.cl.prot 0, pairCD := pairOf s.cl.prot 2, ck := { s.ck with fabricMode := s.cl.shrd },
    cl := { s.cl with phase := .done, imgs := [] } }
  have himgs : (s.cl.imgs.foldl (fun s p => s.runImage p.1 p.2) s1).gates = s1.gates :=
    State.gates_of_shell (State.shell_foldl (fun t p => t.shell_runImage p.1 p.2) s.cl.imgs s1)
  exact ⟨State.gate_of_gates himgs, congrArg (fun g => g.2.2.2) himgs⟩

theorem State.refuseGate_gate (s : State) (code : Nat) : (s.refuseGate code).pt.gate = .refused ∧ (s.refuseGate code).waits = s.waits := by
  have h : (s.refuseGate code).gates =
      ({ s with pt := { s.pt with gate := .refused }, cl := { s.cl with imgs := [] } } : State).gates :=
    State.gates_raiseShared ..
  exact ⟨State.gate_of_gates h, congrArg (fun g => g.2.2.2) h⟩

/-! ### A write of PT_LOAD_GATE -/

/-- The steward's write of PT_LOAD_GATE reaches the gate, and completes (R291). -/
theorem State.StewardPort.gateWrite (h : s.StewardPort) :
    s.begin.hostWrite .steward 0x3140 v = (s.begin.gateWrite v).leave [.host .steward 0x3140 true v false] := by
  have hq : s.begin.quarantined (portCrossing .steward) = false := h.openPort
  unfold State.hostWrite State.access
  simp only [hq, Bool.false_eq_true, if_false]
  unfold State.stewardAccess
  rw [if_pos (show (0x3140 : Nat) / 0x1000 = 3 ∧ (0x3140 : Nat) % 8 = 0 ∧ 64 ≤ 64 by decide)]
  have hreg : s.begin.writeReg .steward 0x3140 v = s.begin.gateWrite v := by
    unfold State.writeReg
    rw [show faultAt 0x3140 = none by decide]
    exact if_neg (by decide)
  unfold State.effect State.answer
  simp only [show queueOf 0x3140 = 0 by decide, if_true, hreg, show ¬ (0x100000 ≤ 0x3140) by decide, decide_false, Bool.false_and,
    Bool.false_eq_true, if_false]

/-! ### The commands -/

theorem State.Unattended.of_waits {a b : State} (h : a.Unattended) (hb : b.waits = a.waits) : b.Unattended := hb.trans h

theorem exec_ckPllLock (hpor : s.por = false) (hs : s.Unattended) (h : s.ck.pll = .locked) :
    ∃ t : State, exec .ckPllLock s = .next t ∧ t.ck.pll ≠ .locked := by
  have hg := State.lockLost_gates (s := s.begin) h
  have hun : s.begin.lockLost.Unattended := State.Unattended.of_gates (a := { s.begin with ck := { s.ck with pll := .locking } }) hs hg
  obtain ⟨-, -, -, hpll⟩ := hun.afterwards_shell
  exact ⟨_, act_on hpor _, hpll (by rw [State.pll_of_gates hg]; exact PllSt.noConfusion)⟩

theorem exec_ckKeepClock (hpor : s.por = false) (hs : s.Unattended) (hrun : s.blockHalted = false)
    (hen : s.sflt.ck.disabled.testBit 1 = false) : ∃ t : State, exec .ckKeepClock s = .next t ∧ t.blockHalted = true := by
  have hun : (s.begin.raiseShared .ck 1 {}).Unattended := State.Unattended.of_gates (a := s.begin) hs (State.gates_raiseShared ..)
  obtain ⟨hhalt, -⟩ := hun.afterwards_shell
  exact ⟨_, act_on hpor _, hhalt.trans (State.raiseShared_halts (if_pos (.inr (by decide))) rfl hen (by decide) hrun)⟩

theorem exec_quarantine {q : BitVec 16} (hpor : s.por = false) (hs : s.Unattended) (hq : crossingOk q.toNat = true) :
    ∃ t : State, exec (.quarantine q 0) s = .next t ∧ t.quarantined q.toNat = true := by
  obtain ⟨hquar, hun⟩ := State.Unattended.quarantine (s := s.begin) hs hq 0
  obtain ⟨-, -, hkept, -⟩ := hun.afterwards_shell
  refine ⟨_, act_on hpor _, ?_⟩
  unfold State.quarantined at hquar ⊢
  rw [hkept]
  exact hquar

theorem exec_resetDoneExchange {q : BitVec 16} (hpor : s.por = false) (hs : s.Unattended) (hq : s.quarantined q.toNat = true) :
    ∃ t : State, exec (.resetDoneExchange q) s = .next t ∧ t.quarantined q.toNat = false := by
  have hg := State.exchangeDone_gates (s := s.begin) hq
  have hun : (s.begin.exchangeDone q.toNat).Unattended :=
    State.Unattended.of_gates (a := { s.begin with ck := { s.ck with quar := s.ck.quar.filter (fun x => x.number ≠ q.toNat) } }) hs hg
  obtain ⟨-, -, hkept, -⟩ := hun.afterwards_shell
  refine ⟨_, act_on hpor _, ?_⟩
  unfold State.quarantined
  rw [hkept, State.quar_of_gates hg]
  simp

theorem exec_ckQuarantine {q : BitVec 16} (hpor : s.por = false) (hs : s.Unattended)
    (h : ∃ x ∈ s.ck.quar, x.number = q.toNat ∧ x.raised = false ∧ x.left + 20480 ≤ s.time) :
    ∃ t : State, exec (.ckQuarantine q) s = .next t ∧ ∀ x ∈ t.ck.quar, x.number = q.toNat → x.raised = true := by
  have hg := State.exchangeLate_gates (s := s.begin) h
  have hun : (s.begin.exchangeLate q.toNat).Unattended := State.Unattended.of_gates (a := { s.begin with
    ck := { s.ck with quar := s.ck.quar.map (fun x => if x.number = q.toNat then { x with raised := true } else x) } }) hs hg
  obtain ⟨-, -, hkept, -⟩ := hun.afterwards_shell
  refine ⟨_, act_on hpor _, ?_⟩
  rw [hkept, State.quar_of_gates hg]
  intro x hx hnum
  obtain ⟨y, -, rfl⟩ := List.mem_map.mp hx
  split
  · rfl
  · rename_i hne
    rw [if_neg hne] at hnum
    exact absurd hnum hne

theorem exec_gateOpen {v : Word} (h : s.StewardPort) (hrun : s.blockHalted = false) (hgate : s.pt.gate = .ready)
    (h1 : v.toNat.testBit 1 = false) (h0 : v.toNat.testBit 0 = true) :
    ∃ t : State, exec (.gateOpen .steward v) s = .next t ∧ t.pt.gate = .opened := by
  obtain ⟨hopen, hwaits⟩ := s.begin.openGate_gate
  have hwrite : s.begin.gateWrite v.toNat = s.begin.openGate := by
    unfold State.gateWrite bit
    rw [if_neg (fun hx => hx.elim (fun hx => hx hgate) (fun hx => Bool.false_ne_true (hrun.symm.trans hx))), h1, h0]
    rfl
  have hun : (s.begin.openGate.leave [.host .steward 0x3140 true v.toNat false]).Unattended :=
    State.Unattended.of_waits (State.unattended_of_settled h.settled) hwaits
  obtain ⟨-, hkept, -⟩ := hun.afterwards_shell
  refine ⟨_, act_on h.por _, ?_⟩
  rw [h.gateWrite, hwrite, hkept]
  exact hopen

theorem exec_gateRefuse {v : Word} (h : s.StewardPort) (hrun : s.blockHalted = false) (hgate : s.pt.gate = .ready)
    (h1 : v.toNat.testBit 1 = true) : ∃ t : State, exec (.gateRefuse .steward v) s = .next t ∧ t.pt.gate = .refused := by
  obtain ⟨hrefused, hwaits⟩ := s.begin.refuseGate_gate leRefused
  have hwrite : s.begin.gateWrite v.toNat = s.begin.refuseGate leRefused := by
    unfold State.gateWrite bit
    rw [if_neg (fun hx => hx.elim (fun hx => hx hgate) (fun hx => Bool.false_ne_true (hrun.symm.trans hx))), h1]
    rfl
  have hun : ((s.begin.refuseGate leRefused).leave [.host .steward 0x3140 true v.toNat false]).Unattended :=
    State.Unattended.of_waits (State.unattended_of_settled h.settled) hwaits
  obtain ⟨-, hkept, -⟩ := hun.afterwards_shell
  refine ⟨_, act_on h.por _, ?_⟩
  rw [h.gateWrite, hwrite, hkept]
  exact hrefused

end
end Sys2Proof.Machine
end

section

/-! ## What a channel's work keeps of its edges (R305, R313, R425)

The work a command leaves to do, the end of parked waits, the breaking of an accord and the flush of a channel that leaves RUN change
neither the channel's state, nor its queues of reset events and of messages, nor its sequences; they leave at most words of a retired row to
be struck. -/

namespace Sys2Proof.Machine
section
variable {s : State} {c d : Ch} {e : Env} {α : Type}

/-- A word of a retired row that could not be copied. -/
def Todo.isStrike : Todo → Bool
  | .strike _ _ => true
  | _ => false

/-- The parts of a channel's hull. -/
def hullOf (st : ChSt) (resetQ : List Nat) (rxWait : List (Nat × MsgIn × Nat)) (todo : List Todo) (seqs : SMap Seq) :=
  (st, resetQ, rxWait, todo.filter (fun t => !t.isStrike), seqs)

/-- The state of a channel, what waits at its edges, what is left to do but for strikes, and its sequences. -/
def Ch.hull (c : Ch) := hullOf c.ctl.st c.ctl.resetQ c.la.rxWait c.todo c.ps.seqs

@[simp] theorem Ch.hull_mk (ctl : ChCtl) (clk : Clk) (rq : Rq) (os : Os) (hw : Hw) (bw : Bw) (lt : Lt) (ru : Ru) (cu : Cu) (ps : Ps)
    (bg : Bg) (la : La) (lalog : LaLog) (db : Db) (flt : FaultSets) (img : Img) (upsets : List Upset) (todo : List Todo)
    (out : List Output) (raised : List RaisedNow) (haltReq errPulse : Bool) :
    (Ch.mk ctl clk rq os hw bw lt ru cu ps bg la lalog db flt img upsets todo out raised haltReq errPulse).hull =
      hullOf ctl.st ctl.resetQ la.rxWait todo ps.seqs := rfl

@[simp] theorem Ch.hull_fold (c : Ch) : hullOf c.ctl.st c.ctl.resetQ c.la.rxWait c.todo c.ps.seqs = c.hull := rfl

theorem Ch.hull_foldl {f : Ch → α → Ch} (hf : ∀ c x, (f c x).hull = c.hull) (l : List α) (c : Ch) : (l.foldl f c).hull = c.hull := by
  induction l generalizing c with
  | nil => rfl
  | cons x l ih => exact (ih _).trans (hf c x)

theorem Ch.hull_ite {p : Prop} [Decidable p] {a b : Ch} (ha : a.hull = c.hull) (hb : b.hull = c.hull) :
    (if p then a else b).hull = c.hull := by
  split
  · exact ha
  · exact hb

/-! ### Faults and reads -/

@[simp] theorem Ch.hull_setFault (c : Ch) (u : Sub) (f : FaultSet) : (c.setFault u f).hull = c.hull := by
  cases u <;> rfl

@[simp] theorem Ch.hull_raise (e : Env) (u : Sub) (src : Nat) (k : Cause) (c : Ch) : (c.raise e u src k).hull = c.hull := by
  unfold Ch.raise
  (repeat' split) <;> simp

@[simp] theorem Ch.hull_raiseWear (e : Env) (u : Sub) (c : Ch) : (c.raiseWear e u).hull = c.hull := Ch.hull_raise ..

@[simp] theorem Ch.hull_readArray (e : Env) (u : Sub) (array bank word n : Nat) (c : Ch) :
    (c.readArray e u array bank word n).1.hull = c.hull := by
  unfold Ch.readArray
  dsimp only
  rw [apply_ite Prod.fst]
  exact Ch.hull_ite (Ch.hull_setFault ..) (by split <;> rfl)

@[simp] theorem Ch.hull_countCorrected (e : Env) (u : Sub) (array bank word : Nat) (c : Ch) :
    (c.countCorrected e u array bank word).1.hull = c.hull := Ch.hull_setFault ..

/-- A strike that is left to do is no other work. -/
theorem Ch.hull_strikeLeft (c : Ch) (bank word : Nat) : ({ c with todo := c.todo ++ [.strike bank word] } : Ch).hull = c.hull := by
  simp [Ch.hull, hullOf, Todo.isStrike]

@[simp] theorem Ch.hull_copyWord (e : Env) (bank word : Nat) (k : Cause) (c : Ch) : (c.copyWord e bank word k).hull = c.hull := by
  unfold Ch.copyWord
  dsimp only
  split
  · exact (Ch.hull_strikeLeft ..).trans (by simp)
  · (repeat' split) <;> simp

@[simp] theorem Ch.hull_retireRow (e : Env) (bank word : Nat) (k : Cause) (c : Ch) : (c.retireRow e bank word k).hull = c.hull := by
  unfold Ch.retireRow
  exact (Ch.hull_foldl (fun c w => c.hull_copyWord e bank w k) _ _).trans (by simp)

@[simp] theorem Ch.hull_correctedArray (e : Env) (u : Sub) (array bank word : Nat) (k : Cause) (c : Ch) :
    (c.correctedArray e u array bank word k).hull = c.hull := by
  unfold Ch.correctedArray
  dsimp only
  (repeat' split) <;> simp

@[simp] theorem Ch.hull_readEcc (e : Env) (u : Sub) (array bank word n : Nat) (k : Cause) (c : Ch) :
    (c.readEcc e u array bank word n k).1.hull = c.hull := by
  unfold Ch.readEcc Ch.readEccAs
  dsimp only
  (repeat' split) <;> simp

/-! ### Responses, waits and the blotter -/

@[simp] theorem Ch.hull_emit (o : Output) (c : Ch) : (c.emit o).hull = c.hull := rfl
@[simp] theorem Ch.hull_setParked (c : Ch) (l : List Parked) : (c.setParked l).hull = c.hull := rfl

@[simp] theorem Ch.hull_respond (e : Env) (phys opcode status tag result : Nat) (rf : RFlags) (final first : Bool) (c : Ch) :
    (c.respond e phys opcode status tag result rf final first).hull = c.hull := rfl

@[simp] theorem Ch.hull_respondEnd (e : Env) (phys opcode status tag result : Nat) (rf : RFlags) (c : Ch) :
    (c.respondEnd e phys opcode status tag result rf).hull = c.hull := by
  unfold Ch.respondEnd
  split <;> rfl

@[simp] theorem Ch.hull_readSlot (e : Env) (w : Parked) (c : Ch) : (c.readSlot e w).1.hull = c.hull := Ch.hull_readEcc ..

@[simp] theorem Ch.hull_endWait (e : Env) (given result : Nat) (rf : RFlags) (w : Parked) (c : Ch) :
    (c.endWait e given result rf w).hull = c.hull := by
  unfold Ch.endWait
  dsimp only
  (repeat' split) <;> simp

@[simp] theorem Ch.hull_endWaits (e : Env) (status result : Nat) (rf : RFlags) (ws : List Parked) (c : Ch) :
    (c.endWaits e status result rf ws).hull = c.hull := by
  induction ws generalizing c with
  | nil => rfl
  | cons w ws ih => exact (ih _).trans (Ch.hull_ite (Ch.hull_endWait ..) rfl)

@[simp] theorem Ch.hull_endUnmet (e : Env) (status : Nat) (ws : List Parked) (c : Ch) : (c.endUnmet e status ws).hull = c.hull := by
  induction ws generalizing c with
  | nil => rfl
  | cons w ws ih => exact (ih _).trans (Ch.hull_ite (Ch.hull_endWait ..) rfl)

@[simp] theorem Ch.hull_endLost (e : Env) (status : Nat) (ws : List Parked) (c : Ch) : (c.endLost e status ws).hull = c.hull := by
  induction ws generalizing c with
  | nil => rfl
  | cons w ws ih => exact (ih _).trans (Ch.hull_ite (Ch.hull_ite rfl (Ch.hull_endWait ..)) rfl)

@[simp] theorem Ch.hull_endBarWaits (e : Env) (i status : Nat) (ws : List Parked) (c : Ch) :
    (c.endBarWaits e i status ws).hull = c.hull := by
  induction ws generalizing c with
  | nil => rfl
  | cons w ws ih => exact (ih _).trans (Ch.hull_ite (Ch.hull_endWait ..) rfl)

@[simp] theorem Ch.hull_runWatches (cls index : Nat) (holds : Watch → Bool) (c : Ch) : (c.runWatches cls index holds).hull = c.hull := rfl

@[simp] theorem Ch.hull_blotTrigger (e : Env) (cause detail : Nat) (c : Ch) : (c.blotTrigger e cause detail).hull = c.hull := by
  unfold Ch.blotTrigger Ch.blotStart
  dsimp only
  (repeat' split) <;> simp

/-! ### Poison -/

@[simp] theorem Ch.hull_putFlag (i : Nat) (f : Flag) (c : Ch) : (c.putFlag i f).hull = c.hull := rfl

@[simp] theorem Ch.hull_poisonFlagWord (e : Env) (i : Nat) (c : Ch) : (c.poisonFlagWord e i).hull = c.hull := by
  unfold Ch.poisonFlagWord
  dsimp only
  rw [Ch.hull_foldl (fun c j => c.hull_runWatches _ _ _), Ch.hull_endUnmet, Ch.hull_foldl (fun c j => c.hull_putFlag j _)]

@[simp] theorem Ch.hull_putSem (i : Nat) (v : Sem) (c : Ch) : (c.putSem i v).hull = c.hull := rfl
@[simp] theorem Ch.hull_watchSem (i : Nat) (old : Sem) (c : Ch) : (c.watchSem i old).hull = c.hull := rfl

@[simp] theorem Ch.hull_serveSem (e : Env) (i : Nat) (ws : List Parked) (c : Ch) : (c.serveSem e i ws).hull = c.hull := by
  induction ws generalizing c with
  | nil => rfl
  | cons w ws ih =>
    unfold Ch.serveSem
    dsimp only
    (repeat' split) <;> simp [ih]

@[simp] theorem Ch.hull_poisonSem (e : Env) (i : Nat) (c : Ch) : (c.poisonSem e i).hull = c.hull := by
  unfold Ch.poisonSem Ch.changeSem
  dsimp only
  (repeat' split) <;> simp

@[simp] theorem Ch.hull_putStr (i : Nat) (v : Stream) (c : Ch) : (c.putStr i v).hull = c.hull := rfl

@[simp] theorem Ch.hull_poisonStr (e : Env) (i : Nat) (c : Ch) : (c.poisonStr e i).hull = c.hull := by
  unfold Ch.poisonStr Ch.changeStr Ch.settleStr
  dsimp only
  (repeat' split) <;> simp

@[simp] theorem Ch.hull_putBar (i : Nat) (b : Bar) (c : Ch) : (c.putBar i b).hull = c.hull := rfl

@[simp] theorem Ch.hull_answerLate (e : Env) (i : Nat) (g : BitVec 32) (status : Nat) (rf : RFlags) (c : Ch) :
    (c.answerLate e i g status rf).hull = c.hull := Ch.hull_foldl (fun c _ => c.hull_respond ..) _ _

@[simp] theorem Ch.hull_poisonBar (e : Env) (i : Nat) (c : Ch) : (c.poisonBar e i).hull = c.hull := by
  unfold Ch.poisonBar
  dsimp only
  split <;> simp

@[simp] theorem Ch.hull_strikeWord (e : Env) (bank w : Nat) (c : Ch) : (c.strikeWord e bank w).hull = c.hull := by
  unfold Ch.strikeWord
  dsimp only
  (repeat' split) <;> simp

end
end Sys2Proof.Machine
end

section

/-! ## What leaving RUN, a lost link and a close keep of a channel's edges (R276, R305, R394) -/

namespace Sys2Proof.Machine
section
variable {s : State} {c d : Ch} {e : Env} {α : Type}

/-! ### Sending -/

@[simp] theorem Ch.hull_sendNow (e : Env) (p : Nat) (m : Msg) (c : Ch) : (c.sendNow e p m).hull = c.hull := rfl

@[simp] theorem Ch.hull_sendMsg (e : Env) (p : Nat) (m : Msg) (c : Ch) : (c.sendMsg e p m).hull = c.hull := by
  unfold Ch.sendMsg
  split <;> simp

@[simp] theorem Ch.hull_sendEdges (e : Env) (ds : List Edge) (typ object : Nat) (body : List Nat) (c : Ch) :
    (c.sendEdges e ds typ object body).hull = c.hull := Ch.hull_foldl (fun c _ => c.hull_sendMsg ..) _ _

@[simp] theorem Ch.hull_drainPort (e : Env) (p k : Nat) (c : Ch) : (c.drainPort e p k).hull = c.hull := by
  induction k generalizing c with
  | zero => rfl
  | succ k ih =>
    unfold Ch.drainPort
    split
    · rfl
    · split
      · exact (ih _).trans (Ch.hull_sendNow ..)
      · rfl

@[simp] theorem Ch.hull_drainPorts (e : Env) (c : Ch) : (c.drainPorts e).hull = c.hull :=
  Ch.hull_foldl (fun c _ => c.hull_drainPort ..) _ _

@[simp] theorem Ch.hull_sayGoodbye (e : Env) (c : Ch) : (c.sayGoodbye e).hull = c.hull := by
  unfold Ch.sayGoodbye
  split <;> simp

/-! ### What waits at the hub and in the queues -/

@[simp] theorem Ch.hull_readMask (e : Env) (m : Nat) (c : Ch) : (c.readMask e m).1.hull = c.hull := by
  unfold Ch.readMask
  dsimp only
  (repeat' split) <;> simp

@[simp] theorem Ch.hull_readBar (e : Env) (o : Op) (i : Nat) (c : Ch) : (c.readBar e o i).hull = c.hull := by
  unfold Ch.readBar
  dsimp only
  (repeat' split) <;> simp

@[simp] theorem Ch.hull_readStr (e : Env) (o : Op) (i : Nat) (c : Ch) : (c.readStr e o i).hull = c.hull := by
  unfold Ch.readStr
  dsimp only
  split <;> simp

@[simp] theorem Ch.hull_snapRead (e : Env) (kind i : Nat) (c : Ch) : (c.snapRead e kind i).hull = c.hull := by
  unfold Ch.snapRead Ch.readFlag Ch.readSem Ch.readLock Ch.poisonLock Ch.putLock Ch.readConn Ch.readPay
  dsimp only
  (repeat' split) <;> simp

@[simp] theorem Ch.hull_snapshot (e : Env) (kind i : Nat) (c : Ch) : (c.snapshot e kind i).hull = c.hull := by
  unfold Ch.snapshot Ch.putSnap
  dsimp only
  (repeat' split) <;> simp

@[simp] theorem Ch.hull_packetDown (e : Env) (p : Packet) (c : Ch) : (c.packetDown e p).hull = c.hull := by
  unfold Ch.packetDown
  split <;> rfl

@[simp] theorem Ch.hull_workDown (e : Env) (w : Work) (c : Ch) : (c.workDown e w).hull = c.hull := by
  cases w with
  | snapshot kind i => exact Ch.hull_snapshot ..
  | req p lid => exact Ch.hull_packetDown ..
  | hostOp => rfl
  | force => rfl
  | hand => rfl

@[simp] theorem Ch.hull_flushPacket (e : Env) (p : Packet) (c : Ch) : (c.flushPacket e p).hull = c.hull := by
  unfold Ch.flushPacket Ch.takeTrailer
  dsimp only
  (repeat' split) <;> simp

@[simp] theorem Ch.hull_flushFull (e : Env) (w : Work) (c : Ch) : (c.flushFull e w).hull = c.hull := by
  cases w with
  | req p lid => exact Ch.hull_flushPacket ..
  | hostOp => rfl
  | force => rfl
  | hand => rfl
  | snapshot kind i => exact Ch.hull_snapshot ..

@[simp] theorem Ch.hull_correctedPacket (e : Env) (u : Sub) (src : Nat) (k : Cause) (c : Ch) :
    (c.correctedPacket e u src k).hull = c.hull := by
  unfold Ch.correctedPacket
  dsimp only
  split <;> simp

@[simp] theorem Ch.hull_flushMessage (e : Env) (q : Nat × MsgIn × Nat) (c : Ch) : (c.flushMessage e q).hull = c.hull := by
  unfold Ch.flushMessage Ch.countMsg Ch.ignoreMsg
  dsimp only
  (repeat' split) <;> simp

/-! ### Leaving RUN -/

@[simp] theorem Ch.hull_waitsDown (e : Env) (c : Ch) : (c.waitsDown e).hull = c.hull := by
  unfold Ch.waitsDown
  dsimp only
  rw [Ch.hull_mk, Ch.hull_fold]
  exact (Ch.hull_foldl (fun c _ => c.hull_respond ..) _ _).trans ((Ch.hull_mk ..).trans (Ch.hull_endLost ..))

@[simp] theorem Ch.hull_mapHeldDown (e : Env) (c : Ch) : (c.mapHeldDown e).hull = c.hull := by
  unfold Ch.mapHeldDown
  split <;> rfl

@[simp] theorem Ch.hull_startShadow (row key : Nat) (lanes : List Nat) (c : Ch) : (c.startShadow row key lanes).hull = c.hull := by
  unfold Ch.startShadow
  split <;> rfl

@[simp] theorem Ch.hull_scansOver (time : Nat) (c : Ch) : (c.scansOver time).hull = c.hull := rfl

end
end Sys2Proof.Machine
end

section

/-! ## Breaking, the work that is left, and halts (R276, R277, R305) -/

namespace Sys2Proof.Machine
section
variable {s : State} {c d : Ch} {e : Env} {α : Type}

/-- The state of a channel, what waits at its edges, and what is left to do but for strikes. -/
def Ch.outline (c : Ch) := (c.hull.1, c.hull.2.1, c.hull.2.2.1, c.hull.2.2.2.1)

theorem Ch.outline_of_hull (h : d.hull = c.hull) : d.outline = c.outline := by
  unfold Ch.outline
  rw [h]

theorem Ch.outline_foldl {f : Ch → α → Ch} (hf : ∀ c x, (f c x).outline = c.outline) (l : List α) (c : Ch) :
    (l.foldl f c).outline = c.outline := by
  induction l generalizing c with
  | nil => rfl
  | cons x l ih => exact (ih _).trans (hf c x)

theorem Ch.outline_ite {p : Prop} [Decidable p] {a b : Ch} (ha : a.outline = c.outline) (hb : b.outline = c.outline) :
    (if p then a else b).outline = c.outline := by
  split
  · exact ha
  · exact hb

/-! ### Breaking (R277) -/

theorem Ch.hull_forceLane (e : Env) (l : Nat) (st : LaneSt) (c : Ch) : (c.forceLane e l st).hull = c.hull := by
  unfold Ch.forceLane Ch.laneLeaves Ch.treeRead
  dsimp only
  rw [Ch.hull_emit]
  refine Ch.hull_ite ?_ ?_
  · exact (Ch.hull_readArray ..).trans rfl
  · exact (Ch.hull_raise ..).trans ((Ch.hull_readArray ..).trans rfl)

theorem Ch.outline_putSeq (q : Nat) (v : Seq) (c : Ch) : (c.putSeq q v).outline = c.outline := rfl

theorem Ch.outline_stopEnding (o : EndObj) (c : Ch) : (c.stopEnding o).outline = c.outline := by
  unfold Ch.stopEnding
  refine Ch.outline_foldl (fun c x => ?_) _ _
  dsimp only
  exact Ch.outline_ite (Ch.outline_putSeq x _ c) rfl

theorem Ch.outline_breakObj (e : Env) (o : EndObj) (c : Ch) : (c.breakObj e o).outline = c.outline := by
  cases o with
  | lane l => exact (Ch.outline_stopEnding ..).trans (Ch.outline_of_hull (Ch.hull_forceLane ..))
  | bar i => exact (Ch.outline_stopEnding ..).trans (Ch.outline_of_hull (by simp))

theorem Ch.outline_breakObjs (e : Env) (c : Ch) : (c.breakObjs e).outline = c.outline := by
  refine Ch.outline_foldl (fun c p => ?_) _ _
  split
  · exact Ch.outline_breakObj ..
  · rfl

theorem Ch.outline_breakAccord (e : Env) (b : BreakInfo) (c : Ch) : (c.breakAccord e b).outline = c.outline := by
  unfold Ch.breakAccord
  dsimp only
  refine Ch.outline_ite rfl ((Ch.outline_breakObjs ..).trans (Ch.outline_of_hull ?_))
  rw [Ch.hull_blotTrigger]
  exact Ch.hull_ite (Ch.hull_sendEdges ..) ((Ch.hull_raise ..).trans (Ch.hull_sendEdges ..))

theorem Ch.outline_failPort (e : Env) (p : Nat) (c : Ch) : (c.failPort e p).outline = c.outline := by
  unfold Ch.failPort Ch.failAttempt Ch.noteReason
  dsimp only
  refine Ch.outline_ite ?_ ((Ch.outline_breakObjs ..).trans (Ch.outline_of_hull ((Ch.hull_raise ..).trans ?_)))
  · exact Ch.outline_ite rfl rfl
  · exact Ch.hull_ite rfl rfl

theorem Ch.outline_linkDown (e : Env) (p : Nat) (c : Ch) : (c.linkDown e p).outline = c.outline := by
  unfold Ch.linkDown
  dsimp only
  refine Ch.outline_ite rfl ?_
  split
  · exact Ch.outline_breakAccord ..
  · exact Ch.outline_failPort ..
  · rfl

theorem Ch.outline_wakeUp (time : Nat) (c : Ch) : (c.wakeUp time).outline = c.outline := by
  unfold Ch.wakeUp
  (repeat' split) <;> rfl

/-! ### The work that is left -/

/-- Where only strikes are left to do, doing them keeps the hull. -/
theorem Ch.hull_drain (k : Nat) (h : c.todo.filter (fun t => !t.isStrike) = []) : (c.drain e k).hull = c.hull := by
  induction k generalizing c with
  | zero => rfl
  | succ k ih =>
    cases htodo : c.todo with
    | nil => rw [Ch.drain_nil htodo]
    | cons t ts =>
      rw [htodo] at h
      rw [Ch.drain_step htodo]
      cases t with
      | strike bank w =>
        have hts : ts.filter (fun t => !t.isStrike) = [] := h
        have hhull : (({ c with todo := ts } : Ch).strikeWord e bank w).hull = c.hull :=
          (Ch.hull_strikeWord ..).trans (by simp [Ch.hull, hullOf, htodo, hts, h])
        have hleft : (({ c with todo := ts } : Ch).strikeWord e bank w).todo.filter (fun t => !t.isStrike) = [] :=
          (congrArg (fun x => x.2.2.2.1) (Ch.hull_strikeWord e bank w { c with todo := ts })).trans hts
        exact (ih hleft).trans hhull
      | _ => exact absurd h (by simp [Todo.isStrike])

/-! ### A channel that leaves RUN (R305) -/

theorem Ch.setSt_st (c : Ch) (st : ChSt) : (c.setSt st).ctl.st = st := by
  unfold Ch.setSt
  split
  · assumption
  · rfl

theorem Ch.hull_setSt (c : Ch) (st : ChSt) : (c.setSt st).hull = hullOf st c.ctl.resetQ c.la.rxWait c.todo c.ps.seqs := by
  unfold Ch.setSt
  split
  · rename_i h
    rw [← h]
    rfl
  · rfl

theorem Ch.hull_rxFree (c : Ch) : c.rxFree.hull = c.hull := rfl
theorem Ch.hull_keepBreaks (c : Ch) : c.keepBreaks.hull = c.hull := rfl

/-- The reset events of a channel are dropped. -/
theorem Ch.hull_noResets {st : ChSt} {resetQ : List Nat} {rxWait : List (Nat × MsgIn × Nat)} {todo : List Todo} {seqs : SMap Seq}
    (h : d.hull = hullOf st resetQ rxWait todo seqs) :
    hullOf d.ctl.st [] d.la.rxWait d.todo d.ps.seqs = hullOf st [] rxWait todo seqs := by
  simp only [Ch.hull, hullOf, Prod.mk.injEq] at h ⊢
  obtain ⟨hst, -, hrx, htodo, hseqs⟩ := h
  exact ⟨hst, trivial, hrx, htodo, hseqs⟩

/-- What waited is gone, and no work is left but strikes. -/
theorem Ch.hull_flushDown (e : Env) (c : Ch) : (c.flushDown e).hull = hullOf c.ctl.st [] [] [] c.ps.seqs := by
  unfold Ch.flushDown
  dsimp only
  generalize hd : Ch.drainPorts e _ = d
  have hkept : d.hull = hullOf c.ctl.st c.ctl.resetQ [] [] c.ps.seqs := by
    rw [← hd, Ch.hull_drainPorts, Ch.hull_keepBreaks, Ch.hull_rxFree, Ch.hull_foldl (fun c q => c.hull_flushMessage e q),
      Ch.hull_foldl (fun c (w : Nat × Work) => c.hull_workDown e w.2), Ch.hull_foldl (fun c (w : Nat × Work) => c.hull_flushFull e w.2),
      Ch.hull_foldl (fun c p => c.hull_flushPacket e p)]
    rfl
  rw [Ch.hull_mk]
  exact Ch.hull_noResets hkept

/-- A sequence that is made IDLE keeps MISSED, and so do the others. -/
theorem Ch.seqsIdle_missed {q : Nat} (h : (c.seq q).missed = true) : (c.seqsIdle.seq q).missed = true := by
  unfold Ch.seqsIdle
  generalize hd : ({ c with bg := { c.bg with holdQ := [] } } : Ch) = d
  have hd' : (d.seq q).missed = true := by rw [← hd]; exact h
  clear hd
  induction List.range 16 generalizing d with
  | nil => exact hd'
  | cons x l ih =>
    refine ih _ ?_
    dsimp only
    split
    · exact hd'
    · by_cases hx : q = x
      · subst hx
        have hne : ({ d.seq q with st := .idle, deadlineOn := false, stopping := false } : Seq) ≠ {} := fun heq =>
          Bool.false_ne_true ((congrArg Seq.missed heq).symm.trans hd')
        exact (congrArg Seq.missed (SMap.get_put_self (m := d.ps.seqs) hne)).trans hd'
      · exact (congrArg Seq.missed (SMap.get_put_of_ne (m := d.ps.seqs) _ hx)).trans hd'

theorem Ch.outline_clk (c : Ch) (k : Clk) : ({ c with clk := k } : Ch).outline = c.outline := rfl

theorem Ch.outline_seqsIdle (c : Ch) : c.seqsIdle.outline = c.outline := by
  unfold Ch.seqsIdle
  refine Ch.outline_foldl (fun c x => ?_) _ _
  exact Ch.outline_ite rfl (Ch.outline_putSeq x _ c)

/-- The channel is in the state it left RUN for; nothing waits at its edges. -/
theorem Ch.outline_leaveRun (e : Env) (st : ChSt) (blot : Option Nat) (c : Ch) :
    (c.leaveRun e st blot).outline = (st, [], [], []) := by
  have hsaid : ((c.setSt st).sayGoodbye e).ctl.st = st :=
    (congrArg (fun x => x.1) (Ch.hull_sayGoodbye e (c.setSt st))).trans (Ch.setSt_st c st)
  have hdown : ((((c.setSt st).sayGoodbye e).flushDown e).waitsDown e).outline = (st, [], [], []) := by
    unfold Ch.outline
    rw [Ch.hull_waitsDown, Ch.hull_flushDown, hsaid]
    rfl
  have hover : ∀ d : Ch, (((d.mapHeldDown e).startShadow 2 0 []).scansOver e.time).outline = d.outline :=
    fun d => Ch.outline_of_hull (by rw [Ch.hull_scansOver, Ch.hull_startShadow, Ch.hull_mapHeldDown])
  have hleft : ∀ d : Ch, d.outline = (st, [], [], []) →
      (match blot with
        | none => d
        | some x => d.blotTrigger e 1 x).outline = (st, [], [], []) := by
    intro d hd
    cases blot with
    | none => exact hd
    | some x => exact (Ch.outline_of_hull (Ch.hull_blotTrigger ..)).trans hd
  unfold Ch.leaveRun
  dsimp only
  refine hleft _ ?_
  rw [Ch.outline_clk, hover, Ch.outline_seqsIdle]
  exact hdown

theorem Ch.seqs_of_hull (h : d.hull = c.hull) : d.ps.seqs = c.ps.seqs :=
  congrArg (fun x => x.2.2.2.2) h

theorem Ch.seq_of_seqs (h : d.ps.seqs = c.ps.seqs) (q : Nat) : d.seq q = c.seq q := by
  unfold Ch.seq
  rw [h]

theorem Ch.seq_of_hull (h : d.hull = c.hull) (q : Nat) : d.seq q = c.seq q :=
  Ch.seq_of_seqs (Ch.seqs_of_hull h) q

theorem Ch.seqs_of_fields {st : ChSt} {resetQ : List Nat} {rxWait : List (Nat × MsgIn × Nat)} {todo : List Todo} {seqs : SMap Seq}
    (h : c.hull = hullOf st resetQ rxWait todo seqs) : c.ps.seqs = seqs :=
  congrArg (fun x => x.2.2.2.2) h

theorem Ch.seq_clk (c : Ch) (k : Clk) (q : Nat) : ({ c with clk := k } : Ch).seq q = c.seq q := rfl

/-- A sequence whose deadline was missed shows so after its channel has left RUN. -/
theorem Ch.leaveRun_missed (e : Env) (st : ChSt) (blot : Option Nat) {q : Nat} (h : (c.seq q).missed = true) :
    ((c.leaveRun e st blot).seq q).missed = true := by
  have hsaid : ((c.setSt st).sayGoodbye e).ps.seqs = c.ps.seqs :=
    (Ch.seqs_of_hull (Ch.hull_sayGoodbye e (c.setSt st))).trans (Ch.seqs_of_fields (Ch.hull_setSt c st))
  have hflush : (((c.setSt st).sayGoodbye e).flushDown e).ps.seqs = ((c.setSt st).sayGoodbye e).ps.seqs :=
    Ch.seqs_of_fields (Ch.hull_flushDown ..)
  have hdown : ((((c.setSt st).sayGoodbye e).flushDown e).waitsDown e).ps.seqs = c.ps.seqs :=
    (Ch.seqs_of_hull (Ch.hull_waitsDown ..)).trans (hflush.trans hsaid)
  have hover : ∀ d : Ch, (((d.mapHeldDown e).startShadow 2 0 []).scansOver e.time).hull = d.hull :=
    fun d => by rw [Ch.hull_scansOver, Ch.hull_startShadow, Ch.hull_mapHeldDown]
  have hblot : ∀ d : Ch, (d.seq q).missed = true → ((match blot with
      | none => d
      | some x => d.blotTrigger e 1 x).seq q).missed = true := by
    intro d hd
    cases blot with
    | none => exact hd
    | some x =>
      dsimp only
      rw [Ch.seq_of_hull (Ch.hull_blotTrigger ..)]
      exact hd
  unfold Ch.leaveRun
  dsimp only
  refine hblot _ ?_
  rw [Ch.seq_clk, Ch.seq_of_hull (hover _)]
  refine Ch.seqsIdle_missed ?_
  rw [Ch.seq_of_seqs hdown]
  exact h

/-! ### A halt that is asked for (R305, R395) -/

/-- Nothing waits at the edges of a channel. -/
def Ch.Clear (c : Ch) : Prop := c.ctl.resetQ = [] ∧ c.la.rxWait = []

theorem Ch.Clear.of_outline (h : c.Clear) (hd : d.outline = c.outline) : d.Clear :=
  ⟨(congrArg (fun x => x.2.1) hd).trans h.1, (congrArg (fun x => x.2.2.1) hd).trans h.2⟩

theorem Ch.clear_of_outline {st : ChSt} {todo : List Todo} (h : c.outline = (st, [], [], todo)) : c.Clear :=
  ⟨congrArg (fun x => x.2.1) h, congrArg (fun x => x.2.2.1) h⟩

theorem Ch.Clear.setSt (h : c.Clear) (st : ChSt) : (c.setSt st).Clear := by
  have hset := Ch.hull_setSt c st
  exact ⟨(congrArg (fun x => x.2.1) hset).trans h.1, (congrArg (fun x => x.2.2.1) hset).trans h.2⟩

/-- Where nothing waits at a channel's edges, nothing waits there behind a halt. -/
theorem Ch.Clear.haltIfAsked (h : c.Clear) (e : Env) (writes : Bool) : (c.haltIfAsked e writes).Clear := by
  unfold Ch.haltIfAsked
  split
  · exact h
  · dsimp only
    split
    · exact Ch.clear_of_outline (Ch.outline_leaveRun ..)
    · exact Ch.clear_of_outline (Ch.outline_leaveRun ..)
    · exact Ch.Clear.setSt (c := { c with haltReq := false }) h .halted
    · exact h

theorem Ch.leaveRun_st (e : Env) (st : ChSt) (blot : Option Nat) (c : Ch) : (c.leaveRun e st blot).ctl.st = st :=
  congrArg (fun x => x.1) (Ch.outline_leaveRun e st blot c)

/-- A channel that is to halt is not in RUN any more. -/
theorem Ch.haltIfAsked_left (e : Env) (writes : Bool) (h : c.haltReq = true) : (c.haltIfAsked e writes).ctl.st ≠ .run := by
  unfold Ch.haltIfAsked
  rw [h, if_neg (by decide)]
  dsimp only
  split
  · rw [Ch.leaveRun_st]
    decide
  · rw [Ch.leaveRun_st]
    decide
  · rw [Ch.setSt_st]
    decide
  · assumption

/-- A halt of a channel that is in none of the states it ends changes nothing but the request. -/
theorem Ch.haltIfAsked_kept (e : Env) (writes : Bool) (h1 : c.ctl.st ≠ .run) (h2 : c.ctl.st ≠ .closing) (h3 : c.ctl.st ≠ .loading) :
    (c.haltIfAsked e writes).ctl.st = c.ctl.st := by
  unfold Ch.haltIfAsked
  split
  · rfl
  · dsimp only
    split
    · contradiction
    · contradiction
    · contradiction
    · rfl

end
end Sys2Proof.Machine
end

section

/-! ## A block whose channels have nothing waiting (R31, R259)

Where nothing waits at the edges of the block or of its channels, what follows an event within its command gates clocks only. -/

namespace Sys2Proof.Machine
section
variable {s a b : State} {n : Nat} {c d : Ch} {e : Env} {f : Env → Ch → Ch}

/-- Nothing waits at the edges of any channel. -/
def State.Clear (s : State) : Prop := ∀ m < 4, (s.ch m).Clear

/-- The state, the link agent and the sequences of a channel. -/
def Ch.life (c : Ch) := (c.ctl, c.la, c.ps)

theorem State.Clear.ch (h : s.Clear) (m : Nat) : (s.ch m).Clear :=
  match m with
  | 0 => h 0 (by decide)
  | 1 => h 1 (by decide)
  | 2 => h 2 (by decide)
  | _ + 3 => h 3 (by decide)

theorem State.clear_of_settled (h : s.settled = true) : s.Clear := by
  obtain ⟨-, -, -, -, -, hedges⟩ := State.settled_iff.1 h
  intro m _
  obtain ⟨hreset, hrx, -⟩ := hedges m
  exact ⟨hreset, hrx⟩

theorem Ch.Clear.of_life (h : c.Clear) (hd : d.life = c.life) : d.Clear := by
  simp only [Ch.life, Prod.mk.injEq] at hd
  obtain ⟨hctl, hla, -⟩ := hd
  unfold Ch.Clear
  rw [hctl, hla]
  exact h

/-! ### What follows an event -/

theorem State.Clear.serveChan (h : s.Clear) (n : Nat) : s.serveChan n = s := by
  have hresets : s.serveResets n = s := by
    unfold State.serveResets
    exact if_pos (List.isEmpty_iff.2 (h.ch n).1)
  have hmessage : (s.ch (s.lead n)).hasMessage = false := by
    unfold Ch.hasMessage
    rw [(h.ch _).2]
    rfl
  unfold State.serveChan
  dsimp only
  rw [hresets, hmessage, Bool.not_false, Bool.or_true, if_pos rfl, ite_self]

theorem State.life_gateIdle (s : State) (hn : n < 4) (m : Nat) (hm : m < 4) : ((s.gateIdle n).ch m).life = (s.ch m).life := by
  have hgate : (s.ch n).gateAgain.life = (s.ch n).life := by
    unfold Ch.gateAgain
    split <;> rfl
  unfold State.gateIdle
  split
  · by_cases hmn : m = n
    · rw [hmn, State.ch_setCh_self, hgate]
    · rw [State.ch_setCh_of_ne s _ hn hm hmn]
  · rfl

theorem State.pair_gateIdle (s : State) (n m : Nat) : (s.gateIdle n).pair m = s.pair m := by
  unfold State.gateIdle
  split <;> simp

/-- The end of a command at a block where nothing waits: the channels' clocks may stop, the PLLs follow. -/
theorem State.Unattended.afterwards_life (hs : s.Unattended) (h : s.Clear) :
    (∀ m < 4, (s.afterwards.ch m).life = (s.ch m).life) ∧ ∀ m, s.afterwards.pair m = s.pair m := by
  have hserved : s.serveWaiting = [0, 1, 2, 3].foldl State.gateIdle s := by
    rw [hs.serveWaiting]
    simp only [List.foldl_cons, List.foldl_nil, h.serveChan]
  unfold State.afterwards
  refine ⟨fun m hm => ?_, fun m => ?_⟩
  · rw [State.ch_setPll]
    split
    · rfl
    · rw [hserved]
      simp only [List.foldl_cons, List.foldl_nil]
      rw [State.life_gateIdle _ (by decide) m hm, State.life_gateIdle _ (by decide) m hm, State.life_gateIdle _ (by decide) m hm,
        State.life_gateIdle _ (by decide) m hm]
  · rw [State.pair_setPll]
    split
    · rfl
    · rw [hserved]
      simp only [List.foldl_cons, List.foldl_nil, State.pair_gateIdle]

/-! ### An event of a channel that stands alone -/

theorem Ch.life_reported (c : Ch) : c.reported.life = c.life := rfl

theorem State.unattended_of_shell (h : a.Unattended) (hb : b.shell = a.shell) : b.Unattended :=
  h.of_gates (State.gates_of_shell hb)

theorem State.Clear.finish (h : s.Clear) (hn : n < 4) (hd : d.Clear) (l : List Output) : (s.finish n d l).Clear := by
  intro m hm
  rw [State.ch_finish s d l hn m hm]
  split
  · exact hd.of_life d.life_reported
  · exact h m hm

/-- The channels after an event of a channel that stands alone. -/
theorem State.ch_atChan (h : (s.pair n).st = .single) (hn : n < 4) (m : Nat) (hm : m < 4) :
    (s.atChan n .none f).ch m = if m = n then s.after f n else s.ch m := by
  rw [State.atChan_single h, State.ch_busyNow, State.ch_finish s _ _ hn m hm]
  rfl

theorem State.Clear.atChan (h : s.Clear) (hsingle : (s.pair n).st = .single) (hn : n < 4) (hd : (s.after f n).Clear) :
    (s.atChan n .none f).Clear := by
  intro m hm
  rw [State.ch_atChan hsingle hn m hm]
  split
  · exact hd
  · exact h m hm

/-- An event of a channel that stands alone completes; the channel is left as its work settled. -/
theorem act_atChan_life (h : s.Still) (hn : n < 4)
    (hd : ((f (s.seen n .none) (s.ch n)).settle (s.seen n .none)).Clear) :
    ∃ t : State, act s (fun s => s.atChan n .none f) = .next t ∧
      (t.ch n).life = ((f (s.seen n .none) (s.ch n)).settle (s.seen n .none)).life := by
  have hsingle : (s.begin.pair n).st = .single := State.AllSingle.pair (s := s.begin) h.single n
  have hafter : s.begin.after f n = ((f (s.seen n .none) (s.ch n)).settle (s.seen n .none)).reported := by
    unfold State.after State.seen
    rw [State.ch_begin]
  have hclear : (s.begin.atChan n .none f).Clear := by
    refine State.Clear.atChan (s := s.begin) (fun m hm => ?_) hsingle hn ?_
    · rw [State.ch_begin]
      exact State.clear_of_settled h.settled m hm
    · rw [hafter]
      exact hd.of_life (Ch.life_reported _)
  have hun : (s.begin.atChan n .none f).Unattended :=
    State.unattended_of_shell (a := s.begin) (State.unattended_of_settled h.settled) (State.shell_atChan ..)
  refine ⟨_, act_on h.por _, ?_⟩
  rw [(hun.afterwards_life hclear).1 n hn, State.ch_atChan hsingle hn n hn, if_pos rfl, hafter, Ch.life_reported]

/-! ### What settles -/

/-- Where only strikes are left to do, and nothing waits at a channel's edges, nothing waits there once it has settled. -/
theorem Ch.Clear.settle (h : c.Clear) (htodo : c.todo.filter (fun t => !t.isStrike) = []) (e : Env) : (c.settle e).Clear :=
  (h.of_outline (Ch.outline_of_hull (Ch.hull_drain drainFuel htodo))).haltIfAsked e true

theorem Ch.todo_of_outline {st : ChSt} {resetQ : List Nat} {rxWait : List (Nat × MsgIn × Nat)}
    (h : c.outline = (st, resetQ, rxWait, [])) : c.todo.filter (fun t => !t.isStrike) = [] :=
  congrArg (fun x => x.2.2.2) h

/-- The outline of a channel between commands, at whose edges nothing waits. -/
theorem Ch.Clear.outline (h : c.Clear) (hq : c.Quiet) : c.outline = (c.ctl.st, [], [], []) := by
  obtain ⟨hreset, hrx⟩ := h
  obtain ⟨htodo, -⟩ := hq
  unfold Ch.outline Ch.hull hullOf
  rw [hreset, hrx, htodo]
  rfl

/-- A channel that is DOWN, HALTED or FAILED settles there. -/
theorem Ch.settle_st {st : ChSt} (h : c.outline = (st, [], [], [])) (h1 : st ≠ .run) (h2 : st ≠ .closing) (h3 : st ≠ .loading) :
    (c.settle e).ctl.st = st := by
  have hdrained : (c.drain e drainFuel).ctl.st = st :=
    (congrArg (fun x => x.1) (Ch.hull_drain (e := e) drainFuel (Ch.todo_of_outline h))).trans (congrArg (fun x => x.1) h)
  unfold Ch.settle
  rw [Ch.haltIfAsked_kept e true] <;> rw [hdrained] <;> assumption

end
end Sys2Proof.Machine
end

section

/-! ## Events of a channel's life complete (R237, R276, R325, R394) -/

namespace Sys2Proof.Machine
section
variable {s : State} {n p : Nat} {c d : Ch} {e : Env}

theorem Ch.ctl_of_life (h : d.life = c.life) : d.ctl = c.ctl := congrArg (fun x => x.1) h
theorem Ch.la_of_life (h : d.life = c.life) : d.la = c.la := congrArg (fun x => x.2.1) h

theorem Ch.seq_of_life (h : d.life = c.life) (q : Nat) : d.seq q = c.seq q :=
  Ch.seq_of_seqs (congrArg (fun x => x.2.2.seqs) h) q

theorem State.Still.ch_quiet (h : s.Still) (m : Nat) : (s.ch m).Quiet := by
  obtain ⟨hA, hB, hC, hD⟩ := h.quiet
  match m with
  | 0 => exact hA
  | 1 => exact hB
  | 2 => exact hC
  | _ + 3 => exact hD

theorem State.Still.outline (h : s.Still) (m : Nat) : (s.ch m).outline = ((s.ch m).ctl.st, [], [], []) :=
  ((State.clear_of_settled h.settled).ch m).outline (h.ch_quiet m)

/-! ### CLOSE_COMPLETE (R394) -/

theorem Ch.outline_setSt (h : c.outline = (c.ctl.st, [], [], [])) (st : ChSt) : (c.setSt st).outline = (st, [], [], []) := by
  simp only [Ch.outline, Ch.hull, hullOf, Prod.mk.injEq] at h
  obtain ⟨-, hreset, hrx, htodo⟩ := h
  unfold Ch.outline
  rw [Ch.hull_setSt]
  unfold hullOf
  rw [hreset, hrx, htodo]

/-- A channel whose audits are over is DOWN, and nothing waits at its edges. -/
theorem Ch.outline_closeComplete (h : c.outline = (c.ctl.st, [], [], [])) (hst : c.ctl.st = .closing)
    (haudit : ∀ x ∈ c.ps.seqs, x.2.st ≠ .audit) : (c.closeComplete e).outline = (.down, [], [], []) := by
  have hnone : c.ps.seqs.any (fun x => decide (x.2.st = .audit)) = false := by simpa using haudit
  have hsaid : ((c.sayGoodbye e).waitsDown e).outline = c.outline :=
    Ch.outline_of_hull ((Ch.hull_waitsDown ..).trans (Ch.hull_sayGoodbye ..))
  have hsaidSt : ((c.sayGoodbye e).waitsDown e).ctl.st = c.ctl.st := congrArg (fun x => x.1) hsaid
  unfold Ch.closeComplete
  rw [hst, hnone, if_pos (by decide)]
  dsimp only
  rw [Ch.outline_clk, Ch.outline_of_hull (Ch.hull_startShadow ..), Ch.outline_seqsIdle]
  exact Ch.outline_setSt (hsaid.trans (by rw [hsaidSt]; exact h)) .down

theorem exec_closeComplete {n : ChanId} (h : s.Still) (hst : (s.ch n.val).ctl.st = .closing)
    (haudit : ∀ x ∈ (s.ch n.val).ps.seqs, x.2.st ≠ .audit) :
    ∃ t : State, exec (.closeComplete n) s = .next t ∧ (t.ch n.val).ctl.st = .down := by
  have hdown := Ch.outline_closeComplete (e := s.seen n.val .none) (h.outline n.val) hst haudit
  obtain ⟨t, ht, hlife⟩ := act_atChan_life (f := Ch.closeComplete) h n.isLt
    ((Ch.clear_of_outline hdown).settle (Ch.todo_of_outline hdown) _)
  refine ⟨t, ht, ?_⟩
  rw [Ch.ctl_of_life hlife]
  exact Ch.settle_st hdown (by decide) (by decide) (by decide)

/-! ### DEADLINE_OVERRUN (R237) -/

/-- A missed deadline shows whatever the fault it raises brings. -/
theorem Ch.settle_missed {q : Nat} (h : (c.seq q).missed = true) (htodo : c.todo.filter (fun t => !t.isStrike) = []) :
    ((c.settle e).seq q).missed = true := by
  have hdrained : ((c.drain e drainFuel).seq q).missed = true := by rw [Ch.seq_of_hull (Ch.hull_drain drainFuel htodo)]; exact h
  unfold Ch.settle
  generalize c.drain e drainFuel = d at hdrained
  have hset : ∀ st, (d.setSt st).ps.seqs = d.ps.seqs := fun st => Ch.seqs_of_fields (Ch.hull_setSt d st)
  unfold Ch.haltIfAsked
  split
  · exact hdrained
  · dsimp only
    split
    · exact Ch.leaveRun_missed e .halted _ hdrained
    · exact Ch.leaveRun_missed e .halted _ hdrained
    · rw [Ch.seq_of_seqs (Ch.seqs_of_fields (Ch.hull_setSt { d with haltReq := false } .halted)) q]
      exact hdrained
    · exact hdrained

/-- What a missed deadline leaves of the edges, and that it shows. -/
theorem Ch.deadlineOverrun_missed {q : Nat}
    (hover : (c.seq q).overran (c.entry (c.seq q).entry).deadlineUs e.time = true) :
    (c.deadlineOverrun e q).outline = c.outline ∧ ((c.deadlineOverrun e q).seq q).missed = true := by
  have hput : ((c.putSeq q { c.seq q with missed := true }).seq q).missed = true :=
    congrArg Seq.missed (SMap.get_put_self (m := c.ps.seqs) fun heq => Bool.false_ne_true (congrArg Seq.missed heq).symm)
  have hkept : ∀ d : Ch, d.outline = c.outline → (d.seq q).missed = true → ∀ k,
      ((d.raise e .ps 5 k).blotTrigger e 4 q).outline = c.outline ∧ (((d.raise e .ps 5 k).blotTrigger e 4 q).seq q).missed = true := by
    intro d hd hm k
    have hhull : ((d.raise e .ps 5 k).blotTrigger e 4 q).hull = d.hull := (Ch.hull_blotTrigger ..).trans (Ch.hull_raise ..)
    rw [Ch.seq_of_hull hhull]
    exact ⟨(Ch.outline_of_hull hhull).trans hd, hm⟩
  unfold Ch.deadlineOverrun
  dsimp only
  rw [hover, if_pos rfl]
  refine hkept _ ?_ ?_ _
  · rfl
  · exact hput

theorem exec_deadlineOverrun {n : ChanId} {i : BitVec 4} (h : s.Still) (hcalm : (s.ch n.val).Calm)
    (hst : ((s.ch n.val).seq i.toNat).st = .run) (hon : ((s.ch n.val).seq i.toNat).deadlineOn = true)
    (hmissed : ((s.ch n.val).seq i.toNat).missed = false)
    (hus : ((s.ch n.val).entry ((s.ch n.val).seq i.toNat).entry).deadlineUs ≠ 0)
    (htime : ((s.ch n.val).seq i.toNat).start + 1000 * ((s.ch n.val).entry ((s.ch n.val).seq i.toNat).entry).deadlineUs ≤ s.time) :
    ∃ t : State, exec (.deadlineOverrun n i) s = .next t ∧ ((t.ch n.val).seq i.toNat).missed = true := by
  have hover : ((s.ch n.val).seq i.toNat).overran ((s.ch n.val).entry ((s.ch n.val).seq i.toNat).entry).deadlineUs
      (s.seen n.val .none).time = true := by
    unfold Seq.overran
    simp only [hst, hon, hmissed, Bool.not_false, Bool.and_true, decide_true, Bool.and_eq_true, decide_eq_true_eq]
    exact ⟨⟨trivial, hus⟩, htime⟩
  obtain ⟨houtline, hnow⟩ := Ch.deadlineOverrun_missed hover
  have hlive : whenLive (fun e c => c.deadlineOverrun e i.toNat) (s.seen n.val .none) (s.ch n.val) =
      (s.ch n.val).deadlineOverrun (s.seen n.val .none) i.toNat := whenLive_calm hcalm _
  have hout := houtline.trans (h.outline n.val)
  obtain ⟨t, ht, hlife⟩ := act_atChan_life (f := whenLive fun e c => c.deadlineOverrun e i.toNat) h n.isLt
    (by rw [hlive]; exact (Ch.clear_of_outline hout).settle (Ch.todo_of_outline hout) _)
  refine ⟨t, ht, ?_⟩
  rw [Ch.seq_of_life hlife, hlive]
  exact Ch.settle_missed hnow (Ch.todo_of_outline hout)

/-! ### LINK_LOST and LINK_UP (R276, R325) -/

theorem State.ch_onPorts (g : Ch → Ch) (s : State) (m : Nat) : (s.onPorts g).ch m = g (s.ch m) :=
  match m with
  | 0 => rfl
  | 1 => rfl
  | 2 => rfl
  | _ + 3 => rfl

theorem State.portOwner_lt (h : s.portOwner p = some n) : n < 4 := by
  unfold State.portOwner at h
  split at h
  · have hmem := List.mem_of_find?_eq_some h
    simp only [List.mem_cons, List.not_mem_nil, or_false] at hmem
    omega
  · cases h

theorem State.Still.begin_single (h : s.Still) (m : Nat) : (s.begin.pair m).st = .single := State.AllSingle.pair (s := s.begin) h.single m

/-- After the loss of a link nothing waits at a channel's edges. -/
theorem Ch.outline_lost (c : Ch) : ((if (c.startShadow 3 p []).live then (c.startShadow 3 p []).linkDown e p
    else c.startShadow 3 p []).wakeUp e.time).outline = c.outline := by
  have hshadow : (c.startShadow 3 p []).outline = c.outline := Ch.outline_of_hull (Ch.hull_startShadow ..)
  rw [Ch.outline_wakeUp]
  exact Ch.outline_ite ((Ch.outline_linkDown ..).trans hshadow) hshadow

theorem testBit_clrBit (x p : Nat) : (clrBit x p).testBit p = false := by
  unfold clrBit
  split
  · rename_i h
    have hsplit := Nat.testBit_two_pow_add_eq (x - 2 ^ p) p
    rw [Nat.add_sub_of_le (Nat.ge_two_pow_of_testBit h), h] at hsplit
    exact (Bool.not_eq_true' _).mp hsplit.symm
  · rename_i h
    exact Bool.eq_false_of_not_eq_true h

theorem testBit_setBit (x p : Nat) : (setBit x p).testBit p = true := by
  unfold setBit
  rw [Nat.testBit_or, Nat.testBit_two_pow_self, Bool.or_true]

theorem State.Still.linkLost_clear (h : s.Still) : (s.begin.linkLost p).Unattended ∧ (s.begin.linkLost p).Clear := by
  have hun := State.unattended_of_settled (s := s.begin) h.settled
  have hclear := State.clear_of_settled (s := s.begin) h.settled
  have hports : ∀ t : State, t.Unattended → t.Clear → (({ t with links := clrBit t.links p } : State).onPorts
      (fun c => { c with la := { c.la with up := clrBit c.la.up p } })).Unattended ∧
      (({ t with links := clrBit t.links p } : State).onPorts
      (fun c => { c with la := { c.la with up := clrBit c.la.up p } })).Clear := by
    intro t ht hc
    refine ⟨ht, fun m hm => ?_⟩
    rw [State.ch_onPorts]
    exact hc m hm
  unfold State.linkLost
  dsimp only
  split
  · exact hports _ hun hclear
  · rename_i n howner
    refine hports _ (State.unattended_of_shell hun (State.shell_atChan ..))
      (hclear.atChan (h.begin_single n) (State.portOwner_lt howner) ?_)
    have hbegin : (s.begin.ch n).outline = ((s.ch n).ctl.st, [], [], []) := by rw [State.ch_begin]; exact h.outline n
    have hout := (Ch.outline_lost (e := s.begin.env n false .none) (p := p) (s.begin.ch n)).trans hbegin
    exact ((Ch.clear_of_outline hout).settle (Ch.todo_of_outline hout) _).of_life (Ch.life_reported _)

theorem exec_linkLost {p : BitVec 3} (h : s.Still) :
    ∃ t : State, exec (.linkLost p) s = .next t ∧ ∀ m < 4, (t.ch m).la.up.testBit p.toNat = false := by
  obtain ⟨hun, hclear⟩ := h.linkLost_clear (p := p.toNat)
  refine ⟨_, act_on h.por _, fun m hm => ?_⟩
  rw [Ch.la_of_life ((hun.afterwards_life hclear).1 m hm)]
  unfold State.linkLost
  dsimp only
  rw [State.ch_onPorts]
  exact testBit_clrBit ..

/-- The end of a shadow leaves the link agent and what waits at a channel between commands. -/
theorem Ch.settle_endShadow (hq : c.Quiet) (time row key : Nat) : (c.endShadow time row key).settle e = c.endShadow time row key := by
  obtain ⟨htodo, -, -, hhalt, -⟩ := hq
  exact Ch.settle_quiet htodo hhalt

theorem State.Still.linkUp_clear (h : s.Still) : (s.begin.linkUp p).Unattended ∧ (s.begin.linkUp p).Clear ∧
    ∀ m < 4, ((s.begin.linkUp p).ch m).la = ((s.begin.ch m).linkIsUp p).la := by
  let s1 := ({ s.begin with links := setBit s.begin.links p } : State).onPorts (Ch.linkIsUp p)
  have hch : ∀ m, s1.ch m = (s.ch m).linkIsUp p := fun m => by
    rw [← State.ch_begin (s := s) m]
    exact State.ch_onPorts ..
  have hquiet : ∀ m, (s1.ch m).Quiet := fun m => by rw [hch]; exact h.ch_quiet m
  have hun : s1.Unattended := State.unattended_of_settled (s := s.begin) h.settled
  have hclear : s1.Clear := fun m _ => by
    rw [hch]
    exact (State.clear_of_settled h.settled).ch m
  have hla : ∀ m, (s1.ch m).la = ((s.begin.ch m).linkIsUp p).la := fun m => by rw [hch, State.ch_begin]
  unfold State.linkUp
  dsimp only
  split
  · exact ⟨hun, hclear, fun m _ => hla m⟩
  · rename_i n howner
    have hsingle : (s1.pair n).st = .single := h.begin_single n
    have hn := State.portOwner_lt howner
    have hafter : s1.after (fun e c => c.endShadow e.time 3 p) n =
        ((s1.ch n).endShadow (s1.env n false .none).time 3 p).reported :=
      congrArg Ch.reported (Ch.settle_endShadow (hquiet n) _ 3 p)
    refine ⟨State.unattended_of_shell hun (State.shell_atChan ..), hclear.atChan hsingle hn ?_, fun m hm => ?_⟩
    · rw [hafter]
      exact hclear.ch n
    · rw [State.ch_atChan hsingle hn m hm, hafter]
      split
      · rename_i hm
        rw [hm]
        exact hla n
      · exact hla m

theorem exec_linkUp {p : BitVec 3} (h : s.Still) :
    ∃ t : State, exec (.linkUp p) s = .next t ∧ ∀ m < 4, (t.ch m).la.up.testBit p.toNat = true := by
  obtain ⟨hun, hclear, hla⟩ := h.linkUp_clear (p := p.toNat)
  refine ⟨_, act_on h.por _, fun m hm => ?_⟩
  rw [Ch.la_of_life ((hun.afterwards_life hclear).1 m hm), hla m hm]
  exact testBit_setBit ..

end
end Sys2Proof.Machine
end

section

/-! ## A restart and a close take effect (R393, R394) -/

namespace Sys2Proof.Machine
section
variable {s t : State} {n v : Nat} {c d : Ch} {e : Env} {f : Env → Ch → Ch} {fn : BitVec 8} {α : Type}

/-! ### A write of CH_CTL -/

theorem State.onChan_single (h : (s.pair n).st = .single) (f : Env → Ch → Ch) : s.onChan n .none f =
    s.finish n ((f (s.env n false .none) (s.ch n)).settle (s.env n false .none))
      ((f (s.env n false .none) (s.ch n)).settle (s.env n false .none)).out := by
  unfold State.onChan State.runAlone
  simp [h]

theorem State.windowOf_single (h : (s.pair n).st = .single) {off : Nat} (hoff : off / 0x100000 = n + 1) : s.windowOf off = (n, n) := by
  unfold State.windowOf State.firstOf State.isSecond
  rw [hoff]
  simp [h]

theorem State.writeWindow_ctl {who : Requester} {off : Nat} (h : s.windowOf off = (n, n)) (hpage : off / 0x1000 % 0x100 = 0)
    (ho : off % 0x1000 = 0x008) : s.writeWindow who off v = s.writeCtl n v := by
  unfold State.writeWindow
  simp only [h, hpage, ho, ne_eq, not_true_eq_false, if_false, and_self, if_true]

/-- A write of CH_CTL in the window of a channel that stands alone, which leaves the block settled. -/
theorem act_writeCtl (h : (s.pair n).st = .single) (hn : n < 4) (ha : s.Admits fn (chanOff n 0 0x008) v)
    (ht : (s.issued (chanOff n 0 0x008)).writeCtl n v = t) (hset : t.settled = true) :
    act s (fun s => s.hostWrite (.host fn) (chanOff n 0 0x008) v) =
      .next (t.leave [.host (.host fn) (chanOff n 0 0x008) true v false]).setPll := by
  have hw : InWindow n 0 0x008 := ⟨hn, by decide, by decide⟩
  obtain ⟨hchan, hpage, hoff, hlow, hreg⟩ := hw.split
  have hfault := hw.faultAt
  generalize chanOff n 0 0x008 = off at *
  have hwindow : (s.issued off).windowOf off = (n, n) := State.windowOf_single (by rw [State.issued_pair]; exact h) hchan
  have hctl : (s.issued off).writeReg (.host fn) off v = t := by
    rw [State.writeReg_window hfault hlow, State.writeWindow_ctl hwindow hpage hoff, ht]
  refine act_write ha hctl ?_ hset
  rw [hreg, show decide (0x1000 * 0 + 0x008 = 0x108) = false by decide, Bool.and_false, Bool.false_and, Bool.false_and]

/-! ### What an effect does not touch -/

/-- What a channel has left to do, a halt that it asked for, and its clocks. -/
def Ch.task (c : Ch) := (c.todo, c.haltReq, c.clk)

theorem Ch.task_foldl {f : Ch → α → Ch} (hf : ∀ c x, (f c x).task = c.task) (l : List α) (c : Ch) : (l.foldl f c).task = c.task := by
  induction l generalizing c with
  | nil => rfl
  | cons x l ih => exact (ih _).trans (hf c x)

theorem Ch.task_drainPort (e : Env) (p k : Nat) (c : Ch) : (c.drainPort e p k).task = c.task := by
  induction k generalizing c with
  | zero => rfl
  | succ k ih =>
    unfold Ch.drainPort
    split
    · rfl
    · split
      · exact ih _
      · rfl

theorem Ch.task_drainPorts (e : Env) (c : Ch) : (c.drainPorts e).task = c.task :=
  Ch.task_foldl (fun c _ => c.task_drainPort ..) _ _

theorem Ch.task_setSt (st : ChSt) (c : Ch) : (c.setSt st).task = c.task := by
  unfold Ch.setSt
  split <;> rfl

theorem Ch.task_startShadow (row key : Nat) (lanes : List Nat) (c : Ch) : (c.startShadow row key lanes).task = c.task := by
  unfold Ch.startShadow
  split <;> rfl

theorem Ch.task_closeAudits (c : Ch) : c.closeAudits.task = c.task := by
  unfold Ch.closeAudits
  refine Ch.task_foldl (fun c x => ?_) _ _
  split <;> rfl

theorem Ch.outline_closeAudits (c : Ch) : c.closeAudits.outline = c.outline := by
  unfold Ch.closeAudits
  refine Ch.outline_foldl (fun c x => ?_) _ _
  exact Ch.outline_ite rfl (Ch.outline_putSeq x _ c)

/-- A channel whose clocks stand, with nothing left to do, settles as it is. -/
theorem Ch.settle_task {k : Clk} (h : c.task = ([], false, k)) : c.settle e = c := by
  simp only [Ch.task, Prod.mk.injEq] at h
  obtain ⟨htodo, hhalt, -⟩ := h
  exact Ch.settle_quiet htodo hhalt

theorem Ch.edge_stopped {k : Clk} (htask : c.task = ([], false, k)) (hk : k.st = .down) (hclear : c.Clear) : c.edge = ([], [], false) := by
  simp only [Ch.task, Prod.mk.injEq] at htask
  obtain ⟨-, -, hclk⟩ := htask
  obtain ⟨hreset, hrx⟩ := hclear
  unfold Ch.edge Ch.lingers
  rw [hreset, hrx, hclk, hk]
  simp

theorem State.edge_of_settled (h : s.settled = true) (m : Nat) : (s.ch m).edge = ([], [], false) := by
  obtain ⟨-, -, -, -, -, hedges⟩ := State.settled_iff.1 h
  obtain ⟨hreset, hrx, hlingers⟩ := hedges m
  unfold Ch.edge
  rw [hreset, hrx, hlingers]

/-- An effect on a channel that stands alone, which stops its clocks and leaves nothing to do. -/
theorem State.onChan_stopped {k : Clk} (h : s.settled = true) (hsingle : (s.pair n).st = .single) (hn : n < 4)
    (htask : (f (s.env n false .none) (s.ch n)).task = ([], false, k)) (hk : k.st = .down)
    (hclear : (f (s.env n false .none) (s.ch n)).Clear) :
    (s.onChan n .none f).settled = true ∧ ((s.onChan n .none f).ch n).ctl = (f (s.env n false .none) (s.ch n)).ctl := by
  rw [State.onChan_single hsingle, Ch.settle_task htask]
  refine ⟨State.settled_finish h hn ?_ _, ?_⟩
  · rw [Ch.edge_stopped htask hk hclear, State.edge_of_settled h]
  · rw [State.ch_finish s _ _ hn n hn, if_pos rfl]
    rfl

/-! ### RESTART (R393) -/

/-- A restart of a channel that stands alone: the channel's own, and its section is loaded again. -/
theorem State.restart_single (h : (s.pair n).st = .single) (h1 : (s.ch n).ctl.st ≠ .loading) (h2 : (s.ch n).ctl.st ≠ .closing) :
    ∃ g, s.restart n = (s.onChan n .none Ch.restart).onCl g := by
  have hlead : s.lead n = n := by
    unfold State.lead
    rw [h, if_neg (by decide)]
  unfold State.restart
  dsimp only
  rw [hlead, if_neg (not_or_intro h1 h2), h, if_pos (rfl : PairSt.single = .single), if_neg (show ¬ PairSt.single = .unpaired by decide)]
  exact ⟨_, rfl⟩

theorem Ch.cleared_outline (c : Ch) : c.cleared.outline = (c.ctl.st, [], [], []) := rfl
theorem Ch.cleared_task (c : Ch) : c.cleared.task = ([], false, c.cleared.clk) := rfl

/-- A channel that restarts is LOADING, its clocks stand, and nothing waits or is left to do. -/
theorem Ch.restart_stopped (e : Env) (c : Ch) : (c.restart e).ctl.st = .loading ∧ (c.restart e).Clear ∧
    ∃ k, (c.restart e).task = ([], false, k) ∧ k.st = .down := by
  have hst : (if c.ctl.st = .run then c.leaveRun e .loading none else c.setSt .loading).ctl.st = .loading := by
    split
    · exact Ch.leaveRun_st ..
    · exact Ch.setSt_st ..
  unfold Ch.restart
  dsimp only
  generalize (if c.ctl.st = .run then c.leaveRun e .loading none else c.setSt .loading) = d at hst
  have hout : (d.cleared.drainPorts e).outline = (.loading, [], [], []) :=
    (Ch.outline_of_hull (Ch.hull_drainPorts ..)).trans ((Ch.cleared_outline d).trans (by rw [hst]))
  have htask : (d.cleared.drainPorts e).task = ([], false, d.cleared.clk) := (Ch.task_drainPorts ..).trans (Ch.cleared_task d)
  generalize d.cleared.drainPorts e = x at hout htask
  exact ⟨congrArg (fun x => x.1) hout, Ch.clear_of_outline hout, _, htask, rfl⟩

theorem exec_channelRestart {n : ChanId} {v : Word} (h : s.Still) (ha : s.Admits fn (chanOff n.val 0 0x008) v.toNat)
    (hbit : v.toNat.testBit 0 = true) (h1 : (s.ch n.val).ctl.st ≠ .loading) (h2 : (s.ch n.val).ctl.st ≠ .closing) :
    ∃ t : State, exec (.channelRestart (.host fn) n v) s = .next t ∧ (t.ch n.val).ctl.st = .loading := by
  let s1 := s.issued (chanOff n.val 0 0x008)
  have hsingle : (s1.pair n.val).st = .single := by
    rw [State.issued_pair]
    exact State.AllSingle.pair h.single _
  have hch : s1.ch n.val = s.ch n.val := State.issued_ch ..
  obtain ⟨g, hrestart⟩ := State.restart_single hsingle (hch ▸ h1) (hch ▸ h2)
  obtain ⟨hst, hclear, k, htask, hk⟩ := Ch.restart_stopped (s1.env n.val false .none) (s1.ch n.val)
  obtain ⟨hset, hctl⟩ := State.onChan_stopped ((State.settled_issued _).trans h.settled) hsingle n.isLt htask hk hclear
  have hwrite : s1.writeCtl n.val v.toNat = s1.restart n.val := by
    unfold State.writeCtl bit
    rw [hbit, if_pos rfl]
  refine ⟨_, act_writeCtl (State.AllSingle.pair h.single _) n.isLt ha (hwrite.trans hrestart) hset, ?_⟩
  rw [State.ch_setPll, State.ch_leave, State.ch_onCl, hctl, hst]

/-! ### CLOSE (R394) -/

/-- A calm channel that closes, with nothing in its RU queue, is CLOSING, and nothing waits or is left to do. -/
theorem Ch.Calm.orderlyClose_stopped (h : c.Calm) (hclear : c.Clear) (hru : c.ru.queue = []) (e : Env) :
    (c.orderlyClose e).ctl.st = .closing ∧ (c.orderlyClose e).Clear ∧ ∃ k, (c.orderlyClose e).task = ([], false, k) ∧ k.st = .down := by
  let c1 := (({ c with clk := { c.clk with st := .down } } : Ch).setSt .closing).startShadow 2 0 []
  have hset : c1.rq = c.rq ∧ c1.ru = c.ru := by
    unfold c1 Ch.startShadow Ch.setSt
    (repeat' split) <;> exact ⟨rfl, rfl⟩
  obtain ⟨hrq, hru1⟩ := hset
  have hstopped : ({ c with clk := { c.clk with st := .down } } : Ch).outline = (c.ctl.st, [], [], []) := hclear.outline h.quiet
  have hout : c1.outline = (.closing, [], [], []) :=
    (Ch.outline_of_hull (Ch.hull_startShadow ..)).trans (Ch.outline_setSt hstopped .closing)
  have htask : c1.task = ([], false, { c.clk with st := .down }) := by
    obtain ⟨htodo, -, -, hhalt, -⟩ := h.quiet
    refine (Ch.task_startShadow ..).trans ((Ch.task_setSt ..).trans ?_)
    unfold Ch.task
    rw [htodo, hhalt]
  have hst : c1.ctl.st = .closing := congrArg (fun x => x.1) hout
  have hserved : c.orderlyClose e = c1.closeAudits := by
    have hserve : c1.servePackets e c1.rq.ingress.length = c1 := by
      rw [hrq, h.ingress]
      rfl
    have hfinish : c1.finishWork e (c1.ru.queue.length + 2 * (c1.rq.bankQ.length + c1.rq.full.length)) = c1 := by
      rw [hrq, hru1, hru, h.banks, h.full]
      rfl
    unfold Ch.orderlyClose
    rw [if_neg (fun hne => hne h.run)]
    show ((c1.servePackets e c1.rq.ingress.length).finishWork e ((c1.servePackets e c1.rq.ingress.length).ru.queue.length +
      2 * ((c1.servePackets e c1.rq.ingress.length).rq.bankQ.length + (c1.servePackets e c1.rq.ingress.length).rq.full.length))).closeOn = _
    rw [hserve, hfinish]
    exact if_pos hst
  have houtline := (Ch.outline_closeAudits c1).trans hout
  have htasks := (Ch.task_closeAudits c1).trans htask
  rw [hserved]
  generalize c1.closeAudits = x at houtline htasks
  exact ⟨congrArg (fun x => x.1) houtline, Ch.clear_of_outline houtline, _, htasks, rfl⟩

theorem exec_orderlyClose {n : ChanId} {v : Word} (h : s.Still) (ha : s.Admits fn (chanOff n.val 0 0x008) v.toNat)
    (hbit0 : v.toNat.testBit 0 = false) (hbit1 : v.toNat.testBit 1 = true) (hcalm : (s.ch n.val).Calm)
    (hru : (s.ch n.val).ru.queue = []) :
    ∃ t : State, exec (.orderlyClose (.host fn) n v) s = .next t ∧ (t.ch n.val).ctl.st = .closing := by
  let s1 := s.issued (chanOff n.val 0 0x008)
  have hsingle : (s1.pair n.val).st = .single := by
    rw [State.issued_pair]
    exact State.AllSingle.pair h.single _
  have hch : s1.ch n.val = s.ch n.val := State.issued_ch ..
  obtain ⟨hst, hclear, k, htask, hk⟩ :=
    Ch.Calm.orderlyClose_stopped (hch ▸ hcalm) (hch ▸ (State.clear_of_settled h.settled).ch n.val) (hch ▸ hru) (s1.env n.val false .none)
  obtain ⟨hset, hctl⟩ := State.onChan_stopped ((State.settled_issued _).trans h.settled) hsingle n.isLt htask hk hclear
  have hwrite : s1.writeCtl n.val v.toNat = s1.onChan n.val .none Ch.orderlyClose := by
    unfold State.writeCtl bit
    rw [hbit0, hbit1, if_neg (by decide), if_pos rfl]
  refine ⟨_, act_writeCtl (State.AllSingle.pair h.single _) n.isLt ha hwrite hset, ?_⟩
  rw [State.ch_setPll, State.ch_leave, hctl, hst]

end
end Sys2Proof.Machine
end

section

/-! ## An unmatched output halts both sides (R335, R339) -/

namespace Sys2Proof.Machine
section
variable {s : State} {n : Nat} {c d : Ch} {e : Env}

/-- RQ_PAIR_DIVERGE, where it is enabled, asks for a halt: nothing shadows a fault of class F. -/
theorem Ch.raise_pairDiverge (h : c.flt.rq.disabled.testBit 9 = false) (k : Cause) : (c.raise e .rq 9 k).haltReq = true := by
  have hshadow : c.shadowed e.time .rq 9 k = none := by
    unfold Ch.shadowed
    simp [srcClass, srcClasses]
  have hclass : ∀ fresh, (raiseOn e.time e.stamp fresh 3 9 k (c.fault .rq)).2 = 3 := fun fresh => by
    show escalate _ 3 = 3
    unfold escalate
    simp
  have henabled : ¬ (srcClass .rq 9 = 0 ∨ bit (c.fault .rq).disabled 9 = true) := by
    rintro (hzero | hdisabled)
    · cases hzero
    · exact Bool.false_ne_true (h.symm.trans hdisabled)
  unfold Ch.raise
  rw [hshadow]
  dsimp only
  rw [if_neg henabled]
  exact Bool.or_eq_true_iff.mpr (.inr (decide_eq_true (hclass _)))

/-- A side that diverges halts, and nothing waits at its edges. -/
theorem Ch.Clear.diverged (hx : c.Clear) (hen : c.flt.rq.disabled.testBit 9 = false) (e : Env) (writes : Bool) :
    ((({ c with out := [] } : Ch).raise e .rq 9 {}).haltIfAsked e writes).Clear ∧
      ((({ c with out := [] } : Ch).raise e .rq 9 {}).haltIfAsked e writes).ctl.st ≠ .run := by
  have hsilent : ({ c with out := [] } : Ch).Clear := hx
  exact ⟨(hsilent.of_outline (Ch.outline_of_hull (Ch.hull_raise ..))).haltIfAsked e writes,
    Ch.haltIfAsked_left e writes (Ch.raise_pairDiverge (c := { c with out := [] }) hen {})⟩

theorem State.pair_finish (s : State) (n m : Nat) (c : Ch) (l : List Output) : (s.finish n c l).pair m = s.pair m :=
  State.pair_of_common (State.common_finish ..) m

/-- Two sides that have halted, and the record of their pair. -/
structure State.Diverged (s : State) (n skew : Nat) : Prop where
  halted : (s.pair n).st = .halted
  skew   : (s.pair n).skew = skew
  first  : (s.ch n).ctl.st ≠ .run
  second : (s.ch (n + 1)).ctl.st ≠ .run

/-- A divergence: the record of the pair, then both sides. -/
theorem State.diverge_eq (s : State) (n : Nat) (ea eb : Env) (x y : Ch) (w : Option (Nat × Option Output × Option Output))
    (pass : List Output) : ∃ (p : Pair) (outs : List Output), p.st = .halted ∧ p.skew = (s.pair n).skew ∧
      s.diverge n ea eb x y w pass =
        ((s.setPair n p).finish n ((({ x with out := [] } : Ch).raise ea .rq 9 {}).haltIfAsked ea true) outs).finish (n + 1)
          ((({ y with out := [] } : Ch).raise eb .rq 9 {}).haltIfAsked eb false) [] := by
  unfold State.diverge
  dsimp only
  cases w with
  | none =>
    refine ⟨_, _, ?_, ?_, rfl⟩
    · rfl
    · rfl
  | some d =>
    refine ⟨_, _, ?_, ?_, rfl⟩
    · rfl
    · rfl

theorem State.Clear.setPair (h : s.Clear) (p : Pair) : (s.setPair n p).Clear := by
  intro m hm
  rw [State.ch_setPair]
  exact h m hm

/-- The sides of a divergence halt; the record of the pair keeps the largest lead. -/
theorem State.Clear.diverge {ea eb : Env} {x y : Ch} {w : Option (Nat × Option Output × Option Output)} {pass : List Output}
    (h : s.Clear) (hn : n + 1 < 4) (hx : x.Clear) (hy : y.Clear)
    (hex : x.flt.rq.disabled.testBit 9 = false) (hey : y.flt.rq.disabled.testBit 9 = false) :
    (s.diverge n ea eb x y w pass).Clear ∧ (s.diverge n ea eb x y w pass).Diverged n (s.pair n).skew := by
  obtain ⟨hclearA, hstA⟩ := hx.diverged hex ea true
  obtain ⟨hclearB, hstB⟩ := hy.diverged hey eb false
  obtain ⟨p, outs, hst, hskew, heq⟩ := State.diverge_eq s n ea eb x y w pass
  rw [heq]
  generalize Ch.haltIfAsked ea true _ = a at hclearA hstA
  generalize Ch.haltIfAsked eb false _ = b at hclearB hstB
  have hn' : n < 4 := by omega
  have hpair : (((s.setPair n p).finish n a outs).finish (n + 1) b []).pair n = p := by
    rw [State.pair_finish, State.pair_finish, State.pair_setPair_self]
  refine ⟨((h.setPair p).finish hn' hclearA outs).finish hn hclearB [], ?_, ?_, ?_, ?_⟩
  · rw [hpair, hst]
  · rw [hpair, hskew]
  · rw [State.ch_finish _ b [] hn n hn', if_neg (Nat.ne_of_lt n.lt_succ_self), State.ch_finish _ a outs hn' n hn', if_pos rfl]
    exact hstA
  · rw [State.ch_finish _ b [] hn (n + 1) hn, if_pos rfl]
    exact hstB

/-- What follows a divergence within its command leaves the record and the sides halted. -/
theorem State.Diverged.afterwards {skew : Nat} (h : s.Diverged n skew) (hs : s.Unattended) (hclear : s.Clear) (hn : n + 1 < 4) :
    s.afterwards.Diverged n skew := by
  obtain ⟨hlife, hpair⟩ := hs.afterwards_life hclear
  refine ⟨?_, ?_, ?_, ?_⟩
  · rw [hpair]
    exact h.halted
  · rw [hpair]
    exact h.skew
  · rw [Ch.ctl_of_life (hlife n (by omega))]
    exact h.first
  · rw [Ch.ctl_of_life (hlife (n + 1) hn)]
    exact h.second

theorem Waiting.lead_due {l : Waiting} {o : Output} {b now : Nat} (h : l.head? = some (o, some b)) (hdue : b + 256 ≤ now) :
    l.lead now = 256 := by
  obtain ⟨rest, rfl⟩ := List.head?_eq_some_iff.mp h
  show min 256 (now - b) = 256
  omega

/-- An output of an active pair that is due diverges the pair. -/
theorem State.unmatched_due {p : Pair} {k : Nat} {o : Output} {b : Nat} (hp : s.pair n = p) (hst : p.st = .paired)
    (hhead : (p.first.get [] k).head? = some (o, some b) ∨ (p.second.get [] k).head? = some (o, some b))
    (hdue : b + 256 ≤ s.coreNow) : s.unmatched n k =
      (s.setPair n { p with skew := 256 }).diverge n (s.env n false .none) (s.env n true .none) (s.ch n) (s.ch (n + 1))
        (some (k, ((p.first.get [] k).head?).map (·.1), ((p.second.get [] k).head?).map (·.1))) [] := by
  have hlead : ¬ ((p.st ≠ .paired || ((p.first.get [] k : Waiting).lead s.coreNow ≠ 256 &&
      (p.second.get [] k : Waiting).lead s.coreNow ≠ 256)) = true) := by
    rcases hhead with hhead | hhead
    · simp [hst, Waiting.lead_due hhead hdue]
    · simp [hst, Waiting.lead_due hhead hdue]
  unfold State.unmatched
  dsimp only
  rw [hp]
  exact if_neg hlead

theorem exec_unmatchedOutput {second : Bool} {stream : BitVec 3} {p : Pair} {o : Output} {b : Nat} (hpor : s.por = false)
    (hset : s.settled = true) (hp : (if second then s.pairCD else s.pairAB) = p) (hst : p.st = .paired)
    (hhead : (p.first.get [] stream.toNat).head? = some (o, some b) ∨ (p.second.get [] stream.toNat).head? = some (o, some b))
    (hdue : b + 256 ≤ s.begin.coreNow) (hen : ∀ m < 4, (s.ch m).flt.rq.disabled.testBit 9 = false) :
    ∃ t : State, exec (.unmatchedOutput second stream) s = .next t ∧ t.Diverged (if second then 2 else 0) 256 := by
  have hn : (if second then 2 else 0) + 1 < 4 := by cases second <;> decide
  have hpair : s.begin.pair (if second then 2 else 0) = p := by
    rw [State.pair_begin, ← hp]
    cases second <;> rfl
  have hexec : exec (.unmatchedOutput second stream) s = .next (s.begin.unmatched (if second then 2 else 0) stream.toNat).afterwards :=
    act_on hpor _
  have hclear : s.begin.Clear := State.clear_of_settled hset
  have hen' : ∀ m < 4, (s.begin.ch m).flt.rq.disabled.testBit 9 = false := fun m hm => by rw [State.ch_begin]; exact hen m hm
  generalize (if second then 2 else 0 : Nat) = n at hn hpair hexec
  obtain ⟨hleft, hdiverged⟩ := State.Clear.diverge (ea := s.begin.env n false .none) (eb := s.begin.env n true .none)
    (w := some (stream.toNat, ((p.first.get [] stream.toNat).head?).map (·.1), ((p.second.get [] stream.toNat).head?).map (·.1)))
    (pass := []) (hclear.setPair (n := n) { p with skew := 256 }) hn (hclear.ch n) (hclear.ch (n + 1)) (hen' n (by omega)) (hen' (n + 1) hn)
  rw [← State.unmatched_due hpair hst hhead hdue] at hleft hdiverged
  rw [State.pair_setPair_self] at hdiverged
  have hun : (s.begin.unmatched n stream.toNat).Unattended := by
    rw [State.unmatched_due hpair hst hhead hdue]
    exact State.unattended_of_shell (a := s.begin) (State.unattended_of_settled hset)
      ((State.shell_diverge ..).trans (State.shell_setPair ..))
  exact ⟨_, hexec, hdiverged.afterwards hun hleft hn⟩

/-! ## Events complete (R237, R276, R306, R335 to R348, R368, R391 to R394) -/

/-- Settles O53, event by event: each event's own steps leave what the clause says, and what is served behind it in the same command
changes neither the block's shell (`State.Unattended.afterwards_shell`) nor the life of a channel at whose edges nothing waits
(`State.Unattended.afterwards_life`). -/
theorem eventsComplete : Obligations.EventsComplete := by
  unfold Obligations.EventsComplete
  refine ⟨?_, ?_⟩
  · intro s n v fn q p h
    have hun := State.unattended_of_settled h.settled
    dsimp only
    exact ⟨fun hlock _ => exec_ckPllLock h.por hun hlock,
      fun hrun hen => exec_ckKeepClock h.por hun hrun hen,
      exec_quarantine h.por hun,
      exec_resetDoneExchange h.por hun,
      exec_ckQuarantine h.por hun,
      exec_linkLost h,
      exec_linkUp h,
      fun hrun hport hgate => ⟨exec_gateOpen hport hrun hgate, exec_gateRefuse hport hrun hgate⟩,
      fun _ ha hbit h1 h2 => exec_channelRestart h ha hbit h1 h2,
      exec_orderlyClose h,
      exec_closeComplete h,
      fun i hst hon hmissed hcalm hus htime => exec_deadlineOverrun h hcalm hst hon hmissed hus htime⟩
  · intro s second stream p o b hpor hset hp hst hhead hdue hen
    dsimp only
    obtain ⟨t, ht, hhalted, hskew, hfirst, hsecond⟩ := exec_unmatchedOutput hpor hset hp hst hhead hdue hen
    exact ⟨t, ht, hhalted, hskew, hfirst, hsecond⟩

end
end Sys2Proof.Machine
end

section

/-! ## A RELEASE at a chip with two parents (R254, R272, R273) -/

namespace Sys2Proof.Machine

/-- A channel at rank 2 of a FORMED accord whose tree lists two edges to a parent, by ports 2 and 1; it binds no local object. -/
def twoParents : Ch :=
  { ctl := { st := .run }, clk := { st := .active }, img := { commons := [(0, 2 ^ 63)] },
    la := { accord := 7, rank := 2, linkPorts := 6, up := 6, st := .formed,
            edges := [{ port := 2, rank := 0, up := true }, { port := 1, rank := 1, up := true }] } }

/-- The powered block with that channel as channel A, which owns port 1. -/
def twoParentsState : State := { por := false, pt := { gate := .opened, table := [(8, 2 ^ 33)] }, chA := twoParents }

/-- RELEASE of the generation that object 0 collects, on port 1. -/
def secondRelease : MsgIn := { port := 1, len := 1, accord := 7, src := 1, dst := 2, object := 0, body := [0], err := .none }

theorem twoParentsState_ready : twoParentsState.Ready 0 where
  por := rfl
  chan := by decide
  single := rfl
  settled := by decide
  calm := ⟨rfl, rfl, ⟨rfl, rfl, rfl, rfl, rfl⟩, rfl, rfl, rfl, rfl, rfl, fun u => by cases u <;> rfl⟩

theorem twoParentsState_hears : twoParentsState.Hears 0 tyRelease secondRelease where
  toReady := twoParentsState_ready
  openPort := rfl
  owner := by decide
  free := rfl
  clean := rfl
  noForce := rfl
  goodLen := rfl
  body := rfl
  accord := fun _ => rfl
  addressed := fun _ _ => rfl

/-- The link agent takes port 2 for its parent's, so the RELEASE on port 1 breaks the accord. -/
theorem twoParentsState_breaks : ∃ t, exec (.release secondRelease) twoParentsState = .next t ∧
    (t.ch (0 : ChanId).val).la.st = .broken :=
  ⟨(twoParentsState.begin.message tyRelease secondRelease).afterwards, rfl, by decide +kernel⟩

/-- Refutes O41: its RELEASE clause has no premise that the tree has at most one edge to a parent. Where two are listed, the parent is
the first of them, so a RELEASE on the port of the second is no parent's and breaks the accord (R273), where the statement has the next
generation begin. A chip has one parent (R254), so `(c.la.edges.filter (fun x => x.up)).length ≤ 1`, as `Ch.GoodTree` has it, is what
the clause lacks. -/
theorem not_accordEventsComplete : ¬ Obligations.AccordEventsComplete := by
  intro h
  obtain ⟨-, hrelease, -⟩ := h twoParentsState 0 secondRelease { port := 1, rank := 1, up := true } {} 0 twoParentsState_ready rfl rfl
    (by decide) (by decide) (by decide) rfl rfl rfl
  obtain ⟨t, ht, -, -, hformed, -⟩ := hrelease twoParentsState_hears rfl (by decide)
  obtain ⟨u, hu, hbroken⟩ := twoParentsState_breaks
  obtain rfl := Host.Outcome.next.inj (ht.symm.trans hu)
  exact absurd (hformed.symm.trans hbroken) (by decide)

end Sys2Proof.Machine
end

section

/-! ## Messages at a link agent, and messages on tree edges (R255 to R259) -/

namespace Sys2Proof.Machine
section
variable {s : State} {n p k typ object : Nat} {c d : Ch} {e : Env} {m : MsgIn} {w : Msg} {x u : Edge} {ds : List Edge} {body : List Nat}
  {outs : List Output} {raised : List RaisedNow}

/-! ### Parts of a channel that an effect leaves alone -/

/-- A link agent, its records, the fault sets and the blotter of a quiet channel may change but for the messages that wait. -/
theorem Ch.Quiet.same {la : La} {lalog : LaLog} {flt : FaultSets} {db : Db} (hq : c.Quiet) (hrx : la.rxWait = c.la.rxWait) :
    ({ c with la := la, lalog := lalog, flt := flt, db := db } : Ch).Same c := ⟨hq, Ch.edge_eq rfl hrx rfl rfl⟩

/-- Whether a fault is raised depends on the shadows and the fault sets. -/
theorem Ch.Raises.of_fields {u' : Sub} {src cls : Nat} {z : Cause} (h : c.Raises e u' src z cls) (hctl : d.ctl = c.ctl)
    (hflt : d.flt = c.flt) : d.Raises e u' src z cls := by
  unfold Ch.Raises Ch.shadowed Ch.fault at *
  rw [hctl, hflt]
  exact h

/-! ### Received messages -/

/-- What a link agent that takes a message of another type than TRAILER makes of it: its effect, then the credit's return (R258). -/
def Ch.takes (e : Env) (typ : Nat) (m : MsgIn) (c : Ch) : Ch :=
  (c.heard.onMessage e (e.linkTime m.port.toNat) typ m).emit (.creditBack m.port.toNat)

/-- The message reaches the channel that owns its port. -/
theorem State.Hears.begin_message (h : s.Hears n typ m) :
    s.begin.message typ m = s.begin.atChan n .none (fun e c => c.messageIn e typ m) := by
  have hport : s.begin.quarantined (0x5000 + m.port.toNat) = false := h.openPort
  have howner : s.begin.portOwner m.port.toNat = some n := h.owner
  have hfree : s.begin.held n = false := h.free
  unfold State.message
  simp only [hport, howner, hfree, Bool.false_and, Bool.false_eq_true, if_false]

/-- It meets no error, so it is counted and has its effect. -/
theorem State.Hears.messageIn (h : s.Hears n typ m) (htyp : typ ≠ tyTrailer) : (s.ch n).messageIn e typ m = (s.ch n).takes e typ m := by
  obtain ⟨-, -, -, -, -, hedges⟩ := State.settled_iff.mp h.settled
  obtain ⟨-, hrx, -⟩ := hedges n
  have hwaits : (s.ch n).trailerWaits m.port.toNat = false := by simp [Ch.trailerWaits, h.calm.full]
  have hcount : (s.ch n).countMsg e m = (s.ch n).heard := by
    unfold Ch.countMsg Ch.heard
    rw [if_neg (by simp [h.clean, h.noForce]), ← h.noForce]
  have hform : (s.ch n).heard.malformed typ m = false := by
    unfold Ch.malformed Ch.heard
    by_cases hhello : typ = tyHello
    · subst hhello
      simp [h.clean, h.goodLen, h.body]
    · simp [h.clean, h.goodLen, h.body, h.accord hhello, h.addressed hhello htyp]
  have htake : (s.ch n).takeMessage e (e.linkTime m.port.toNat) typ m =
      (s.ch n).heard.onMessage e (e.linkTime m.port.toNat) typ m := by
    have hrun : (s.ch n).heard.ctl.st = .run := h.calm.run
    unfold Ch.takeMessage
    rw [hcount]
    dsimp only
    rw [if_neg (fun hx => hx.1 hrun), hform, if_neg Bool.false_ne_true]
  unfold Ch.messageIn Ch.messageNow Ch.takes
  simp only [h.calm.awake', hwaits, hrx, List.any_nil, Bool.or_self, Bool.false_eq_true, if_false, htyp, htake]

/-- A message after which the channel settles with nothing left to do. -/
theorem State.Hears.act_message (h : s.Hears n typ m) (htyp : typ ≠ tyTrailer) (hc : s.ch n = c) (he : s.seen n .none = e)
    (hf : (c.takes e typ m).settle e = { d with out := outs }) (hd : d.Same c) :
    act s (fun s => s.message typ m) = .next (s.moved n d outs) := by
  subst hc he
  exact (act_congr (g := fun s => s.atChan n .none _) h.begin_message).trans
    (act_event h.toReady _ (by rw [h.messageIn htyp]; exact hf) hd)

/-- A message whose effect leaves nothing to do. -/
theorem State.Hears.act_effect (h : s.Hears n typ m) (htyp : typ ≠ tyTrailer) (hc : s.ch n = c) (he : s.seen n .none = e)
    (hf : c.heard.onMessage e (e.linkTime m.port.toNat) typ m = { d with out := outs }) (hd : d.Same c) :
    act s (fun s => s.message typ m) = .next (s.moved n d (outs ++ [.creditBack m.port.toNat])) := by
  refine h.act_message htyp hc he ?_ hd
  obtain ⟨htodo, -, -, hhalt, -⟩ := hd.quiet
  unfold Ch.takes
  rw [hf]
  exact Ch.settle_quiet htodo hhalt

/-- A timer of a live channel after which it settles with nothing left to do. -/
theorem State.Ready.act_timer (h : s.Ready n) (hc : s.ch n = c) (he : s.seen n .none = e) (f : Env → Ch → Ch)
    (hf : f e c = { d with out := outs }) (hd : d.Same c) : actLive s n .none f = .next (s.moved n d outs) := by
  subst hc he
  obtain ⟨htodo, -, -, hhalt, -⟩ := hd.quiet
  refine actLive_event h f ?_ hd
  rw [hf]
  exact Ch.settle_quiet htodo hhalt

/-- A timer of a live channel that raises a fault at U. -/
theorem State.Ready.act_timer_error (h : s.Ready n) (hc : s.ch n = c) (he : s.seen n .none = e) (f : Env → Ch → Ch)
    (hf : f e c = { d with raised := raised, errPulse := true, out := outs }) (hd : d.Same c) :
    actLive s n .none f = .next (s.movedWithError n d outs) := by
  subst hc he
  obtain ⟨htodo, -, -, hhalt, -⟩ := hd.quiet
  refine actLive_event_error (raised := raised) h f ?_ hd
  rw [hf]
  exact Ch.settle_quiet htodo hhalt

/-- An event of a channel that stands alone, with a fault below U. -/
theorem act_event_warning (h : s.Ready n) (f : Env → Ch → Ch)
    (hf : (f (s.seen n .none) (s.ch n)).settle (s.seen n .none) = { d with raised := raised, out := outs }) (hd : d.Same (s.ch n)) :
    act s (fun s => s.atChan n .none f) = .next (s.moved n d outs) := by
  obtain ⟨-, hout, hraised, -, herr⟩ := hd.quiet
  have hfin : s.begin.finish n ({ d with raised := raised, out := outs } : Ch) outs = (s.begin.setCh n d).leave outs := by
    have hreported : ({ d with raised := raised, out := outs } : Ch).reported = d := by
      obtain ⟨htodo, -, -, hhalt, -⟩ := hd.quiet
      cases d
      subst htodo hout hraised hhalt herr
      rfl
    have hpulse : ({ d with raised := raised, out := outs } : Ch).errPulse = false := herr
    unfold State.finish
    rw [hpulse]
    exact congrArg (fun x => (s.begin.setCh n x).leave outs) hreported
  rw [act_event_finish h f hf hd.edge]
  exact congrArg (fun t : State => Host.Outcome.next (t.busyNow n).setPll) hfin

/-- An event of a channel that stands alone, with a fault at U. -/
theorem act_event_error (h : s.Ready n) (f : Env → Ch → Ch)
    (hf : (f (s.seen n .none) (s.ch n)).settle (s.seen n .none) = { d with raised := raised, errPulse := true, out := outs })
    (hd : d.Same (s.ch n)) : act s (fun s => s.atChan n .none f) = .next (s.movedWithError n d outs) := by
  obtain ⟨htodo, hout, hraised, hhalt, herr⟩ := hd.quiet
  have hfin : s.begin.finish n ({ d with raised := raised, errPulse := true, out := outs } : Ch) outs =
      ((s.begin.setCh n d).errPulse (some n)).leave outs := State.finish_error s.begin n htodo rfl hraised hhalt herr hout
  rw [act_event_finish h f hf hd.edge]
  exact congrArg (fun t : State => Host.Outcome.next (t.busyNow n).setPll) hfin

theorem State.Hears.act_warning (h : s.Hears n typ m) (htyp : typ ≠ tyTrailer) (hc : s.ch n = c) (he : s.seen n .none = e)
    (hf : (c.takes e typ m).settle e = { d with raised := raised, out := outs }) (hd : d.Same c) :
    act s (fun s => s.message typ m) = .next (s.moved n d outs) := by
  subst hc he
  exact (act_congr (g := fun s => s.atChan n .none _) h.begin_message).trans
    (act_event_warning h.toReady _ (by rw [h.messageIn htyp]; exact hf) hd)

theorem State.Hears.act_error (h : s.Hears n typ m) (htyp : typ ≠ tyTrailer) (hc : s.ch n = c) (he : s.seen n .none = e)
    (hf : (c.takes e typ m).settle e = { d with raised := raised, errPulse := true, out := outs }) (hd : d.Same c) :
    act s (fun s => s.message typ m) = .next (s.movedWithError n d outs) := by
  subst hc he
  exact (act_congr (g := fun s => s.atChan n .none _) h.begin_message).trans
    (act_event_error h.toReady _ (by rw [h.messageIn htyp]; exact hf) hd)

/-! ### Sent messages -/

/-- The credits of the ports after a message on each of some. -/
def creditsAfter (ps : List Nat) (k : SMap Credit) : SMap Credit :=
  ps.foldl (fun k p => k.put {} p { k.get {} p with txAvail := (k.get {} p).txAvail - 1 }) k

/-- A message has left on each of some ports. -/
def Ch.sentAll (ps : List Nat) (c : Ch) : Ch :=
  { c with la := { c.la with credits := creditsAfter ps c.la.credits },
           lalog := { c.lalog with msgTx := ps.foldl (fun x _ => inc x) c.lalog.msgTx } }

theorem Ch.foldl_sentOn (ps : List Nat) (c : Ch) : ps.foldl Ch.sentOn c = c.sentAll ps := by
  induction ps generalizing c with
  | nil => rfl
  | cons p ps ih => exact ih (c.sentOn p)

theorem Ch.MaySend.allows (h : c.MaySend p) (typ : Nat) : (c.la.credit p).allows typ = true := by
  obtain ⟨-, hcredits⟩ := h
  unfold Credit.allows
  split
  · exact decide_eq_true hcredits
  · exact decide_eq_true (by omega)

theorem Ch.MaySend.sendMsg_now (h : c.MaySend p) : c.sendMsg e p w = c.sendNow e p w := by
  have hnone : c.la.txWait.any (fun q => decide (q.1 = p)) = false := by simpa using h.1
  unfold Ch.sendMsg
  rw [hnone, h.allows]
  rfl

/-- A message that carries no time of its leaving leaves at once. -/
theorem Ch.MaySend.sendMsg (h : c.MaySend p) (hreq : w.typ ≠ tyTimeReq) (hrsp : w.typ ≠ tyTimeRsp) :
    c.sendMsg e p w = { c.sentOn p with out := c.out ++ [.msg p w] } := by
  rw [h.sendMsg_now]
  unfold Ch.sendNow Ch.stamped
  dsimp only
  rw [if_neg hreq, if_neg hreq, if_neg hrsp]
  rfl

theorem Ch.MaySend.sendEdge (h : c.MaySend x.port) (hreq : typ ≠ tyTimeReq) (hrsp : typ ≠ tyTimeRsp) :
    c.sendEdge e x typ object body = { c.sentOn x.port with out := c.out ++ [c.edgeMsg typ object body x] } :=
  Ch.MaySend.sendMsg h hreq hrsp

/-- A message on another port leaves this one's credits. -/
theorem Ch.MaySend.sentOn {q : Nat} (h : c.MaySend p) (hne : p ≠ q) : (c.sentOn q).MaySend p := by
  obtain ⟨hwait, hcredits⟩ := h
  refine ⟨hwait, ?_⟩
  have hget : (c.sentOn q).la.credit p = c.la.credit p := SMap.get_put_of_ne _ hne
  rw [hget]
  exact hcredits

theorem Ch.sendEdges_now (hports : (ds.map (fun d => d.port)).Nodup) (h : ∀ d ∈ ds, c.MaySend d.port) (hreq : typ ≠ tyTimeReq)
    (hrsp : typ ≠ tyTimeRsp) : c.sendEdges e ds typ object body =
      { c.sentAll (ds.map (fun d => d.port)) with out := c.out ++ ds.map (c.edgeMsg typ object body) } := by
  induction ds generalizing c with
  | nil =>
    rw [List.map_nil, List.map_nil, List.append_nil]
    rfl
  | cons x ds ih =>
    obtain ⟨hx, hrest⟩ := List.nodup_cons.mp hports
    have hmay : ∀ d ∈ ds, ({ c.sentOn x.port with out := c.out ++ [c.edgeMsg typ object body x] } : Ch).MaySend d.port := fun d hd =>
      (h d (List.mem_cons_of_mem _ hd)).sentOn fun heq => hx (List.mem_map.mpr ⟨d, hd, heq⟩)
    have hsent := ih hrest hmay
    unfold Ch.sendEdges at hsent ⊢
    rw [List.foldl_cons, (h x List.mem_cons_self).sendEdge hreq hrsp, hsent]
    exact congrArg (fun l => ({ c.sentAll ((x :: ds).map (fun d => d.port)) with out := l } : Ch)) (List.append_assoc ..)

/-! ### The tree -/

theorem Ch.GoodTree.edgeAt (h : c.GoodTree) (hx : x ∈ c.la.edges) : c.la.edgeAt x.port = some x := by
  obtain ⟨-, hports, -⟩ := h
  unfold La.edgeAt
  cases hfind : c.la.edges.find? (fun d => d.port = x.port) with
  | none => exact absurd (List.find?_eq_none.mp hfind x hx) (by simp)
  | some y =>
    have hport : y.port = x.port := by simpa using List.find?_some hfind
    exact congrArg some (List.inj_on_of_nodup_map hports (List.mem_of_find?_eq_some hfind) hx hport)

theorem Ch.GoodTree.parent (h : c.GoodTree) (hx : x ∈ c.la.edges) (hup : x.up = true) : c.la.parent = some x := by
  obtain ⟨-, -, -, hone⟩ := h
  unfold La.parent
  cases hfind : c.la.edges.find? (fun d => d.up) with
  | none => exact absurd hup (List.find?_eq_none.mp hfind x hx)
  | some y =>
    have hy : y ∈ c.la.edges.filter (fun d => d.up) := List.mem_filter.mpr ⟨List.mem_of_find?_eq_some hfind, List.find?_some hfind⟩
    have hx' : x ∈ c.la.edges.filter (fun d => d.up) := List.mem_filter.mpr ⟨hx, hup⟩
    obtain ⟨z, hz⟩ := List.length_eq_one_iff.mp (Nat.le_antisymm hone (List.length_pos_of_mem hy))
    rw [hz, List.mem_singleton] at hy hx'
    rw [hy, hx']

theorem Ch.parent_of_root (h : ∀ x ∈ c.la.edges, x.up = false) : c.la.parent = none :=
  List.find?_eq_none.mpr fun x hx => by simp [h x hx]

theorem Ch.childEdges_of_root (h : ∀ x ∈ c.la.edges, x.up = false) : c.la.childEdges = c.la.edges :=
  List.filter_eq_self.mpr fun x hx => by simp [h x hx]

/-- Messages on some of the tree's edges. -/
theorem Ch.GoodTree.sendEdges (h : c.GoodTree) (hds : ds.Sublist c.la.edges) (hreq : typ ≠ tyTimeReq) (hrsp : typ ≠ tyTimeRsp) :
    c.sendEdges e ds typ object body =
      { c.sentAll (ds.map (fun d => d.port)) with out := c.out ++ ds.map (c.edgeMsg typ object body) } := by
  obtain ⟨-, hports, hmay, -⟩ := h
  exact Ch.sendEdges_now (hports.sublist (hds.map _)) (fun d hd => hmay d (hds.subset hd)) hreq hrsp

/-- The tree's shape is that of its edges' ports, ranks and directions. -/
theorem Ch.GoodTree.mapEdges (h : c.GoodTree) {f : Edge → Edge} (hport : ∀ x, (f x).port = x.port) (hup : ∀ x, (f x).up = x.up) :
    ({ c with la := { c.la with edges := c.la.edges.map f } } : Ch).GoodTree := by
  obtain ⟨hwf, hports, hmay, hone⟩ := h
  refine ⟨hwf, ?_, fun x hx => ?_, ?_⟩
  · rw [List.map_map]
    simpa [Function.comp_def, hport] using hports
  · obtain ⟨y, hy, rfl⟩ := List.mem_map.mp hx
    rw [hport]
    exact hmay y hy
  · rw [List.filter_map, List.length_map]
    simpa [Function.comp_def, hup] using hone

end
end Sys2Proof.Machine
end

section

/-! ## A FORMED accord that breaks (R276, R277) -/

namespace Sys2Proof.Machine
section
variable {s : State} {n p typ : Nat} {c x : Ch} {e : Env} {b : BreakInfo} {m : MsgIn} {db : Db} {outs : List Output}

/-- A fault at U that a channel raises first in its command: its fault set takes it, and SCE_ERR_N is to start. -/
theorem Ch.raise_first {u : Sub} {src : Nat} {k : Cause} (hraised : c.raised = []) (hhalt : c.haltReq = false)
    (hr : c.Raises e u src k 2) (hw : isWear u src = false) :
    ∃ raised, c.raise e u src k = { c.faulted e u src k with raised := raised, errPulse := true } := by
  have hkeep : (c.faulted e u src k).haltReq = false := by cases u <;> exact hhalt
  refine ⟨[⟨u, src, 2, !(c.fault u).captured⟩], (Ch.raise_faulted hr hw hraised).trans ?_⟩
  rw [hhalt, decide_eq_true (Nat.le_refl 2), Bool.or_true]
  generalize c.faulted e u src k = d at hkeep
  cases d
  subst hkeep
  rfl

/-- A channel that binds no local object has none of accord object `k`. -/
theorem Ch.localObj_none (h : c.img.locals = []) (k : Nat) : c.localObj k = none := by
  have hnone : bit 0 63 = false := by decide
  unfold Ch.localObj
  rw [h]
  dsimp only [SMap.get_nil]
  rw [hnone, if_neg Bool.false_ne_true]

/-- Breaking has no effect on objects that are not bound here. -/
theorem Ch.breakObjs_none (h : c.img.locals = []) : c.breakObjs e = c := by
  unfold Ch.breakObjs
  rw [h]
  rfl

/-- What LA_BREAK is raised with (R277). -/
def Ch.breakCause (b : BreakInfo) (c : Ch) : Cause :=
  { addr := at_ 63 32 (c.accState b.object).gen.toNat + at_ 7 0 b.object, access := 6, key := b.port }

/-- The edges on which BREAK leaves: those whose ports are the channel's, but for the one it came by. -/
def Ch.breakEdges (b : BreakInfo) (c : Ch) : List Edge :=
  c.la.edges.filter (fun d => decide (some d.port ≠ b.notPort) && bit c.la.linkPorts d.port)

/-- The BREAK messages that leave. -/
def Ch.breakMsgs (b : BreakInfo) (c : Ch) : List Output :=
  (c.breakEdges b).map (c.edgeMsg tyBreak 0 [at_ 7 0 b.sent + at_ 13 8 b.origin])

/-- What a break records (R277). -/
def Ch.broken (e : Env) (b : BreakInfo) (c : Ch) : Ch :=
  { c with
    la := { c.la with st := .broken, reason := b.reason, reasonRank := b.rank, reasonPort := b.port },
    lalog := { c.lalog with breakObject := b.object, breakType := b.typ, breakReceived := b.received,
                            breakExpected := b.expected, breakTime := c.accStamp e } }

/-- What follows the BREAK messages: LA_BREAK, the blotter's trigger, the effects on bound objects. -/
def Ch.breakFollows (e : Env) (b : BreakInfo) (c : Ch) : Ch :=
  ((c.raise e .la 4 (c.breakCause b)).blotTrigger e 6 (at_ 63 32 (c.accState b.object).gen.toNat + b.object)).breakObjs e

/-- A channel whose accord has broken, with blotter `db`: BREAK is sent, and LA_BREAK in the fault set. -/
def Ch.brokenBy (e : Env) (b : BreakInfo) (db : Db) (c : Ch) : Ch :=
  let d := (c.broken e b).sentAll ((c.breakEdges b).map (fun d => d.port))
  { c with la := d.la, lalog := d.lalog, flt := (c.faulted e .la 4 (c.breakCause b)).flt, db := db }

/-! What a break leaves alone. -/

theorem Ch.brokenBy_os (e : Env) (b : BreakInfo) (db : Db) (c : Ch) : (c.brokenBy e b db).os = c.os := rfl
theorem Ch.brokenBy_bw (e : Env) (b : BreakInfo) (db : Db) (c : Ch) : (c.brokenBy e b db).bw = c.bw := rfl
theorem Ch.brokenBy_hw (e : Env) (b : BreakInfo) (db : Db) (c : Ch) : (c.brokenBy e b db).hw = c.hw := rfl
theorem Ch.brokenBy_ps (e : Env) (b : BreakInfo) (db : Db) (c : Ch) : (c.brokenBy e b db).ps = c.ps := rfl
theorem Ch.brokenBy_objs (e : Env) (b : BreakInfo) (db : Db) (c : Ch) : (c.brokenBy e b db).la.objs = c.la.objs := rfl

theorem Ch.brokenBy_same (hq : c.Quiet) : (c.brokenBy e b db).Same c := hq.same rfl

theorem Ch.breakAccord_eq (hst : c.la.st = .formed) (hloud : b.silent = false) : c.breakAccord e b =
    ((c.broken e b).sendEdges e (c.breakEdges b) tyBreak 0 [at_ 7 0 b.sent + at_ 13 8 b.origin]).breakFollows e b := by
  unfold Ch.breakAccord
  rw [if_neg (fun hx => hx.1 hst)]
  dsimp only
  rw [hloud, if_neg Bool.false_ne_true]
  rfl

theorem Ch.breakFollows_eq (hlocals : c.img.locals = []) (hraised : c.raised = []) (hhalt : c.haltReq = false)
    (hr : c.Raises e .la 4 (c.breakCause b) 2) : ∃ raised db, c.breakFollows e b =
      { c.faulted e .la 4 (c.breakCause b) with db := db, raised := raised, errPulse := true } := by
  obtain ⟨raised, hraise⟩ := Ch.raise_first hraised hhalt hr rfl
  obtain ⟨db, hblot⟩ := Ch.blotTrigger_db e 6 (at_ 63 32 (c.accState b.object).gen.toNat + b.object) (c.raise e .la 4 (c.breakCause b))
  refine ⟨raised, db, ?_⟩
  have hnone : (c.faulted e .la 4 (c.breakCause b)).img.locals = [] := by rw [Ch.faulted_img]; exact hlocals
  unfold Ch.breakFollows
  rw [hblot, hraise]
  generalize c.faulted e .la 4 (c.breakCause b) = d at hnone
  exact Ch.breakObjs_none hnone

theorem Ch.faulted_la_eq (e : Env) (src : Nat) (k : Cause) (la : La) (lalog : LaLog) (outs : List Output) (c : Ch) :
    ({ c with la := la, lalog := lalog, out := outs } : Ch).faulted e .la src k =
      { c with la := la, lalog := lalog, out := outs, flt := (c.faulted e .la src k).flt } := rfl

/-- The accord of a chip that binds no object breaks, with LA_BREAK at U. -/
theorem Ch.breakAccord_formed (hst : c.la.st = .formed) (hlocals : c.img.locals = []) (htree : c.GoodTree) (hloud : b.silent = false)
    (hraised : c.raised = []) (hhalt : c.haltReq = false) (hr : c.Raises e .la 4 (c.breakCause b) 2) :
    ∃ raised db, c.breakAccord e b =
      { c.brokenBy e b db with raised := raised, errPulse := true, out := c.out ++ c.breakMsgs b } := by
  have htree1 : (c.broken e b).GoodTree := htree
  have hsent := htree1.sendEdges (e := e) (typ := tyBreak) (object := 0) (body := [at_ 7 0 b.sent + at_ 13 8 b.origin])
    (ds := c.breakEdges b) List.filter_sublist (by decide) (by decide)
  obtain ⟨raised, db, hfollows⟩ := Ch.breakFollows_eq (b := b)
    (c := { (c.broken e b).sentAll ((c.breakEdges b).map (fun d => d.port)) with out := c.out ++ c.breakMsgs b }) hlocals hraised hhalt
    (hr.of_fields rfl rfl)
  refine ⟨raised, db, ?_⟩
  rw [Ch.breakAccord_eq hst hloud, hsent]
  refine hfollows.trans ?_
  exact congrArg (fun d : Ch => { d with db := db, raised := raised, errPulse := true }) (Ch.faulted_la_eq e 4 (c.breakCause b) ..)

/-- Nothing is left to do after a break. -/
theorem Ch.settle_break {d : Ch} (hq : c.Quiet) {raised : List RaisedNow}
    (h : d = { c.brokenBy e b db with raised := raised, errPulse := true, out := outs }) : d.settle e = d := by
  obtain ⟨htodo, -, -, hhalt, -⟩ := hq
  subst h
  exact Ch.settle_quiet htodo hhalt

/-- The fault set after a fault in the link agent depends on the fault sets alone. -/
theorem Ch.faulted_la_flt {d : Ch} {src : Nat} {k : Cause} (h : d.flt = c.flt) :
    (d.faulted e .la src k).flt = (c.faulted e .la src k).flt := by
  unfold Ch.faulted Ch.setFault Ch.fault
  rw [h]

theorem Ch.breakEdges_all (h : b.notPort = none) : c.breakEdges b = c.la.edges.filter (fun d => c.la.linkPorts.testBit d.port) := by
  unfold Ch.breakEdges
  rw [h]
  refine List.filter_congr fun x _ => ?_
  simp [bit]

/-- The BREAK messages of a break that came by no port. -/
theorem Ch.breakMsgs_all (h : b.notPort = none) : x.breakMsgs b =
    (x.la.edges.filter (fun d => x.la.linkPorts.testBit d.port)).map (x.edgeMsg tyBreak 0 [at_ 7 0 b.sent + at_ 13 8 b.origin]) := by
  unfold Ch.breakMsgs
  rw [Ch.breakEdges_all h]

/-- A break that concerns no object is raised as of object 0. -/
theorem Ch.breakCause_noObject (hobject : b.object = 0) :
    c.breakCause b = { addr := at_ 63 32 (c.accState 0).gen.toNat, access := 6, key := b.port } := by
  unfold Ch.breakCause
  rw [hobject, show at_ 7 0 0 = 0 by decide, Nat.add_zero]

/-- Its fault set, where the fault sets and the objects are those of `c`. -/
theorem Ch.flt_brokenBy (hobject : b.object = 0) (hflt : x.flt = c.flt) (hobjs : x.la.objs = c.la.objs) :
    (x.brokenBy e b db).flt =
      (c.faulted e .la 4 { addr := at_ 63 32 (c.accState 0).gen.toNat, access := 6, key := b.port }).flt := by
  show (x.faulted e .la 4 (x.breakCause b)).flt = _
  rw [Ch.breakCause_noObject hobject, Ch.faulted_la_flt hflt]
  unfold Ch.accState
  rw [hobjs]

/-! ### A message or a timer that breaks the accord -/

/-- What a break needs of the channel it finds: a FORMED accord with a good tree and no object bound here, and LA_BREAK to be raised. -/
structure Ch.Breaks (e : Env) (b : BreakInfo) (x c : Ch) : Prop where
  same   : x.Same c
  formed : x.la.st = .formed
  tree   : x.GoodTree
  locals : x.img.locals = []
  loud   : b.silent = false
  raises : x.Raises e .la 4 (x.breakCause b) 2

theorem Ch.Breaks.brokenBy_same (h : x.Breaks e b c) : (x.brokenBy e b db).Same c :=
  ⟨(Ch.brokenBy_same h.same.quiet).quiet, (Ch.brokenBy_same h.same.quiet).edge.trans h.same.edge⟩

theorem Ch.Breaks.breakAccord (h : x.Breaks e b c) : ∃ raised db, x.breakAccord e b =
    { x.brokenBy e b db with raised := raised, errPulse := true, out := x.breakMsgs b } := by
  obtain ⟨-, hout, hraised, hhalt, -⟩ := h.same.quiet
  obtain ⟨raised, db, hbreak⟩ := Ch.breakAccord_formed h.formed h.locals h.tree h.loud hraised hhalt h.raises
  refine ⟨raised, db, ?_⟩
  rw [hbreak, hout]
  rfl

theorem State.Hears.act_breaks (h : s.Hears n typ m) (htyp : typ ≠ tyTrailer) (hc : s.ch n = c) (he : s.seen n .none = e)
    (hx : x.Breaks e b c) (hf : c.heard.onMessage e (e.linkTime m.port.toNat) typ m = x.breakAccord e b) :
    ∃ db, act s (fun s => s.message typ m) =
      .next (s.movedWithError n (x.brokenBy e b db) (x.breakMsgs b ++ [.creditBack m.port.toNat])) := by
  obtain ⟨raised, db, hbreak⟩ := hx.breakAccord
  refine ⟨db, h.act_error (raised := raised) htyp hc he ?_ hx.brokenBy_same⟩
  unfold Ch.takes
  rw [hf, hbreak]
  exact Ch.settle_break hx.same.quiet rfl

theorem State.Ready.act_breaks (h : s.Ready n) (hc : s.ch n = c) (he : s.seen n .none = e) (f : Env → Ch → Ch)
    (hx : x.Breaks e b c) (hf : f e c = x.breakAccord e b) :
    ∃ db, actLive s n .none f = .next (s.movedWithError n (x.brokenBy e b db) (x.breakMsgs b)) := by
  obtain ⟨raised, db, hbreak⟩ := hx.breakAccord
  exact ⟨db, h.act_timer_error hc he f (hf.trans hbreak) hx.brokenBy_same⟩

end
end Sys2Proof.Machine
end

section

/-! ## Formation of an accord at a chip (R262 to R266) -/

namespace Sys2Proof.Machine
section
variable {s : State} {n p r : Nat} {c : Ch} {d x : Edge} {e : Env} {m : MsgIn} {f g : Edge → Edge}

/-! ### How far formation goes (R265) -/

/-- It goes no further after a failed attempt, or before every child is READY. -/
theorem Ch.formOn_waits (h : c.la.attemptDead = true ∨ ∃ x ∈ c.la.edges, x.up = false ∧ x.isReady = false) : c.formOn e = c := by
  unfold Ch.formOn
  rw [if_pos]
  rcases h with hdead | ⟨x, hx, hup, hready⟩
  · simp [hdead]
  · have hall : c.la.childEdges.all (fun d => d.isReady) = false :=
      List.all_eq_false.mpr ⟨x, List.mem_filter.mpr ⟨hx, by simp [hup]⟩, by simp [hready]⟩
    simp [hall]

/-- A leaf goes READY once it and its parent have agreed. -/
theorem Ch.formOn_leaf (hst : c.la.st = .forming) (hdead : c.la.attemptDead = false) (hedges : c.la.edges = [x]) (hup : x.up = true) :
    c.formOn e = if x.sentOk && x.recvOk && !x.isReady then
        (c.setEdge x.port (fun d => { d with isReady := true })).sendEdge e x tyReady 0 []
      else c := by
  have hkids : c.la.childEdges = [] := by simp [La.childEdges, hedges, hup]
  have hparent : c.la.parent = some x := by simp [La.parent, hedges, hup]
  unfold Ch.formOn
  rw [if_neg (by simp [hst, hdead, hkids]), hparent]

/-- The root forms the accord once its children are READY. -/
theorem Ch.formOn_root (hst : c.la.st = .forming) (hdead : c.la.attemptDead = false)
    (hroot : ∀ x ∈ c.la.edges, x.up = false ∧ x.isReady = true) : c.formOn e = c.becomeFormed e := by
  have hkids : c.la.childEdges.all (fun d => d.isReady) = true :=
    List.all_eq_true.mpr fun x hx => (hroot x (List.mem_of_mem_filter hx)).2
  unfold Ch.formOn
  rw [if_neg (by simp [hst, hdead, hkids]), Ch.parent_of_root fun x hx => (hroot x hx).1]

/-! ### Edges -/

theorem Ch.setEdge_setEdge (hport : ∀ x, (f x).port = x.port) (c : Ch) :
    (c.setEdge p f).setEdge p g = c.setEdge p (fun x => g (f x)) := by
  have hmap : ∀ x : Edge, (if (if x.port = p then f x else x).port = p then g (if x.port = p then f x else x) else
      if x.port = p then f x else x) = if x.port = p then g (f x) else x := by
    intro x
    by_cases hx : x.port = p
    · simp only [hx, if_true, hport]
    · simp only [hx, if_false]
  unfold Ch.setEdge
  dsimp only
  rw [List.map_map]
  simp only [Function.comp_def, hmap]

/-- A second message may leave at once where 18 credits are left (R258). -/
theorem Ch.MaySend.sentOn_self (h : c.MaySend p) (hwf : SMap.wf {} c.la.credits = true) (hleft : 17 < (c.la.credit p).txAvail) :
    (c.sentOn p).MaySend p := by
  obtain ⟨hwait, -⟩ := h
  refine ⟨hwait, ?_⟩
  have hget : ((c.sentOn p).la.credit p).txAvail = (c.la.credit p).txAvail - 1 :=
    congrArg Credit.txAvail ((SMap.get_put hwf p p _).trans (if_pos rfl))
  omega

/-! ### A chip that forms -/

/-- A quiet channel with a good tree forms; it has no accord objects, and `d` is its edge at port `p`. -/
structure Ch.FormsAt (c : Ch) (d : Edge) (p : Nat) : Prop where
  quiet   : c.Quiet
  forming : c.la.st = .forming
  tree    : c.GoodTree
  commons : c.img.commons = []
  locals  : c.img.locals = []
  edge    : d ∈ c.la.edges
  port    : d.port = p

theorem Ch.FormsAt.heard (h : c.FormsAt d p) : c.heard.FormsAt d p :=
  ⟨h.quiet, h.forming, h.tree, h.commons, h.locals, h.edge, h.port⟩

theorem Ch.FormsAt.out (h : c.FormsAt d p) : c.out = [] := h.quiet.2.1

theorem Ch.with_out_nil (h : c.out = []) : c = { c with out := [] } := by rw [← h]

theorem Ch.FormsAt.maySend (h : c.FormsAt d p) : c.MaySend p := by
  obtain ⟨-, -, hmay, -⟩ := h.tree
  exact h.port ▸ hmay d h.edge

theorem Ch.FormsAt.edgeAt (h : c.FormsAt d p) : c.la.edgeAt p = some d := h.port ▸ h.tree.edgeAt h.edge

/-- What a leaf waits for is its own edge. -/
theorem Ch.setEdge_leaf (hedges : c.la.edges = [d]) (hport : d.port = p) : (c.setEdge p f).la.edges = [f d] := by
  unfold Ch.setEdge
  dsimp only
  rw [hedges, List.map_singleton, if_pos hport]

/-- Other children than the one behind a port keep formation waiting, and so does one that is not READY whatever else it has done. -/
theorem Ch.setEdge_waits (hup : ∀ x, (f x).up = x.up)
    (h : c.la.attemptDead = true ∨ ∃ x ∈ c.la.edges, x.up = false ∧ x.isReady = false ∧ (x.port = p → (f x).isReady = x.isReady)) :
    (c.setEdge p f).formOn e = c.setEdge p f := by
  refine Ch.formOn_waits (h.imp id ?_)
  rintro ⟨x, hx, hxup, hready, hkeep⟩
  refine ⟨_, List.mem_map.mpr ⟨x, hx, rfl⟩, ?_⟩
  by_cases hport : x.port = p
  · rw [if_pos hport]
    exact ⟨(hup x).trans hxup, (hkeep hport).trans hready⟩
  · rw [if_neg hport]
    exact ⟨hxup, hready⟩

/-! ### HELLO (R263, R264) -/

/-- The HELLO of a peer is kept for LA_PEER_DATA. -/
def Ch.helloKept (m : MsgIn) (c : Ch) : Ch :=
  { c with la := { c.la with
      peerData := [0, 1, 2, 3, 4].foldl (fun s w => s.put 0 (8 * m.port.toNat + w) (bodyWord m (w + 1))) c.la.peerData } }

/-- The VERDICT that answers a HELLO. -/
def Ch.verdictMsg (m : MsgIn) (r : Nat) (c : Ch) : Output :=
  .msg m.port.toNat { typ := tyVerdict, accord := c.la.accord, src := c.la.rank, dst := m.src.toNat, body := [r] }

/-- A HELLO is kept and answered. -/
def Ch.helloAnswered (m : MsgIn) (r : Nat) (c : Ch) : Ch :=
  { (c.helloKept m).sentOn m.port.toNat with out := [c.verdictMsg m r] }

theorem Ch.helloCheck_agrees (h : c.FormsAt d m.port.toNat) (hid : m.accord.toNat = c.la.accord) (hdigest : bodyWord m 1 = c.la.digest)
    (hmajor : fld (bodyWord m 2) 47 40 = verMajor) (hfeatures : fld (bodyWord m 2) 31 0 = laFeatures) (hrank : d.rank = m.src.toNat) :
    c.helloCheck m = 0 := by
  unfold Ch.helloCheck
  rw [if_neg (not_not_intro hid), if_neg (not_not_intro hdigest), if_neg (not_not_intro hmajor), if_neg (not_not_intro hfeatures),
    h.edgeAt, Option.map_some, hrank, if_neg (not_not_intro rfl)]

theorem Ch.helloCheck_digest (hid : m.accord.toNat = c.la.accord) (hdigest : bodyWord m 1 ≠ c.la.digest) :
    c.helloCheck m = reDigest := by
  unfold Ch.helloCheck
  rw [if_neg (not_not_intro hid), if_pos hdigest]

theorem Ch.helloCheck_kept (m : MsgIn) (c : Ch) : (c.helloKept m).helloCheck m = c.helloCheck m := rfl

/-- What a chip that forms makes of a HELLO it has kept. -/
def Ch.judgeHello (e : Env) (m : MsgIn) (c : Ch) : Ch :=
  let r := c.helloCheck m
  let c2 := c.sendMsg e m.port.toNat { typ := tyVerdict, accord := c.la.accord, src := c.la.rank, dst := m.src.toNat, body := [r] }
  if r = 0 then (c2.setEdge m.port.toNat (fun d => { d with sentOk := true })).formOn e
  else c2.noteReason r c2.la.rank m.port.toNat

theorem Ch.onHello_forming (hst : c.la.st = .forming) : c.onHello e m = (c.helloKept m).judgeHello e m := by
  unfold Ch.onHello
  dsimp only
  split
  · rfl
  · next hx => exact absurd (hst.symm.trans hx) (by decide)
  · next hx _ => exact absurd hst hx

theorem Ch.FormsAt.onHello (h : c.FormsAt d m.port.toNat) (hr : c.helloCheck m = r) : c.onHello e m =
    if r = 0 then ((c.helloAnswered m r).setEdge m.port.toNat (fun d => { d with sentOk := true })).formOn e
    else (c.helloAnswered m r).noteReason r c.la.rank m.port.toNat := by
  have hmay : (c.helloKept m).MaySend m.port.toNat := h.maySend
  have hsent : (c.helloKept m).sendMsg e m.port.toNat
      { typ := tyVerdict, accord := c.la.accord, src := c.la.rank, dst := m.src.toNat, body := [r] } = c.helloAnswered m r := by
    rw [hmay.sendMsg (show tyVerdict ≠ tyTimeReq by decide) (show tyVerdict ≠ tyTimeRsp by decide), show (c.helloKept m).out = [] from h.out]
    rfl
  rw [Ch.onHello_forming h.forming]
  unfold Ch.judgeHello
  dsimp only
  rw [Ch.helloCheck_kept, hr, show (c.helloKept m).la.accord = c.la.accord from rfl, show (c.helloKept m).la.rank = c.la.rank from rfl]
  rw [hsent]
  rfl

/-! ### How far an edge's change takes formation (R265) -/

/-- A live attempt at a chip whose one edge is to a parent that has not been told READY. -/
def Ch.LeafAt (c : Ch) (d : Edge) : Prop :=
  c.la.attemptDead = false ∧ c.la.edges = [d] ∧ d.up = true ∧ d.isReady = false

/-- At a leaf an agreement of one side alone changes nothing else. -/
theorem Ch.LeafAt.formOn_waits (hl : c.LeafAt d) (hst : c.la.st = .forming) (hport : d.port = p) (hup : (f d).up = d.up)
    (hone : ((f d).sentOk && (f d).recvOk) = false) : (c.setEdge p f).formOn e = c.setEdge p f := by
  obtain ⟨hdead, hedges, hdup, -⟩ := hl
  have hform := Ch.formOn_leaf (c := c.setEdge p f) (e := e) hst hdead (Ch.setEdge_leaf hedges hport) (hup.trans hdup)
  rw [hform, hone, Bool.false_and, if_neg Bool.false_ne_true]

/-- Once both sides have agreed, the leaf goes READY. -/
theorem Ch.LeafAt.formOn_ready (hl : c.LeafAt d) (hst : c.la.st = .forming) (hport : d.port = p) (hmay : c.MaySend p)
    (hkeep : ∀ x, (f x).port = x.port ∧ (f x).rank = x.rank ∧ (f x).up = x.up ∧ (f x).isReady = x.isReady)
    (hboth : ((f d).sentOk && (f d).recvOk) = true) : (c.setEdge p f).formOn e =
      { (c.setEdge p (fun x => { f x with isReady := true })).sentOn p with out := c.out ++ [c.edgeMsg tyReady 0 [] d] } := by
  obtain ⟨hdead, hedges, hdup, hready⟩ := hl
  obtain ⟨hfport, hfrank, hfup, hfready⟩ := hkeep d
  have hform := Ch.formOn_leaf (c := c.setEdge p f) (e := e) hst hdead (Ch.setEdge_leaf hedges hport) (hfup.trans hdup)
  have hmay' : (c.setEdge p (fun x => { f x with isReady := true })).MaySend (f d).port := by
    rw [hfport, hport]
    exact hmay
  rw [hform, hboth, hfready, hready, Bool.not_false, Bool.and_self, if_pos rfl, hfport, hport,
    Ch.setEdge_setEdge (fun x => (hkeep x).1), hmay'.sendEdge (show tyReady ≠ tyTimeReq by decide) (show tyReady ≠ tyTimeRsp by decide),
    hfport, hport]
  have hmsg : (c.setEdge p (fun x => { f x with isReady := true })).edgeMsg tyReady 0 [] (f d) = c.edgeMsg tyReady 0 [] d := by
    unfold Ch.edgeMsg
    rw [hfport, hfrank]
    rfl
  rw [hmsg]
  rfl

theorem Ch.noteReason_first {reason rank port : Nat} (h : c.la.firstReason = 0) : c.noteReason reason rank port =
    { c with la := { c.la with firstReason := reason, reason := reason, reasonRank := rank, reasonPort := port } } := by
  unfold Ch.noteReason
  rw [if_neg (not_not_intro h)]

/-! ### HELLO, VERDICT and READY at a chip that forms (R264, R265) -/

theorem Ch.FormsAt.onHello_agrees (h : c.FormsAt d m.port.toNat) (hr : c.helloCheck m = 0) : c.onHello e m =
    ((c.helloAnswered m 0).setEdge m.port.toNat (fun d => { d with sentOk := true })).formOn e := by
  rw [h.onHello hr, if_pos rfl]

theorem Ch.onVerdict_forming (hst : c.la.st = .forming) : c.onVerdict e m =
    if fld (bodyWord m 1) 7 0 = 0 then (c.setEdge m.port.toNat (fun d => { d with recvOk := true })).formOn e
    else c.noteReason (fld (bodyWord m 1) 7 0) m.src.toNat m.port.toNat := by
  unfold Ch.onVerdict
  dsimp only
  rw [hst]

theorem Ch.FormsAt.onReady (h : c.FormsAt d m.port.toNat) (hup : d.up = false) : c.onReady e m =
    (c.setEdge m.port.toNat (fun d => { d with isReady := true })).formOn e := by
  unfold Ch.onReady
  rw [h.forming, h.edgeAt, Option.any_some, hup]
  rfl

/-! ### The root forms the accord (R265) -/

/-- A change of an edge leaves what does not depend on it. -/
theorem Ch.map_setEdge {β : Type} (g : Edge → β) (hkeep : ∀ x, g (f x) = g x) : (c.setEdge p f).la.edges.map g = c.la.edges.map g := by
  unfold Ch.setEdge
  rw [List.map_map]
  refine List.map_congr_left fun x _ => ?_
  rw [Function.comp_apply, apply_ite g, hkeep, ite_self]

theorem Ch.GoodTree.setEdge (h : c.GoodTree) (hport : ∀ x, (f x).port = x.port) (hup : ∀ x, (f x).up = x.up) :
    (c.setEdge p f).GoodTree :=
  h.mapEdges (fun x => by rw [apply_ite Edge.port, hport, ite_self]) fun x => by rw [apply_ite Edge.up, hup, ite_self]

/-- FORMED, before any child hears of it. -/
def Ch.nowFormed (c : Ch) : Ch := { c with la := { c.la with st := .formed, joining := false } }

theorem Ch.GoodTree.becomeFormed (h : c.GoodTree) (hroot : ∀ x ∈ c.la.edges, x.up = false) (hcommons : c.img.commons = []) :
    c.becomeFormed e = { c.nowFormed.sentAll (c.la.edges.map (fun x => x.port)) with
      out := c.out ++ c.la.edges.map (c.edgeMsg tyFormed 0 []), todo := c.todo ++ [] } := by
  have htree : c.nowFormed.GoodTree := h
  have hkids : c.nowFormed.la.childEdges = c.la.edges := Ch.childEdges_of_root hroot
  have hsent : c.nowFormed.sendEdges e c.nowFormed.la.childEdges tyFormed 0 [] =
      { c.nowFormed.sentAll (c.la.edges.map (fun x => x.port)) with out := c.out ++ c.la.edges.map (c.edgeMsg tyFormed 0 []) } := by
    rw [hkids]
    exact htree.sendEdges (List.Sublist.refl _) (show tyFormed ≠ tyTimeReq by decide) (show tyFormed ≠ tyTimeRsp by decide)
  have hnone : (c.img.commons.filter (fun p => bit p.2 63)).map (fun p => Todo.contribute p.1) = [] := by rw [hcommons]; rfl
  refine (congrArg (fun c2 : Ch => { c2 with todo := c2.todo ++
    (c2.img.commons.filter (fun p : Nat × Nat => bit p.2 63)).map (fun p : Nat × Nat => Todo.contribute p.1) }) hsent).trans ?_
  exact congrArg (fun l => ({ c.nowFormed.sentAll (c.la.edges.map (fun x => x.port)) with
    out := c.out ++ c.la.edges.map (c.edgeMsg tyFormed 0 []), todo := c.todo ++ l } : Ch)) hnone

/-- The root that has heard READY of its last child. -/
theorem Ch.FormsAt.formOn_root (h : c.FormsAt d p) (hdead : c.la.attemptDead = false)
    (hlast : ∀ x ∈ c.la.edges, x.up = false ∧ (x.port ≠ p → x.isReady = true)) :
    (c.setEdge p (fun x => { x with isReady := true })).formOn e =
      { (c.setEdge p (fun x => { x with isReady := true })).nowFormed.sentAll (c.la.edges.map (fun x => x.port)) with
        out := c.la.edges.map (c.edgeMsg tyFormed 0 []) } := by
  have hroot : ∀ x ∈ (c.setEdge p (fun x => { x with isReady := true })).la.edges, x.up = false ∧ x.isReady = true := by
    intro x hx
    obtain ⟨y, hy, rfl⟩ := List.mem_map.mp hx
    by_cases hport : y.port = p
    · rw [if_pos hport]
      exact ⟨(hlast y hy).1, rfl⟩
    · rw [if_neg hport]
      exact ⟨(hlast y hy).1, (hlast y hy).2 hport⟩
  have hform := Ch.formOn_root (c := c.setEdge p (fun x => { x with isReady := true })) (e := e) h.forming hdead hroot
  have htree : (c.setEdge p (fun x => { x with isReady := true })).GoodTree := h.tree.setEdge (fun _ => rfl) fun _ => rfl
  have hmsgs : (c.setEdge p (fun x => { x with isReady := true })).la.edges.map
      ((c.setEdge p (fun x => { x with isReady := true })).edgeMsg tyFormed 0 []) = c.la.edges.map (c.edgeMsg tyFormed 0 []) :=
    Ch.map_setEdge (c.edgeMsg tyFormed 0 []) fun _ => rfl
  have hports : (c.setEdge p (fun x => { x with isReady := true })).la.edges.map (fun x => x.port) = c.la.edges.map (fun x => x.port) :=
    Ch.map_setEdge (fun x => x.port) fun _ => rfl
  rw [hform, htree.becomeFormed (fun x hx => (hroot x hx).1) h.commons, hmsgs, hports, List.append_nil]
  have hout : (c.setEdge p (fun x => { x with isReady := true })).out = [] := h.out
  rw [hout]
  rfl

/-! ### TIME_REQ (R268) -/

/-- A TIME_REQ has gone to the parent. -/
def Ch.asked (e : Env) (p : Nat) (c : Ch) : Ch :=
  let c1 := c.sentOn p
  { c1 with la := { c1.la with reqT1 := some (c.accTimeAt e p), reqAt := e.time } }

theorem Ch.sendTimeReq_parent (hparent : c.la.parent = some d) (hmay : c.MaySend d.port) : c.sendTimeReq e =
    { c.asked e d.port with out := c.out ++ [c.edgeMsg tyTimeReq 0 [word64 (c.accTimeAt e d.port)] d] } := by
  have hmay' : ({ c with la := { c.la with reqT1 := some (c.accTimeAt e d.port), reqAt := e.time } } : Ch).MaySend d.port := hmay
  unfold Ch.sendTimeReq
  rw [hparent]
  dsimp only
  unfold Ch.sendEdge
  rw [hmay'.sendMsg_now]
  rfl

/-- A chip that went READY has heard FORMED. -/
def Ch.joins (c : Ch) : Ch := { c with la := { c.la with joining := true } }

/-- FORMED of its parent at a chip that went READY (R265 order 3). -/
theorem Ch.FormsAt.onFormed (h : c.FormsAt d m.port.toNat) (hup : d.up = true) (hready : d.isReady = true)
    (hjoin : c.la.joining = false) : c.onFormed e m =
      { c.joins.asked e m.port.toNat with out := [c.edgeMsg tyTimeReq 0 [word64 (c.accTimeAt e m.port.toNat)] d] } := by
  have hparent : c.joins.la.parent = some d := h.tree.parent h.edge hup
  have hmay : c.joins.MaySend d.port := h.port ▸ h.maySend
  have hasked : c.onFormed e m = c.joins.sendTimeReq e := by
    unfold Ch.onFormed
    rw [h.forming]
    dsimp only
    rw [h.edgeAt, Option.any_some, hup, hready, hjoin, Bool.and_self, Bool.not_false, Bool.and_self, if_pos rfl]
    rfl
  rw [hasked, Ch.sendTimeReq_parent hparent hmay, show c.joins.out = [] from h.out, h.port]
  rfl

/-! ### Another attempt, or none (R266) -/

theorem Ch.attemptTimeout_early (h : e.time < c.la.attemptAt + 10000000) : c.attemptTimeout e = c := by
  unfold Ch.attemptTimeout
  rw [if_neg fun hx => absurd hx.2 (Nat.not_le.mpr h)]

/-- The attempt's reason, where it had none (R266). -/
def Ch.noted (reason rank port : Nat) (c : Ch) : Ch :=
  { c with la := { c.la with
      firstReason := if c.la.firstReason = 0 then reason else c.la.firstReason,
      reason := if c.la.firstReason = 0 then reason else c.la.reason,
      reasonRank := if c.la.firstReason = 0 then rank else c.la.reasonRank,
      reasonPort := if c.la.firstReason = 0 then port else c.la.reasonPort } }

theorem Ch.noteReason_eq (reason rank port : Nat) (c : Ch) : c.noteReason reason rank port = c.noted reason rank port := by
  unfold Ch.noted
  by_cases hfirst : c.la.firstReason = 0
  · rw [Ch.noteReason_first hfirst]
    simp only [hfirst, if_true]
  · unfold Ch.noteReason
    rw [if_pos hfirst]
    simp only [hfirst, if_false]

/-- An attempt that has just started goes no further by itself. -/
theorem Ch.formOn_fresh (hne : c.la.edges ≠ []) (h : ∀ x ∈ c.la.edges, x.sentOk = false ∧ x.isReady = false) : c.formOn e = c := by
  by_cases hchild : ∃ x ∈ c.la.edges, x.up = false
  · obtain ⟨x, hx, hup⟩ := hchild
    exact Ch.formOn_waits (.inr ⟨x, hx, hup, (h x hx).2⟩)
  · have hparent : ∃ x ∈ c.la.edges, c.la.parent = some x := by
      obtain ⟨x, hx⟩ := List.exists_mem_of_ne_nil _ hne
      cases hfind : c.la.parent with
      | none => exact absurd (List.find?_eq_none.mp hfind x hx) (by simpa using fun hup => hchild ⟨x, hx, hup⟩)
      | some y => exact ⟨y, List.mem_of_find?_eq_some hfind, rfl⟩
    obtain ⟨x, hx, hparent⟩ := hparent
    unfold Ch.formOn
    rw [hparent]
    dsimp only
    rw [(h x hx).1, Bool.false_and, Bool.false_and, if_neg Bool.false_ne_true]
    exact ite_self _

/-- An attempt starts afresh. -/
def Ch.fresh (e : Env) (c : Ch) : Ch :=
  { c with la := { c.la with attempts := c.la.attempts + 1, attemptAt := e.stamp, firstReason := 0, attemptDead := false,
                             joining := false, reqT1 := none,
                             edges := c.la.edges.map (fun d => { d with sentOk := false, recvOk := false, isReady := false }) } }

/-- HELLO goes out on every edge of a tree whose ports are the channel's and whose links are up (R263). -/
theorem Ch.GoodTree.startAttempt (h : c.GoodTree) (hne : c.la.edges ≠ [])
    (hports : ∀ x ∈ c.la.edges, c.la.linkPorts.testBit x.port = true ∧ c.la.up.testBit x.port = true) : c.startAttempt e =
      { (c.fresh e).sentAll (c.la.edges.map (fun x => x.port)) with
        out := c.out ++ c.la.edges.map (c.edgeMsg tyHello 0 (c.helloBody e)) } := by
  have htree : (c.fresh e).GoodTree := h.mapEdges (fun _ => rfl) fun _ => rfl
  have hnone : (c.fresh e).la.edges.find? (fun d => !bit (c.fresh e).la.linkPorts d.port || !bit (c.fresh e).la.up d.port) = none := by
    refine List.find?_eq_none.mpr fun x hx => ?_
    obtain ⟨y, hy, rfl⟩ := List.mem_map.mp hx
    have hbits : bit c.la.linkPorts y.port = true ∧ bit c.la.up y.port = true := hports y hy
    simp [Ch.fresh, hbits]
  have hstart : c.startAttempt e = ((c.fresh e).sendEdges e (c.fresh e).la.edges tyHello 0 (c.helloBody e)).formOn e := by
    unfold Ch.startAttempt
    dsimp only
    split
    · next x hx => exact absurd (hx.symm.trans hnone) (by simp)
    · rfl
  have hmap : ∀ {β : Type} (g : Edge → β), (∀ x, g { x with sentOk := false, recvOk := false, isReady := false } = g x) →
      (c.fresh e).la.edges.map g = c.la.edges.map g := fun g hg =>
    (List.map_map ..).trans (List.map_congr_left fun x _ => hg x)
  have hsent : (c.fresh e).sendEdges e (c.fresh e).la.edges tyHello 0 (c.helloBody e) =
      { (c.fresh e).sentAll (c.la.edges.map (fun x => x.port)) with
        out := c.out ++ c.la.edges.map (c.edgeMsg tyHello 0 (c.helloBody e)) } := by
    rw [htree.sendEdges (List.Sublist.refl _) (show tyHello ≠ tyTimeReq by decide) (show tyHello ≠ tyTimeRsp by decide),
      hmap _ fun _ => rfl]
    refine congrArg (fun l => ({ (c.fresh e).sentAll (c.la.edges.map (fun x => x.port)) with out := c.out ++ l } : Ch)) ?_
    exact hmap (c.edgeMsg tyHello 0 (c.helloBody e)) fun _ => rfl
  rw [hstart, hsent]
  refine Ch.formOn_fresh (fun hnil => hne (List.map_eq_nil_iff.mp hnil)) fun x hx => ?_
  obtain ⟨y, -, rfl⟩ := List.mem_map.mp hx
  exact ⟨rfl, rfl⟩

/-- The reason of an attempt that ends with none found is NO_ANSWER. -/
theorem Ch.attemptTimeout_late (hst : c.la.st = .forming) (hlate : c.la.attemptAt + 10000000 ≤ e.time) : c.attemptTimeout e =
    (let c1 := (c.noteReason reNoAnswer c.la.rank 0).failAttempt e
     if c1.la.st = .forming then c1.startAttempt e else c1) := by
  unfold Ch.attemptTimeout
  exact if_pos ⟨hst, hlate⟩

/-- Another attempt starts while RETRIES allows. -/
theorem Ch.attemptTimeout_again (hst : c.la.st = .forming) (hlate : c.la.attemptAt + 10000000 ≤ e.time)
    (hmore : c.la.attempts ≤ c.la.retries) : c.attemptTimeout e = (c.noteReason reNoAnswer c.la.rank 0).startAttempt e := by
  have hkeep : (c.noteReason reNoAnswer c.la.rank 0).failAttempt e = c.noteReason reNoAnswer c.la.rank 0 := by
    rw [Ch.noteReason_eq]
    exact if_pos hmore
  have hst' : (c.noteReason reNoAnswer c.la.rank 0).la.st = .forming := by
    rw [Ch.noteReason_eq]
    exact hst
  rw [Ch.attemptTimeout_late hst hlate]
  dsimp only
  rw [hkeep, if_pos hst']

/-- The accord has failed with fault set entry LA 2. -/
def Ch.accFailed (e : Env) (c : Ch) : Ch :=
  let c1 := c.faulted e .la 2 {}
  { c1 with la := { c1.la with st := .failed } }

/-- No attempt is left. -/
theorem Ch.attemptTimeout_last (hst : c.la.st = .forming) (hlate : c.la.attemptAt + 10000000 ≤ e.time)
    (hmore : c.la.retries < c.la.attempts) (hreason : c.la.firstReason ≠ 0) (hlocals : c.img.locals = []) (hq : c.Quiet)
    (hr : c.Raises e .la 2 {} 2) : ∃ raised, c.attemptTimeout e = { c.accFailed e with raised := raised, errPulse := true } := by
  obtain ⟨-, -, hraised, hhalt, -⟩ := hq
  obtain ⟨raised, hraise⟩ := Ch.raise_first (c := { c with la := { c.la with st := .failed } }) (e := e) hraised hhalt
    (hr.of_fields rfl rfl) rfl
  have hnote : c.noteReason reNoAnswer c.la.rank 0 = c := if_pos hreason
  have hfail : c.failAttempt e = { c.accFailed e with raised := raised, errPulse := true } := by
    unfold Ch.failAttempt
    rw [if_neg (Nat.not_le.mpr hmore), hraise]
    exact Ch.breakObjs_none hlocals
  refine ⟨raised, ?_⟩
  rw [Ch.attemptTimeout_late hst hlate]
  dsimp only
  rw [hnote, hfail]
  exact if_neg (show AccSt.failed ≠ .forming by decide)

/-! ### The messages and the timer, each case (R263 to R266) -/

theorem Ch.FormsAt.hello_waits (h : c.FormsAt d m.port.toNat) (hr : c.helloCheck m = 0)
    (hwait : (c.la.attemptDead = true ∨ ∃ x ∈ c.la.edges, x.up = false ∧ x.isReady = false) ∨ c.LeafAt d ∧ d.recvOk = false) :
    c.onHello e m = { ((c.helloKept m).sentOn m.port.toNat).setEdge m.port.toNat (fun x => { x with sentOk := true }) with
      out := [c.verdictMsg m 0] } := by
  have hst : (c.helloAnswered m 0).la.st = .forming := h.forming
  rw [h.onHello_agrees hr]
  rcases hwait with hwait | ⟨hleaf, hrecv⟩
  · exact Ch.setEdge_waits (c := c.helloAnswered m 0) (fun _ => rfl)
      (hwait.imp id fun ⟨x, hx, hup, hready⟩ => ⟨x, hx, hup, hready, fun _ => rfl⟩)
  · have hleaf' : (c.helloAnswered m 0).LeafAt d := hleaf
    exact hleaf'.formOn_waits hst h.port rfl hrecv

theorem Ch.FormsAt.hello_ready (h : c.FormsAt d m.port.toNat) (hr : c.helloCheck m = 0) (hleaf : c.LeafAt d) (hrecv : d.recvOk = true)
    (hleft : 17 < (c.la.credit m.port.toNat).txAvail) :
    c.onHello e m = { (((c.helloKept m).sentOn m.port.toNat).setEdge m.port.toNat
        (fun x => { x with sentOk := true, isReady := true })).sentOn m.port.toNat with
      out := [c.verdictMsg m 0, c.edgeMsg tyReady 0 [] d] } := by
  have hst : (c.helloAnswered m 0).la.st = .forming := h.forming
  have hleaf' : (c.helloAnswered m 0).LeafAt d := hleaf
  have hkept : (c.helloKept m).MaySend m.port.toNat := h.maySend
  have hmay : (c.helloAnswered m 0).MaySend m.port.toNat := hkept.sentOn_self h.tree.1 hleft
  rw [h.onHello_agrees hr]
  exact hleaf'.formOn_ready hst h.port hmay (fun _ => ⟨rfl, rfl, rfl, rfl⟩) hrecv

theorem Ch.FormsAt.hello_disagrees (h : c.FormsAt d m.port.toNat) (hr : c.helloCheck m = r) (hne : r ≠ 0) (hfirst : c.la.firstReason = 0) :
    c.onHello e m =
      (let c1 := (c.helloKept m).sentOn m.port.toNat
       { c1 with la := { c1.la with firstReason := r, reason := r, reasonRank := c.la.rank, reasonPort := m.port.toNat },
                 out := [c.verdictMsg m r] }) := by
  have hfirst' : (c.helloAnswered m r).la.firstReason = 0 := hfirst
  rw [h.onHello hr, if_neg hne, Ch.noteReason_first hfirst']
  rfl

theorem Ch.FormsAt.verdict_waits (h : c.FormsAt d m.port.toNat) (hr : fld (bodyWord m 1) 7 0 = 0)
    (hwait : c.la.attemptDead = true ∨ ∃ x ∈ c.la.edges, x.up = false ∧ x.isReady = false) :
    c.onVerdict e m = { c.setEdge m.port.toNat (fun x => { x with recvOk := true }) with out := [] } := by
  rw [Ch.onVerdict_forming h.forming, if_pos hr]
  refine (Ch.setEdge_waits ?_ ?_).trans (Ch.with_out_nil h.out)
  · exact fun _ => rfl
  · exact hwait.imp id fun ⟨x, hx, hup, hready⟩ => ⟨x, hx, hup, hready, fun _ => rfl⟩

theorem Ch.FormsAt.verdict_ready (h : c.FormsAt d m.port.toNat) (hr : fld (bodyWord m 1) 7 0 = 0) (hleaf : c.LeafAt d)
    (hsent : d.sentOk = true) :
    c.onVerdict e m = { (c.setEdge m.port.toNat (fun x => { x with recvOk := true, isReady := true })).sentOn m.port.toNat with
      out := [c.edgeMsg tyReady 0 [] d] } := by
  rw [Ch.onVerdict_forming h.forming, if_pos hr]
  refine (hleaf.formOn_ready h.forming h.port h.maySend ?_ ?_).trans ?_
  · exact fun _ => ⟨rfl, rfl, rfl, rfl⟩
  · rw [hsent, Bool.and_self]
  rw [h.out]
  rfl

theorem Ch.FormsAt.verdict_refuses (h : c.FormsAt d m.port.toNat) (hr : fld (bodyWord m 1) 7 0 ≠ 0) (hfirst : c.la.firstReason = 0) :
    c.onVerdict e m = { c with
      la := { c.la with firstReason := fld (bodyWord m 1) 7 0, reason := fld (bodyWord m 1) 7 0, reasonRank := m.src.toNat,
                        reasonPort := m.port.toNat },
      out := [] } := by
  rw [Ch.onVerdict_forming h.forming, if_neg hr, Ch.noteReason_first hfirst, ← h.out]

theorem Ch.FormsAt.ready_waits (h : c.FormsAt d m.port.toNat) (hup : d.up = false)
    (hwait : c.la.attemptDead = true ∨ ∃ x ∈ c.la.edges, x.up = false ∧ x.isReady = false ∧ x.port ≠ m.port.toNat) :
    c.onReady e m = { c.setEdge m.port.toNat (fun x => { x with isReady := true }) with out := [] } := by
  rw [h.onReady hup]
  refine (Ch.setEdge_waits ?_ ?_).trans (Ch.with_out_nil h.out)
  · exact fun _ => rfl
  · exact hwait.imp id fun ⟨x, hx, hxup, hready, hport⟩ => ⟨x, hx, hxup, hready, fun hp => absurd hp hport⟩

/-- Another attempt after one that ran out of time. -/
theorem Ch.FormsAt.again (h : c.FormsAt d p) (hlate : c.la.attemptAt + 10000000 ≤ e.time) (hmore : c.la.attempts ≤ c.la.retries)
    (hports : ∀ x ∈ c.la.edges, c.la.linkPorts.testBit x.port = true ∧ c.la.up.testBit x.port = true) :
    c.attemptTimeout e = { ((c.noted reNoAnswer c.la.rank 0).fresh e).sentAll (c.la.edges.map (fun x => x.port)) with
      out := c.la.edges.map (c.edgeMsg tyHello 0 (c.helloBody e)) } := by
  rw [Ch.attemptTimeout_again h.forming hlate hmore, Ch.noteReason_eq]
  have htree : (c.noted reNoAnswer c.la.rank 0).GoodTree := h.tree
  have hout : (c.noted reNoAnswer c.la.rank 0).out = [] := h.out
  rw [htree.startAttempt (List.ne_nil_of_mem h.edge) hports, hout]
  rfl

end

/-- Settles O39: each clause is one case of how far the message, or the attempt's timer, takes formation. -/
theorem accordForming : Obligations.AccordForming := by
  unfold Obligations.AccordForming
  intro s n m d hs hst htree hcommons hlocals hd hport
  generalize hc : s.ch n.val = c at *
  have hq : c.Quiet := hc ▸ hs.calm.quiet
  have hforms : c.FormsAt d m.port.toNat := ⟨hq, hst, htree, hcommons, hlocals, hd, hport⟩
  have hheard := hforms.heard
  have htime : (s.seen n.val .none).time = s.time := rfl
  generalize he : s.seen n.val .none = e at *
  dsimp only
  rw [← htime]
  refine ⟨fun hh ⟨hid, hdig, hmaj, hfeat, hrank⟩ hready hwait => ?_, fun hh ⟨hid, hdig, hmaj, hfeat, hrank⟩ hleaf hrecv hleft => ?_,
    fun hh hid hdig hfirst => ?_, fun hh hr hwait => ?_, fun hh hr hleaf hsent => ?_, fun hh hr hfirst => ?_,
    fun hh hup hwait => ?_, fun hh hdead hlast => ?_, fun hh hup hready hjoin => ?_, fun hearly => ?_, fun hlate hmore hports => ?_,
    fun hlate hmore hreason hr => ?_⟩
  case refine_1 =>
    exact hh.act_effect (by decide) hc he (hheard.hello_waits (Ch.helloCheck_agrees hheard hid hdig hmaj hfeat hrank) hwait) (hq.same rfl)
  case refine_2 =>
    exact hh.act_effect (by decide) hc he
      (hheard.hello_ready (Ch.helloCheck_agrees hheard hid hdig hmaj hfeat hrank) hleaf hrecv hleft) (hq.same rfl)
  case refine_3 =>
    exact hh.act_effect (by decide) hc he (hheard.hello_disagrees (Ch.helloCheck_digest hid hdig) (by decide) hfirst) (hq.same rfl)
  case refine_4 => exact hh.act_effect (by decide) hc he (hheard.verdict_waits hr hwait) (hq.same rfl)
  case refine_5 => exact hh.act_effect (by decide) hc he (hheard.verdict_ready hr hleaf hsent) (hq.same rfl)
  case refine_6 => exact hh.act_effect (by decide) hc he (hheard.verdict_refuses hr hfirst) (hq.same rfl)
  case refine_7 => exact hh.act_effect (by decide) hc he (hheard.ready_waits hup hwait) (hq.same rfl)
  case refine_8 =>
    rw [Ch.foldl_sentOn]
    exact hh.act_effect (by decide) hc he ((hheard.onReady (hlast d hd).1).trans (hheard.formOn_root hdead hlast)) (hq.same rfl)
  case refine_9 =>
    exact hh.act_effect (by decide) hc he (hheard.onFormed hup hready hjoin) (hq.same rfl)
  case refine_10 =>
    exact hs.act_timer hc he _ ((Ch.attemptTimeout_early hearly).trans (Ch.with_out_nil hforms.out)) ⟨hq, rfl⟩
  case refine_11 =>
    rw [Ch.foldl_sentOn]
    exact hs.act_timer hc he _ (hforms.again hlate hmore hports) (hq.same rfl)
  case refine_12 =>
    obtain ⟨raised, hfails⟩ := Ch.attemptTimeout_last hst hlate hmore hreason hlocals hq hr
    exact hs.act_timer_error hc he _ (hfails.trans (Ch.with_out_nil hforms.out)) (hq.same rfl)
end Sys2Proof.Machine
end

section

/-! ## Accord time (R267 to R270) -/

namespace Sys2Proof.Machine
section
variable {s : State} {n rx : Nat} {c : Ch} {d : Edge} {e : Env} {m : MsgIn} {t1 : Int}

/-- A FORMED accord's channel with a parent: `d` is the edge to it. -/
structure Ch.KeepsTime (c : Ch) (d : Edge) : Prop where
  quiet  : c.Quiet
  formed : c.la.st = .formed
  tree   : c.GoodTree
  locals : c.img.locals = []
  edge   : d ∈ c.la.edges
  up     : d.up = true
  accord : c.la.accord ≠ 0

theorem Ch.KeepsTime.heard (h : c.KeepsTime d) : c.heard.KeepsTime d :=
  ⟨h.quiet, h.formed, h.tree, h.locals, h.edge, h.up, h.accord⟩

theorem Ch.KeepsTime.out (h : c.KeepsTime d) : c.out = [] := h.quiet.2.1

theorem Ch.KeepsTime.parent (h : c.KeepsTime d) : c.la.parent = some d := h.tree.parent h.edge h.up

theorem Ch.KeepsTime.maySend (h : c.KeepsTime d) : c.MaySend d.port := by
  obtain ⟨-, -, hmay, -⟩ := h.tree
  exact hmay d h.edge

/-- A break that the time exchange finds at port `p`. -/
def Ch.timeBreak (reason p : Nat) (c : Ch) : BreakInfo := { c.ownBreak reason p with typ := tyTimeRsp }

/-! ### TIME_EXCHANGE_DUE (R268, R269) -/

theorem Ch.timeDue_early (h : e.time < c.la.reqAt + 1000000) : c.timeDue e = c := by
  unfold Ch.timeDue
  rw [if_neg fun hx => absurd hx.2.2 (Nat.not_le.mpr h)]

theorem Ch.KeepsTime.sendTimeReq (h : c.KeepsTime d) : c.sendTimeReq e =
    { c.asked e d.port with out := [c.edgeMsg tyTimeReq 0 [word64 (c.accTimeAt e d.port)] d] } := by
  rw [Ch.sendTimeReq_parent h.parent h.maySend, h.out]
  rfl

theorem Ch.KeepsTime.timeDue_asks (h : c.KeepsTime d) (hdue : c.la.reqAt + 1000000 ≤ e.time) (hnone : c.la.reqT1 = none) :
    c.timeDue e = { c.asked e d.port with out := [c.edgeMsg tyTimeReq 0 [word64 (c.accTimeAt e d.port)] d] } := by
  unfold Ch.timeDue
  rw [if_pos ⟨h.formed, by rw [h.parent]; rfl, hdue⟩, hnone, if_neg (by decide)]
  exact h.sendTimeReq

/-- A TIME_REQ went without an answer. -/
def Ch.missed (c : Ch) : Ch :=
  { c with la := { c.la with missRun := c.la.missRun + 1 }, lalog := { c.lalog with timeMisses := inc c.lalog.timeMisses } }

theorem Ch.KeepsTime.missed (h : c.KeepsTime d) : c.missed.KeepsTime d :=
  ⟨h.quiet, h.formed, h.tree, h.locals, h.edge, h.up, h.accord⟩

theorem Ch.KeepsTime.timeDue_missed (h : c.KeepsTime d) (hdue : c.la.reqAt + 1000000 ≤ e.time) (hopen : c.la.reqT1 ≠ none) :
    c.timeDue e = if 3 ≤ c.la.missRun + 1 then
        c.missed.breakAccord e (c.missed.timeBreak reLinkLost d.port)
      else c.missed.sendTimeReq e := by
  have hport : (c.missed.la.parent.map (fun x => x.port)).getD 0 = d.port := by
    rw [h.missed.parent]
    rfl
  unfold Ch.timeDue
  rw [if_pos ⟨h.formed, by rw [h.parent]; rfl, hdue⟩, if_pos (Option.isSome_iff_ne_none.mpr hopen)]
  rw [← hport]
  rfl

/-! ### TIME_REQ (R268) -/

/-- The TIME_RSP that leaves at accord time `t`, for a TIME_REQ that came as it leaves. -/
def Ch.timeAnswer (m : MsgIn) (t : Int) (c : Ch) : Output :=
  .msg m.port.toNat { typ := tyTimeRsp, accord := c.la.accord, src := c.la.rank, dst := m.src.toNat,
                      body := [bodyWord m 1, word64 t, word64 t] }

theorem Ch.onTimeReq_answered (hmay : c.MaySend m.port.toNat) (haccord : c.la.accord ≠ 0) (hout : c.out = []) :
    c.onTimeReq e (e.linkTime m.port.toNat) m = { c.sentOn m.port.toNat with
      out := [c.timeAnswer m (c.accTimeAt e m.port.toNat)] } := by
  unfold Ch.onTimeReq
  rw [if_neg haccord, hmay.sendMsg_now]
  unfold Ch.sendNow Ch.emit
  dsimp only
  rw [hout]
  rfl

/-! ### TIME_RSP (R268 to R270) -/

/-- Half the difference of the two ways, toward zero. -/
def Ch.theta (rx : Nat) (m : MsgIn) (t1 : Int) (c : Ch) : Int :=
  Int.tdiv ((signed64 (bodyWord m 2) - t1) + (signed64 (bodyWord m 3) - ((rx : Int) + c.la.timeOffset))) 2

/-- The time both ways took. -/
def Ch.delta (rx : Nat) (m : MsgIn) (t1 : Int) (c : Ch) : Int :=
  (((rx : Int) + c.la.timeOffset) - t1) - (signed64 (bodyWord m 3) - signed64 (bodyWord m 2))

/-- The open TIME_REQ has its answer. -/
def Ch.answeredReq (c : Ch) : Ch := { c with la := { c.la with reqT1 := none, missRun := 0 } }

/-- A step of the offset above 250 ns is noted. -/
def Ch.timeWarned (c : Ch) : Ch :=
  { c with la := { c.la with timeWarn := true }, lalog := { c.lalog with timeWarns := inc c.lalog.timeWarns } }

/-- A sample too far away is kept for LA_TIME_LAST alone. -/
def Ch.lastSample (θ δ : Int) (c : Ch) : Ch := { c with la := { c.la with lastDelay := word32 δ, lastTheta := θ } }

/-- What a FORMED accord makes of the answer to a TIME_REQ of time `t1` (R269, R270). -/
def Ch.takeSample (e : Env) (rx : Nat) (m : MsgIn) (t1 : Int) (c : Ch) : Ch :=
  let θ := c.theta rx m t1
  let δ := c.delta rx m t1
  let c1 := c.answeredReq
  if δ < 0 ∨ 4000 < δ then { c1 with lalog := { c1.lalog with timeDiscards := inc c1.lalog.timeDiscards } }
  else if θ.natAbs ≤ 250 then c1.applyTheta θ δ
  else if θ.natAbs ≤ 5000 then
    (c1.applyTheta θ δ).timeWarned.raise e .la 1 { addr := at_ 18 16 m.port.toNat, access := 6, key := m.port.toNat }
  else (c1.lastSample θ δ).breakAccord e ((c1.lastSample θ δ).timeBreak reTime m.port.toNat)

theorem Ch.takeSample_far (h : c.delta rx m t1 < 0 ∨ 4000 < c.delta rx m t1) : c.takeSample e rx m t1 =
    { c.answeredReq with lalog := { c.lalog with timeDiscards := inc c.lalog.timeDiscards } } := if_pos h

section
variable (hlow : 0 ≤ c.delta rx m t1) (hhigh : c.delta rx m t1 ≤ 4000)
include hlow hhigh

theorem Ch.takeSample_small (h : (c.theta rx m t1).natAbs ≤ 250) :
    c.takeSample e rx m t1 = c.answeredReq.applyTheta (c.theta rx m t1) (c.delta rx m t1) := by
  unfold Ch.takeSample
  dsimp only
  rw [if_neg (by omega), if_pos h]

theorem Ch.takeSample_warns (habove : 250 < (c.theta rx m t1).natAbs) (hbelow : (c.theta rx m t1).natAbs ≤ 5000) :
    c.takeSample e rx m t1 = (c.answeredReq.applyTheta (c.theta rx m t1) (c.delta rx m t1)).timeWarned.raise e .la 1
      { addr := at_ 18 16 m.port.toNat, access := 6, key := m.port.toNat } := by
  unfold Ch.takeSample
  dsimp only
  rw [if_neg (by omega), if_neg (by omega), if_pos hbelow]

theorem Ch.takeSample_breaks (h : 5000 < (c.theta rx m t1).natAbs) :
    let c1 := c.answeredReq.lastSample (c.theta rx m t1) (c.delta rx m t1)
    c.takeSample e rx m t1 = c1.breakAccord e (c1.timeBreak reTime m.port.toNat) := by
  unfold Ch.takeSample
  dsimp only
  rw [if_neg (by omega), if_neg (by omega), if_neg (by omega)]

end

theorem Ch.KeepsTime.onTimeRsp (h : c.KeepsTime d) (hopen : c.la.reqT1 = some t1) (hport : d.port = m.port.toNat)
    (hmine : signed64 (bodyWord m 1) = t1) : c.onTimeRsp e rx m = c.takeSample e rx m t1 := by
  have hformed := h.formed
  have hst : ¬c.la.st = .forming := fun hx => absurd (hformed.symm.trans hx) (by decide)
  unfold Ch.onTimeRsp
  split
  · next hx => exact absurd (hformed.symm.trans hx) (by decide)
  · next hx => exact absurd (hformed.symm.trans hx) (by decide)
  · next hx => exact absurd (hformed.symm.trans hx) (by decide)
  · next hx _ _ _ => exact absurd (hopen.symm.trans hx) (by simp)
  · next t hx _ _ _ =>
    obtain rfl : t1 = t := Option.some.inj (hopen.symm.trans hx)
    dsimp only
    rw [h.parent, Option.map_some, hport, decide_eq_true rfl, decide_eq_true hmine, if_neg (by decide), if_neg hst]
    rfl

theorem Ch.KeepsTime.sampled (h : c.KeepsTime d) (θ δ : Int) : (c.answeredReq.lastSample θ δ).KeepsTime d :=
  ⟨h.quiet, h.formed, h.tree, h.locals, h.edge, h.up, h.accord⟩

/-! ### A message that raises a warning of the link agent -/

theorem Ch.raise_warning {src : Nat} {k : Cause} (hq : c.Quiet) (hw : isWear .la src = false) (hr : c.Raises e .la src k 1) :
    ∃ raised, c.raise e .la src k = { c.faulted e .la src k with raised := raised } := by
  obtain ⟨-, -, hraised, -, -⟩ := hq
  refine ⟨[⟨.la, src, 1, !(c.fault .la).captured⟩], (Ch.raise_faulted hr hw hraised).trans ?_⟩
  have hhalt' : (c.haltReq || decide (1 = 3)) = c.haltReq := Bool.or_false _
  have herr' : (c.errPulse || decide (2 ≤ 1)) = c.errPulse := Bool.or_false _
  rw [hhalt', herr']
  rfl

theorem State.Hears.act_warns {x : Ch} {typ src : Nat} {k : Cause} (h : s.Hears n typ m) (htyp : typ ≠ tyTrailer) (hc : s.ch n = c)
    (he : s.seen n .none = e) (hx : x.Same c) (hw : isWear .la src = false)
    (hr : x.Raises e .la src k 1)
    (hf : c.heard.onMessage e (e.linkTime m.port.toNat) typ m = x.raise e .la src k) :
    act s (fun s => s.message typ m) = .next (s.moved n (x.faulted e .la src k) [.creditBack m.port.toNat]) := by
  obtain ⟨raised, hraise⟩ := Ch.raise_warning hx.quiet hw hr
  obtain ⟨htodo, hout, -, hhalt, -⟩ := hx.quiet
  refine h.act_warning (raised := raised) htyp hc he ?_ ⟨hx.quiet, hx.edge⟩
  unfold Ch.takes Ch.emit
  rw [hf, hraise, show (x.faulted e .la src k).out = [] from hout]
  exact Ch.settle_quiet htodo hhalt

/-! ### The breaks of accord time -/

section
variable {x : Ch} {reason p : Nat}

theorem Ch.breakCause_timeBreak : x.breakCause (x.timeBreak reason p) =
    { addr := at_ 63 32 (x.accState 0).gen.toNat, access := 6, key := p } := Ch.breakCause_noObject rfl

theorem Ch.KeepsTime.breaks (hx : x.KeepsTime d) (hsame : x.Same c) (hctl : x.ctl = c.ctl) (hflt : x.flt = c.flt)
    (hobjs : x.la.objs = c.la.objs)
    (hr : c.Raises e .la 4 { addr := at_ 63 32 (c.accState 0).gen.toNat, access := 6, key := p } 2) :
    x.Breaks e (x.timeBreak reason p) c := by
  refine ⟨hsame, hx.formed, hx.tree, hx.locals, rfl, ?_⟩
  rw [Ch.breakCause_timeBreak]
  unfold Ch.accState at hr ⊢
  rw [hobjs]
  exact hr.of_fields hctl hflt

end
end

/-- Settles O42: each clause is one branch of the exchange, and the two breaks go by what a break of a FORMED accord does. -/
theorem accordTime : Obligations.AccordTime := by
  unfold Obligations.AccordTime
  intro s n m d hs hst htree hlocals hd hup haccord
  generalize hc : s.ch n.val = c at *
  have hq : c.Quiet := hc ▸ hs.calm.quiet
  have hkeeps : c.KeepsTime d := ⟨hq, hst, htree, hlocals, hd, hup, haccord⟩
  have hheard := hkeeps.heard
  have htime : (s.seen n.val .none).time = s.time := rfl
  generalize he : s.seen n.val .none = e at *
  have hreq : c.la.reqT1 ≠ none → c.la.reqT1 = some (c.la.reqT1.getD 0) := fun hopen => by
    obtain ⟨t1, ht1⟩ := Option.ne_none_iff_exists'.mp hopen
    rw [ht1, Option.getD_some]
  dsimp only
  rw [← htime]
  refine ⟨fun hearly => ?_, fun hdue hnone => ?_, fun hdue hopen hfew => ?_, fun hdue hopen hmany hr => ?_, fun hh hmay => ?_,
    fun ⟨hh, hopen, hport, hmine⟩ hfar => ?_, fun ⟨hh, hopen, hport, hmine⟩ hlow hhigh hnear => ?_,
    fun ⟨hh, hopen, hport, hmine⟩ hlow hhigh habove hbelow hr => ?_, fun ⟨hh, hopen, hport, hmine⟩ hlow hhigh habove hr => ?_⟩
  case refine_1 => exact hs.act_timer hc he _ ((Ch.timeDue_early hearly).trans (Ch.with_out_nil hkeeps.out)) ⟨hq, rfl⟩
  case refine_2 => exact hs.act_timer hc he _ (hkeeps.timeDue_asks hdue hnone) (hq.same rfl)
  case refine_3 =>
    exact hs.act_timer hc he _ ((hkeeps.timeDue_missed hdue hopen).trans ((if_neg (by omega)).trans hkeeps.missed.sendTimeReq)) (hq.same rfl)
  case refine_4 =>
    have hx := hkeeps.missed.breaks (reason := reLinkLost) (hq.same rfl) rfl rfl rfl hr
    obtain ⟨db, hact⟩ := hs.act_breaks hc he _ hx ((hkeeps.timeDue_missed hdue hopen).trans (if_pos (by omega)))
    refine ⟨_, hact, ?_⟩
    rw [State.ch_movedWithError_self, State.emitted_movedWithError, List.append_nil, Ch.breakMsgs_all rfl]
    exact ⟨rfl, rfl, rfl, rfl, Ch.flt_brokenBy rfl rfl rfl, Ch.brokenBy_os .., Ch.brokenBy_bw .., Ch.brokenBy_hw ..⟩
  case refine_5 =>
    exact hh.act_effect (outs := [c.timeAnswer m (c.accTimeAt e m.port.toNat)]) (by decide) hc he
      (Ch.onTimeReq_answered hmay haccord hkeeps.out) (hq.same rfl)
  case refine_6 =>
    rw [hport] at hfar
    have heffect := (hheard.onTimeRsp (e := e) (hreq hopen) hport hmine).trans (Ch.takeSample_far hfar)
    exact hh.act_effect (outs := []) (by decide) hc he (heffect.trans (Ch.with_out_nil hkeeps.out)) (hq.same rfl)
  case refine_7 =>
    rw [hport] at hlow hhigh hnear ⊢
    have heffect := (hheard.onTimeRsp (e := e) (hreq hopen) hport hmine).trans (Ch.takeSample_small hlow hhigh hnear)
    exact hh.act_effect (outs := []) (by decide) hc he (heffect.trans (Ch.with_out_nil hkeeps.out)) (hq.same rfl)
  case refine_8 =>
    rw [hport] at hlow hhigh habove hbelow ⊢
    have heffect := (hheard.onTimeRsp (e := e) (hreq hopen) hport hmine).trans (Ch.takeSample_warns hlow hhigh habove hbelow)
    exact hh.act_warns (by decide) hc he (hq.same rfl) rfl (hr.of_fields rfl rfl) heffect
  case refine_9 =>
    rw [hport] at hlow hhigh habove hr ⊢
    have heffect := (hheard.onTimeRsp (e := e) (hreq hopen) hport hmine).trans (Ch.takeSample_breaks hlow hhigh habove)
    generalize c.heard.theta (e.linkTime m.port.toNat) m (c.la.reqT1.getD 0) = θ at heffect
    generalize c.heard.delta (e.linkTime m.port.toNat) m (c.la.reqT1.getD 0) = δ at heffect
    have hx := (hheard.sampled θ δ).breaks (reason := reTime) (hq.same rfl) rfl rfl rfl hr
    obtain ⟨db, hact⟩ := hh.act_breaks (by decide) hc he hx heffect
    have hflt := Ch.flt_brokenBy (x := c.heard.answeredReq.lastSample θ δ) (c := c) (e := e) (db := db)
      (b := (c.heard.answeredReq.lastSample θ δ).timeBreak reTime m.port.toNat) rfl rfl rfl
    refine ⟨_, hact, ?_⟩
    rw [State.ch_movedWithError_self, State.emitted_movedWithError, Ch.breakMsgs_all rfl, hflt]
    dsimp only [Ch.brokenBy, Ch.broken, Ch.sentAll, Ch.timeBreak, Ch.ownBreak, Ch.lastSample, Ch.answeredReq, Ch.heard, Ch.edgeMsg]
    exact ⟨rfl, rfl, rfl, rfl, rfl, rfl, rfl, rfl⟩

end Sys2Proof.Machine
end

section

/-! ## Link ports: links, credits, remote trailers (R258, R260, R261, R276, R325) -/

namespace Sys2Proof.Machine
section
variable {s : State} {n q x : Nat} {c d : Ch} {e : Env} {w : Msg} {f : Env → Ch → Ch} {g : Ch → Ch}

/-! ### Credits (R258) -/

/-- What leaves as it was composed. -/
theorem Ch.sendNow_asIs (hreq : w.typ ≠ tyTimeReq) (hrsp : w.typ ≠ tyTimeRsp) :
    c.sendNow e q w = { c.sentOn q with out := c.out ++ [.msg q w] } := by
  unfold Ch.sendNow Ch.stamped
  dsimp only
  rw [if_neg hreq, if_neg hreq, if_neg hrsp]
  rfl

/-- A TIME_REQ takes its t1 as it leaves (R268). -/
theorem Ch.sendNow_timeReq (hreq : w.typ = tyTimeReq) : c.sendNow e q w =
    (let c1 := c.sentOn q
     { c1 with la := { c1.la with reqT1 := some (c.accTimeAt e q) },
               out := c.out ++ [.msg q { w with body := [word64 (c.accTimeAt e q)] }] }) := by
  unfold Ch.sendNow Ch.stamped
  dsimp only
  rw [if_pos hreq, if_pos hreq]
  rfl

theorem Ch.drainPort_idle (h : ∀ y ∈ c.la.txWait, y.1 ≠ q) (k : Nat) : c.drainPort e q k = c := by
  have hnone : c.la.txWait.find? (fun y => y.1 = q) = none := List.find?_eq_none.mpr fun y hy => by simpa using h y hy
  cases k with
  | zero => rfl
  | succ k =>
    unfold Ch.drainPort
    rw [hnone]

/-- The credits of a port. -/
def Ch.creditOf (q x : Nat) (c : Ch) : Ch :=
  { c with la := { c.la with credits := c.la.credits.put {} q { c.la.credit q with txAvail := x } } }

theorem Ch.creditReturn_full (h : 64 ≤ (c.la.credit q).txAvail) : c.creditReturn e q = c := by
  unfold Ch.creditReturn
  exact if_pos h

theorem Ch.creditReturn_counts (h : (c.la.credit q).txAvail < 64) :
    c.creditReturn e q = (c.creditOf q ((c.la.credit q).txAvail + 1)).drainPort e q 64 := by
  unfold Ch.creditReturn
  exact if_neg (Nat.not_le.mpr h)

theorem Ch.creditReturn_idle (h : (c.la.credit q).txAvail < 64) (hidle : ∀ y ∈ c.la.txWait, y.1 ≠ q) :
    c.creditReturn e q = c.creditOf q ((c.la.credit q).txAvail + 1) :=
  (Ch.creditReturn_counts h).trans (Ch.drainPort_idle (c := c.creditOf q ((c.la.credit q).txAvail + 1)) hidle 64)

/-- The credits' owner with what waits replaced. -/
def Ch.msgsLeft (l : List (Nat × Msg)) (c : Ch) : Ch := { c with la := { c.la with txWait := l } }

/-- One message waits on the port, and may take a credit. -/
theorem Ch.drainPort_first {rest : List (Nat × Msg)} (hwait : c.la.txWait = (q, w) :: rest) (hallows : (c.la.credit q).allows w.typ = true)
    (k : Nat) : c.drainPort e q (k + 1) = ((c.msgsLeft rest).sendNow e q w).drainPort e q k := by
  have hfind : c.la.txWait.find? (fun y => y.1 = q) = some (q, w) := by
    rw [hwait]
    exact List.find?_cons_of_pos (by simp)
  have herase : c.la.txWait.erase (q, w) = rest := by
    rw [hwait]
    exact List.erase_cons_head ..
  conv_lhs => unfold Ch.drainPort
  rw [hfind]
  dsimp only
  rw [hallows, if_pos rfl, herase]
  rfl

/-- A credit that comes back and goes again. -/
theorem Ch.creditOf_sentOn {rest : List (Nat × Msg)} (hwf : SMap.wf {} c.la.credits = true) :
    ((c.creditOf q (x + 1)).msgsLeft rest).sentOn q =
      ({ (c.creditOf q x).msgsLeft rest with lalog := { c.lalog with msgTx := inc c.lalog.msgTx } } : Ch) := by
  have hget : (c.creditOf q (x + 1)).la.credit q = { c.la.credit q with txAvail := x + 1 } :=
    (SMap.get_put hwf q q _).trans (if_pos rfl)
  have hput : (c.creditOf q (x + 1)).la.credits.put {} q
      { (c.creditOf q (x + 1)).la.credit q with txAvail := ((c.creditOf q (x + 1)).la.credit q).txAvail - 1 } =
      c.la.credits.put {} q { c.la.credit q with txAvail := x } := by
    rw [hget]
    exact SMap.put_put_wf hwf q _ _
  exact congrArg (fun l : SMap Credit => ({ c with la := { c.la with credits := l, txWait := rest }
                                                   lalog := { c.lalog with msgTx := inc c.lalog.msgTx } } : Ch)) hput

/-- What waits first on the port goes with the credit that came back. -/
theorem Ch.creditReturn_sends {rest : List (Nat × Msg)} (hfew : (c.la.credit q).txAvail < 16) (hwait : c.la.txWait = (q, w) :: rest)
    (htrailer : w.typ ≠ tyTrailer) (harrive : w.typ ≠ tyArrive) (hwf : SMap.wf {} c.la.credits = true) :
    c.creditReturn e q =
      (((c.creditOf q ((c.la.credit q).txAvail + 1)).msgsLeft rest).sendNow e q w).drainPort e q 63 := by
  have hget : (c.creditOf q ((c.la.credit q).txAvail + 1)).la.credit q =
      { c.la.credit q with txAvail := (c.la.credit q).txAvail + 1 } := (SMap.get_put hwf q q _).trans (if_pos rfl)
  have hallows : ((c.creditOf q ((c.la.credit q).txAvail + 1)).la.credit q).allows w.typ = true := by
    rw [hget]
    unfold Credit.allows
    rw [if_neg (by simp [htrailer, harrive])]
    exact decide_eq_true (Nat.succ_pos _)
  rw [Ch.creditReturn_counts (by omega)]
  exact Ch.drainPort_first (c := c.creditOf q ((c.la.credit q).txAvail + 1)) hwait hallows 63

theorem Ch.creditReturn_asIs {rest : List (Nat × Msg)} (hfew : (c.la.credit q).txAvail < 16) (hwait : c.la.txWait = (q, w) :: rest)
    (htrailer : w.typ ≠ tyTrailer) (harrive : w.typ ≠ tyArrive) (hrest : ∀ y ∈ rest, y.1 ≠ q) (hwf : SMap.wf {} c.la.credits = true)
    (hout : c.out = []) (hreq : w.typ ≠ tyTimeReq) (hrsp : w.typ ≠ tyTimeRsp) : c.creditReturn e q =
      { (c.creditOf q (c.la.credit q).txAvail).msgsLeft rest with
        lalog := { c.lalog with msgTx := inc c.lalog.msgTx }, out := [.msg q w] } := by
  have hout' : ((c.creditOf q ((c.la.credit q).txAvail + 1)).msgsLeft rest).out = [] := hout
  refine (Ch.creditReturn_sends hfew hwait htrailer harrive hwf).trans ((Ch.drainPort_idle hrest 63).trans ?_)
  rw [Ch.sendNow_asIs hreq hrsp, Ch.creditOf_sentOn hwf, hout']
  rfl

theorem Ch.creditReturn_timeReq {rest : List (Nat × Msg)} (hfew : (c.la.credit q).txAvail < 16) (hwait : c.la.txWait = (q, w) :: rest)
    (htrailer : w.typ ≠ tyTrailer) (harrive : w.typ ≠ tyArrive) (hrest : ∀ y ∈ rest, y.1 ≠ q) (hwf : SMap.wf {} c.la.credits = true)
    (hout : c.out = []) (hreq : w.typ = tyTimeReq) : c.creditReturn e q =
      (let c1 := (c.creditOf q (c.la.credit q).txAvail).msgsLeft rest
       { c1 with la := { c1.la with reqT1 := some (c.accTimeAt e q) }, lalog := { c.lalog with msgTx := inc c.lalog.msgTx },
                 out := [.msg q { w with body := [word64 (c.accTimeAt e q)] }] }) := by
  have hout' : ((c.creditOf q ((c.la.credit q).txAvail + 1)).msgsLeft rest).out = [] := hout
  refine (Ch.creditReturn_sends hfew hwait htrailer harrive hwf).trans ((Ch.drainPort_idle hrest 63).trans ?_)
  rw [Ch.sendNow_timeReq hreq, Ch.creditOf_sentOn hwf, hout']
  rfl

/-- CREDIT_RETURN reaches the channel that owns the port. -/
theorem State.begin_credit (howner : s.portOwner q = some n) (hopen : s.quarantined (0x5000 + q) = false) :
    s.begin.credit q = s.begin.atChan n .none (fun e c => c.creditReturn e q) := by
  have howner' : s.begin.portOwner q = some n := howner
  have hopen' : s.begin.quarantined (0x5000 + q) = false := hopen
  unfold State.credit
  rw [howner']
  dsimp only
  rw [hopen', if_neg Bool.false_ne_true]

/-- An event that reaches one channel, which has nothing left to do after it. -/
theorem State.Ready.act_reaches {outs : List Output} {k : State → State} (h : s.Ready n) (hc : s.ch n = c) (he : s.seen n .none = e)
    (hk : k s.begin = s.begin.atChan n .none f) (hf : f e c = { d with out := outs }) (hd : d.Same c) :
    act s k = .next (s.moved n d outs) := by
  subst hc he
  obtain ⟨htodo, -, -, hhalt, -⟩ := hd.quiet
  refine (act_congr (g := fun s => s.atChan n .none f) hk).trans (act_event h f ?_ hd)
  rw [hf]
  exact Ch.settle_quiet htodo hhalt

/-! ### Remote trailers (R260, R261) -/

theorem State.begin_sendRemote {t : TrailerArg} (howner : s.packetOwner (trailerPacket t) = some n)
    (hopen : s.quarantined (0x5000 + q) = false) :
    s.begin.sendRemote t q = s.begin.atChan n .none (fun e c => c.sendTrailer e t q) := by
  have howner' : s.begin.packetOwner (trailerPacket t) = some n := howner
  have hopen' : s.begin.quarantined (0x5000 + q) = false := hopen
  unfold State.sendRemote
  rw [howner']
  dsimp only
  rw [hopen', if_neg Bool.false_ne_true]

theorem Ch.sendTrailer_refused {t : TrailerArg} (h : c.la.accord = 0 ∨ c.la.linkPorts.testBit q = false) :
    c.sendTrailer e t q = { c with lalog := { c.lalog with rtrRefused := inc c.lalog.rtrRefused } } := by
  unfold Ch.sendTrailer
  exact if_pos (h.imp id fun hbit => by unfold bit; rw [hbit]; rfl)

/-- TRAILER, as it leaves for the rank `r` at the port's other end. -/
def Ch.trailerMsg (t : TrailerArg) (r : Nat) (c : Ch) : Msg :=
  { typ := tyTrailer, accord := c.la.accord, src := c.la.rank, dst := r,
    body := [at_ 31 26 t.opcode.toNat + at_ 25 23 t.cls.toNat + at_ 22 0 t.index.toNat, t.operand.toNat, at_ 11 0 t.issuer.toNat] }

theorem Ch.sendTrailer_leaves {t : TrailerArg} {y : Edge} (haccord : c.la.accord ≠ 0) (hbit : c.la.linkPorts.testBit q = true)
    (hmay : c.MaySend q) (hy : c.la.edgeAt q = some y) (hout : c.out = []) :
    c.sendTrailer e t q = { c.sentOn q with out := [.msg q (c.trailerMsg t y.rank)] } := by
  unfold Ch.sendTrailer
  rw [if_neg (by unfold bit; simp [haccord, hbit]), hy, hmay.sendMsg (show tyTrailer ≠ tyTimeReq by decide)
    (show tyTrailer ≠ tyTimeRsp by decide), hout]
  rfl

/-! ### A command that reaches one channel, and every channel's ports -/

theorem State.settled_onPorts (h : s.settled = true) (hg : ∀ c, (g c).edge = c.edge) : (s.onPorts g).settled = true :=
  State.settled_of h rfl rfl rfl rfl rfl fun m => by rw [State.ch_onPorts, hg]

theorem State.emitted_onPorts (g : Ch → Ch) (s : State) : (s.onPorts g).emitted = s.emitted := rfl

theorem State.emitted_atChan (hsingle : (s.pair n).st = .single) (hd : (f (s.env n false .none) (s.ch n)).settle (s.env n false .none) = d) :
    (s.atChan n .none f).emitted = s.emitted ++ d.out := by
  rw [State.atChan_single hsingle, hd]
  unfold State.finish
  dsimp only
  split <;> simp

theorem State.settled_atChan (h : s.settled = true) (hn : n < 4) (hsingle : (s.pair n).st = .single)
    (hd : (f (s.env n false .none) (s.ch n)).settle (s.env n false .none) = d) (hedge : d.edge = (s.ch n).edge) :
    (s.atChan n .none f).settled = true := by
  rw [State.atChan_single hsingle, hd, State.settled_busyNow]
  exact State.settled_finish h hn hedge _

/-- The port is down, or up, as the link agent sees it. -/
def Ch.portDown (q : Nat) (c : Ch) : Ch := { c with la := { c.la with up := clrBit c.la.up q } }

theorem clrBit_clrBit (u q : Nat) : clrBit (clrBit u q) q = clrBit u q := by
  have hclear := testBit_clrBit u q
  generalize clrBit u q = v at hclear
  unfold clrBit
  rw [hclear, if_neg Bool.false_ne_true]

theorem Ch.portDown_portDown (q : Nat) (c : Ch) : (c.portDown q).portDown q = c.portDown q :=
  congrArg (fun u => ({ c with la := { c.la with up := u } } : Ch)) (clrBit_clrBit c.la.up q)

/-! ### LINK_LOST (R276, R325) -/

/-- What LINK_LOST does to the channel that owns the port. -/
def Ch.losesLink (e : Env) (q : Nat) (c : Ch) : Ch :=
  (if (c.startShadow 3 q []).live then (c.startShadow 3 q []).linkDown e q else c.startShadow 3 q []).wakeUp e.time

theorem State.begin_linkLost (howner : s.portOwner q = some n) : s.begin.linkLost q =
    ({ s.begin.atChan n .none (fun e c => c.losesLink e q) with
      links := clrBit (s.begin.atChan n .none (fun e c => c.losesLink e q)).links q } : State).onPorts (Ch.portDown q) := by
  have howner' : s.begin.portOwner q = some n := howner
  unfold State.linkLost
  rw [howner']
  rfl

theorem exec_linkLost_owned {p : BitVec 3} (hstill : s.Still) (h : s.Ready n) (howner : s.portOwner p.toNat = some n)
    (hc : s.ch n = c) (he : s.seen n .none = e) (hd : (c.losesLink e p.toNat).settle e = d) (hedge : d.edge = c.edge) :
    ∃ t : State, exec (.linkLost p) s = .next t ∧ t.emitted = d.out ∧ t.ch n = d.reported.portDown p.toNat ∧
      ∀ m < 4, m ≠ n → t.ch m = (s.ch m).portDown p.toNat := by
  subst hc he
  have hd' : ((s.begin.ch n).losesLink (s.begin.env n false .none) p.toNat).settle (s.begin.env n false .none) = d := by
    rw [State.ch_begin]
    exact hd
  have hsingle := hstill.begin_single n
  have hsettled : (s.begin.linkLost p.toNat).settled = true := by
    rw [State.begin_linkLost howner]
    refine State.settled_onPorts ?_ fun _ => rfl
    exact State.settled_atChan (f := fun e c => c.losesLink e p.toNat) (s := s.begin) h.settled h.chan hsingle hd'
      (by rw [State.ch_begin]; exact hedge)
  have hch : ∀ m < 4, (s.begin.linkLost p.toNat).setPll.ch m =
      (if m = n then d.reported else s.ch m).portDown p.toNat := fun m hm => by
    rw [State.ch_setPll, State.begin_linkLost howner, State.ch_onPorts]
    refine congrArg (Ch.portDown p.toNat) ((State.ch_atChan (f := fun e c => c.losesLink e p.toNat) hsingle h.chan m hm).trans ?_)
    rw [State.ch_begin]
    exact ite_congr rfl (fun _ => congrArg Ch.reported hd') fun _ => rfl
  refine ⟨(s.begin.linkLost p.toNat).setPll, ?_, ?_, ?_, fun m hm hne => ?_⟩
  · exact (act_on h.por _).trans (congrArg _ (State.afterwards_settled hsettled))
  · rw [State.setPll_emitted, State.begin_linkLost howner, State.emitted_onPorts]
    exact (State.emitted_atChan (f := fun e c => c.losesLink e p.toNat) hsingle hd').trans (List.nil_append _)
  · rw [hch n h.chan, if_pos rfl]
  · rw [hch m hm, if_neg hne]

/-- The shadow of a port's loss. -/
def Ch.portShadowed (q : Nat) (c : Ch) : Ch := { c with ctl := { c.ctl with shadows := c.ctl.shadows ++ [⟨3, q, [], none⟩] } }

/-- A port's shadow covers sources 0 and 1 of the link agent alone. -/
theorem Ch.Raises.portShadowed {src cls : Nat} {k : Cause} (h : c.Raises e .la src k cls) (hsrc : 1 < src) :
    (c.portShadowed q).Raises e .la src k cls := by
  obtain ⟨hshadow, hclass, henabled, hesc⟩ := h
  refine ⟨?_, hclass, henabled, hesc⟩
  have hname : Shadow.names ⟨3, q, [], none⟩ .la src k = false := by
    unfold Shadow.names
    simp [Nat.not_le.mpr hsrc]
  have hfind : (c.portShadowed q).ctl.shadows.find? (fun y => y.running e.time && y.names .la src k) =
      c.ctl.shadows.find? (fun y => y.running e.time && y.names .la src k) := by
    unfold Ch.portShadowed
    dsimp only
    rw [List.find?_append]
    simp [hname]
  unfold Ch.shadowed at hshadow ⊢
  rw [hfind]
  exact hshadow

theorem Ch.wakeUp_active (h : c.clk.st = .active) (time : Nat) : c.wakeUp time = c := by
  unfold Ch.wakeUp
  split
  · rfl
  · rw [h]

/-- Another control record. -/
def Ch.withCtl (ctl : ChCtl) (c : Ch) : Ch := { c with ctl := ctl }

/-- What a channel is once the shadow of the port runs. -/
theorem Ch.startShadow_port (q : Nat) (c : Ch) : ∃ ctl, c.startShadow 3 q [] = c.withCtl ctl ∧ ctl.st = c.ctl.st ∧
    ctl.resetQ = c.ctl.resetQ ∧ ∀ {e : Env} {k : Cause}, c.Raises e .la 4 k 2 → (c.withCtl ctl).Raises e .la 4 k 2 := by
  unfold Ch.startShadow
  split
  · exact ⟨c.ctl, rfl, rfl, rfl, id⟩
  · exact ⟨_, rfl, rfl, rfl, fun h => h.portShadowed (q := q) (by decide)⟩

theorem Ch.losesLink_live (hshadow : c.startShadow 3 q [] = d) (hrun : d.ctl.st = .run) : c.losesLink e q = (d.linkDown e q).wakeUp e.time := by
  unfold Ch.losesLink
  rw [hshadow, if_pos (by simp [Ch.live, hrun])]

theorem Ch.linkDown_noEdge (h : c.la.edgeAt q = none) : c.linkDown e q = c.portDown q := by
  have hnone : (c.portDown q).la.edgeAt q = none := h
  unfold Ch.linkDown
  exact if_pos (Option.isNone_iff_eq_none.mpr hnone)

theorem Ch.linkDown_formed {y : Edge} (h : c.la.edgeAt q = some y) (hst : c.la.st = .formed) :
    c.linkDown e q = (c.portDown q).breakAccord e ((c.portDown q).ownBreak reLinkLost q) := by
  have hsome : (c.portDown q).la.edgeAt q = some y := h
  have hedge : ((c.portDown q).la.edgeAt q).isNone = false := by rw [hsome]; rfl
  unfold Ch.linkDown
  refine (if_neg (Bool.not_eq_true _ ▸ hedge)).trans ?_
  dsimp only
  split
  · rfl
  · next hx => exact absurd (hst.symm.trans hx) (by decide)
  · next hx _ => exact absurd hst hx

/-- The loss of a port that no tree edge uses. -/
theorem Ch.Calm.losesLink_noEdge (hcalm : c.Calm) (hnone : c.la.edgeAt q = none)
    (hnew : ∀ y ∈ c.ctl.shadows, ¬(y.row = 3 ∧ y.key = q ∧ y.ends = none)) :
    c.losesLink e q = (c.portShadowed q).portDown q := by
  have hrun : (c.portShadowed q).ctl.st = .run := hcalm.run
  have hedge : (c.portShadowed q).la.edgeAt q = none := hnone
  have hactive : ((c.portShadowed q).portDown q).clk.st = .active := hcalm.awake
  rw [Ch.losesLink_live (Ch.startShadow_new [] hnew) hrun]
  exact (congrArg (fun d : Ch => d.wakeUp e.time) (Ch.linkDown_noEdge hedge)).trans (Ch.wakeUp_active hactive _)

/-- The loss of a port of a FORMED accord's tree. -/
theorem Ch.Calm.losesLink_breaks {y : Edge} (hcalm : c.Calm) (hy : c.la.edgeAt q = some y) (hst : c.la.st = .formed) (htree : c.GoodTree)
    (hlocals : c.img.locals = [])
    (hr : c.Raises e .la 4 { addr := at_ 63 32 (c.accState 0).gen.toNat, access := 6, key := q } 2) :
    ∃ ctl raised db, ctl.resetQ = c.ctl.resetQ ∧ ctl.st = c.ctl.st ∧
      (let x := (c.withCtl ctl).portDown q
       let b := x.ownBreak reLinkLost q
       c.losesLink e q = { x.brokenBy e b db with raised := raised, errPulse := true, out := x.breakMsgs b }) := by
  obtain ⟨ctl, hshadow, hctl, hreset, hraises⟩ := c.startShadow_port q
  have hx : ((c.withCtl ctl).portDown q).Breaks e (((c.withCtl ctl).portDown q).ownBreak reLinkLost q) c := by
    refine ⟨⟨hcalm.quiet, Ch.edge_eq hreset rfl hctl rfl⟩, hst, htree, hlocals, rfl, ?_⟩
    rw [Ch.breakCause_noObject rfl]
    exact (hraises hr).of_fields rfl rfl
  obtain ⟨raised, db, hbreak⟩ := hx.breakAccord
  refine ⟨ctl, raised, db, hreset, hctl, ?_⟩
  have hrun : (c.withCtl ctl).ctl.st = .run := hctl.trans hcalm.run
  have hy' : (c.withCtl ctl).la.edgeAt q = some y := hy
  have hst' : (c.withCtl ctl).la.st = .formed := hst
  have hdown := (Ch.linkDown_formed (e := e) hy' hst').trans hbreak
  refine (Ch.losesLink_live hshadow hrun).trans ((congrArg (fun d : Ch => d.wakeUp e.time) hdown).trans ?_)
  refine Ch.wakeUp_active ?_ _
  exact hcalm.awake

/-! ### LINK_UP (R325) -/

theorem Ch.endShadow_eq (time row key : Nat) (c : Ch) : c.endShadow time row key =
    { c with ctl := { c.ctl with shadows := c.ctl.shadows.map (fun y =>
      if y.row = row ∧ y.key = key ∧ y.ends = none then { y with ends := some (time + 5120) } else y) } } := by
  have hmap : ∀ y : Shadow, (if y.row = row && y.key = key && y.ends.isNone then { y with ends := some (time + 5120) } else y) =
      if y.row = row ∧ y.key = key ∧ y.ends = none then { y with ends := some (time + 5120) } else y := fun y => by
    simp only [Bool.and_eq_true, decide_eq_true_eq, Option.isNone_iff_eq_none, and_assoc]
  unfold Ch.endShadow
  simp only [hmap]

theorem exec_linkUp_owned {p : BitVec 3} (hstill : s.Still) (h : s.Ready n) (howner : s.portOwner p.toNat = some n) (hc : s.ch n = c) :
    ∃ t : State, exec (.linkUp p) s = .next t ∧ t.emitted = [] ∧ t.ch n = (c.linkIsUp p.toNat).endShadow s.time 3 p.toNat ∧
      ∀ m < 4, m ≠ n → t.ch m = (s.ch m).linkIsUp p.toNat := by
  subst hc
  let s1 := ({ s.begin with links := setBit s.begin.links p.toNat } : State).onPorts (Ch.linkIsUp p.toNat)
  have hch : ∀ m, s1.ch m = (s.ch m).linkIsUp p.toNat := fun m => by
    rw [← State.ch_begin (s := s) m]
    exact State.ch_onPorts ..
  have hquiet : ((s1.ch n).endShadow s.time 3 p.toNat).Quiet := by rw [hch]; exact h.calm.quiet
  have hend : ((s1.ch n).endShadow (s1.env n false .none).time 3 p.toNat).settle (s1.env n false .none) =
      (s1.ch n).endShadow s.time 3 p.toNat := Ch.settle_endShadow (by rw [hch]; exact h.calm.quiet) ..
  have howner' : s1.portOwner p.toNat = some n := howner
  have hsingle : (s1.pair n).st = .single := hstill.begin_single n
  have hup : s.begin.linkUp p.toNat = s1.atChan n .none (fun e c => c.endShadow e.time 3 p.toNat) := by
    unfold State.linkUp
    dsimp only
    rw [howner']
  have hs1 : s1.settled = true := State.settled_onPorts (s := { s.begin with links := setBit s.begin.links p.toNat }) h.settled fun _ => rfl
  have hsettled : (s.begin.linkUp p.toNat).settled = true := by
    rw [hup]
    exact State.settled_atChan (f := fun e c => c.endShadow e.time 3 p.toNat) hs1 h.chan hsingle hend (Ch.edge_eq rfl rfl rfl rfl)
  have hafter : ∀ m < 4, (s.begin.linkUp p.toNat).setPll.ch m =
      if m = n then ((s.ch n).linkIsUp p.toNat).endShadow s.time 3 p.toNat else (s.ch m).linkIsUp p.toNat := fun m hm => by
    rw [State.ch_setPll, hup]
    refine (State.ch_atChan (f := fun e c => c.endShadow e.time 3 p.toNat) hsingle h.chan m hm).trans ?_
    refine ite_congr rfl (fun _ => ?_) fun _ => hch m
    rw [← hch n, ← hquiet.reported]
    exact congrArg Ch.reported hend
  refine ⟨(s.begin.linkUp p.toNat).setPll, ?_, ?_, ?_, fun m hm hne => ?_⟩
  · exact (act_on h.por _).trans (congrArg _ (State.afterwards_settled hsettled))
  · rw [State.setPll_emitted, hup]
    refine (State.emitted_atChan (f := fun e c => c.endShadow e.time 3 p.toNat) hsingle hend).trans ?_
    rw [hquiet.2.1]
    rfl
  · rw [hafter n h.chan, if_pos rfl]
  · rw [hafter m hm, if_neg hne]

end

/-- Settles O43: LINK_LOST and LINK_UP by what they do to the owner's channel and to every link agent, the others by what the one
channel they reach does. -/
theorem linkEvents : Obligations.LinkEvents := by
  unfold Obligations.LinkEvents
  intro s n p t w rest hstill hs howner hopen hwf
  generalize hc : s.ch n.val = c at *
  have hcalm : c.Calm := hc ▸ hs.calm
  have hq : c.Quiet := hcalm.quiet
  obtain ⟨-, hout, -⟩ := hq
  generalize he : s.seen n.val .none = e at *
  dsimp only
  refine ⟨fun hnone hnew => ?_, fun hst htree hlocals d hd hr => ?_, ?_, fun hfull => ?_, fun hroom hidle => ?_,
    fun hfew hwait htrailer harrive hrest => ⟨fun hreq hrsp => ?_, fun hreq => ?_⟩, fun hissuer => ⟨fun hrefused => ?_,
    fun haccord hbit hmay d hd => ?_⟩⟩
  case refine_1 =>
    have hlost := hcalm.losesLink_noEdge (e := e) hnone hnew
    have hquiet : ((c.portShadowed p.toNat).portDown p.toNat).Quiet := hcalm.quiet
    obtain ⟨htodo, -, -, hhalt, -⟩ := hcalm.quiet
    obtain ⟨t, ht, hemitted, hown, hothers⟩ := exec_linkLost_owned (p := p) hstill hs howner hc he
      ((congrArg (fun d : Ch => d.settle e) hlost).trans (Ch.settle_quiet htodo hhalt)) (Ch.edge_eq rfl rfl rfl rfl)
    refine ⟨t, ht, ?_, hemitted.trans hout, hothers⟩
    rw [hown, hquiet.reported]
    exact Ch.portDown_portDown ..
  case refine_2 =>
    obtain ⟨ctl, raised, db, hreset, hctl, hlost⟩ := hcalm.losesLink_breaks hd hst htree hlocals hr
    obtain ⟨htodo, -, -, hhalt, -⟩ := hcalm.quiet
    obtain ⟨t, ht, hemitted, hown, -⟩ := exec_linkLost_owned (p := p) hstill hs howner hc he
      ((congrArg (fun d : Ch => d.settle e) hlost).trans (Ch.settle_quiet htodo hhalt)) (Ch.edge_eq hreset rfl hctl rfl)
    refine ⟨t, ht, ?_⟩
    rw [hown, hemitted]
    refine ⟨rfl, rfl, rfl, clrBit_clrBit .., ?_, ?_, rfl, rfl, rfl⟩
    · exact Ch.breakMsgs_all rfl
    · exact Ch.flt_brokenBy (db := db) rfl rfl rfl
  case refine_3 =>
    obtain ⟨t, ht, hemitted, hown, hothers⟩ := exec_linkUp_owned (p := p) hstill hs howner hc
    refine ⟨t, ht, hemitted, ?_, hothers⟩
    rw [hown, Ch.endShadow_eq]
    rfl
  case refine_4 =>
    exact hs.act_reaches hc he (State.begin_credit howner hopen) ((Ch.creditReturn_full hfull).trans (Ch.with_out_nil hout)) ⟨hcalm.quiet, rfl⟩
  case refine_5 =>
    exact hs.act_reaches hc he (State.begin_credit howner hopen) ((Ch.creditReturn_idle hroom hidle).trans (Ch.with_out_nil hout))
      (hcalm.quiet.same rfl)
  case refine_6 =>
    exact hs.act_reaches hc he (State.begin_credit howner hopen)
      (Ch.creditReturn_asIs hfew hwait htrailer harrive hrest hwf hout hreq hrsp) (hcalm.quiet.same rfl)
  case refine_7 =>
    exact hs.act_reaches hc he (State.begin_credit howner hopen)
      (Ch.creditReturn_timeReq hfew hwait htrailer harrive hrest hwf hout hreq) (hcalm.quiet.same rfl)
  case refine_8 =>
    exact hs.act_reaches hc he (State.begin_sendRemote hissuer hopen) ((Ch.sendTrailer_refused hrefused).trans (Ch.with_out_nil hout))
      (hcalm.quiet.same rfl)
  case refine_9 =>
    exact hs.act_reaches hc he (State.begin_sendRemote hissuer hopen) (Ch.sendTrailer_leaves haccord hbit hmay hd hout)
      (hcalm.quiet.same rfl)

end Sys2Proof.Machine
end

section

/-! ## The objects of a FORMED accord (R271 to R275) -/

namespace Sys2Proof.Machine
section
variable {s : State} {n k choice : Nat} {lean : Bool} {words ps : List Nat} {c d : Ch} {x u : Edge} {e : Env} {m : MsgIn} {a b : AccObj}
  {t : Todo}

/-! ### The state of an object -/

theorem Ch.accState_putAcc (hwf : SMap.wf {} c.la.objs = true) : (c.putAcc k a).accState k = a :=
  (SMap.get_put hwf k k a).trans (if_pos rfl)

theorem Ch.putAcc_putAcc (hwf : SMap.wf {} c.la.objs = true) : (c.putAcc k a).putAcc k b = c.putAcc k b :=
  congrArg (fun l => ({ c with la := { c.la with objs := l } } : Ch)) (SMap.put_put_wf hwf k a b)

/-- What was stored before the messages went is stored over. -/
theorem Ch.putAcc_sentAll_putAcc (hwf : SMap.wf {} c.la.objs = true) (ps : List Nat) :
    ((c.putAcc k a).sentAll ps).putAcc k b = (c.sentAll ps).putAcc k b :=
  congrArg (fun l => ({ c.sentAll ps with la := { (c.sentAll ps).la with objs := l } } : Ch)) (SMap.put_put_wf hwf k a b)

/-- The LA reads the state of an object without error. -/
theorem Ch.readAcc_clean (hforce : (c.fault .la).pendForce = none) (hsound : c.upsets = []) : c.readAcc e k = (c, false) := by
  have hnone : Ch.upsetIn .la 15 0 k 1 c = none := by unfold Ch.upsetIn; rw [hsound]; rfl
  have hread : c.readArray e.quiet .la 15 0 k 1 = (c, 0, k + e.quiet.freeVal 6 % 1, false) := by
    unfold Ch.readArray
    simp only [hforce, Option.isSome_none, Bool.false_and, Bool.false_eq_true, if_false, hnone]
    rfl
  unfold Ch.readAcc
  rw [hread]
  exact if_neg (show ¬0 = 2 by decide)

/-- Object `k` of a FORMED accord, which nothing of this chip is bound to, stands at `a`; its contributions carry no words. -/
structure Ch.Collects (c : Ch) (k : Nat) (a : AccObj) : Prop where
  formed : c.la.st = .formed
  tree   : c.GoodTree
  locals : c.img.locals = []
  bound  : (c.common k).testBit 63 = true
  plain  : c.accReduce k = false
  state  : c.accState k = a
  wf     : SMap.wf {} c.la.objs = true

theorem Ch.Collects.heard (h : c.Collects k a) : c.heard.Collects k a :=
  ⟨h.formed, h.tree, h.locals, h.bound, h.plain, h.state, h.wf⟩

theorem Ch.Collects.putAcc (h : c.Collects k a) : (c.putAcc k b).Collects k b :=
  ⟨h.formed, h.tree, h.locals, h.bound, h.plain, Ch.accState_putAcc h.wf, SMap.wf_put h.wf k b⟩

/-- What is left to do, and what has left, are no part of it. -/
theorem Ch.Collects.leaving (h : c.Collects k a) (todo : List Todo) (out : List Output) :
    ({ c with todo := todo, out := out } : Ch).Collects k a :=
  ⟨h.formed, h.tree, h.locals, h.bound, h.plain, h.state, h.wf⟩

/-! ### Contributions (R272) -/

/-- A child that has not arrived keeps the contribution back. -/
theorem Ch.contribute_waits (h : ∃ x ∈ c.la.edges, x.up = false ∧ x.port ∉ (c.accState k).children) : c.contribute e k = c := by
  obtain ⟨x, hx, hup, hmissing⟩ := h
  have hkids : (c.la.childEdges.map (·.port)).all (fun p => (c.accState k).children.contains p) = false :=
    List.all_eq_false.mpr ⟨x.port, List.mem_map.mpr ⟨x, List.mem_filter.mpr ⟨hx, by simp [hup]⟩, rfl⟩, by simpa using hmissing⟩
  unfold Ch.contribute
  dsimp only
  rw [hkids, Bool.and_false, Bool.false_and, Bool.not_false, if_pos rfl]

section
variable (h : c.Collects k a) (hall : ∀ x ∈ c.la.edges, x.up = false → x.port ∈ a.children) (hsent : a.sent = false)
include h hall hsent

/-- Every child has arrived. -/
theorem Ch.Collects.complete : (!(c.la.st = .formed && bit (c.common k) 63 && ((c.accState k).passed || (c.localObj k).isNone) &&
    (c.la.childEdges.map (·.port)).all (fun p => (c.accState k).children.contains p) && !(c.accState k).sent)) = false := by
  have hkids : (c.la.childEdges.map (·.port)).all (fun p => a.children.contains p) = true := by
    refine List.all_eq_true.mpr fun p hp => ?_
    obtain ⟨y, hy, rfl⟩ := List.mem_map.mp hp
    obtain ⟨hmem, hup⟩ := List.mem_filter.mp hy
    simpa using hall y hmem (by simpa using hup)
  rw [h.state, hkids, hsent, h.formed, Ch.localObj_none h.locals, show bit (c.common k) 63 = true from h.bound]
  simp

/-- The contribution goes up. -/
theorem Ch.Collects.contribute_up (hu : u ∈ c.la.edges) (hup : u.up = true) : c.contribute e k =
    { (c.putAcc k { a with sent := true }).sentOn u.port with
      out := c.out ++ [c.edgeMsg tyArrive k [accWord a.gen.toNat a.lean a.choice false] u] } := by
  have hmay : (c.putAcc k { a with sent := true }).MaySend u.port := by
    obtain ⟨-, -, hmay, -⟩ := h.tree
    exact hmay u hu
  unfold Ch.contribute
  dsimp only
  rw [h.complete hall hsent, if_neg Bool.false_ne_true, h.tree.parent hu hup, h.plain, if_neg Bool.false_ne_true, h.state]
  exact hmay.sendEdge (by decide) (by decide)

/-- The root releases the accord. -/
theorem Ch.Collects.contribute_root (hroot : ∀ x ∈ c.la.edges, x.up = false) (hne : c.la.childEdges ≠ []) : c.contribute e k =
    { (c.putAcc k { a with sent := true }).sentAll (c.la.childEdges.map (fun x => x.port)) with
      out := c.out ++ c.la.childEdges.map (c.edgeMsg tyRelease k [accWord a.gen.toNat a.lean a.choice false]),
      todo := c.todo ++ [.accRelease k a.lean a.choice []] } := by
  have htree : (c.putAcc k { a with sent := true }).GoodTree := h.tree
  have hsome : (c.la.childEdges.isEmpty && (c.localObj k).isNone) = false := by
    rw [List.isEmpty_eq_false_iff.mpr hne, Bool.false_and]
  have hsends := htree.sendEdges (e := e) (object := k) (body := [accWord a.gen.toNat a.lean a.choice false]) (ds := c.la.childEdges)
    List.filter_sublist (show tyRelease ≠ tyTimeReq by decide) (show tyRelease ≠ tyTimeRsp by decide)
  unfold Ch.contribute
  dsimp only
  rw [h.complete hall hsent, if_neg Bool.false_ne_true, Ch.parent_of_root hroot, h.plain]
  dsimp only
  rw [hsome, if_neg Bool.false_ne_true, Bool.not_false, if_pos rfl, h.state, hsends]
  rfl

end
/-! ### What an object leaves to do -/

/-- The local part of an object that is not bound here releases: the next generation is collected. -/
theorem Ch.accRelease_unbound (hlocals : c.img.locals = []) (hstate : c.accState k = a) : c.accRelease e k lean choice words =
    { c.putAcc k { gen := a.gen + 1 } with todo := c.todo ++ [.contribute k] } := by
  unfold Ch.accRelease
  rw [Ch.localObj_none hlocals, ← hstate]
  rfl

/-- The generation just begun waits for the children. -/
theorem Ch.contribute_next (hwf : SMap.wf {} c.la.objs = true) (hchild : ∃ x ∈ c.la.edges, x.up = false) {gen : BitVec 32} :
    (c.putAcc k { gen := gen }).contribute e k = c.putAcc k { gen := gen } := by
  obtain ⟨x, hx, hup⟩ := hchild
  refine Ch.contribute_waits ⟨x, hx, hup, ?_⟩
  rw [Ch.accState_putAcc hwf]
  exact List.not_mem_nil

theorem Ch.settle_contribute_waits (htodo : c.todo = [.contribute k]) (hhalt : c.haltReq = false)
    (hwait : ∃ x ∈ c.la.edges, x.up = false ∧ x.port ∉ (c.accState k).children) : c.settle e = { c with todo := [] } := by
  have hkeep : ({ c with todo := [] } : Ch).doTodo e (.contribute k) = { c with todo := [] } :=
    Ch.contribute_waits (c := { c with todo := [] }) hwait
  exact Ch.settle_one htodo hkeep rfl hhalt

/-- Three things to do, one after the other. -/
theorem Ch.settle_three {t1 t2 t3 : Todo} {c1 c2 : Ch} (h : c.todo = [t1]) (h1 : ({ c with todo := [] } : Ch).doTodo e t1 = c1)
    (ht1 : c1.todo = [t2]) (h2 : ({ c1 with todo := [] } : Ch).doTodo e t2 = c2) (ht2 : c2.todo = [t3])
    (h3 : ({ c2 with todo := [] } : Ch).doTodo e t3 = d) (hd : d.todo = []) (hhalt : d.haltReq = false) : c.settle e = d := by
  refine Ch.settle_of_drain ?_ hhalt
  rw [show drainFuel = 4093 + 1 + 1 + 1 from rfl, Ch.drain_step h, h1, Ch.drain_step ht1, h2, Ch.drain_step ht2, h3, Ch.drain_nil hd]

theorem Ch.settle_contribute_up (h : c.Collects k a) (htodo : c.todo = [.contribute k]) (hhalt : c.haltReq = false)
    (hall : ∀ x ∈ c.la.edges, x.up = false → x.port ∈ a.children) (hsent : a.sent = false) (hu : u ∈ c.la.edges) (hup : u.up = true) :
    c.settle e = { (c.putAcc k { a with sent := true }).sentOn u.port with
      out := c.out ++ [c.edgeMsg tyArrive k [accWord a.gen.toNat a.lean a.choice false] u], todo := [] } := by
  have hidle : ({ c with todo := [], out := c.out } : Ch).Collects k a := h.leaving [] c.out
  exact Ch.settle_one htodo (hidle.contribute_up hall hsent hu hup) rfl hhalt

/-- A contribution that releases the accord here ends the generation. -/
theorem Ch.settle_generation (htodo : c.todo = [.contribute k])
    (hrelease : ({ c with todo := [] } : Ch).contribute e k = { d with todo := [.accRelease k lean choice words] })
    (hidle : d.todo = []) (hhalt : d.haltReq = false) (hlocals : d.img.locals = []) (hstate : d.accState k = a)
    (hwf : SMap.wf {} d.la.objs = true) (hchild : ∃ x ∈ d.la.edges, x.up = false) :
    c.settle e = d.putAcc k { gen := a.gen + 1 } := by
  have heta : ({ d with todo := [] } : Ch) = d := by rw [← hidle]
  have hput : ({ d.putAcc k { gen := a.gen + 1 } with todo := [] } : Ch) = d.putAcc k { gen := a.gen + 1 } :=
    congrArg (fun l => ({ d.putAcc k { gen := a.gen + 1 } with todo := l } : Ch)) hidle.symm
  have hnext : ({ d with todo := [] } : Ch).doTodo e (.accRelease k lean choice words) =
      { d.putAcc k { gen := a.gen + 1 } with todo := [.contribute k] } := by
    rw [heta]
    refine (Ch.accRelease_unbound hlocals hstate).trans ?_
    rw [hidle]
    rfl
  have hwait : ({ d.putAcc k { gen := a.gen + 1 } with todo := [] } : Ch).doTodo e (.contribute k) = d.putAcc k { gen := a.gen + 1 } := by
    rw [hput]
    exact Ch.contribute_next hwf hchild
  exact Ch.settle_three htodo hrelease rfl hnext rfl hwait hidle hhalt

/-- The messages of a generation's end have gone from the root. -/
def Ch.released (k : Nat) (a : AccObj) (c : Ch) : Ch :=
  { (c.putAcc k { a with sent := true }).sentAll (c.la.childEdges.map (fun x => x.port)) with
    out := c.out ++ c.la.childEdges.map (c.edgeMsg tyRelease k [accWord a.gen.toNat a.lean a.choice false]), todo := [] }

/-- At the root a whole generation ends. -/
theorem Ch.settle_contribute_root (h : c.Collects k a) (htodo : c.todo = [.contribute k]) (hhalt : c.haltReq = false)
    (hall : ∀ x ∈ c.la.edges, x.up = false → x.port ∈ a.children) (hsent : a.sent = false) (hroot : ∀ x ∈ c.la.edges, x.up = false)
    (hx : x ∈ c.la.edges) :
    c.settle e = { (c.sentAll (c.la.childEdges.map (fun x => x.port))).putAcc k { gen := a.gen + 1 } with
      out := c.out ++ c.la.childEdges.map (c.edgeMsg tyRelease k [accWord a.gen.toNat a.lean a.choice false]), todo := [] } := by
  have hidle : ({ c with todo := [], out := c.out } : Ch).Collects k a := h.leaving [] c.out
  have hne : c.la.childEdges ≠ [] := List.ne_nil_of_mem (List.mem_filter.mpr ⟨hx, by simp [hroot x hx]⟩)
  have hstate : (c.released k a).accState k = { a with sent := true } := Ch.accState_putAcc h.wf
  have hwf : SMap.wf {} (c.released k a).la.objs = true := SMap.wf_put h.wf k { a with sent := true }
  have hlocals : (c.released k a).img.locals = [] := h.locals
  have hidleHalt : (c.released k a).haltReq = false := hhalt
  have hrelease : ({ c with todo := [] } : Ch).contribute e k = { c.released k a with todo := [.accRelease k a.lean a.choice []] } :=
    hidle.contribute_root hall hsent hroot hne
  refine (Ch.settle_generation htodo hrelease rfl hidleHalt hlocals hstate hwf ⟨x, hx, hroot x hx⟩).trans ?_
  exact congrArg (fun d : Ch => ({ d with
    out := c.out ++ c.la.childEdges.map (c.edgeMsg tyRelease k [accWord a.gen.toNat a.lean a.choice false]), todo := [] } : Ch))
    (Ch.putAcc_sentAll_putAcc (b := { gen := a.gen + 1 }) h.wf _)

/-- A RELEASE ends the generation. -/
theorem Ch.settle_accRelease (hlocals : c.img.locals = []) (hstate : c.accState k = a) (hwf : SMap.wf {} c.la.objs = true)
    (htodo : c.todo = [.accRelease k lean choice words]) (hhalt : c.haltReq = false) (hchild : ∃ x ∈ c.la.edges, x.up = false) :
    c.settle e = { c.putAcc k { gen := a.gen + 1 } with todo := [] } :=
  Ch.settle_two htodo (Ch.accRelease_unbound (c := { c with todo := [] }) hlocals hstate) rfl
    (Ch.contribute_next (c := { c with todo := [] }) hwf hchild) rfl hhalt

/-! ### ARRIVE (R272 to R274) -/

/-- The root is the chip whose edges all go to children. -/
theorem La.isRoot_eq (l : La) : l.isRoot = decide (l.childEdges.length = l.edges.length) := by
  unfold La.isRoot La.parent La.childEdges
  rw [Bool.eq_iff_iff, decide_eq_true_iff, List.length_filter_eq_length_iff, Option.isNone_iff_eq_none, List.find?_eq_none]
  simp

theorem La.isRoot_iff (l : La) : l.isRoot = true ↔ l.childEdges.length = l.edges.length := by
  rw [La.isRoot_eq, decide_eq_true_iff]

theorem La.all_children (l : La) (h : l.childEdges.length = l.edges.length) : ∀ x ∈ l.edges, x.up = false := by
  unfold La.childEdges at h
  simpa using List.length_filter_eq_length_iff.mp h

/-- The object once another child has arrived. -/
def Ch.joined (e : Env) (m : MsgIn) (a : AccObj) (c : Ch) : AccObj :=
  { a with
    children := a.children ++ [m.port.toNat], lean := a.lean || (bodyWord m 1).testBit 31,
    choice := max a.choice (fld (bodyWord m 1) 30 29),
    timer := if c.la.childEdges.length = c.la.edges.length ∧ a.timer = none then some e.stamp else a.timer }

/-- The root's timer starts with what first arrives (R274). -/
theorem Ch.startAccTimer_putAcc (hwf : SMap.wf {} c.la.objs = true) : (c.putAcc k a).startAccTimer e k = c.putAcc k
    { a with timer := if c.la.childEdges.length = c.la.edges.length ∧ a.timer = none then some e.stamp else a.timer } := by
  have hroot : (c.putAcc k a).la.isRoot = c.la.isRoot := rfl
  unfold Ch.startAccTimer
  dsimp only
  rw [Ch.accState_putAcc hwf, hroot]
  by_cases hstarts : c.la.childEdges.length = c.la.edges.length ∧ a.timer = none
  · obtain ⟨hall, hnone⟩ := hstarts
    rw [if_pos (by rw [(La.isRoot_iff _).mpr hall, hnone]; rfl), if_pos ⟨hall, hnone⟩]
    exact Ch.putAcc_putAcc hwf
  · have hkeep : ¬(c.la.isRoot && a.timer.isNone) = true := by
      rw [Bool.and_eq_true, La.isRoot_iff, Option.isNone_iff_eq_none]
      exact hstarts
    rw [if_neg hkeep, if_neg hstarts]

section
variable (h : c.Collects m.object.toNat a) (hforce : (c.fault .la).pendForce = none) (hsound : c.upsets = [])
include h hforce hsound

/-- ARRIVE of a child that has not arrived yet, for the generation that the object collects. -/
theorem Ch.Collects.onArrive (hedge : c.la.edgeAt m.port.toNat = some u) (hup : u.up = false)
    (hgen : fld (bodyWord m 1) 63 32 = a.gen.toNat) (hnew : m.port.toNat ∉ a.children) :
    c.onArrive e m = { c.putAcc m.object.toNat (c.joined e m a) with todo := c.todo ++ [.contribute m.object.toNat] } := by
  have hgood : (!(c.la.edgeAt m.port.toNat).any (fun d => !d.up) || !bit (c.common m.object.toNat) 63 ||
      decide (fld (bodyWord m 1) 63 32 ≠ a.gen.toNat) || a.children.contains m.port.toNat) = false := by
    rw [hedge, Option.any_some, hup, show bit (c.common m.object.toNat) 63 = true from h.bound]
    simp [hgen, hnew]
  unfold Ch.onArrive
  dsimp only
  rw [Ch.readAcc_clean hforce hsound]
  dsimp only
  rw [h.formed]
  dsimp only
  rw [h.state, hgood, if_neg Bool.false_ne_true, h.plain, if_neg Bool.false_ne_true, Ch.startAccTimer_putAcc h.wf]
  rfl

/-- What an ARRIVE for another generation breaks the accord with (R273). -/
def Ch.arriveBreak (m : MsgIn) (expected : Nat) (c : Ch) : BreakInfo :=
  { c.ownBreak reGeneration m.port.toNat with
    object := m.object.toNat, typ := tyArrive, received := fld (bodyWord m 1) 63 32, expected := expected }

theorem Ch.Collects.onArrive_otherGen (hgen : fld (bodyWord m 1) 63 32 ≠ a.gen.toNat) :
    c.onArrive e m = c.breakAccord e (c.arriveBreak m a.gen.toNat) := by
  unfold Ch.onArrive
  dsimp only
  rw [Ch.readAcc_clean hforce hsound]
  dsimp only
  rw [h.formed]
  dsimp only
  rw [h.state, if_pos (by simp [hgen])]
  rfl

/-- RELEASE from the parent, of the generation collected, but for a timeout's (R272 step 5). -/
theorem Ch.Collects.onRelease (hu : u ∈ c.la.edges) (hup : u.up = true) (hport : u.port = m.port.toNat)
    (hgen : fld (bodyWord m 1) 63 32 = a.gen.toNat) (htmo : (bodyWord m 1).testBit 28 = false) : c.onRelease e m =
      { c.sentAll (c.la.childEdges.map (fun x => x.port)) with
        out := c.out ++ c.la.childEdges.map (c.edgeMsg tyRelease m.object.toNat (m.body.map (fun w => w.toNat))),
        todo := c.todo ++ [.accRelease m.object.toNat (bit (bodyWord m 1) 31) (fld (bodyWord m 1) 30 29)
          ((m.body.map (fun w => w.toNat)).drop 1)] } := by
  have hnone : c.localObj m.object.toNat = none := Ch.localObj_none h.locals _
  have hchoice : c.badChoice m.object.toNat (fld (bodyWord m 1) 30 29) = false := by
    unfold Ch.badChoice
    rw [hnone]
    rfl
  have hgood : (!decide (c.la.parent.map (fun x => x.port) = some m.port.toNat) || !bit (c.common m.object.toNat) 63 ||
      decide (fld (bodyWord m 1) 63 32 ≠ a.gen.toNat) ||
      (!bit (bodyWord m 1) 28 && (c.localObj m.object.toNat).isSome && !a.localDone)) = false := by
    rw [h.tree.parent hu hup, Option.map_some, hport, hnone, show bit (c.common m.object.toNat) 63 = true from h.bound]
    simp [hgen]
  have hsent := h.tree.sendEdges (e := e) (object := m.object.toNat) (body := m.body.map (fun w => w.toNat)) (ds := c.la.childEdges)
    List.filter_sublist (show tyRelease ≠ tyTimeReq by decide) (show tyRelease ≠ tyTimeRsp by decide)
  have hnotmo : bit (bodyWord m 1) 28 = false := htmo
  unfold Ch.onRelease
  dsimp only
  rw [Ch.readAcc_clean hforce hsound]
  dsimp only
  rw [h.formed]
  dsimp only
  rw [h.state, hgood, if_neg Bool.false_ne_true, hchoice, if_neg Bool.false_ne_true, hnotmo, if_neg Bool.false_ne_true, hsent]
  rfl

end
end
end Sys2Proof.Machine
end

section

/-! ## An object's timeout, and the breaks over objects (R273, R274, R277) -/

namespace Sys2Proof.Machine
section
variable {s : State} {n k missing : Nat} {c d : Ch} {u : Edge} {e : Env} {m : MsgIn} {a : AccObj} {db : Db} {f : Env → Ch → Ch}
  {outs : List Output} {raised : List RaisedNow}

/-! ### ACCORD_TIMEOUT at the root (R274) -/

/-- What LA_TIMEOUT is raised with. -/
def AccObj.timeoutCause (k : Nat) (a : AccObj) : Cause := { addr := at_ 63 32 a.gen.toNat + at_ 7 0 k, access := 5 }

/-- The timeout is counted, in the fault set and in the blotter. -/
def Ch.timedOut (e : Env) (k : Nat) (a : AccObj) (db : Db) (c : Ch) : Ch :=
  { c with lalog := { c.lalog with accTimeouts := inc c.lalog.accTimeouts }, flt := (c.faulted e .la 3 (a.timeoutCause k)).flt, db := db }

theorem Ch.raise_timeout (hraised : c.raised = []) (hhalt : c.haltReq = false) (hr : c.Raises e .la 3 (a.timeoutCause k) 2)
    (detail : Nat) : ∃ raised db,
    (({ c with lalog := { c.lalog with accTimeouts := inc c.lalog.accTimeouts } } : Ch).raise e .la 3 (a.timeoutCause k)).blotTrigger
      e 5 detail = { c.timedOut e k a db with raised := raised, errPulse := true } := by
  obtain ⟨raised, hraise⟩ := Ch.raise_first (c := { c with lalog := { c.lalog with accTimeouts := inc c.lalog.accTimeouts } })
    hraised hhalt (hr.of_fields rfl rfl) rfl
  obtain ⟨db, hblot⟩ := Ch.blotTrigger_db e 5 detail
    (({ c with lalog := { c.lalog with accTimeouts := inc c.lalog.accTimeouts } } : Ch).raise e .la 3 (a.timeoutCause k))
  refine ⟨raised, db, hblot.trans ?_⟩
  rw [hraise]
  rfl

/-- The timer of the object has run out. -/
structure Ch.Expires (e : Env) (k : Nat) (a : AccObj) (c : Ch) : Prop where
  root    : c.la.childEdges.length = c.la.edges.length
  running : a.expired = false
  due     : ∃ t0, a.timer = some t0 ∧ t0 + 1000 * fld (c.common k) 59 40 ≤ e.time
  limited : fld (c.common k) 59 40 ≠ 0

/-- LA_TMO_INFO is latched (R274); `missing` are the children that had not arrived. -/
def Ch.tmoLatched (k : Nat) (a : AccObj) (missing : Nat) (c : Ch) : Ch :=
  { c with lalog := { c.lalog with tmoGen := a.gen.toNat, tmoObject := k, tmoLocal := false, tmoChildren := missing } }

theorem Ch.accTmo_unbound (hlocals : c.img.locals = []) (hstate : c.accState k = a) :
    ∃ missing, c.accTmo e k = (c.tmoLatched k a missing).putAcc k { gen := a.gen + 1 } := by
  have hnone : c.localObj k = none := Ch.localObj_none hlocals k
  have hlatch : c.accTmo e k = c.latchTmo k := by
    unfold Ch.accTmo
    rw [hnone]
  refine ⟨(c.latchTmo k).lalog.tmoChildren, hlatch.trans ?_⟩
  unfold Ch.latchTmo
  rw [hnone, ← hstate]
  rfl

/-- What follows at the root once the timeout is in the fault set and the blotter: HOLD, or a release with TMO. -/
def Ch.afterTimeout (e : Env) (k : Nat) (a : AccObj) (hold : Bool) (c : Ch) : Ch :=
  if hold then c.putAcc k { a with expired := true }
  else
    let d := (c.sendEdges e c.la.childEdges tyRelease k [accWord a.gen.toNat false 0 true]).accTmo e k
    { d with todo := d.todo ++ [Todo.contribute k] }

/-- RELEASE with TMO goes to every child, and the next generation waits for them. -/
theorem Ch.settle_afterTimeout (htree : c.GoodTree) (hlocals : c.img.locals = []) (hstate : c.accState k = a)
    (hwf : SMap.wf {} c.la.objs = true) (htodo : c.todo = []) (hhalt : c.haltReq = false) (hchild : ∃ x ∈ c.la.edges, x.up = false) :
    ∃ missing, (c.afterTimeout e k a false).settle e =
      { ((c.sentAll (c.la.childEdges.map (fun x => x.port))).tmoLatched k a missing).putAcc k { gen := a.gen + 1 } with
        out := c.out ++ c.la.childEdges.map (c.edgeMsg tyRelease k [accWord a.gen.toNat false 0 true]), todo := [] } := by
  have hsent := htree.sendEdges (e := e) (object := k) (body := [accWord a.gen.toNat false 0 true]) (ds := c.la.childEdges)
    List.filter_sublist (show tyRelease ≠ tyTimeReq by decide) (show tyRelease ≠ tyTimeRsp by decide)
  obtain ⟨missing, htmo⟩ := Ch.accTmo_unbound (e := e) (k := k) (a := a)
    (c := { c.sentAll (c.la.childEdges.map (fun x => x.port)) with
      out := c.out ++ c.la.childEdges.map (c.edgeMsg tyRelease k [accWord a.gen.toNat false 0 true]) }) hlocals hstate
  refine ⟨missing, ?_⟩
  unfold Ch.afterTimeout
  rw [if_neg Bool.false_ne_true, hsent, htmo]
  refine (Ch.settle_contribute_waits (k := k) ?_ ?_ ?_).trans rfl
  · exact congrArg (· ++ [Todo.contribute k]) htodo
  · exact hhalt
  · obtain ⟨x, hx, hup⟩ := hchild
    refine ⟨x, hx, hup, ?_⟩
    dsimp only [Ch.accState, Ch.putAcc, Ch.tmoLatched, Ch.sentAll]
    rw [SMap.get_put hwf, if_pos rfl]
    exact List.not_mem_nil

/-- The root after a timeout that released the accord. -/
def Ch.tmoReleased (e : Env) (k : Nat) (a : AccObj) (db : Db) (missing : Nat) (c : Ch) : Ch :=
  let d := (c.sentAll (c.la.childEdges.map (fun x => x.port))).putAcc k { gen := a.gen + 1 }
  { c with la := d.la,
           lalog := { d.lalog with accTimeouts := inc c.lalog.accTimeouts, tmoGen := a.gen.toNat, tmoObject := k, tmoLocal := false,
                                   tmoChildren := missing },
           flt := (c.faulted e .la 3 (a.timeoutCause k)).flt, db := db }

/-- It is counted, captured and latched, and what is no part of the link agent's stays. -/
theorem Ch.tmoReleased_fields (e : Env) (k : Nat) (a : AccObj) (db : Db) (missing : Nat) (c : Ch) :
    let d := c.tmoReleased e k a db missing
    d.lalog.accTimeouts = inc c.lalog.accTimeouts ∧ d.flt = (c.faulted e .la 3 (a.timeoutCause k)).flt ∧ d.os = c.os ∧ d.bw = c.bw ∧
      d.hw = c.hw ∧ d.ps = c.ps ∧ d.lalog.tmoGen = a.gen.toNat ∧ d.lalog.tmoObject = k ∧ d.lalog.tmoLocal = false :=
  ⟨rfl, rfl, rfl, rfl, rfl, rfl, rfl, rfl, rfl⟩

theorem Ch.accState_tmoReleased (hwf : SMap.wf {} c.la.objs = true) :
    (c.tmoReleased e k a db missing).accState k = { gen := a.gen + 1 } := Ch.accState_putAcc hwf

section
variable (h : c.Collects k a) (hforce : (c.fault .la).pendForce = none) (hsound : c.upsets = []) (hq : c.Quiet) (hx : c.Expires e k a)
  (hr : c.Raises e .la 3 (a.timeoutCause k) 2)
include h hforce hsound hq hx hr

theorem Ch.Collects.accordTimeout_due : ∃ raised db, c.accordTimeout e k =
    ({ c.timedOut e k a db with raised := raised, errPulse := true } : Ch).afterTimeout e k a (bit (c.common k) 60) := by
  obtain ⟨hroot, hrunning, ⟨t0, htimer, hdue⟩, hlimited⟩ := hx
  obtain ⟨-, -, hraised, hhalt, -⟩ := hq
  obtain ⟨raised, db, hraise⟩ := Ch.raise_timeout hraised hhalt hr (at_ 63 32 a.gen.toNat + k)
  refine ⟨raised, db, ?_⟩
  have hgood : (decide (c.la.st = .formed) && c.la.isRoot && !a.expired &&
      (decide (fld (c.common k) 59 40 ≠ 0) && decide (t0 + 1000 * fld (c.common k) 59 40 ≤ e.time))) = true := by
    rw [h.formed, (La.isRoot_iff _).mpr hroot, hrunning, decide_eq_true hlimited, decide_eq_true hdue]
    rfl
  unfold Ch.accordTimeout
  dsimp only
  rw [Ch.readAcc_clean hforce hsound]
  dsimp only
  rw [h.state, htimer]
  dsimp only
  rw [hgood, if_pos rfl]
  rw [← hraise]
  unfold Ch.afterTimeout
  dsimp only
  rw [htimer]
  rfl

/-- HOLD: the object stays, expired. -/
theorem Ch.Collects.accordTimeout_holds (hhold : bit (c.common k) 60 = true) : ∃ raised db, c.accordTimeout e k =
    { (c.timedOut e k a db).putAcc k { a with expired := true } with raised := raised, errPulse := true, out := [] } := by
  obtain ⟨raised, db, hdue⟩ := h.accordTimeout_due hforce hsound hq hx hr
  obtain ⟨-, hout, -⟩ := hq
  refine ⟨raised, db, hdue.trans ?_⟩
  rw [hhold]
  exact Ch.with_out_nil (c := { (c.timedOut e k a db).putAcc k { a with expired := true } with raised := raised, errPulse := true }) hout

/-- RELEASE with TMO goes to every child, and the next generation is collected. -/
theorem Ch.Collects.accordTimeout_releases (hrelease : bit (c.common k) 60 = false) (hu : u ∈ c.la.edges) :
    ∃ raised db missing, (c.accordTimeout e k).settle e =
      { c.tmoReleased e k a db missing with
        raised := raised, errPulse := true,
        out := c.la.childEdges.map (c.edgeMsg tyRelease k [accWord a.gen.toNat false 0 true]) } := by
  obtain ⟨raised, db, hdue⟩ := h.accordTimeout_due hforce hsound hq hx hr
  obtain ⟨htodo, hout, -, hhalt, -⟩ := hq
  have hchild : ∃ x ∈ c.la.edges, x.up = false := ⟨u, hu, c.la.all_children hx.root u hu⟩
  obtain ⟨missing, hsettle⟩ := Ch.settle_afterTimeout (e := e) (k := k) (a := a)
    (c := { c.timedOut e k a db with raised := raised, errPulse := true }) h.tree h.locals h.state h.wf htodo hhalt hchild
  refine ⟨raised, db, missing, ?_⟩
  rw [hdue, hrelease, hsettle, show ({ c.timedOut e k a db with raised := raised, errPulse := true } : Ch).out = [] from hout, ← htodo]
  dsimp only [Ch.tmoReleased, Ch.timedOut, Ch.tmoLatched, Ch.sentAll, Ch.putAcc]
  rfl

end
/-- A timer of a live channel that raises a fault at U and leaves work to do. -/
theorem State.Ready.act_timer_settles (h : s.Ready n) (hc : s.ch n = c) (he : s.seen n .none = e) (f : Env → Ch → Ch)
    (hf : (f e c).settle e = { d with raised := raised, errPulse := true, out := outs }) (hd : d.Same c) :
    actLive s n .none f = .next (s.movedWithError n d outs) := by
  subst hc he
  exact actLive_event_error h f hf hd

/-! ### ARRIVE and RELEASE, taken and settled (R258, R272) -/

theorem Ch.with_out_todo_nil (h : c.todo = []) (outs : List Output) : ({ c with out := outs, todo := [] } : Ch) = { c with out := outs } := by
  rw [← h]

section
variable (hcalm : c.Calm) (h : c.Collects m.object.toNat a) (hedge : c.la.edgeAt m.port.toNat = some u) (hup : u.up = false)
  (hgen : fld (bodyWord m 1) 63 32 = a.gen.toNat) (hnew : m.port.toNat ∉ a.children)
include hcalm h hedge hup hgen hnew

theorem Ch.Collects.takes_arrive : c.takes e tyArrive m = { c.heard.putAcc m.object.toNat (c.joined e m a) with
    todo := [.contribute m.object.toNat], out := [.creditBack m.port.toNat] } := by
  obtain ⟨htodo, hout, -⟩ := hcalm.quiet
  have harrive : c.heard.onMessage e (e.linkTime m.port.toNat) tyArrive m =
      { c.heard.putAcc m.object.toNat (c.joined e m a) with todo := c.todo ++ [.contribute m.object.toNat] } :=
    h.heard.onArrive (hcalm.unforced .la) hcalm.sound hedge hup hgen hnew
  unfold Ch.takes Ch.emit
  rw [harrive, htodo]
  dsimp only
  rw [show (c.heard.putAcc m.object.toNat (c.joined e m a)).out = [] from hout]
  rfl

/-- Another child has not arrived yet. -/
theorem Ch.Collects.arrive_waits (hwait : ∃ x ∈ c.la.edges, x.up = false ∧ x.port ≠ m.port.toNat ∧ x.port ∉ a.children) :
    (c.takes e tyArrive m).settle e = { c.heard.putAcc m.object.toNat (c.joined e m a) with out := [.creditBack m.port.toNat] } := by
  obtain ⟨htodo, -, -, hhalt, -⟩ := hcalm.quiet
  obtain ⟨x, hx, hxup, hother, hmissing⟩ := hwait
  rw [h.takes_arrive hcalm hedge hup hgen hnew]
  refine Eq.trans (Ch.settle_contribute_waits (k := m.object.toNat) rfl ?_ ⟨x, hx, hxup, ?_⟩)
    (Ch.with_out_todo_nil (c := c.heard.putAcc m.object.toNat (c.joined e m a)) htodo _)
  · exact hhalt
  change x.port ∉ ((c.heard.putAcc m.object.toNat (c.joined e m a)).accState m.object.toNat).children
  rw [Ch.accState_putAcc h.heard.wf]
  exact fun hmem => (List.mem_append.mp hmem).elim hmissing fun hlast => hother (List.mem_singleton.mp hlast)

section
variable (hall : ∀ x ∈ c.la.edges, x.up = false → x.port = m.port.toNat ∨ x.port ∈ a.children) (hsent : a.sent = false)
include hall hsent

omit hcalm h hedge hup hgen hnew hsent in
theorem Ch.joined_all : ∀ x ∈ c.la.edges, x.up = false → x.port ∈ (c.joined e m a).children := fun x hx hxup =>
  List.mem_append.mpr ((hall x hx hxup).elim (fun hport => .inr (List.mem_singleton.mpr hport)) .inl)

/-- The last child's arrival sends the contribution up. -/
theorem Ch.Collects.arrive_up {v : Edge} (hv : v ∈ c.la.edges) (hvup : v.up = true) : (c.takes e tyArrive m).settle e =
    { (c.heard.putAcc m.object.toNat { c.joined e m a with sent := true }).sentOn v.port with
      out := [.creditBack m.port.toNat,
        c.edgeMsg tyArrive m.object.toNat [accWord a.gen.toNat (c.joined e m a).lean (c.joined e m a).choice false] v] } := by
  obtain ⟨htodo, -, -, hhalt, -⟩ := hcalm.quiet
  have htaken := (h.heard.putAcc (b := c.joined e m a)).leaving [.contribute m.object.toNat] [.creditBack m.port.toNat]
  rw [h.takes_arrive hcalm hedge hup hgen hnew]
  refine (Ch.settle_contribute_up htaken rfl hhalt (Ch.joined_all hall) hsent hv hvup).trans ?_
  dsimp only [Ch.putAcc, Ch.sentOn]
  rw [SMap.put_put_wf h.heard.wf, ← htodo]
  rfl

/-- The last child's arrival at the root ends the generation. -/
theorem Ch.Collects.arrive_root (hroot : c.la.childEdges.length = c.la.edges.length) (hu : u ∈ c.la.edges) :
    (c.takes e tyArrive m).settle e =
    { (c.heard.sentAll (c.la.childEdges.map (fun x => x.port))).putAcc m.object.toNat { gen := a.gen + 1 } with
      out := .creditBack m.port.toNat :: c.la.childEdges.map
        (c.edgeMsg tyRelease m.object.toNat [accWord a.gen.toNat (c.joined e m a).lean (c.joined e m a).choice false]) } := by
  obtain ⟨htodo, -, -, hhalt, -⟩ := hcalm.quiet
  have htaken := (h.heard.putAcc (b := c.joined e m a)).leaving [.contribute m.object.toNat] [.creditBack m.port.toNat]
  rw [h.takes_arrive hcalm hedge hup hgen hnew]
  refine (Ch.settle_contribute_root htaken rfl hhalt (Ch.joined_all hall) hsent (c.la.all_children hroot) hu).trans ?_
  dsimp only [Ch.putAcc, Ch.sentAll]
  rw [SMap.put_put_wf h.heard.wf, ← htodo]
  rfl

end
end

/-- RELEASE of the parent goes on to the children, and ends the generation. -/
theorem Ch.Collects.release (hcalm : c.Calm) (h : c.Collects m.object.toNat a) (hu : u ∈ c.la.edges) (hup : u.up = true)
    (hport : u.port = m.port.toNat) (hgen : fld (bodyWord m 1) 63 32 = a.gen.toNat) (htmo : (bodyWord m 1).testBit 28 = false)
    (hchild : ∃ x ∈ c.la.edges, x.up = false) : (c.takes e tyRelease m).settle e =
      { (c.heard.sentAll (c.la.childEdges.map (fun x => x.port))).putAcc m.object.toNat { gen := a.gen + 1 } with
        out := c.la.childEdges.map (c.edgeMsg tyRelease m.object.toNat (m.body.map (fun w => w.toNat))) ++
          [.creditBack m.port.toNat] } := by
  obtain ⟨htodo, hout, -, hhalt, -⟩ := hcalm.quiet
  have heffect := h.heard.onRelease (e := e) (hcalm.unforced .la) hcalm.sound hu hup hport hgen htmo
  have htakes : c.takes e tyRelease m = { c.heard.sentAll (c.la.childEdges.map (fun x => x.port)) with
      out := c.la.childEdges.map (c.edgeMsg tyRelease m.object.toNat (m.body.map (fun w => w.toNat))) ++ [.creditBack m.port.toNat],
      todo := [.accRelease m.object.toNat (bit (bodyWord m 1) 31) (fld (bodyWord m 1) 30 29)
        ((m.body.map (fun w => w.toNat)).drop 1)] } := by
    rw [show c.heard.out = [] from hout, show c.heard.todo = [] from htodo] at heffect
    exact congrArg (fun d : Ch => d.emit (.creditBack m.port.toNat)) heffect
  rw [htakes]
  refine (Ch.settle_accRelease (a := a) ?_ ?_ ?_ rfl ?_ ?_).trans ?_
  · exact h.locals
  · exact h.state
  · exact h.wf
  · exact hhalt
  · exact hchild
  exact Ch.with_out_todo_nil (c := (c.heard.sentAll (c.la.childEdges.map (fun x => x.port))).putAcc m.object.toNat { gen := a.gen + 1 }) htodo _

/-! ### Breaks (R273, R276, R277) -/

/-- What a received BREAK breaks the accord with. -/
def breakHeard (m : MsgIn) : BreakInfo :=
  { reason := reBreakReceived, rank := fld (bodyWord m 1) 13 8, port := m.port.toNat, sent := fld (bodyWord m 1) 7 0,
    origin := fld (bodyWord m 1) 13 8, notPort := some m.port.toNat, typ := tyBreak }

/-- BREAK goes on by the other edges. -/
theorem Ch.breakMsgs_others {b : BreakInfo} {p : Nat} (h : b.notPort = some p) : c.breakMsgs b =
    ((c.la.edges.filter (fun x => x.port ≠ p)).filter (fun x => c.la.linkPorts.testBit x.port)).map
      (c.edgeMsg tyBreak 0 [at_ 7 0 b.sent + at_ 13 8 b.origin]) := by
  have hedges : c.breakEdges b = (c.la.edges.filter (fun x => x.port ≠ p)).filter (fun x => c.la.linkPorts.testBit x.port) := by
    unfold Ch.breakEdges
    rw [h, List.filter_filter]
    refine List.filter_congr fun x _ => ?_
    simp [bit, Bool.and_comm]
  unfold Ch.breakMsgs
  rw [hedges]

end

/-- Settles O40: what an object's channel takes and settles to, and for the breaks what a break of a FORMED accord does. -/
theorem accordObjects : Obligations.AccordObjects := by
  unfold Obligations.AccordObjects
  intro s n m d a k hs hst htree hlocals hd hport hbound hplain hobject hstate hwf
  subst hobject
  generalize hc : s.ch n.val = c at *
  have hcalm : c.Calm := hc ▸ hs.calm
  have hq : c.Quiet := hcalm.quiet
  have hcol : c.Collects m.object.toNat a := ⟨hst, htree, hlocals, hbound, hplain, hstate, hwf⟩
  have hedge : c.la.edgeAt m.port.toNat = some d := hport ▸ htree.edgeAt hd
  have htime : (s.seen n.val .none).time = s.time := rfl
  generalize he : s.seen n.val .none = e at *
  dsimp only
  rw [← htime, Ch.foldl_sentOn]
  refine ⟨fun ⟨hh, hup, hgen, hnew⟩ hwait => ?_, fun ⟨hh, hup, hgen, hnew⟩ hall hsent u hu huup => ?_,
    fun ⟨hh, hup, hgen, hnew⟩ hall hsent hroot => ?_, fun hh hup hgen hr => ?_, fun hh hup hgen htmo hkids => ?_,
    fun hroot hrunning hdue hlimited hfew hr => ?_, fun hh hr => ?_⟩
  case refine_1 =>
    obtain ⟨x, hx, hother, hmissing⟩ := hwait
    obtain ⟨hmem, hxup⟩ := List.mem_filter.mp hx
    exact hh.act_message (by decide) hc he
      (hcol.arrive_waits hcalm hedge hup hgen hnew ⟨x, hmem, by simpa using hxup, hother, hmissing⟩) (hq.same rfl)
  case refine_2 =>
    exact hh.act_message (by decide) hc he
      (hcol.arrive_up hcalm hedge hup hgen hnew (fun x hx hxup => hall x (List.mem_filter.mpr ⟨hx, by simp [hxup]⟩)) hsent hu huup)
      (hq.same rfl)
  case refine_3 =>
    exact hh.act_message (by decide) hc he
      (hcol.arrive_root hcalm hedge hup hgen hnew (fun x hx hxup => hall x (List.mem_filter.mpr ⟨hx, by simp [hxup]⟩)) hsent hroot hd)
      (hq.same rfl)
  case refine_4 =>
    have hx : c.heard.Breaks e (c.heard.arriveBreak m a.gen.toNat) c :=
      ⟨hq.same rfl, hst, htree, hlocals, rfl, hr.of_fields rfl rfl⟩
    obtain ⟨db, hact⟩ := hh.act_breaks (by decide) hc he hx
      (hcol.heard.onArrive_otherGen (hcalm.unforced .la) hcalm.sound hgen)
    refine ⟨_, hact, ?_⟩
    rw [State.ch_movedWithError_self, State.emitted_movedWithError, Ch.breakMsgs_all rfl]
    exact ⟨rfl, rfl, rfl, rfl, rfl, rfl, Ch.faulted_la_flt (d := c.heard) rfl, Ch.brokenBy_os .., Ch.brokenBy_bw .., Ch.brokenBy_hw ..,
      Ch.brokenBy_ps .., Ch.brokenBy_objs .., fun x hx hne => State.ch_movedWithError_of_ne hs.chan hx hne _, rfl, rfl, rfl⟩
  case refine_5 =>
    obtain ⟨x, hx⟩ := List.exists_mem_of_ne_nil _ hkids
    obtain ⟨hmem, hxup⟩ := List.mem_filter.mp hx
    exact hh.act_message (by decide) hc he (hcol.release hcalm hd hup hport hgen htmo ⟨x, hmem, by simpa using hxup⟩) (hq.same rfl)
  case refine_6 =>
    have hx : c.Expires e m.object.toNat a := ⟨hroot, hrunning, hdue, hlimited⟩
    have hnumber : BitVec.ofNat 8 m.object.toNat = m.object := BitVec.eq_of_toNat_eq (by simp)
    rw [hnumber]
    cases hhold : bit (c.common m.object.toNat) 60 with
    | true =>
      obtain ⟨raised, db, hholds⟩ := hcol.accordTimeout_holds (hcalm.unforced .la) hcalm.sound hq hx hr hhold
      refine ⟨_, hs.act_timer_error hc he (fun e c => c.accordTimeout e m.object.toNat) hholds (hq.same rfl), ?_⟩
      rw [State.ch_movedWithError_self, State.emitted_movedWithError]
      exact ⟨rfl, rfl, rfl, rfl, rfl, rfl, fun x hx hne => State.ch_movedWithError_of_ne hs.chan hx hne _,
        fun _ => ⟨Ch.accState_putAcc hwf, rfl⟩, fun hno => absurd (hhold.symm.trans hno) (by decide)⟩
    | false =>
      obtain ⟨raised, db, missing, hreleases⟩ :=
        hcol.accordTimeout_releases (hcalm.unforced .la) hcalm.sound hq hx hr hhold hd
      refine ⟨_, hs.act_timer_settles hc he (fun e c => c.accordTimeout e m.object.toNat) hreleases (hq.same rfl), ?_⟩
      rw [State.ch_movedWithError_self, State.emitted_movedWithError]
      obtain ⟨hcount, hflt, hos, hbw, hhw, hps, hgen, hobject, hlocal⟩ := c.tmoReleased_fields e m.object.toNat a db missing
      exact ⟨hcount, hflt, hos, hbw, hhw, hps, fun x hx hne => State.ch_movedWithError_of_ne hs.chan hx hne _,
        fun hyes => absurd (hhold.symm.trans hyes) (by decide),
        fun _ => ⟨Ch.accState_tmoReleased hwf, rfl, hgen, hobject, hlocal⟩⟩
  case refine_7 =>
    have hx : c.heard.Breaks e (breakHeard m) c := ⟨hq.same rfl, hst, htree, hlocals, rfl, hr.of_fields rfl rfl⟩
    obtain ⟨db, hact⟩ := hh.act_breaks (by decide) hc he hx rfl
    refine ⟨_, hact, ?_⟩
    rw [State.ch_movedWithError_self, State.emitted_movedWithError, Ch.breakMsgs_others rfl]
    exact ⟨rfl, rfl, rfl, rfl, rfl, rfl, Ch.faulted_la_flt (d := c.heard) rfl, Ch.brokenBy_os .., Ch.brokenBy_bw .., Ch.brokenBy_hw ..,
      Ch.brokenBy_ps .., Ch.brokenBy_objs .., fun x hx hne => State.ch_movedWithError_of_ne hs.chan hx hne _, trivial⟩

end Sys2Proof.Machine
end

section

/-! ## The committed protection table stands (R296, R299, R300, R372, R391)

What every effect leaves of the table is said by `Keep` and `exec_effect`; a keep tick moves the time, and stands apart. -/

namespace Sys2Proof.Machine
section
variable {s t : State} {c : Instr}

/-- A keep tick reaches neither the committed table nor the access queues. -/
theorem State.HostQueues.keepTick (h : s.HostQueues) : s.keepTick.HostQueues ∧ s.keepTick.pt.table = s.pt.table :=
  have k : Keep false true true s.ticked s.keepTick := Keep.keepTick
  ⟨k.hosts rfl h.ticked, k.tab rfl⟩

/-- What waits for a command's end is served under the table that its effect leaves. -/
theorem State.HostQueues.afterwards_table (h : s.HostQueues) : s.afterwards.pt.table = s.pt.table :=
  (Keep.afterwards (t := true) (z := true) (fun _ => rfl) fun _ => h).tab rfl

/-- A command of the common shape leaves the committed table alone where its effect does. -/
theorem act_table {f : State → State} (hf : (f s.begin).HostQueues ∧ (f s.begin).pt.table = s.pt.table)
    (ht : act s f = .next t) : t.pt.table = s.pt.table := by
  unfold act at ht
  split at ht
  · cases ht; rfl
  · cases ht
    exact hf.1.afterwards_table.trans hf.2

/-- A command of the common shape that may not commit leaves the committed table alone. -/
theorem exec_effect_table (h : s.HostQueues) (hc : mayCommit c = false) (htick : c ≠ .keepTick) (ht : exec c s = .next t) :
    t.pt.table = s.pt.table := by
  have hassert : c ≠ .porAssert := fun he => absurd (he ▸ hc) (by decide)
  have hrelease : ∀ f, c ≠ .porRelease f := fun f he => absurd ((congrArg mayCommit he).symm.trans hc) (by simp [mayCommit])
  obtain ⟨f, hexec, hf⟩ := exec_effect (t := true) (z := true) c htick hassert hrelease fun _ => hc
  obtain ⟨u, hact, hkeep, -⟩ := act_effect (s := s) hf (fun _ => rfl) fun _ => h
  rw [hexec, hact] at ht
  cases ht
  exact hkeep.tab rfl

/-- Settles O6: a keep tick by itself, every other command that may not commit by what its effect keeps. -/
theorem tableChangesAtCommits : Obligations.TableChangesAtCommits := by
  intro c s t hqueues hc ht
  by_cases htick : c = .keepTick
  · subst htick
    exact act_table (f := State.keepTick) (State.HostQueues.keepTick (s := s.begin) hqueues) ht
  · exact exec_effect_table hqueues hc htick ht

end
end Sys2Proof.Machine
end

section

/-! ## The commands of a table change (R294 to R298)

A command that PT takes is a write of one of its registers, by either party, and changes PT alone. What it makes of PT is said once for
each register, and each clause of the statement is one case of that. -/

namespace Sys2Proof.Machine
section
variable {s : State} {v : Word} {fn : BitVec 8} {p : Pt} {w : Bool} {x stamp : Nat}

/-! ### PT's arrays -/

/-- PT works: the block has not halted (R301), and no force or error waits in its arrays (R314, R326). -/
structure State.PtWorks (s : State) : Prop where
  running  : s.blockHalted = false
  unforced : s.sflt.pt.pendForce = none
  sound    : s.sflt.upsets = []

theorem State.PtWorks.begin (h : s.PtWorks) : s.begin.PtWorks := ⟨h.running, h.unforced, h.sound⟩

theorem State.PtWorks.issued (h : s.PtWorks) (off : Nat) : (s.issued off).PtWorks := by
  obtain ⟨k, m, he, -, -⟩ := s.issued_eq off
  rw [he]
  exact ⟨h.running, h.unforced, h.sound⟩

theorem State.PtWorks.readTable (h : s.PtWorks) (staging : Bool) : s.readTable staging = (s, false) := by
  unfold State.readTable
  dsimp only
  rw [State.sharedForce_clean (u := .pt) h.unforced h.sound]
  rfl

theorem State.PtWorks.readStage (h : s.PtWorks) : s.readStage = (s, false) := by
  unfold State.readStage
  rw [h.readTable]
  rfl

/-! ### Writes of PT's registers -/

theorem State.PtWorks.ptCommand (h : s.PtWorks) (who : Requester) (cmd : Nat) (f : Pt → Pt) : s.ptCommand who cmd f = s.onPt f := by
  unfold State.ptCommand
  rw [if_neg (by simp [h.running])]

theorem State.PtWorks.ptOpen (h : s.PtWorks) (who : Requester) : s.ptOpen who x = s.onPt (Pt.opens (isSteward who) x) := by
  unfold State.ptOpen
  rw [h.readTable, ite_self, h.ptCommand]

theorem State.PtWorks.stageData (h : s.PtWorks) (who : Requester) :
    s.writeReg who 0x3048 x = s.onPt (Pt.stageWord (isSteward who) x) := by
  change (if s.blockHalted then s else s.onPt (Pt.stageWord (isSteward who) x)) = _
  rw [if_neg (by simp [h.running])]

/-- Either party's command of a value of PT's register at `off` leaves PT as `f` says of that party, and the rest of the block alone. -/
def State.PtBecomes (s : State) (v : Word) (fn : BitVec 8) (cmd : Requester → Word → Instr) (off : Nat) (f : Bool → Pt) : Prop :=
  (s.StewardPort → exec (cmd .steward v) s = .next (s.stewardWrote off v.toNat (fun t => { t with pt := f true }))) ∧
  (s.Admits fn off v.toNat → exec (cmd (.host fn) v) s = .next (s.wrote fn off v.toNat (fun t => { t with pt := f false })))

theorem State.PtBecomes.congr {cmd : Requester → Word → Instr} {off : Nat} {f g : Bool → Pt} (h : s.PtBecomes v fn cmd off f)
    (hfg : ∀ w, f w = g w) : s.PtBecomes v fn cmd off g := funext hfg ▸ h

theorem State.issued_stamp (s : State) (off : Nat) : (s.issued off).stamp = s.begin.stamp := (s.issued_clocks off).stamp

/-- A register of PT whose write changes PT alone. -/
theorem State.PtWorks.becomes {cmd : Requester → Word → Instr} {off : Nat} {g : Bool → Nat → Pt → Pt} (h : s.PtWorks)
    (hcmd : ∀ who, exec (cmd who v) s = act s fun s => s.hostWrite who off v.toNat) (ho : off / 0x1000 = 3) (h8 : off % 8 = 0)
    (hw : ∀ (who : Requester) (b : State), b.PtWorks → b.writeReg who off v.toNat = b.onPt (g (isSteward who) b.stamp)) :
    s.PtBecomes v fn cmd off fun w => g w s.begin.stamp s.pt := by
  refine ⟨fun hport => ?_, fun hadmits => ?_⟩
  · exact (hcmd .steward).trans (act_steward hport ho h8 (hw .steward s.begin h.begin) hport.settled)
  · refine (hcmd (.host fn)).trans (act_write_shared hadmits (by omega) ?_ ((State.settled_issued off).trans hadmits.settled))
    rw [hw (.host fn) _ (h.issued off), State.issued_stamp]
    unfold State.onPt
    rw [State.issued_pt]
    rfl

theorem State.PtWorks.opens (h : s.PtWorks) : s.PtBecomes v fn .ptOpen 0x3010 fun w => s.pt.opens w v.toNat :=
  h.becomes (g := fun w _ => Pt.opens w v.toNat) (fun _ => rfl) (by decide) (by decide) fun who _ hb => hb.ptOpen who

theorem State.PtWorks.stages (h : s.PtWorks) : s.PtBecomes v fn .ptStageData 0x3048 fun w => s.pt.stageWord w v.toNat :=
  h.becomes (g := fun w _ => Pt.stageWord w v.toNat) (fun _ => rfl) (by decide) (by decide) fun who _ hb => hb.stageData who

theorem State.PtWorks.submits (h : s.PtWorks) : s.PtBecomes v fn .ptSubmit 0x3018 fun w => s.pt.submit w s.begin.stamp :=
  h.becomes (g := Pt.submit) (fun _ => rfl) (by decide) (by decide) fun who _ hb => hb.ptCommand who 2 _

theorem State.PtWorks.approves (h : s.PtWorks) : s.PtBecomes v fn .ptApprove 0x3020 fun w => s.pt.approve w v.toNat :=
  h.becomes (g := fun w _ => Pt.approve w v.toNat) (fun _ => rfl) (by decide) (by decide) fun who _ hb => hb.ptCommand who 3 _

theorem State.PtWorks.aborts (h : s.PtWorks) : s.PtBecomes v fn .ptAbort 0x3028 fun w => s.pt.abort w :=
  h.becomes (g := fun w _ => Pt.abort w) (fun _ => rfl) (by decide) (by decide) fun who _ hb => hb.ptCommand who 4 _

/-! ### What a command makes of PT -/

theorem Pt.opens_next (hst : p.st = .idle) (hx : fld x 31 0 = (p.committed + 1) % 2 ^ 32) :
    p.opens w x = ({ p with st := .edit, ownerSteward := w, seq := fld x 31 0,
                            stage := p.table.put 0 0 (setFld (p.table.get 0 0) 63 32 (fld x 31 0)) } : Pt).result w 1 0 0 := by
  unfold Pt.opens
  rw [if_neg (not_not.2 hst), if_neg (not_not.2 hx)]

theorem Pt.opens_otherSeq (hst : p.st = .idle) (hx : fld x 31 0 ≠ (p.committed + 1) % 2 ^ 32) : p.opens w x = p.result w 1 2 0 := by
  unfold Pt.opens
  rw [if_neg (not_not.2 hst), if_pos hx]

theorem Pt.opens_busy (hst : p.st ≠ .idle) : p.opens w x = p.result w 1 1 0 := if_pos hst

theorem Pt.stageWord_eq : p.stageWord w x =
    if p.st = .edit ∧ p.checking = false ∧ p.ownerSteward = w ∧ p.stageSel ≠ 0 then { p with stage := p.stage.put 0 p.stageSel x }
    else p := by
  unfold Pt.stageWord
  simp only [Bool.and_eq_true, decide_eq_true_eq, Bool.not_eq_true', and_assoc]

theorem Pt.submit_wrongState (h : p.st ≠ .edit ∨ p.checking = true) : p.submit w stamp = p.result w 2 1 0 := if_pos h

theorem Pt.submit_edit (hst : p.st = .edit) (hc : p.checking = false) :
    p.submit w stamp = if p.ownerSteward = w then { p with checking := true, submitAt := stamp } else p.result w 2 3 0 := by
  unfold Pt.submit
  rw [if_neg (by simp [hst, hc])]
  exact ite_not ..

theorem Pt.approve_wrongState (h : p.st ≠ .staged) : p.approve w x = p.result w 3 1 0 := if_pos h

theorem Pt.approve_staged (h : p.st = .staged) :
    p.approve w x = if p.ownerSteward = w then p.result w 3 3 0
      else if fld x 31 0 = p.seq ∧ fld x 63 32 = p.stageCrc then ({ p with st := .approved } : Pt).result w 3 0 0
      else (p.result w 3 5 0).abortChange 4 0 := if_neg (not_not.2 h)

theorem Pt.abort_idle (h : p.st = .idle) : p.abort w = p.result w 4 1 0 := if_pos h

theorem Pt.abort_change (h : p.st ≠ .idle) : p.abort w = (p.result w 4 0 0).abortChange (if w then 2 else 1) 0 := if_neg h

/-- A command's outcome goes to the result register alone, so an abort behind it records the change as it was. -/
theorem Pt.abortChange_result (p : Pt) (steward : Bool) (cmd code check reason k : Nat) :
    (p.result steward cmd code check).abortChange reason k =
      { (p.result steward cmd code check).toIdle with
          abSeq := p.seq, abReason := reason, abCheck := k, aborts := inc p.aborts, abortCause := true } := by
  cases steward <;> rfl

/-- Settles O46: each command by what PT takes of it, each clause by what that makes of PT. -/
theorem tableCommands : Obligations.TableCommands := by
  intro s v fn hrun hforce hsound p b seq next code aborted does
  have h : s.PtWorks := ⟨hrun, hforce, hsound⟩
  have hdoes : ∀ {cmd off f}, s.PtBecomes v fn cmd off f → does cmd off f := id
  clear_value does
  refine ⟨fun hidle hseq => hdoes ?open_next, fun hidle hseq => hdoes ?open_otherSeq, fun hbusy => hdoes ?open_busy, hdoes ?stage,
    fun hwrong => hdoes ?submit_wrong, fun hedit hfree => hdoes ?submit, fun hwrong => hdoes ?approve_wrong,
    fun hstaged => hdoes ?approve, fun hidle => hdoes ?abort_idle, fun hbusy => hdoes ?abort⟩
  case open_next => exact h.opens.congr fun _ => Pt.opens_next hidle hseq
  case open_otherSeq => exact h.opens.congr fun _ => Pt.opens_otherSeq hidle hseq
  case open_busy => exact h.opens.congr fun _ => Pt.opens_busy hbusy
  case stage => exact h.stages.congr fun _ => Pt.stageWord_eq
  case submit_wrong => exact h.submits.congr fun _ => Pt.submit_wrongState hwrong
  case submit => exact h.submits.congr fun _ => Pt.submit_edit hedit hfree
  case approve_wrong => exact h.approves.congr fun _ => Pt.approve_wrongState hwrong
  case approve =>
    exact h.approves.congr fun w => (Pt.approve_staged hstaged).trans (by rw [Pt.abortChange_result]; rfl)
  case abort_idle => exact h.aborts.congr fun _ => Pt.abort_idle hidle
  case abort => exact h.aborts.congr fun w => (Pt.abort_change hbusy).trans (Pt.abortChange_result ..)

end
end Sys2Proof.Machine
end

section

/-! ## The check, hold, commit and expiry of a table change (R291, R296, R299, R300)

The steps that no party asks for. Each changes PT alone, but for a commit, which may make pairs; with no pair in the block PT's tests of
a channel are those of the channel itself. -/

namespace Sys2Proof.Machine
section
variable {s : State} {n : Nat} {p : Pt}

/-! ### Levels (R299) -/

theorem State.AllSingle.isPaired (h : s.AllSingle) (n : Nat) : s.isPaired n = false := by
  unfold State.isPaired
  simp [h.pair n]

theorem State.AllSingle.isDown (h : s.AllSingle) (n : Nat) : s.isDown n = decide ((s.ch n).ctl.st ≠ .run) := by
  unfold State.isDown
  simp [h.isPaired n]

theorem State.AllSingle.isQuiet (h : s.AllSingle) (hbays : s.bayQ = []) (n : Nat) :
    s.isQuiet n = (decide ((s.ch n).ctl.st ≠ .run) || (s.ch n).quiet) := by
  unfold State.isQuiet State.standIn
  simp [h.isDown n, h.isPaired n, hbays]

theorem changeLevel_cases (a b : SMap Nat) (n : Nat) : changeLevel a b n = 0 ∨ changeLevel a b n = 1 ∨ changeLevel a b n = 2 := by
  unfold changeLevel
  split
  · exact .inr (.inr rfl)
  · split
    · exact .inr (.inl rfl)
    · exact .inl rfl

theorem Pt.changeLevel_affected (h : n ∈ p.affected) : changeLevel p.table p.stage n ≠ 0 := by
  unfold Pt.affected at h
  split at h
  · simpa using (List.mem_filter.1 h).2
  · exact absurd h List.not_mem_nil

/-- With no pair and nothing on the way from the bays, the levels are reached where every affected channel in RUN is asked for QUIET
alone, and is quiet. -/
theorem State.AllSingle.levelsReached_iff (h : s.AllSingle) (hbays : s.bayQ = []) : s.levelsReached = true ↔
    ∀ n ∈ s.pt.affected, (s.ch n).ctl.st = .run → changeLevel s.pt.table s.pt.stage n = 1 ∧ (s.ch n).quiet = true := by
  unfold State.levelsReached
  rw [List.all_eq_true]
  refine forall₂_congr fun n hn => ?_
  rw [h.isDown, h.isQuiet hbays]
  rcases changeLevel_cases s.pt.table s.pt.stage n with hl | hl | hl
  · exact absurd hl (Pt.changeLevel_affected hn)
  · simp [hl, imp_iff_not_or]
  · simp [hl]

/-! ### The check (R291, R296) -/

theorem Pt.windowOver_iff {stamp : Nat} : p.windowOver stamp = true ↔ p.windowStart + 100000000 ≤ stamp := decide_eq_true_iff

theorem State.PtWorks.submitDone_due (h : s.PtWorks) (hc : s.pt.checking = true) (hd : s.pt.submitAt + 341 ≤ s.stamp) :
    s.submitDone = s.onPt (Pt.checked s.stamp) := by
  unfold State.submitDone
  rw [if_pos (by simp [hc, hd]), h.readStage]
  rfl

theorem State.submitDone_notDue (h : s.pt.checking = false ∨ s.stamp < s.pt.submitAt + 341) : s.submitDone = s := by
  unfold State.submitDone
  refine if_neg fun hdue => ?_
  simp only [Bool.and_eq_true, decide_eq_true_eq] at hdue
  obtain ⟨hc, hd⟩ := hdue
  rcases h with h | h
  · exact absurd hc (by simp [h])
  · omega

theorem Pt.checked_valid {stamp : Nat} (h : tblCheck p.stage = 0) : p.checked stamp =
    ({ p with st := .staged, checking := false, stageCrc := crcWords (tblWords p.stage), windowStart := stamp } : Pt).result
      p.ownerSteward 2 0 0 := if_pos h

theorem Pt.checked_invalid {stamp : Nat} (h : tblCheck p.stage ≠ 0) :
    p.checked stamp = (p.result p.ownerSteward 2 4 (tblCheck p.stage)).abortChange 5 (tblCheck p.stage) := if_neg h

/-! ### The hold and the commit (R300) -/

/-- Where no pair stood one begins, or nothing changes. -/
theorem Pair.commit_single {was : Bool} (h : was = false) (now : Bool) (r : Pair) :
    r.commit was now = if now then { st := .paired } else r := by
  subst h
  cases now <;> rfl

theorem State.PtWorks.applyChange (h : s.PtWorks) : s.applyChange = s.applyTable := by
  unfold State.applyChange
  rw [h.readStage]
  rfl

/-- The hold of an approved change may begin, and the window still runs. -/
structure State.MayHold (s : State) : Prop where
  approved : s.pt.st = .approved
  free     : s.pt.holding = false
  inTime   : ¬ s.pt.windowStart + 100000000 ≤ s.stamp

theorem State.MayHold.commitHold (h : s.MayHold) : s.commitHold =
    if s.pt.affected.isEmpty then s.applyChange
    else if s.pt.affected.any (fun n => (s.ch n).asleep) then s.onList (fun e c => c.wakeUp e.time) s.pt.affected
    else if s.levelsReached then
      s.onPt (fun k => { k with holding := true, holdAt := s.coreNow, heldChans := maskOf s.pt.affected })
    else s :=
  if_neg (by simp [h.approved, h.free, Pt.windowOver, h.inTime])

theorem State.MayHold.commitHold_noneAffected (h : s.MayHold) (hnone : s.pt.affected = []) : s.commitHold = s.applyChange := by
  rw [h.commitHold, hnone]
  rfl

theorem State.MayHold.commitHold_awake (h : s.MayHold) (hsome : s.pt.affected ≠ [])
    (hawake : ∀ n ∈ s.pt.affected, (s.ch n).asleep = false) : s.commitHold =
    if s.levelsReached then
      s.onPt (fun k => { k with holding := true, holdAt := s.coreNow, heldChans := maskOf s.pt.affected })
    else s := by
  rw [h.commitHold, if_neg (by simpa using hsome), if_neg]
  simpa using hawake

theorem State.commitHold_nothing (h : s.pt.st ≠ .approved ∨ s.pt.holding = true ∨ s.pt.windowStart + 100000000 ≤ s.stamp) :
    s.commitHold = s := by
  unfold State.commitHold
  refine if_pos ?_
  simpa [Pt.windowOver, or_assoc] using h

theorem State.commitNow_due (hheld : s.pt.holding = true) (hin : ¬ s.pt.windowStart + 100000000 ≤ s.stamp)
    (hdue : s.pt.holdAt + 64 ≤ s.coreNow) :
    s.commitNow = if s.levelsReached then s.applyChange else s.onPt (fun k => { k with holding := false, heldChans := 0 }) :=
  if_neg (by simp [hheld, Pt.windowOver, hin, hdue])

theorem State.commitNow_nothing
    (h : s.pt.holding = false ∨ s.pt.windowStart + 100000000 ≤ s.stamp ∨ s.coreNow < s.pt.holdAt + 64) : s.commitNow = s := by
  unfold State.commitNow
  refine if_pos ?_
  simpa [Pt.windowOver, or_assoc] using h

theorem State.windowExpires_over (h : s.pt.st = .staged ∨ s.pt.st = .approved) (hlate : s.pt.windowStart + 100000000 ≤ s.stamp) :
    s.windowExpires = s.onPt (Pt.abortChange 3 0) :=
  if_pos (by simpa [Pt.windowOver, hlate] using h)

theorem State.windowExpires_nothing
    (h : s.pt.st ≠ .staged ∧ s.pt.st ≠ .approved ∨ ¬ s.pt.windowStart + 100000000 ≤ s.stamp) : s.windowExpires = s := by
  refine if_neg fun hdue => ?_
  simp only [Bool.and_eq_true, Bool.or_eq_true, decide_eq_true_eq, Pt.windowOver_iff] at hdue
  obtain ⟨hst, hlate⟩ := hdue
  rcases h with ⟨hstaged, happroved⟩ | hin
  · exact hst.elim hstaged happroved
  · exact hin hlate

/-! ### The commands -/

/-- A command that a running block performs, and that leaves it settled. -/
theorem actRunning_powered (hpor : s.por = false) (hrun : s.blockHalted = false) {f : State → State} {t : State} (hf : f s.begin = t)
    (ht : t.settled = true) : actRunning s f = .next t.setPll := by
  refine act_powered hpor _ (Eq.trans (if_neg ?_) hf) ht
  rw [State.begin_blockHalted, hrun]
  exact Bool.false_ne_true

/-- Such a command that changes PT alone. -/
theorem State.Still.ptBecomes (hs : s.Still) (hrun : s.blockHalted = false) {f : State → State} {q : Pt}
    (hf : f s.begin = { s.begin with pt := q }) : actRunning s f = .next ({ s.begin with pt := q } : State).setPll :=
  actRunning_powered hs.por hrun hf hs.settled

/-- The commit of a change where no pair stood: the pairs that the new table has begin, and PT is idle. -/
theorem State.Still.ptApplies (hs : s.Still) (h : s.PtWorks) {f : State → State} (hf : f s.begin = s.begin.applyChange)
    (hab : tblPaired s.pt.table 0 = false) (hcd : tblPaired s.pt.table 2 = false) : actRunning s f = .next ({ s.begin with
      pairAB := if tblPaired s.pt.stage 0 then { st := .paired } else s.pairAB
      pairCD := if tblPaired s.pt.stage 2 then { st := .paired } else s.pairCD
      pt := { s.pt.toIdle with
        table := s.pt.stage, tableCrc := s.pt.stageCrc, commitTime := s.begin.stamp, commits := inc s.pt.commits,
        commitCause := true } } : State).setPll := by
  refine actRunning_powered hs.por h.running ?_ hs.settled
  rw [hf, h.begin.applyChange, ← Pair.commit_single hab, ← Pair.commit_single hcd]
  rfl

/-- Settles O47: each step by what it finds of PT's state, its times and the levels. -/
theorem tableSteps : Obligations.TableSteps := by
  intro s hs hrun hforce hsound p b aborted code becomes applied late level single
  have h : s.PtWorks := ⟨hrun, hforce, hsound⟩
  have hbays : s.bayQ = [] := (State.settled_iff.1 hs.settled).2.1
  have hlevel : b.levelsReached = true ↔ level := State.AllSingle.levelsReached_iff (s := b) hs.single hbays
  have hold : p.st = .approved → p.holding = false → ¬ late → b.MayHold := fun h1 h2 h3 => ⟨h1, h2, h3⟩
  refine ⟨fun hc hd => ⟨fun hv => ?valid, fun hv => ?invalid⟩, fun hn => ?notDue, fun hst hfree hin =>
    ⟨fun hnone hsingle => ?applyAtOnce, fun hsome hawake hl => ?holds, fun hsome hawake hl => ?waits⟩, fun hn => ?noHold,
    fun _ hheld hin hdue hl hsingle => ?commits, fun _ hheld hin hdue hl => ?endsHold, fun hn => ?noCommit,
    fun hst hl => ?expires, fun hn => ?noExpiry⟩
  case valid =>
    exact hs.ptBecomes hrun ((h.begin.submitDone_due hc hd).trans (congrArg (fun q => { b with pt := q }) (Pt.checked_valid hv)))
  case invalid =>
    exact hs.ptBecomes hrun ((h.begin.submitDone_due hc hd).trans (congrArg (fun q => { b with pt := q })
      ((Pt.checked_invalid hv).trans (Pt.abortChange_result ..))))
  case notDue => exact hs.ptBecomes hrun (State.submitDone_notDue (s := b) hn)
  case applyAtOnce => exact hs.ptApplies h ((hold hst hfree hin).commitHold_noneAffected hnone) hsingle.1 hsingle.2
  case holds =>
    exact hs.ptBecomes hrun (((hold hst hfree hin).commitHold_awake hsome hawake).trans (if_pos (hlevel.2 hl)))
  case waits =>
    exact hs.ptBecomes hrun (((hold hst hfree hin).commitHold_awake hsome hawake).trans (if_neg (mt hlevel.1 hl)))
  case noHold => exact hs.ptBecomes hrun (State.commitHold_nothing (s := b) hn)
  case commits =>
    exact hs.ptApplies h ((State.commitNow_due (s := b) hheld hin hdue).trans (if_pos (hlevel.2 hl))) hsingle.1 hsingle.2
  case endsHold =>
    exact hs.ptBecomes hrun ((State.commitNow_due (s := b) hheld hin hdue).trans (if_neg (mt hlevel.1 hl)))
  case noCommit => exact hs.ptBecomes hrun (State.commitNow_nothing (s := b) hn)
  case expires => exact hs.ptBecomes hrun (State.windowExpires_over (s := b) hst hl)
  case noExpiry => exact hs.ptBecomes hrun (State.windowExpires_nothing (s := b) hn)

end
end Sys2Proof.Machine
end

section

/-! ## Plain register accesses (R292, R302, R315, R420, R421)

An access of a block that rests is denied, or takes effect at once. A write or a read in the window of a channel, in whatever state, does
what the channel's page of registers says; a fault set's registers stand apart from the pages. -/

namespace Sys2Proof.Machine
section
variable {s : State} {n : Nat} {fn : BitVec 8} {page o off x width cause : Nat} {write : Bool} {c d : Ch} {e : Env} {u : FltUnit}
  {f : State → State}

/-! ### Denied accesses (R292) -/

theorem act_denied (hpor : s.por = false) (hset : s.settled = true) (hopen : s.quarantined 0x7000 = false)
    (hdenied : s.denial fn.toNat width ⟨.host fn, o, write, x⟩ = some cause) :
    act s (fun s => s.access ⟨.host fn, o, write, x⟩ width) = .next (s.refused fn o write (if write then x else 0) cause) := by
  refine act_powered hpor _ (t := s.begin.deny ⟨.host fn, o, write, x⟩ fn.toNat cause) ?_ hset
  obtain ⟨-, -, -, -, hport, -⟩ := State.settled_iff.1 hset
  have hcross : s.begin.quarantined (portCrossing (.host fn)) = false := hopen
  have hcause : s.begin.denial fn.toNat width ⟨.host fn, o, write, x⟩ = some cause := hdenied
  have hempty : s.begin.hp.atPort = [] := hport
  unfold State.access
  simp only [hcross, Bool.false_eq_true, if_false, hempty, if_true]
  unfold State.seat
  rw [hcause]

/-! ### Channel windows -/

/-- A channel with nothing left to do settles as it is. -/
theorem Ch.Same.settle_eq (h : d.Same c) : d.settle e = d := h.settle_silent.trans h.out_nil

/-- It only replaces the channel that stood there. -/
theorem Ch.Same.finish_eq (h : d.Same c) (s : State) (n : Nat) : s.finish n d d.out = s.setCh n d := by
  obtain ⟨htodo, hout, hraised, hhalt, herr⟩ := h.quiet
  rw [State.finish_quiet s n htodo hraised hhalt herr, h.out_nil, hout, State.leave_nil]

theorem State.Rests.windowOf_issued (h : s.Rests n) (hw : InWindow n page o) :
    (s.issued off).windowOf (chanOff n page o) = (n, n) :=
  State.windowOf_single (by rw [State.issued_pair]; exact h.single) hw.split.1

/-- A register of a channel's page that is in no fault set, and neither CH_CTL nor CH_MAP_DATA. -/
abbrev PageReg (page o : Nat) : Prop := page < 0x100 ∧ o < 0xF00 ∧ ¬ (page = 0 ∧ o = 0x008) ∧ ¬ (page = 0 ∧ o = 0x108)

/-- A write of such a register in the window of a channel that rests, after which the channel rests as before. -/
theorem act_write_rests (h : s.Rests n) (ha : s.Admits fn (chanOff n page o) x) (hreg : PageReg page o)
    (hf : (s.ch n).writePage (s.seen n .none) page o x = d) (hd : d.Same (s.ch n)) :
    act s (fun s => s.hostWrite (.host fn) (chanOff n page o) x) = .next (s.wrote fn (chanOff n page o) x fun t => t.setCh n d) := by
  obtain ⟨hp, ho, hctl, hmap⟩ := hreg
  have hw : InWindow n page o := ⟨h.chan, hp, ho⟩
  obtain ⟨-, hpage, hoff, hlow, hmod⟩ := hw.split
  have hwrite : (s.issued (chanOff n page o)).writeReg (.host fn) (chanOff n page o) x = (s.issued (chanOff n page o)).setCh n d := by
    rw [State.writeReg_window hw.faultAt hlow, State.writeWindow_page (h.windowOf_issued hw) hpage hoff hctl hmap,
      State.onChan_single (by rw [State.issued_pair]; exact h.single), State.issued_seen, State.issued_ch, hf, hd.settle_eq, hd.finish_eq]
  refine act_write ha hwrite ?_ ?_
  · have hne : 0x1000 * page + o ≠ 0x108 := by omega
    simp [hmod, hne]
  · exact State.settled_same (c := s.ch n) ((State.settled_issued _).trans h.settled) h.chan
      (congrArg Ch.edge (State.issued_ch ..)) hd.edge

theorem State.setCh_ch (s : State) (n : Nat) : s.setCh n (s.ch n) = s :=
  match n with
  | 0 | 1 | 2 | _ + 3 => rfl

theorem State.issued_setCh_same (s : State) (n off : Nat) : (s.issued off).setCh n (s.ch n) = s.issued off := by
  rw [← State.issued_ch s off n, State.setCh_ch]

theorem State.wrote_congr {g : State → State} (h : f (s.issued off) = g (s.issued off)) : s.wrote fn off x f = s.wrote fn off x g :=
  congrArg (fun t : State => (t.leave [.host (.host fn) off true x false]).setPll) h

/-- A write that the channel's page ignores. -/
theorem act_write_ignored (h : s.Rests n) (ha : s.Admits fn (chanOff n page o) x) (hreg : PageReg page o)
    (hf : (s.ch n).writePage (s.seen n .none) page o x = s.ch n) :
    act s (fun s => s.hostWrite (.host fn) (chanOff n page o) x) = .next (s.wrote fn (chanOff n page o) x fun t => t) :=
  (act_write_rests h ha hreg hf ⟨h.quiet, rfl⟩).trans (congrArg _ (State.wrote_congr (s.issued_setCh_same ..)))

/-! ### Fault sets (R315) -/

theorem faultAt_window (k : ChanId) {r : Nat} (hp : page < 0x100) (hr : r < 0x100) :
    faultAt (chanOff k.val page (0xF00 + r)) = (subAt page).map (fun u => (.chan k u, r)) := by
  have hk := k.isLt
  have hpage : chanOff k.val page (0xF00 + r) / 0x1000 % 0x100 = page := by unfold chanOff; omega
  have hoff : chanOff k.val page (0xF00 + r) % 0x1000 = 0xF00 + r := by unfold chanOff; omega
  have hchan : chanOff k.val page (0xF00 + r) / 0x100000 - 1 = k.val := by unfold chanOff; omega
  have hlow : ¬ chanOff k.val page (0xF00 + r) < 0x100000 := by unfold chanOff; omega
  have hside : Fin.ofNat 4 k.val = k := Fin.ofNat_val_eq_self k
  unfold faultAt
  simp only [hpage, hoff, hchan, hside, if_neg hlow, if_neg (show ¬ 0xF00 + r < 0xF00 by omega), Nat.add_sub_cancel_left]

theorem faultAt_region {r : Nat} (hp : page < 0x100) (hr : r < 0x100) :
    faultAt (0x1000 * page + 0xF00 + r) = (sharedAt page).map (fun u => (.shared u, r)) := by
  have hpage : (0x1000 * page + 0xF00 + r) / 0x1000 % 0x100 = page := by omega
  have hoff : (0x1000 * page + 0xF00 + r) % 0x1000 = 0xF00 + r := by omega
  unfold faultAt
  simp only [hpage, hoff, if_pos (show 0x1000 * page + 0xF00 + r < 0x100000 by omega), if_neg (show ¬ 0xF00 + r < 0xF00 by omega),
    Nat.add_sub_cancel_left]

/-- The registers of a fault set stand where `faultOff` puts them. -/
theorem faultAt_faultOff (u : FltUnit) {r : Nat} (hr : r < 0x100) : faultAt (faultOff u r) = some (u, r) := by
  cases u with
  | chan k sub => cases sub <;> exact faultAt_window k (by decide) hr
  | shared sub => cases sub <;> exact faultAt_region (by decide) hr

theorem faultOff_ne_mapData (u : FltUnit) {r : Nat} (hr : r < 0x100) : faultOff u r % 0x100000 ≠ 0x108 := by
  cases u with
  | chan k sub => cases sub <;> simp only [faultOff, chanOff] <;> omega
  | shared sub => cases sub <;> simp only [faultOff] <;> omega

/-- In the window of a channel that stands alone a write acts on that channel's set. -/
theorem State.unitWritten_single (h : ∀ c k, u = .chan c k → (s.pair c.val).st = .single) : s.unitWritten u = u := by
  cases u with
  | chan k sub =>
    have hacts : s.actsOn k.val = k.val := by
      unfold State.actsOn State.lead
      simp [h k sub rfl]
    change FltUnit.chan (Fin.ofNat 4 (s.actsOn k.val)) sub = _
    rw [hacts, Fin.ofNat_val_eq_self]
  | shared sub => rfl

theorem Ch.setFault_fault (c : Ch) (u : Sub) : c.setFault u (c.fault u) = c := by cases u <;> rfl

theorem Ch.edge_setFault (c : Ch) (u : Sub) (fs : FaultSet) : (c.setFault u fs).edge = c.edge := by cases u <;> rfl

theorem State.setShared_sharedFault (s : State) (u : SharedSub) : s.setShared u (s.sharedFault u) = s := by cases u <;> rfl

theorem State.setUnit_unitFault (s : State) (u : FltUnit) : s.setUnit u (s.unitFault u) = s := by
  cases u with
  | chan k sub => exact (congrArg (s.setCh k.val) (Ch.setFault_fault ..)).trans (State.setCh_ch ..)
  | shared sub => exact State.setShared_sharedFault ..

theorem State.settled_setUnit (h : s.settled = true) (u : FltUnit) (fs : FaultSet) : (s.setUnit u fs).settled = true := by
  cases u with
  | chan k sub => exact State.settled_same (c := s.ch k.val) h k.isLt rfl (Ch.edge_setFault ..)
  | shared sub => cases sub <;> exact h

theorem State.unitFault_issued (s : State) (off : Nat) (u : FltUnit) : (s.issued off).unitFault u = s.unitFault u := by
  obtain ⟨k, m, he, -, -⟩ := s.issued_eq off
  rw [he]
  cases u <;> rfl

/-- A write of a fault set's register that changes the set alone. -/
theorem act_write_unit {r : Nat} {g : FaultSet → FaultSet} (hr : r < 0x100) (ha : s.Admits fn (faultOff u r) x)
    (hsingle : ∀ c k, u = .chan c k → (s.pair c.val).st = .single) (hg : ∀ t : State, t.writeFaultOf u r x = t.onUnit u g) :
    act s (fun s => s.hostWrite (.host fn) (faultOff u r) x) =
      .next (s.wrote fn (faultOff u r) x fun t => t.setUnit u (g (s.unitFault u))) := by
  have hunit : (s.issued (faultOff u r)).unitWritten u = u :=
    State.unitWritten_single fun c k hu => (congrArg Pair.st (State.issued_pair ..)).trans (hsingle c k hu)
  have hwrite : (s.issued (faultOff u r)).writeReg (.host fn) (faultOff u r) x =
      (s.issued (faultOff u r)).setUnit u (g (s.unitFault u)) := by
    unfold State.writeReg
    rw [faultAt_faultOff u hr]
    dsimp only
    unfold State.writeFault State.onUnit at *
    rw [hunit, hg, State.unitFault_issued]
  refine act_write ha hwrite ?_ (State.settled_setUnit ((State.settled_issued _).trans ha.settled) u _)
  rw [decide_eq_false (faultOff_ne_mapData u hr), Bool.and_false, Bool.false_and, Bool.false_and]

/-! ### Reads (R421) -/

/-- A host function's read that is admitted answers what the register held, and clears what it clears. -/
theorem act_read (h : s.AdmitsRead fn off) (hv : ∀ k : Hp, ({ s.begin with hp := k } : State).readReg off = x)
    (hc : (s.issued off).clearRead off = f (s.issued off)) (hset : (f (s.issued off)).settled = true) :
    act s (fun s => s.access ⟨.host fn, off, false, 0⟩ 64) = .next (s.readOut fn off x f) := by
  obtain ⟨-, -, -, hqueues, hport, -⟩ := State.settled_iff.1 h.settled
  refine act_powered h.por _ (t := (f (s.issued off)).leave [.host (.host fn) off false x false]) ?_ hset
  have hperform : s.begin.perform ⟨.host fn, off, false, 0⟩ = (f (s.issued off)).leave [.host (.host fn) off false x false] := by
    unfold State.perform
    dsimp only
    rw [State.sharedForce_clean (by exact h.unforced) (by exact h.sound)]
    dsimp only
    rw [if_neg (by simp), if_neg (by simp)]
    unfold State.effect State.answer
    dsimp only
    rw [if_neg Bool.false_ne_true, hv]
    exact congrArg (State.leave _) hc
  have hcross : s.begin.quarantined (portCrossing (.host fn)) = false := h.openPort
  have hempty : s.begin.hp.atPort = [] := hport
  have hcause : s.begin.denial fn.toNat 64 ⟨.host fn, off, false, 0⟩ = none := h.allowed
  have hhalt : s.begin.refusedByHalt ⟨.host fn, off, false, 0⟩ = false := by
    unfold State.refusedByHalt
    rw [show s.begin.blockHalted = false from h.running, Bool.false_and]
  have hnone : s.begin.hp.waiting (queueOf off) = [] := by
    unfold Hp.waiting
    rw [show s.begin.hp.queues = [] from hqueues]
    rfl
  have hfree : s.begin.blocked (queueOf off) = false := h.awake
  unfold State.access
  simp only [hcross, Bool.false_eq_true, if_false, hempty, if_true]
  unfold State.seat
  rw [hcause]
  unfold State.letIn
  simp only [hhalt, Bool.false_eq_true, if_false, hfree, hnone, ne_eq, not_true_eq_false, decide_false, Bool.or_false]
  rw [hperform, ite_self]

theorem State.readReg_window (hw : s.windowOf off = (n, n)) (hf : faultAt off = none) (hlow : 0x100000 ≤ off)
    (hpage : off / 0x1000 % 0x100 = page) (ho : off % 0x1000 = o) :
    s.readReg off = (s.ch n).readPage (s.env n false .none) (s.pair n) page o := by
  unfold State.readReg
  rw [hf, hpage, ho, hw]
  exact (if_pos hlow).trans (by simp only [ne_eq, not_true_eq_false, decide_false])

theorem State.clearRead_window (hw : s.windowOf off = (n, n)) (hf : faultAt off = none) (hlow : 0x100000 ≤ off)
    (hpage : off / 0x1000 % 0x100 = page) (ho : off % 0x1000 = o) : s.clearRead off = s.setCh n ((s.ch n).clearRead page o) := by
  unfold State.clearRead
  rw [hf, hpage, ho, hw]
  exact if_pos hlow

/-- A read in the window of a channel that rests, whose register does not depend on the channel's surroundings. -/
theorem act_read_rests (h : s.Rests n) (ha : s.AdmitsRead fn (chanOff n page o)) (hreg : page < 0x100 ∧ o < 0xF00)
    (hv : ∀ e p, (s.ch n).readPage e p page o = x) (hc : (s.ch n).clearRead page o = d) (hd : d.edge = (s.ch n).edge) :
    act s (fun s => s.access ⟨.host fn, chanOff n page o, false, 0⟩ 64) =
      .next (s.readOut fn (chanOff n page o) x fun t => t.setCh n d) := by
  have hw : InWindow n page o := ⟨h.chan, hreg.1, hreg.2⟩
  obtain ⟨hchan, hpage, hoff, hlow, -⟩ := hw.split
  refine act_read ha (fun k => ?_) ?_
    (State.settled_same (c := s.ch n) ((State.settled_issued _).trans h.settled) h.chan (congrArg Ch.edge (State.issued_ch ..)) hd)
  · have hwindow : ({ s.begin with hp := k } : State).windowOf (chanOff n page o) = (n, n) := State.windowOf_single h.single hchan
    rw [State.readReg_window hwindow hw.faultAt hlow hpage hoff]
    exact hv _ _
  · rw [State.clearRead_window (h.windowOf_issued hw) hw.faultAt hlow hpage hoff, State.issued_ch, hc]

theorem State.readOut_congr {g : State → State} (h : f (s.issued off) = g (s.issued off)) :
    s.readOut fn off x f = s.readOut fn off x g :=
  congrArg (fun t : State => (t.leave [.host (.host fn) off false x false]).setPll) h

/-- A read that clears nothing. -/
theorem act_read_plain (h : s.Rests n) (ha : s.AdmitsRead fn (chanOff n page o)) (hreg : page < 0x100 ∧ o < 0xF00)
    (hv : ∀ e p, (s.ch n).readPage e p page o = x) (hc : (s.ch n).clearRead page o = s.ch n) :
    act s (fun s => s.access ⟨.host fn, chanOff n page o, false, 0⟩ 64) = .next (s.readOut fn (chanOff n page o) x fun t => t) :=
  (act_read_rests h ha hreg hv hc rfl).trans (congrArg _ (State.readOut_congr (s.issued_setCh_same ..)))

/-! ### The registers -/

theorem State.writeReg_stageSel {who : Requester} : s.writeReg who 0x3040 x = { s with pt := { s.pt with stageSel := fld x 7 0 } } := rfl

theorem State.readReg_overrun : s.readReg 0x4100 = at_ 15 0 s.ck.overrun := rfl

theorem State.clearRead_overrun : s.clearRead 0x4100 = { s with ck := { s.ck with overrun := 0 } } := rfl

theorem Clk.write_st (x : Nat) (k : Clk) : (k.write x).st = k.st := rfl

/-- Clocks that are set up otherwise, in the state they were in, change nothing at the channel's edges. -/
theorem Ch.Quiet.same_clk (h : c.Quiet) {k : Clk} (hk : k.st = c.clk.st) : ({ c with clk := k } : Ch).Same c := by
  refine ⟨h, ?_⟩
  unfold Ch.edge Ch.lingers
  rw [hk]

theorem writeDrydown_eq (fs : FaultSet) : writeDrydown x fs =
    if 64 ≤ fld x 19 0 ∧ fld x 19 0 ≤ 1000000 then { fs with drydownUs := fld x 19 0 } else fs := rfl

/-- A write of _DRYDOWN out of its range changes nothing. -/
theorem State.setUnit_writeDrydown {fs : FaultSet} (h : s.unitFault u = fs) : s.setUnit u (writeDrydown x fs) =
    if 64 ≤ fld x 19 0 ∧ fld x 19 0 ≤ 1000000 then s.setUnit u { fs with drydownUs := fld x 19 0 } else s := by
  rw [writeDrydown_eq, apply_ite (fun fs => s.setUnit u fs), ← h, State.setUnit_unitFault]

/-- Settles O60: a denied access by itself; a register of a window by its channel's pages, one of a fault set by that set, one of the
shared region by what its write or read is there. -/
theorem registerAccesses : Obligations.RegisterAccesses := by
  intro s n off width o fn v u fs cause hs hoff hfs hsingle c w writes reads win us idle
  have hq : c.Quiet := hs.quiet
  have hwrites : ∀ {x f}, (s.Admits fn x w →
      act s (fun s => s.hostWrite (.host fn) x w) = .next (s.wrote fn x w f)) → writes x f := by
    intro x f h ho ha hwidth
    change act s (fun s => s.access ⟨.host fn, off.toNat, true, w⟩ width) = _
    rw [hoff, ho, hwidth]
    exact h ha
  have hreads : ∀ {x value f}, (s.AdmitsRead fn x →
      act s (fun s => s.access ⟨.host fn, x, false, 0⟩ 64) = .next (s.readOut fn x value f)) → reads x value f := by
    intro x value f h ho ha hwidth
    change act s (fun s => s.access ⟨.host fn, off.toNat, false, 0⟩ width) = _
    rw [hoff, ho, hwidth]
    exact h ha
  clear_value writes reads
  subst hoff hfs
  refine ⟨fun hpor hopen hd => act_denied hpor hs.settled hopen hd, fun hpor hopen hd => act_denied hpor hs.settled hopen hd,
    hwrites fun ha => ?event, hwrites fun ha => ?eventEn, hwrites fun ha => ?mapSel, hwrites fun ha => ?sleepCtl,
    hwrites fun ha => ?state, hwrites fun ha => ?nothing, hwrites fun ha => ?hit, hwrites fun ha => ?operand, hwrites fun ha => ?handData,
    hwrites fun ha => ?stageSel, hwrites fun ha => ?enable, hwrites fun ha => ?drydown, hreads fun ha => ?opResult,
    hreads fun ha => ?forceResult, hreads fun ha => ?overrun, hreads fun ha => ?opCount, hreads fun ha => ?readMapSel,
    hreads fun ha => ?readNothing⟩
  case event =>
    refine act_write_rests hs ha (by decide) rfl ?_
    split <;> exact ⟨hq, rfl⟩
  case eventEn => exact act_write_rests hs ha (by decide) rfl ⟨hq, rfl⟩
  case mapSel => exact act_write_rests hs ha (by decide) rfl ⟨hq, rfl⟩
  case sleepCtl => exact act_write_rests hs ha (by decide) rfl (hq.same_clk (Clk.write_st ..))
  case state => exact act_write_ignored hs ha (by decide) rfl
  case nothing => exact act_write_ignored hs ha (by decide) rfl
  case hit => exact act_write_rests hs ha (by decide) rfl ⟨hq, rfl⟩
  case operand => exact act_write_rests hs ha (by decide) rfl ⟨hq, rfl⟩
  case handData => exact act_write_rests hs ha (by decide) rfl ⟨hq, rfl⟩
  case stageSel =>
    exact act_write_shared ha (by decide) State.writeReg_stageSel ((State.settled_issued (s := s) 0x3040).trans hs.settled)
  case enable => exact act_write_unit (g := writeEnable (unitClasses u) w) (by decide) ha hsingle fun _ => rfl
  case drydown =>
    exact (act_write_unit (g := writeDrydown w) (by decide) ha hsingle fun _ => rfl).trans
      (congrArg _ (State.wrote_congr (State.setUnit_writeDrydown (State.unitFault_issued ..))))
  case opResult => exact act_read_rests hs ha (by decide) (fun _ _ => rfl) rfl rfl
  case forceResult => exact act_read_rests hs ha (by decide) (fun _ _ => rfl) rfl rfl
  case overrun =>
    exact act_read ha (fun _ => State.readReg_overrun) State.clearRead_overrun ((State.settled_issued (s := s) 0x4100).trans hs.settled)
  case opCount => exact act_read_plain hs ha (by decide) (fun _ _ => rfl) rfl
  case readMapSel => exact act_read_plain hs ha (by decide) (fun _ _ => rfl) rfl
  case readNothing => exact act_read_plain hs ha (by decide) (fun _ _ => rfl) rfl

end
end Sys2Proof.Machine
end

section

/-! ## What time does to a fault set (R321, R322, R324, R325)

Each timer of a fault set changes that set alone, and SHADOW_END the channels' and CK's shadows alone; neither adds anything that waits. -/

namespace Sys2Proof.Machine
section
variable {s : State} {u : FltUnit} {fs : FaultSet} {time : Nat}

theorem State.unitFault_begin (s : State) (u : FltUnit) : s.begin.unitFault u = s.unitFault u := by cases u <;> rfl

/-- An event that changes one fault set alone. -/
theorem act_onUnit (hpor : s.por = false) (hset : s.settled = true) (g : State → FaultSet → FaultSet) :
    act s (fun s => s.onUnit u (g s)) = .next (s.begin.setUnit u (g s.begin (s.unitFault u))).setPll := by
  refine act_powered hpor _ ?_ (State.settled_setUnit (s := s.begin) hset u _)
  unfold State.onUnit
  rw [State.unitFault_begin]

/-! ### Drydown (R321) -/

theorem reactionDone_faulted (h : fs.st = .faulted) : reactionDone fs = { fs with st := .drydown } := by
  unfold reactionDone
  rw [h]

theorem reactionDone_notFaulted (h : fs.st ≠ .faulted) : reactionDone fs = fs := by
  unfold reactionDone
  split
  · contradiction
  · rfl

theorem drydownOver_drydown (h : fs.st = .drydown) : drydownOver time fs =
    if fs.lastFault + 1000 * fs.loadedUs ≤ time then { fs with st := .clear, cls := 0, recoveries := inc fs.recoveries } else fs := by
  unfold drydownOver
  rw [h]

theorem drydownOver_notDrydown (h : fs.st ≠ .drydown) : drydownOver time fs = fs := by
  unfold drydownOver
  split
  · contradiction
  · rfl

/-- A set that is not in drydown, or whose drydown still runs, stays as it is. -/
theorem drydownOver_notDue (h : fs.st ≠ .drydown ∨ time < fs.lastFault + 1000 * fs.loadedUs) : drydownOver time fs = fs := by
  by_cases hst : fs.st = .drydown
  · have htime : time < fs.lastFault + 1000 * fs.loadedUs := h.resolve_left (not_not.2 hst)
    rw [drydownOver_drydown hst, if_neg (Nat.not_le.2 htime)]
  · exact drydownOver_notDrydown hst

/-! ### Shadows (R325) -/

/-- The ends of shadows leave what waits at the channels' edges. -/
theorem State.settled_endShadows (h : s.settled = true) : s.endShadows.settled = true :=
  State.settled_of h rfl rfl rfl rfl rfl fun m => match m with
    | 0 | 1 | 2 | _ + 3 => rfl

/-- Settles O49: each timer by what it makes of its fault set, SHADOW_END by the shadows it leaves. -/
theorem faultTimers : Obligations.FaultTimers := by
  intro s u fs hpor hset hfs becomes left clean
  have hbecomes : ∀ {cmd : FltUnit → Instr} {f : FaultSet} (g : State → FaultSet → FaultSet),
      exec (cmd u) s = act s (fun s => s.onUnit u (g s)) → g s.begin fs = f → becomes cmd f := by
    intro cmd f g hcmd hg
    refine hcmd.trans ((act_onUnit hpor hset g).trans ?_)
    rw [hfs, hg]
  clear_value becomes
  refine ⟨fun hst => hbecomes (fun _ => reactionDone) rfl (reactionDone_faulted hst),
    fun hst => hbecomes (fun _ => reactionDone) rfl (reactionDone_notFaulted hst),
    fun hst hdue => hbecomes (fun s => drydownOver s.time) rfl ((drydownOver_drydown hst).trans (if_pos hdue)),
    fun hrest => hbecomes (fun s => drydownOver s.time) rfl (drydownOver_notDue hrest),
    hbecomes (fun s => closeTrackers s.time) rfl rfl,
    fun hin => hbecomes (fun s => rollWear s.time) rfl (if_neg (Nat.not_le.2 hin)),
    fun hover => hbecomes (fun s => rollWear s.time) rfl (if_pos hover), ?_⟩
  exact act_powered hpor State.endShadows rfl (State.settled_endShadows (s := s.begin) hset)

end
end Sys2Proof.Machine
end

section

/-! ## Writes of a fault set (R315 to R317, R322, R324, R326)

A write of one of the set's registers reaches the set that stands in the window. A force of one source, with its target as it stands, arms
that source or raises it at U, and stops no load. -/

namespace Sys2Proof.Machine
section
variable {s t : State} {n : ChanId} {r x src : Nat} {fn : BitVec 8} {u : FltUnit} {k : Sub} {j : SharedSub} {c : Ch} {e : Env}
  {fs : FaultSet} {f : State → State}

/-! ### The write -/

/-- The write of value `x` of register `r` of the set of unit `u`, as it takes effect, does what `f` says, and leaves nothing waiting. -/
structure State.FaultWrite (s : State) (u : FltUnit) (r x : Nat) (f : State → State) : Prop where
  effect  : (s.issued (faultOff u r)).writeFaultOf u r x = f (s.issued (faultOff u r))
  settled : s.settled = true → (f (s.issued (faultOff u r))).settled = true

/-- A host function's write of a register of a fault set. -/
theorem State.FaultWrite.act (h : s.FaultWrite u r x f) (hr : r < 0x100) (ha : s.Admits fn (faultOff u r) x)
    (hsingle : ∀ c k, u = .chan c k → (s.pair c.val).st = .single) :
    act s (fun s => s.hostWrite (.host fn) (faultOff u r) x) = .next (s.wrote fn (faultOff u r) x f) := by
  have hunit : (s.issued (faultOff u r)).unitWritten u = u :=
    State.unitWritten_single fun c k hu => (congrArg Pair.st (State.issued_pair ..)).trans (hsingle c k hu)
  have hwrite : (s.issued (faultOff u r)).writeReg (.host fn) (faultOff u r) x = f (s.issued (faultOff u r)) := by
    unfold State.writeReg
    rw [faultAt_faultOff u hr]
    dsimp only
    unfold State.writeFault
    rw [hunit, h.effect]
  refine act_write ha hwrite ?_ (h.settled ha.settled)
  rw [decide_eq_false (faultOff_ne_mapData u hr), Bool.and_false, Bool.false_and, Bool.false_and]

/-- A write that changes nothing. -/
theorem State.FaultWrite.nothing (h : ∀ t : State, t.writeFaultOf u r x = t) : s.FaultWrite u r x fun t => t :=
  ⟨h _, fun hset => (State.settled_issued _).trans hset⟩

/-- A write that changes the set alone. -/
theorem State.FaultWrite.setUnit {fs' : FaultSet}
    (h : (s.issued (faultOff u r)).writeFaultOf u r x = (s.issued (faultOff u r)).setUnit u fs') :
    s.FaultWrite u r x fun t => t.setUnit u fs' :=
  ⟨h, fun hset => State.settled_setUnit ((State.settled_issued _).trans hset) u fs'⟩

/-! ### _FLT_ACK and _CE_WINDOW (R317, R322, R324) -/

theorem State.writeFaultOf_ack (t : State) (u : FltUnit) (x : Nat) : t.writeFaultOf u 0x18 x = t.ackUnit u x := rfl

theorem State.ackUnit_none (h : x.testBit 0 = false) (u : FltUnit) (t : State) : t.ackUnit u x = t := by
  unfold State.ackUnit bit
  rw [h]
  rfl

/-- What the acknowledgement of a unit clears: its set's capture and flags, and of CL and PT the other causes of their lines. -/
def State.acked (u : FltUnit) (fs : FaultSet) (t : State) : State :=
  match u with
  | .shared k => (t.setUnit u (ackSet fs)).ackCauses k
  | .chan _ _ => t.setUnit u (ackSet fs)

theorem State.ackUnit_acked (h : x.testBit 0 = true) (u : FltUnit) (t : State) : t.ackUnit u x = t.acked u (t.unitFault u) := by
  unfold State.ackUnit bit
  rw [h]
  cases u <;> rfl

theorem State.settled_acked (h : t.settled = true) (u : FltUnit) (fs : FaultSet) : (t.acked u fs).settled = true := by
  have hset := State.settled_setUnit h u (ackSet fs)
  cases u with
  | chan ch k => exact hset
  | shared j => cases j <;> exact hset

theorem State.FaultWrite.ack (h : x.testBit 0 = true) : s.FaultWrite u 0x18 x fun t => t.acked u (s.unitFault u) where
  effect := by rw [State.writeFaultOf_ack, State.ackUnit_acked h, State.unitFault_issued]
  settled hset := State.settled_acked ((State.settled_issued _).trans hset) u _

theorem State.writeFaultOf_window (t : State) (u : FltUnit) (x : Nat) :
    t.writeFaultOf u 0x60 x = t.setUnit u (Machine.writeWindow t.time x (t.unitFault u)) := rfl

theorem writeWindow_inRange {time : Nat} (h : 1000 ≤ fld x 19 0 ∧ fld x 19 0 ≤ 1000000) : writeWindow time x fs =
    { fs with windowUs := fld x 19 0, windowCe := 0, wearRaised := false, windowStart := time, trackers := [] } := if_pos h

theorem writeWindow_outOfRange {time : Nat} (h : fld x 19 0 < 1000 ∨ 1000000 < fld x 19 0) : writeWindow time x fs = fs :=
  if_neg (by omega)

/-! ### One forced source (R326) -/

/-- The write of value `x` forces source `src` alone, and leaves the target fields of the set as they stand, 0. -/
structure ForcesOne (fs : FaultSet) (src x : Nat) : Prop where
  value : x = 2 ^ src
  below : src < 32
  array : fs.forceArray = 0
  bank  : fs.forceBank = 0
  word  : fs.forceWord = 0

theorem ForcesOne.bits (h : ForcesOne fs src x) : bitsBelow 32 (fld x 31 0) = [src] := by
  rw [h.value]
  exact (by decide : ∀ i < 32, bitsBelow 32 (fld (2 ^ i) 31 0) = [i]) src h.below

theorem ForcesOne.target (h : ForcesOne fs src x) : writeTarget x fs = fs := by
  have hlt : x < 2 ^ 32 := h.value ▸ Nat.pow_lt_pow_right (by decide) h.below
  have hfields : ∀ hi lo, 32 ≤ lo → fld x hi lo = 0 := fun hi lo hlo => by
    unfold fld
    rw [Nat.div_eq_of_lt (hlt.trans_le (Nat.pow_le_pow_right (by decide) hlo)), Nat.zero_mod]
  unfold writeTarget
  exact if_pos ⟨(hfields 63 60 (by decide)).trans h.array.symm, (hfields 59 57 (by decide)).trans h.bank.symm,
    (hfields 56 32 (by decide)).trans h.word.symm⟩

/-- In a channel, the force of one source. -/
theorem ForcesOne.force (h : ForcesOne (c.fault k) src x) : Ch.force k x e c = c.forceSrc k e src := by
  unfold Ch.force
  rw [h.target, Ch.setFault_fault, h.bits]
  rfl

/-! ### What a forced source does (R326) -/

/-- The source that a force arms as a corrected error of an array. -/
abbrev ArmsCe (k : Sub) (src : Nat) : Prop := hasArrays k = true ∧ src = ceSrc k

/-- The sources that a force arms as an uncorrectable error of an array. -/
abbrev ArmsUe (k : Sub) (src : Nat) : Prop := hasArrays k = true ∧ src = ueSrc k ∨ k = .ru ∧ src = 4

/-- The sources that a force arms as the error of a packet. -/
abbrev ArmsPacket (k : Sub) (src : Nat) : Prop := k = .rq ∧ src ≤ 1

/-- The source that a force arms as the error of a message. -/
abbrev ArmsMessage (k : Sub) (src : Nat) : Prop := k = .la ∧ src = 0

theorem Ch.forceSrc_eq (hcls : srcClass k src ≠ 0) : c.forceSrc k e src =
    if ArmsCe k src then c.setFault k { c.fault k with pendForce := some false }
    else if ArmsUe k src then c.setFault k { c.fault k with pendForce := some true }
    else if ArmsPacket k src then { c with rq := { c.rq with forceErr := src + 1 } }
    else if ArmsMessage k src then { c with lalog := { c.lalog with forceCe := true } }
    else c.raise e k src forcedCause := by
  have hue : ArmsUe k src ↔ hasArrays k = true ∧ (src = ueSrc k ∨ k = .ru ∧ src = 4) := by
    cases k <;> simp [ArmsUe, hasArrays]
  unfold Ch.forceSrc
  rw [if_neg hcls, if_congr hue rfl rfl]
  simp only [Bool.and_eq_true, Bool.or_eq_true, decide_eq_true_eq]

theorem ArmsUe.not_ce (h : ArmsUe k src) : ¬ ArmsCe k src := by
  rintro ⟨-, rfl⟩
  cases k <;> exact absurd h (by decide)

theorem ArmsPacket.not_array (h : ArmsPacket k src) : ¬ ArmsCe k src ∧ ¬ ArmsUe k src := by
  obtain ⟨rfl, hsrc⟩ := h
  simp only [ArmsCe, ArmsUe, hasArrays, ceSrc, ueSrc, reduceCtorEq, false_and, or_false, true_and]
  omega

theorem ArmsMessage.not_other (h : ArmsMessage k src) : ¬ ArmsCe k src ∧ ¬ ArmsUe k src ∧ ¬ ArmsPacket k src := by
  obtain ⟨rfl, rfl⟩ := h
  decide

theorem Ch.forceSrc_ce (hcls : srcClass k src ≠ 0) (h : ArmsCe k src) :
    c.forceSrc k e src = c.setFault k { c.fault k with pendForce := some false } :=
  (Ch.forceSrc_eq hcls).trans (if_pos h)

theorem Ch.forceSrc_ue (hcls : srcClass k src ≠ 0) (h : ArmsUe k src) :
    c.forceSrc k e src = c.setFault k { c.fault k with pendForce := some true } := by
  rw [Ch.forceSrc_eq hcls, if_neg h.not_ce, if_pos h]

theorem Ch.forceSrc_packet (hcls : srcClass k src ≠ 0) (h : ArmsPacket k src) :
    c.forceSrc k e src = { c with rq := { c.rq with forceErr := src + 1 } } := by
  obtain ⟨hce, hue⟩ := h.not_array
  rw [Ch.forceSrc_eq hcls, if_neg hce, if_neg hue, if_pos h]

theorem Ch.forceSrc_message (hcls : srcClass k src ≠ 0) (h : ArmsMessage k src) :
    c.forceSrc k e src = { c with lalog := { c.lalog with forceCe := true } } := by
  obtain ⟨hce, hue, hpacket⟩ := h.not_other
  rw [Ch.forceSrc_eq hcls, if_neg hce, if_neg hue, if_neg hpacket, if_pos h]

theorem Ch.forceSrc_raised (hcls : srcClass k src ≠ 0) (hce : ¬ ArmsCe k src) (hue : ¬ ArmsUe k src) (hpacket : ¬ ArmsPacket k src)
    (hmessage : ¬ ArmsMessage k src) : c.forceSrc k e src = c.raise e k src forcedCause := by
  rw [Ch.forceSrc_eq hcls, if_neg hce, if_neg hue, if_neg hpacket, if_neg hmessage]

/-- A WEAR source is of class C. -/
theorem isWear_of_class_U (h : srcClass k src = 2) : isWear k src = false := by
  refine decide_eq_false fun ⟨hsrc, hbw, hbg, hla⟩ => ?_
  subst hsrc
  cases k <;> simp [srcClass, srcClasses, wearSrc] at h hbw hbg hla

theorem escalate_U {cap : Nat} (h : cap ≠ 2) : escalate cap 2 = 2 := by
  unfold escalate
  rw [if_neg (by omega), if_neg (fun hc => h hc.1)]

/-- A forced source of class U is raised at U, whatever shadows run, unless a capture at U stands (R319, R325). -/
theorem Ch.raises_forced (hcls : srcClass k src = 2) (hen : (c.fault k).disabled.testBit src = false)
    (hcap : capturedClass (c.fault k) ≠ 2) : c.Raises e k src forcedCause 2 := by
  refine ⟨rfl, hcls ▸ by decide, hen, ?_⟩
  rw [hcls]
  exact escalate_U hcap

/-! ### The command in a channel that stands alone -/

/-- Every load and every image that CL holds is of a channel that is LOADING. -/
def State.LoadsRun (s : State) : Prop :=
  (∀ p ∈ s.cl.loads, (s.ch (s.lead p.1)).ctl.st = .loading) ∧ ∀ p ∈ s.cl.imgs, (s.ch (s.lead p.1)).ctl.st = .loading

/-- Then no load stops. -/
theorem State.LoadsRun.stopLoads (h : s.LoadsRun) : s.stopLoads = s := by
  obtain ⟨hloads, himgs⟩ := h
  have hended : (s.cl.loads.map (·.1)).filter (fun n => (s.ch (s.lead n)).ctl.st ≠ .loading) = [] := by
    refine List.filter_eq_nil_iff.2 fun n hn => ?_
    obtain ⟨p, hp, rfl⟩ := List.mem_map.1 hn
    simp [hloads p hp]
  have hkept : s.cl.imgs.filter (fun p => (s.ch (s.lead p.1)).ctl.st = .loading) = s.cl.imgs :=
    List.filter_eq_self.2 fun p hp => decide_eq_true (himgs p hp)
  unfold State.stopLoads
  dsimp only
  rw [hended, hkept]
  rfl

/-- Loads go on while the channels' states stand. -/
theorem State.LoadsRun.of_same (h : s.LoadsRun) (hcl : t.cl = s.cl) (hpair : ∀ m, t.pair m = s.pair m)
    (hst : ∀ m, (t.ch m).ctl.st = (s.ch m).ctl.st) : t.LoadsRun := by
  have hlead : ∀ m, t.lead m = s.lead m := fun m => by
    unfold State.lead
    rw [hpair]
  unfold State.LoadsRun
  simp only [hcl, hlead, hst]
  exact h

theorem State.LoadsRun.issued (h : s.LoadsRun) (off : Nat) : (s.issued off).LoadsRun := by
  refine h.of_same ?_ (fun m => State.issued_pair ..) (fun m => by rw [State.issued_ch])
  obtain ⟨hp, b, he, -, -⟩ := s.issued_eq off
  rw [he]
  rfl

theorem State.LoadsRun.setCh {n : Nat} (h : s.LoadsRun) (hn : n < 4) (hst : c.ctl.st = (s.ch n).ctl.st) : (s.setCh n c).LoadsRun := by
  refine h.of_same (State.setCh_cl ..) (fun m => State.pair_setCh ..) fun m => ?_
  rw [State.ch_setCh s n m c hn]
  split
  · next hm =>
    rcases hm with rfl | ⟨rfl, hm⟩
    · exact hst
    · obtain ⟨m, rfl⟩ := Nat.exists_eq_add_of_le' hm
      exact hst
  · rfl

theorem State.LoadsRun.errPulse (h : s.LoadsRun) (m : Option Nat) : (s.errPulse m).LoadsRun :=
  h.of_same rfl (fun _ => State.pair_errPulse ..) fun _ => by rw [State.ch_errPulse]

/-- The force of one source in a channel that stands alone, which settles to `d`. -/
theorem ForcesOne.forceUnit {d : Ch} (h : ForcesOne (c.fault k) src x) (hsingle : (t.pair n.val).st = .single)
    (hc : t.ch n.val = c) (he : t.env n.val false .none = e) (hd : (c.forceSrc k e src).settle e = d) :
    t.forceUnit (.chan n k) x = (t.finish n.val d d.out).stopLoads := by
  subst hc he
  have harm : t.armBoth n.val k x = t := if_neg (by simp [hsingle])
  have hsecond : t.isSecond n.val = false := by simp [State.isSecond, hsingle]
  unfold State.forceUnit
  dsimp only
  rw [harm]
  unfold State.onSideFault State.onSide State.runAlone
  simp only [hsecond, Bool.false_eq_true, if_false, hsingle, reduceCtorEq, ne_eq, not_true_eq_false, decide_false]
  rw [h.force, hd]

/-- A channel that is awake stamps with the CORE stamp (R358). -/
theorem State.Ready.seen_stamp {n : Nat} (h : s.Ready n) (m : MemErr) : (s.seen n m).stamp = s.begin.stamp := by
  refine if_neg ?_
  rw [State.ch_begin, h.calm.awake']
  exact Bool.false_ne_true

/-- A force of one source that leaves a calm channel with nothing to do, in the state it was in. -/
theorem State.Ready.forceArms (h : s.Ready n.val) (hone : ForcesOne ((s.ch n.val).fault k) src x) (hloads : s.LoadsRun) {d : Ch}
    (hd : (s.ch n.val).forceSrc k (s.seen n.val .none) src = d) (hsame : d.Same (s.ch n.val)) (hctl : d.ctl = (s.ch n.val).ctl)
    (hf : ∀ t : State, t.ch n.val = s.ch n.val → f t = t.setCh n.val d) : s.FaultWrite (.chan n k) 0x10 x f := by
  have hch := State.issued_ch s (faultOff (.chan n k) 0x10) n.val
  have hrun : ((s.issued (faultOff (.chan n k) 0x10)).setCh n.val d).LoadsRun :=
    (hloads.issued _).setCh h.chan (by rw [hctl, hch])
  refine ⟨?_, fun hset => ?_⟩
  · change (s.issued _).forceUnit (.chan n k) x = _
    rw [hone.forceUnit ((congrArg Pair.st (State.issued_pair ..)).trans h.single) hch (State.issued_seen ..)
      (by rw [hd, hsame.settle_eq]), hsame.finish_eq, hrun.stopLoads, hf _ hch]
  · rw [hf _ hch]
    exact State.settled_same (c := s.ch n.val) ((State.settled_issued _).trans hset) h.chan (by rw [hch]) hsame.edge

theorem Ch.setFault_ctl (c : Ch) (k : Sub) (fs : FaultSet) : (c.setFault k fs).ctl = c.ctl := by cases k <;> rfl

/-- A force of a source that arms an error of an array. -/
theorem State.Ready.forcePends {b : Bool} (h : s.Ready n.val) (hone : ForcesOne ((s.ch n.val).fault k) src x) (hloads : s.LoadsRun)
    (hd : (s.ch n.val).forceSrc k (s.seen n.val .none) src =
      (s.ch n.val).setFault k { (s.ch n.val).fault k with pendForce := some b }) : s.FaultWrite (.chan n k) 0x10 x fun t =>
      t.setUnit (.chan n k) { s.unitFault (.chan n k) with pendForce := some b } :=
  h.forceArms hone hloads hd ⟨h.calm.quiet.setFault k _, Ch.edge_setFault ..⟩ (Ch.setFault_ctl ..) fun t ht =>
    congrArg (fun c : Ch => t.setCh n.val (c.setFault k _)) ht

/-- A forced source of class U that a quiet channel raises leaves nothing to do. -/
theorem Ch.Quiet.settle_forced (hq : c.Quiet) (hcls : srcClass k src = 2) (hen : (c.fault k).disabled.testBit src = false)
    (hcap : capturedClass (c.fault k) ≠ 2) : ∃ raised, (c.raise e k src forcedCause).settle e =
      { c.setFault k (raiseOn e.time e.stamp false 2 src forcedCause (c.fault k)).1 with raised := raised, errPulse := true } := by
  obtain ⟨raised, hraise⟩ := Ch.raise_atU hq (Ch.raises_forced (e := e) hcls hen hcap) (isWear_of_class_U hcls)
  obtain ⟨htodo, -, -, hhalt, -⟩ := hq.setFault k (raiseOn e.time e.stamp false 2 src forcedCause (c.fault k)).1
  unfold Ch.faulted at hraise
  rw [hcls] at hraise
  exact ⟨raised, by rw [hraise]; exact Ch.settle_quiet htodo hhalt⟩

/-- A force of one source of class U that a calm channel raises: its set takes the fault, and SCE_ERR_N starts. -/
theorem State.Ready.forceRaises (h : s.Ready n.val) (hone : ForcesOne ((s.ch n.val).fault k) src x) (hloads : s.LoadsRun)
    (hd : (s.ch n.val).forceSrc k (s.seen n.val .none) src = (s.ch n.val).raise (s.seen n.val .none) k src forcedCause)
    (hcls : srcClass k src = 2) (hen : ((s.ch n.val).fault k).disabled.testBit src = false)
    (hcap : capturedClass ((s.ch n.val).fault k) ≠ 2) : s.FaultWrite (.chan n k) 0x10 x fun t => (t.setUnit (.chan n k)
      (raiseOn s.time s.begin.stamp false 2 src forcedCause ((s.ch n.val).fault k)).1).errPulse (some n.val) := by
  have hch := State.issued_ch s (faultOff (.chan n k) 0x10) n.val
  obtain ⟨raised, hsettle⟩ := h.calm.quiet.settle_forced (e := s.seen n.val .none) hcls hen hcap
  rw [← hd, h.seen_stamp, State.seen_time] at hsettle
  refine ⟨?_, fun hset => State.settled_setUnit ((State.settled_issued _).trans hset) _ _⟩
  change (s.issued _).forceUnit (.chan n k) x = ((s.issued _).setCh n.val (((s.issued _).ch n.val).setFault k _)).errPulse _
  rw [hone.forceUnit ((congrArg Pair.st (State.issued_pair ..)).trans h.single) hch (State.issued_seen ..) hsettle, hch]
  obtain ⟨htodo, hout, hraised, hhalt, herr⟩ := h.calm.quiet.setFault k
    (raiseOn s.time s.begin.stamp false 2 src forcedCause ((s.ch n.val).fault k)).1
  rw [State.finish_error _ _ htodo rfl hraised hhalt herr hout]
  dsimp only
  rw [hout, State.leave_nil]
  exact (((hloads.issued _).setCh h.chan (by rw [Ch.setFault_ctl, hch])).errPulse _).stopLoads

/-! ### The command in a shared sub-block -/

theorem State.forceShared_arms {b : Bool} (h : ForcesOne (t.sharedFault j) src x) (harm : sharedArms j src = some b) :
    t.forceShared j x = t.setShared j { t.sharedFault j with pendForce := some b } := by
  unfold State.forceShared forceOrder
  simp only [h.bits, h.target, List.foldl_cons, List.foldl_nil, harm, Option.isNone_some, Bool.false_eq_true, not_false_eq_true,
    List.filter_cons_of_neg, List.filter_nil, List.flatMap_nil, List.flatMap_cons, List.append_nil]

/-- The force of a source of class U of HP, PT or CK raises it, unless a capture at U stands (R319). -/
theorem State.forceShared_raises (h : ForcesOne (t.sharedFault j) src x) (hcl : j ≠ .cl) (harm : sharedArms j src = none)
    (hcls : sharedSrcClass j src = 2) (hen : (t.sharedFault j).disabled.testBit src = false)
    (hcap : capturedClass (t.sharedFault j) ≠ 2) : t.forceShared j x =
      (t.setShared j (raiseOn t.time t.stamp false 2 src forcedCause (t.sharedFault j)).1).errPulse none := by
  have horder : forceOrder j x = [src] := by
    unfold forceOrder
    simp [h.bits, harm, hcls]
  have hraised : (raiseOn t.time t.stamp false 2 src forcedCause (t.sharedFault j)).2 = 2 := escalate_U hcap
  have hwear : ¬ (j = .hp ∧ src = 3 ∨ j = .pt ∧ src = 4) := by
    rintro (⟨rfl, rfl⟩ | ⟨rfl, rfl⟩) <;> exact absurd hcls (by decide)
  have hsame : t.forceShared j x = t.raiseSharedAs false j src forcedCause := by
    unfold State.forceShared
    rw [horder, h.bits, h.target]
    simp only [List.foldl_cons, List.foldl_nil, harm, State.setShared_sharedFault, Bool.not_and_self]
  rw [hsame]
  unfold State.raiseSharedAs
  have hforced : (if forcedCause.forced then none else t.sharedShadow j src forcedCause.key) = none := rfl
  simp only [hforced, hcls, bit, hen, OfNat.ofNat_ne_zero, Bool.false_eq_true, or_self, if_false, hcl, false_and, hraised, hwear,
    decide_false, le_refl, if_true, Nat.reduceEqDiff]

/-- The shared sets of the block as a write of one of them takes effect. -/
theorem State.issued_sharedFault (s : State) (off : Nat) (j : SharedSub) : (s.issued off).sharedFault j = s.sharedFault j :=
  State.unitFault_issued s off (.shared j)

theorem State.forceArmsShared {b : Bool} (h : ForcesOne (s.sharedFault j) src x) (harm : sharedArms j src = some b) :
    s.FaultWrite (.shared j) 0x10 x fun t => t.setUnit (.shared j) { s.sharedFault j with pendForce := some b } := by
  refine State.FaultWrite.setUnit ?_
  rw [← State.issued_sharedFault s (faultOff (.shared j) 0x10)] at h ⊢
  exact State.forceShared_arms h harm

theorem State.forceRaisesShared (h : ForcesOne (s.sharedFault j) src x) (hcl : j ≠ .cl) (harm : sharedArms j src = none)
    (hcls : sharedSrcClass j src = 2) (hen : (s.sharedFault j).disabled.testBit src = false)
    (hcap : capturedClass (s.sharedFault j) ≠ 2) : s.FaultWrite (.shared j) 0x10 x fun t => (t.setUnit (.shared j)
      (raiseOn s.time s.begin.stamp false 2 src forcedCause (s.sharedFault j)).1).errPulse none := by
  refine ⟨?_, fun hset => State.settled_setUnit ((State.settled_issued _).trans hset) (.shared j) _⟩
  have hclocks := State.issued_clocks s (faultOff (.shared j) 0x10)
  rw [← State.issued_sharedFault s (faultOff (.shared j) 0x10)] at h hen hcap ⊢
  rw [← hclocks.stamp, ← hclocks.time]
  exact State.forceShared_raises h hcl harm hcls hen hcap

/-! ### The statement -/

/-- Settles O48: _FLT_ACK by its bit 0, _CE_WINDOW by its range, _FLT_FORCE by what the one source that it forces does. -/
theorem faultWrites : Obligations.FaultWrites := by
  intro s u v fn src fs hfs hsingle ends acked us stamp raised
  have hends : ∀ {cmd : Requester → FltUnit → Word → Instr} {r : Nat} {f : State → State},
      (exec (cmd (.host fn) u v) s = act s fun s => s.hostWrite (.host fn) (faultOff u r) v.toNat) → r < 0x100 →
      s.FaultWrite u r v.toNat f → ends cmd r f :=
    fun hcmd hr h ha => hcmd.trans (h.act hr ha hsingle)
  clear_value ends
  subst hfs
  refine ⟨fun h0 => hends rfl (by decide) (.nothing (State.ackUnit_none h0 u)), fun h0 => hends rfl (by decide) ?ack,
    fun hlow hhigh => hends rfl (by decide) ?window, fun hout => hends rfl (by decide) (.nothing fun t => ?outOfRange),
    fun hvalue hbelow harray hbank hword => ?_⟩
  case ack =>
    have hack := State.FaultWrite.ack (s := s) (u := u) h0
    cases u with
    | chan n k => exact hack
    | shared j => cases j <;> exact hack
  case window =>
    refine .setUnit ?_
    rw [State.writeFaultOf_window, State.unitFault_issued, (s.issued_clocks _).time, writeWindow_inRange ⟨hlow, hhigh⟩]
  case outOfRange => rw [State.writeFaultOf_window, writeWindow_outOfRange hout, State.setUnit_unitFault]
  have hone : ForcesOne (s.unitFault u) src v.toNat := ⟨hvalue, hbelow, harray, hbank, hword⟩
  refine ⟨?_, ?_⟩
  · rintro n k rfl hready hcls hloads himgs ce ue packet message
    have hrun : s.LoadsRun := ⟨hloads, himgs⟩
    refine ⟨fun hce => hends rfl (by decide) ?ce, fun hue => hends rfl (by decide) ?ue, fun hpacket => hends rfl (by decide) ?packet,
      fun hmessage => hends rfl (by decide) ?message, fun hce hue hpacket hmessage hU hen hcap => hends rfl (by decide) ?raised⟩
    case ce => exact hready.forcePends hone hrun (Ch.forceSrc_ce hcls hce)
    case ue => exact hready.forcePends hone hrun (Ch.forceSrc_ue hcls hue)
    case packet =>
      exact hready.forceArms hone hrun (Ch.forceSrc_packet hcls hpacket) ⟨hready.calm.quiet, rfl⟩ rfl fun t ht => by rw [ht]
    case message =>
      exact hready.forceArms hone hrun (Ch.forceSrc_message hcls hmessage) ⟨hready.calm.quiet, rfl⟩ rfl fun t ht => by rw [ht]
    case raised => exact hready.forceRaises hone hrun (Ch.forceSrc_raised hcls hce hue hpacket hmessage) hU hen hcap
  · rintro j rfl hcl
    exact ⟨fun b harm => hends rfl (by decide) (State.forceArmsShared hone harm),
      fun harm hcls hen hcap => hends rfl (by decide) (State.forceRaisesShared hone hcl harm hcls hen hcap)⟩

end
end Sys2Proof.Machine
end

section

/-! ## A shared fault at F halts the block (R305, R306, R314, R321)

Each channel leaves the state it is in; around the channels only CL, PT and the fault set change, and SCE_ERR_N starts. What follows within
the command gates clocks only. -/

namespace Sys2Proof.Machine
section
variable {s t b : State} {n d src : Nat} {c : Ch} {e : Env} {u : SharedSub} {k : Cause} {fs : FaultSet}

/-! ### Around the channels -/

/-- What no channel's halt changes: PT, CL, CK but for the PLLs, the shared fault sets, time and power. -/
def State.around (s : State) := (s.pt, s.cl, { s.ck with pll := .off }, s.sflt, s.time, s.por, s.xspiResetN)

/-- A shared fault at U or F has started SCE_ERR_N (R329). -/
def State.ErrShared (s : State) : Prop := s.hp.errNew = true ∧ s.hp.errShared = true

theorem State.around_setCh (s : State) (n : Nat) (c : Ch) : (s.setCh n c).around = s.around := by simp [State.around]

theorem State.around_finish (s : State) (n : Nat) (c : Ch) (l : List Output) : (s.finish n c l).around = s.around := by
  unfold State.finish
  dsimp only
  split <;> exact State.around_setCh ..

theorem State.around_haltList (l : List Nat) (s : State) : (l.foldl (State.haltOne d) s).around = s.around := by
  induction l generalizing s with
  | nil => rfl
  | cons n l ih => exact (ih _).trans (State.around_finish ..)

theorem State.ErrShared.finish (h : s.ErrShared) (n : Nat) (c : Ch) (l : List Output) : (s.finish n c l).ErrShared := by
  unfold State.ErrShared State.finish at *
  obtain ⟨hnew, hshared⟩ := h
  dsimp only
  split
  · exact ⟨rfl, by simp [State.errPulse, hshared]⟩
  · simp [hnew, hshared]

theorem State.ErrShared.haltList (h : s.ErrShared) (l : List Nat) : (l.foldl (State.haltOne d) s).ErrShared := by
  induction l generalizing s with
  | nil => exact h
  | cons n l ih => exact ih (h.finish ..)

theorem State.around_gateIdle (s : State) (n : Nat) : (s.gateIdle n).around = s.around := by
  unfold State.gateIdle
  split
  · exact State.around_setCh ..
  · rfl

theorem State.around_setPll (s : State) : s.setPll.around = s.around := by
  unfold State.setPll
  split <;> rfl

theorem State.hp_gateIdle (s : State) (n : Nat) : (s.gateIdle n).hp = s.hp := by
  unfold State.gateIdle
  split <;> simp

/-- What follows an event at a block where nothing waits leaves all of that. -/
theorem State.Unattended.afterwards_around (hs : s.Unattended) (h : s.Clear) :
    s.afterwards.around = s.around ∧ s.afterwards.hp = s.hp := by
  have hserved : s.serveWaiting = [0, 1, 2, 3].foldl State.gateIdle s := by
    rw [hs.serveWaiting]
    simp only [List.foldl_cons, List.foldl_nil, h.serveChan]
  unfold State.afterwards
  rw [State.around_setPll, State.setPll_hp, hserved]
  split
  · exact ⟨rfl, rfl⟩
  · simp only [List.foldl_cons, List.foldl_nil, State.around_gateIdle, State.hp_gateIdle, and_self]

/-! ### The channels (R305, R306) -/

/-- The state in which a shared halt leaves a channel. -/
def ChSt.afterHalt : ChSt → ChSt
  | .run => .halted
  | .closing => .halted
  | .loading => .down
  | x => x

theorem ChSt.afterHalt_left (st : ChSt) : st.afterHalt ≠ .run ∧ st.afterHalt ≠ .closing ∧ st.afterHalt ≠ .loading := by
  cases st <;> decide

/-- Behind a shared halt nothing waits at the channel's edges, and no work is left but strikes. -/
theorem Ch.outline_sharedHalt (hclear : c.Clear) (hq : c.Quiet) :
    (Ch.sharedHalt d e c).outline = (c.ctl.st.afterHalt, [], [], []) := by
  have hc := hclear.outline hq
  unfold Ch.sharedHalt
  cases hst : c.ctl.st with
  | run => exact Ch.outline_leaveRun ..
  | closing => exact Ch.outline_leaveRun ..
  | loading =>
    obtain ⟨hreset, hrx⟩ := hclear
    obtain ⟨htodo, -⟩ := hq
    unfold Ch.outline
    dsimp only
    rw [Ch.hull_setSt, hreset, hrx, htodo]
    rfl
  | down => exact hc.trans (by rw [hst]; rfl)
  | halted => exact hc.trans (by rw [hst]; rfl)
  | failed => exact hc.trans (by rw [hst]; rfl)

/-- The channel settles in the state that the halt leaves it in. -/
theorem Ch.settle_sharedHalt (hclear : c.Clear) (hq : c.Quiet) :
    ((Ch.sharedHalt d e c).settle e).ctl.st = c.ctl.st.afterHalt ∧ ((Ch.sharedHalt d e c).settle e).Clear := by
  have hout := Ch.outline_sharedHalt (d := d) (e := e) hclear hq
  obtain ⟨hrun, hclosing, hloading⟩ := c.ctl.st.afterHalt_left
  exact ⟨Ch.settle_st hout hrun hclosing hloading, (Ch.clear_of_outline hout).settle (Ch.todo_of_outline hout) e⟩

/-- A channel that a shared halt has nothing to do with stays as it is. -/
theorem Ch.settle_sharedHalt_down (hq : c.Quiet) (h : c.ctl.st = .down) : (Ch.sharedHalt d e c).settle e = c := by
  obtain ⟨htodo, -, -, hhalt, -⟩ := hq
  unfold Ch.sharedHalt
  rw [h]
  exact Ch.settle_quiet htodo hhalt

theorem State.ch_haltOne (hn : n < 4) (hclear : (s.ch n).Clear) (hq : (s.ch n).Quiet) :
    ((State.haltOne d s n).ch n).ctl.st = (s.ch n).ctl.st.afterHalt ∧ ((State.haltOne d s n).ch n).Clear := by
  unfold State.haltOne
  dsimp only
  rw [State.ch_finish _ _ _ hn n hn, if_pos rfl]
  obtain ⟨hst, hedges⟩ := Ch.settle_sharedHalt (d := d) hclear hq
  exact ⟨hst, hedges.of_life (Ch.life_reported _)⟩

theorem State.ch_haltOne_of_ne {m : Nat} (hn : n < 4) (hm : m < 4) (h : m ≠ n) : (State.haltOne d s n).ch m = s.ch m := by
  unfold State.haltOne
  dsimp only
  rw [State.ch_finish _ _ _ hn m hm, if_neg h]

theorem State.ch_haltOne_down (hn : n < 4) (hq : (s.ch n).Quiet) (h : (s.ch n).ctl.st = .down) :
    (State.haltOne d s n).ch n = s.ch n := by
  unfold State.haltOne
  dsimp only
  rw [State.ch_finish _ _ _ hn n hn, if_pos rfl, Ch.settle_sharedHalt_down hq h, hq.reported]

theorem State.ch_haltList_of_notMem {m : Nat} (hm : m < 4) (l : List Nat) (hl : ∀ n ∈ l, n < 4) (h : m ∉ l) :
    (l.foldl (State.haltOne d) s).ch m = s.ch m := by
  induction l generalizing s with
  | nil => rfl
  | cons x l ih =>
    obtain ⟨hx, hrest⟩ := List.forall_mem_cons.1 hl
    rw [List.mem_cons, not_or] at h
    obtain ⟨hne, hnot⟩ := h
    exact (ih hrest hnot).trans (State.ch_haltOne_of_ne hx hm hne)

/-- Of several channels that a shared halt reaches one after another, each is left as its own halt leaves it. -/
theorem State.ch_haltList {m : Nat} (hm : m < 4) (l : List Nat) (hl : ∀ n ∈ l, n < 4) (hnodup : l.Nodup) (h : m ∈ l) :
    ∃ t : State, t.ch m = s.ch m ∧ (l.foldl (State.haltOne d) s).ch m = (State.haltOne d t m).ch m := by
  induction l generalizing s with
  | nil => exact absurd h List.not_mem_nil
  | cons x l ih =>
    obtain ⟨hx, hrest⟩ := List.forall_mem_cons.1 hl
    obtain ⟨hnot, hdistinct⟩ := List.nodup_cons.1 hnodup
    by_cases hmx : m = x
    · subst hmx
      exact ⟨s, rfl, State.ch_haltList_of_notMem hm l hrest hnot⟩
    · obtain ⟨t, ht, heq⟩ := ih (s := State.haltOne d s x) hrest hdistinct ((List.mem_cons.1 h).resolve_left hmx)
      exact ⟨t, ht.trans (State.ch_haltOne_of_ne hx hm hmx), heq⟩

/-! ### The block (R306) -/

theorem State.ch_blockHalt (s : State) (u : SharedSub) (src : Nat) {m : Nat} (hm : m < 4) :
    ∃ d, ∃ t : State, t.ch m = s.ch m ∧ (s.blockHalt u src).ch m = (State.haltOne d t m).ch m := by
  obtain ⟨t, ht, heq⟩ := State.ch_haltList (s := s) (d := at_ 31 31 1 + at_ 30 27 (sharedSubCode u) + at_ 26 22 src) hm [0, 1, 2, 3]
    (by decide) (by decide) (by interval_cases m <;> decide)
  exact ⟨_, t, ht, heq⟩

theorem State.around_blockHalt (s : State) (u : SharedSub) (src : Nat) : (s.blockHalt u src).around = ({ s with
    cl := { s.cl with phase := .halted, loads := [] },
    pt := { s.pt with checking := false, holding := false, heldChans := 0 } } : State).around := by
  have haround := State.around_haltList (d := at_ 31 31 1 + at_ 30 27 (sharedSubCode u) + at_ 26 22 src) [0, 1, 2, 3] s
  unfold State.blockHalt
  dsimp only
  generalize [0, 1, 2, 3].foldl (State.haltOne _) s = t at haround
  simp only [State.around, Prod.mk.injEq] at haround
  obtain ⟨hpt, hcl, hck, hsflt, htime, hpor, hxspi⟩ := haround
  unfold State.around
  dsimp only
  rw [hpt, hcl, hck, hsflt, htime, hpor, hxspi]

/-- State `t` is block `s`, halted, with fault set `fs` in shared sub-block `u`, and with SCE_ERR_N started. -/
structure State.HaltedBy (s : State) (u : SharedSub) (fs : FaultSet) (t : State) : Prop where
  halted : t.blockHalted = true
  around : t.around = ({ s.setShared u fs with
    cl := { s.cl with phase := .halted, loads := [] },
    pt := { s.pt with checking := false, holding := false, heldChans := 0 } } : State).around
  errors : t.ErrShared
  chans  : ∀ m < 4, (t.ch m).ctl.st = (s.ch m).ctl.st.afterHalt

/-- A shared source of class F that is enabled and that nothing shadows is raised at F, and the block halts. -/
theorem State.raiseShared_atF (hsh : s.sharedShadow u src k.key = none) (hcls : sharedSrcClass u src = 3)
    (hen : (s.sharedFault u).disabled.testBit src = false) (hcl : ¬ (u = .cl ∧ 4 ≤ src)) (hrun : s.blockHalted = false) :
    s.raiseShared u src k =
      ((s.setShared u (raiseOn s.time s.stamp false 3 src k (s.sharedFault u)).1).errPulse none).blockHalt u src := by
  have hclass : (raiseOn s.time s.stamp false 3 src k (s.sharedFault u)).2 = 3 := by
    show escalate _ 3 = 3
    unfold escalate
    simp
  have hwear : ¬ (u = .hp ∧ src = 3 ∨ u = .pt ∧ src = 4) := by
    rintro (⟨rfl, rfl⟩ | ⟨rfl, rfl⟩) <;> exact absurd hcls (by decide)
  have hhalted : ∀ fs, ((s.setShared u fs).errPulse none).blockHalted = false := fun fs =>
    (show ((s.setShared u fs).errPulse none).blockHalted = s.blockHalted by cases u <;> rfl).trans hrun
  unfold State.raiseShared State.raiseSharedAs
  dsimp only
  rw [hsh, ite_self]
  dsimp only
  rw [hcls, if_neg (by simp [bit, hen]), if_neg hcl, decide_eq_false hwear, if_neg Bool.false_ne_true, hclass,
    if_pos (show (2 : Nat) ≤ 3 by decide), if_pos ⟨rfl, by rw [hhalted]; rfl⟩]

theorem State.blockHalt_haltedBy (hq : s.Quiet) (hclear : s.Clear) (u v : SharedSub) (fs : FaultSet) (src : Nat) :
    s.HaltedBy u fs (((s.setShared u fs).errPulse none).blockHalt v src) ∧
      (((s.setShared u fs).errPulse none).blockHalt v src).Clear := by
  let b := (s.setShared u fs).errPulse none
  have hch : ∀ m, b.ch m = s.ch m := fun m => by rw [State.ch_errPulse, State.ch_setShared]
  have hraised : b.ErrShared := ⟨rfl, Bool.or_true _⟩
  have hchan : ∀ m < 4, ((b.blockHalt v src).ch m).ctl.st = (s.ch m).ctl.st.afterHalt ∧ ((b.blockHalt v src).ch m).Clear := by
    intro m hm
    obtain ⟨d, t, ht, heq⟩ := State.ch_blockHalt b v src hm
    have htm := ht.trans (hch m)
    rw [heq, ← htm]
    exact State.ch_haltOne hm (by rw [htm]; exact hclear m hm) (by rw [htm]; exact hq.ch m)
  have haround : (b.blockHalt v src).around = _ := State.around_blockHalt b v src
  refine ⟨⟨rfl, ?_, hraised.haltList _, fun m hm => (hchan m hm).1⟩, fun m hm => (hchan m hm).2⟩
  rw [haround]
  cases u <;> rfl

/-- What follows within the command keeps that. -/
theorem State.HaltedBy.afterwards (h : s.HaltedBy u fs t) (hs : t.Unattended) (hclear : t.Clear) : s.HaltedBy u fs t.afterwards := by
  obtain ⟨hhalted, -⟩ := hs.afterwards_shell
  obtain ⟨haround, hhp⟩ := hs.afterwards_around hclear
  obtain ⟨hlife, -⟩ := hs.afterwards_life hclear
  refine ⟨hhalted.trans h.halted, haround.trans h.around, ?_, fun m hm => ?_⟩
  · unfold State.ErrShared
    rw [hhp]
    exact h.errors
  · rw [show (t.afterwards.ch m).ctl = (t.ch m).ctl from congrArg Prod.fst (hlife m hm)]
    exact h.chans m hm

/-- Such a halt is the one that the fault set records, where the table, the set and the channels were those of `s`. -/
theorem State.HaltedBy.halts (h : b.HaltedBy u fs t)
    (hfs : fs = (raiseOn s.time s.begin.stamp false (sharedSrcClass u src) src k (s.sharedFault u)).1)
    (htable : b.pt.table = s.pt.table) (hch : ∀ m < 4, (b.ch m).ctl.st = (s.ch m).ctl.st) : s.Halts u src k t := by
  obtain ⟨hhalted, haround, ⟨hnew, hshared⟩, hchans⟩ := h
  simp only [State.around, Prod.mk.injEq] at haround
  obtain ⟨hpt, hcl, -, hsflt, -⟩ := haround
  have hset : t.sharedFault u = fs := by
    unfold State.sharedFault
    rw [hsflt]
    cases u <;> rfl
  refine ⟨hhalted, by rw [hcl], by rw [hcl], by rw [hpt], by rw [hpt], by rw [hpt]; exact htable, hnew, hshared, hset.trans hfs,
    fun n hn => ?_⟩
  rw [hchans n hn, hch n hn]
  cases (s.ch n).ctl.st <;> rfl

/-! ### CK_PLL_LOCK and CK_KEEP_CLOCK (R314, R348) -/

/-- Some channel is active, dozing or waking. -/
theorem State.anyClocked_iff : s.anyClocked = true ↔
    ∃ n < 4, (s.ch n).clockNow = .active ∨ (s.ch n).clockNow = .doze ∨ (s.ch n).clockNow = .waking := by
  have hlist : ∀ n, n ∈ [0, 1, 2, 3] ↔ n < 4 := fun n => by simp; omega
  unfold State.anyClocked State.clockOf
  simp only [List.any_eq_true, hlist, Bool.or_eq_true, decide_eq_true_eq, or_assoc]

theorem State.lockLost_notLocked (h : s.ck.pll ≠ .locked) : s.lockLost = s := if_pos h

theorem State.lockLost_locked (h : s.ck.pll = .locked) : s.lockLost =
    if s.anyClocked then ({ s with ck := { s.ck with pll := .locking } } : State).raiseShared .ck 0 {}
    else { s with ck := { s.ck with pll := .locking } } := if_neg (not_not.2 h)

/-- A command of a still block that raises CK_PLL_LOCK or CK_KEEP_CLOCK, with the PLLs in state `p`: the block halts, and of CK only the
PLLs may have changed. -/
theorem State.Still.ckHalts (h : s.Still) (hrun : s.blockHalted = false) (hen : s.sflt.ck.disabled = 0) (hsrc : src < 2) (p : PllSt)
    {f : State → State} (hf : f s.begin = ({ s.begin with ck := { s.ck with pll := p } } : State).raiseShared .ck src {}) :
    ∃ t : State, act s f = .next t ∧ s.Halts .ck src {} t ∧ { t.ck with pll := s.ck.pll } = s.ck ∧ t.time = s.time ∧
      (p ≠ .locked → t.ck.pll ≠ .locked) := by
  let b : State := { s.begin with ck := { s.ck with pll := p } }
  have hcls : sharedSrcClass .ck src = 3 := by interval_cases src <;> rfl
  have hch : ∀ m, b.ch m = s.ch m := State.ch_begin (s := s)
  have hgates : (b.raiseShared .ck src {}).gates = b.gates := State.gates_raiseShared ..
  have hun : (b.raiseShared .ck src {}).Unattended :=
    State.Unattended.of_gates (a := b) (State.unattended_of_settled h.settled) hgates
  have hraise : b.raiseShared .ck src {} = _ :=
    State.raiseShared_atF (if_pos (.inr hsrc)) hcls (by show s.sflt.ck.disabled.testBit src = false; rw [hen, Nat.zero_testBit])
      (fun hcl => SharedSub.noConfusion hcl.1) hrun
  obtain ⟨hhalted, hclear⟩ := State.blockHalt_haltedBy (s := b) h.quiet
    (fun m hm => by rw [hch]; exact State.clear_of_settled h.settled m hm) .ck .ck
    (raiseOn b.time b.stamp false 3 src {} (b.sharedFault .ck)).1 src
  rw [← hraise] at hhalted hclear
  have hafter := hhalted.afterwards hun hclear
  have haround := hafter.around
  simp only [State.around, Prod.mk.injEq] at haround
  obtain ⟨-, -, hck, -, htime, -⟩ := haround
  obtain ⟨-, -, -, hpll⟩ := hun.afterwards_shell
  refine ⟨_, (act_on h.por f).trans (by rw [hf]), hafter.halts (by rw [hcls]; rfl) rfl fun m _ => by rw [hch], ?_, htime,
    fun hne => hpll (by rw [State.pll_of_gates hgates]; exact hne)⟩
  exact congrArg (fun x : Ck => { x with pll := s.ck.pll }) hck

/-! ### POR_ASSERT, and POR_RELEASE with a silent flash (R372, R376) -/

theorem exec_porAssert (h : s.por = false) : exec .porAssert s = .next { pending := s.pending, free := s.free + 1 } :=
  act_powered h State.powerDown rfl rfl

/-- The block as it has begun to read SFDP. -/
def State.asksFlash (s : State) : State :=
  (({ s with por := false, time := 0, coreK := 0, xspiResetN := true, ck := { s.ck with pll := .locking } } : State).onCl
    (fun k => { k with phase := .flashInit })).leave [.flash (sfdpRead s.sfdpLen)]

theorem State.powerUp_silent {f : FlashDev} (h : f.answers = false) : s.powerUp f = s.asksFlash.raiseShared .cl 0 {} := by
  unfold State.powerUp flashOk
  rw [h]
  rfl

/-- The block without power, with some commands waiting and some free values taken. -/
def State.unpowered (pending : List Instr) (free : Nat) : State := { pending := pending, free := free }

theorem State.ch_asksFlash (pending : List Instr) (free m : Nat) : (State.unpowered pending free).begin.asksFlash.ch m = {} :=
  match m with
  | 0 | 1 | 2 | _ + 3 => rfl

theorem Ch.quiet_unpowered : ({} : Ch).Quiet := ⟨rfl, rfl, rfl, rfl, rfl⟩

theorem State.HaltedBy.setPll (h : s.HaltedBy u fs t) : s.HaltedBy u fs t.setPll := by
  obtain ⟨hhalted, haround, herrors, hchans⟩ := h
  refine ⟨?_, (State.around_setPll t).trans haround, ?_, fun m hm => ?_⟩
  · rw [State.setPll_blockHalted, hhalted]
  · unfold State.ErrShared
    rw [State.setPll_hp]
    exact herrors
  · rw [State.ch_setPll, hchans m hm]

/-- Where nothing needs the PLLs they are off (R348). -/
theorem State.setPll_off (h : s.pllNeeded = false) : s.setPll.ck.pll = .off := by
  unfold State.setPll State.pllRight
  rw [h]
  simp only [Bool.false_eq_true, if_false, decide_eq_true_eq]
  split
  · assumption
  · rfl

/-- With a silent flash the block halts as CL_FLASH in the state that POR_RELEASE has put it in; nothing needs the PLLs then. -/
theorem haltedBy_silentFlash (pending : List Instr) (free : Nat) :
    let b := (State.unpowered pending free).begin.asksFlash
    b.HaltedBy .cl (raiseOn 0 0 false 3 0 {} {}).1 (b.raiseShared .cl 0 {}) ∧ (b.raiseShared .cl 0 {}).pllNeeded = false := by
  intro b
  have hch : ∀ m, b.ch m = {} := State.ch_asksFlash pending free
  have hquiet := Ch.quiet_unpowered
  have hraise : b.raiseShared .cl 0 {} = _ := State.raiseShared_atF rfl rfl (Nat.zero_testBit 0) (by decide) rfl
  obtain ⟨hhalted, -⟩ := State.blockHalt_haltedBy (s := b) ⟨hquiet, hquiet, hquiet, hquiet⟩
    (fun m _ => by rw [hch]; exact ⟨rfl, rfl⟩) .cl .cl (raiseOn b.time b.stamp false 3 0 {} (b.sharedFault .cl)).1 0
  rw [← hraise] at hhalted
  have hstamp : b.stamp = 0 := show 0 + 2 * 0 / 3 = 0 by decide
  rw [hstamp] at hhalted
  refine ⟨hhalted, ?_⟩
  have hclocked : (b.raiseShared .cl 0 {}).anyClocked = false := by
    rw [Bool.eq_false_iff, Ne, State.anyClocked_iff]
    rintro ⟨m, hm, hclock⟩
    obtain ⟨d, t, ht, heq⟩ := State.ch_blockHalt
      ((b.setShared .cl (raiseOn b.time b.stamp false 3 0 {} (b.sharedFault .cl)).1).errPulse none) .cl 0 hm
    have htm : t.ch m = {} := ht.trans (by rw [State.ch_errPulse, State.ch_setShared, hch])
    rw [hraise, heq, State.ch_haltOne_down hm (by rw [htm]; exact hquiet) (by rw [htm]), htm] at hclock
    exact absurd hclock (by decide)
  have hqueues : (b.raiseShared .cl 0 {}).hp.queues = [] :=
    congrArg (fun g => g.2.2.2.2.2.2.1) (State.gates_raiseShared b .cl 0 {})
  have haround := hhalted.around
  simp only [State.around, Prod.mk.injEq] at haround
  obtain ⟨hpt, hcl, -⟩ := haround
  unfold State.pllNeeded
  rw [hclocked, hqueues, hpt, hcl]
  rfl

/-- POR_RELEASE with a silent flash (R376) halts the block at stamp 0, which is what the statement asks for where the command begins at
stamp 0 as well. -/
theorem porRelease_silent_iff {f : FlashDev} (h : f.answers = false) (pending : List Instr) (free : Nat) :
    let s := State.unpowered pending free
    (∃ t : State, exec (.porRelease f) s = .next t ∧ s.Halts .cl 0 {} t ∧ t.por = false ∧ t.xspiResetN = true ∧
      t.ck.pll = .off ∧ t.pt.gate = s.pt.gate) ↔ s.begin.stamp = 0 := by
  intro s
  obtain ⟨hhalted, hneeded⟩ := haltedBy_silentFlash pending free
  have hafter := hhalted.setPll
  have haround := hafter.around
  simp only [State.around, Prod.mk.injEq] at haround
  obtain ⟨hpt, -, -, hsflt, -, hpor, hxspi⟩ := haround
  have hexec : exec (.porRelease f) s = .next (s.begin.asksFlash.raiseShared .cl 0 {}).setPll :=
    congrArg (fun t : State => Host.Outcome.next t.setPll) (State.powerUp_silent h)
  refine ⟨?_, fun hstamp => ⟨_, hexec, hafter.halts ?_ rfl fun m hm => ?_, hpor, hxspi, State.setPll_off hneeded, by rw [hpt]; rfl⟩⟩
  · rintro ⟨t, ht, hhalts, -⟩
    obtain rfl := Host.Outcome.next.inj (hexec.symm.trans ht)
    obtain ⟨-, -, -, -, -, -, -, -, hfault, -⟩ := hhalts
    exact (congrArg FaultSet.feTime hfault).symm.trans (congrArg (fun x : SharedFaults => x.cl.feTime) hsflt)
  · rw [hstamp]
    rfl
  · rw [State.ch_asksFlash]
    match m with
    | 0 | 1 | 2 | _ + 3 => rfl

/-- A flash that never answers. -/
def silentFlash : FlashDev :=
  { answers := false, sfdp := false, tables := false, density := 0, fourByte := false, readCmd := 0, maxMHz := 0, dummies := [],
    changes := [], verifies := false, bytes := [] }

/-- The CORE stamp of a command that begins without power: a free value alone decides it (R358, log entry 6). -/
theorem State.stamp_unpowered (pending : List Instr) (free : Nat) :
    (State.unpowered pending free).begin.stamp = 2 * (Config.freeNat (Nat.pair (2 * free) 799) % 30) / 3 := by
  unfold State.unpowered State.begin State.stamp State.freeVal
  simp only [Nat.zero_add, Nat.sub_zero, Nat.reduceMul, Nat.reduceAdd]

/-- What O36 comes to. Its last clause asks that the fault of POR_RELEASE carry the stamp of the command's beginning, where POR_RELEASE has
begun the count of Scetor time at 0 and stamps it with that. The rest holds; that clause holds where a free value, which has no body,
happens to bring the stamp of the beginning to 0, so neither O36 nor its negation follows from the model. -/
theorem clocksAndPower_iff : Obligations.ClocksAndPower ↔
    ∀ free : Nat, 2 * (Config.freeNat (Nat.pair (2 * free) 799) % 30) / 3 = 0 := by
  constructor
  · intro h free
    obtain ⟨-, -, -, -, -, hrelease⟩ := h { por := false, free := free } silentFlash
      ⟨rfl, ⟨rfl, rfl⟩, rfl, Ch.quiet_unpowered, Ch.quiet_unpowered, Ch.quiet_unpowered, Ch.quiet_unpowered⟩ rfl rfl
    exact (State.stamp_unpowered [] free).symm.trans ((porRelease_silent_iff rfl [] free).1 (hrelease rfl))
  · intro h s f hs hrun hen
    refine ⟨fun hpll => ?unlocked, fun hpll hoff => ?relock, fun hpll hclocked => ?lost, ?keep, exec_porAssert hs.por,
      fun hsilentFlash => (porRelease_silent_iff hsilentFlash s.pending s.free).2 ((State.stamp_unpowered ..).trans (h s.free))⟩
    case unlocked => exact act_nothing hs.por hs.settled State.lockLost (State.lockLost_notLocked (s := s.begin) hpll)
    case relock =>
      have hclocks : s.begin.anyClocked = false := by
        rw [Bool.eq_false_iff, Ne, State.anyClocked_iff]
        rintro ⟨n, hn, hclock⟩
        obtain ⟨hactive, hdoze, hwaking⟩ := hoff n hn
        rw [State.ch_begin] at hclock
        exact hclock.elim hactive fun hclock => hclock.elim hdoze hwaking
      refine act_powered hs.por State.lockLost ?_ hs.settled
      rw [State.lockLost_locked (s := s.begin) hpll, hclocks]
      rfl
    case lost =>
      have hclocks : s.begin.anyClocked = true := State.anyClocked_iff.2 (by simpa only [State.ch_begin] using hclocked)
      obtain ⟨t, ht, hhalts, -, htime, hlost⟩ := hs.ckHalts hrun hen (src := 0) (by decide) .locking
        ((State.lockLost_locked (s := s.begin) hpll).trans (if_pos hclocks))
      exact ⟨t, ht, hhalts, hlost PllSt.noConfusion, htime⟩
    case keep =>
      obtain ⟨t, ht, hhalts, hck, htime, -⟩ := hs.ckHalts hrun hen (src := 1) (by decide) s.ck.pll (f := State.raiseShared .ck 1 {}) rfl
      exact ⟨t, ht, hhalts, hck, htime⟩

end
end Sys2Proof.Machine
end
